-- ==== Sys2Proof/Word.lean ====
section
/-! DEFINITION. The word types of the FRL-7264 model and the sparse map that every indexed piece of state uses. -/

namespace Sys2Proof

/-- A byte (R4). -/
abbrev Byte := BitVec 8
/-- A 16-bit field. -/
abbrev W16 := BitVec 16
/-- A 32-bit register or lane (R5, R176). -/
abbrev W32 := BitVec 32
/-- A 64-bit register or operation word (R5, R158). -/
abbrev W64 := BitVec 64
/-- A logical tile number y * 64 + x: x in bits [5:0], y in bits [10:6] (R122). -/
abbrev TileId := BitVec 11
/-- A device ordinal of the job (R77). -/
abbrev DevOrd := BitVec 14
/-- A job address (R75). -/
abbrev JobAddr := BitVec 57
/-- A local page number of a home (R81). -/
abbrev Lpn := BitVec 22
/-- A fabric port OL0 to OL15 (R20). -/
abbrev PortNo := BitVec 4

/-- A sparse map: pairs with strictly rising keys; a key that is not listed holds the map's
default, which the operation that reads the map names. -/
abbrev SMap (V : Type) := List (Nat × V)

end Sys2Proof
end

