-- ==== Sys2Proof/Syntax.lean ====
section
/-! DEFINITION. The commands of the block, one constructor per row of the table of operations and events,
and the plain types their operands have. A command of a tile's sequencer or engine names the tile
alone: its fields are read from the instruction store or from the operation queue of that tile. -/

namespace Sys2Proof

/-- The path by which a register access or a mailbox command reaches the device (R8, R422). -/
inductive Path where
  | pcie | smbus | stag | window | debugger
  deriving DecidableEq, Repr

/-- What an error-correcting code finds on one read (R103, R230, R249). -/
inductive Ecc where
  | clean | corrected | uncorrectable
  deriving DecidableEq, Repr

/-- What the code of tile memory, or of a Commons slice, finds when a client reads (R233, R249): the byte address of the word. -/
inductive WordErr where
  | none | corrected (a : Nat) | uncorrectable (a : Nat)
  deriving DecidableEq, Repr

/-- How an access that a home makes by itself ends (R104, R106): well, on an uncorrectable unit or a poisoned response, or, in far
memory, unanswered. -/
inductive MemErr where
  | good | bad | timeout
  deriving DecidableEq, Repr

/-- What the codes of the instruction store and of the register files find when an instruction is
fetched and reads its registers (R200): registers 0 to 31 are s0 to s31 and 32 to 47 are a0 to a15. -/
inductive CoreErr where
  | none | corrected | storeTwoBit | regOneBit (n : BitVec 6) | regTwoBit (n : BitVec 6)
  deriving DecidableEq, Repr

/-- What the code of the vector file finds when an operation reads its registers (R198). -/
inductive LaneErr where
  | none | oneBit (reg : BitVec 5) (lane : BitVec 6) | twoBit (reg : BitVec 5) (lane : BitVec 6)
  deriving DecidableEq, Repr

/-- What the code of an accumulator bank finds when an operation reads its positions (R175). -/
inductive BankErr where
  | none | oneBit (pos : BitVec 10) | twoBit (pos : BitVec 10)
  deriving DecidableEq, Repr

/-- An arithmetic fault of one data cell: it adds `delta` units more than it should to output (i, j) (R174). -/
structure CellFault where
  i : BitVec 5
  j : BitVec 5
  delta : Int
  deriving DecidableEq, Repr

/-- An arithmetic fault of one adder or comparator of a collective node: element and added units (R383). -/
structure NodeFault where
  elem : Nat
  delta : Int
  deriving DecidableEq, Repr

/-- Who asked for an access at a home: a tile's operation (with its generation, R443), or the host. -/
inductive Requester where
  | tile (o : DevOrd) (t : TileId) (gen : Byte) (seq : W16)
  | host (tag : Nat)
  | engine (plan : W16)
  deriving DecidableEq, Repr

/-- What the buddy named by STEP_BUDDY answers when mirroring is enabled (R69, R396, R454). -/
structure BuddyAnswer where
  domain : W16
  sources : BitVec 3
  storeFull : Bool
  deriving DecidableEq, Repr

/-- An endpoint of a channel: device ordinal, logical tile, endpoint number (R272). -/
structure EndpointId where
  ord : DevOrd
  tile : TileId
  ep : BitVec 6
  deriving DecidableEq, Repr

/-- The first block of a message at its receive endpoint (R275, R277): the sender and its GEN (R443), the header fields,
the epoch the block carries (R317), the payload bytes of that block, and its 64-byte units that are uncorrectable (R233). -/
structure MsgIn where
  who : EndpointId
  gen : Byte
  hidx : BitVec 6
  len : Nat
  seq : W32
  step : W32
  epoch : BitVec 4
  data : List Byte
  bad : List Nat
  deriving DecidableEq, Repr

/-- One identity in a stalled-send probe: the sender's endpoint and the PC of its SEND (R285). -/
structure ProbeId where
  ep : EndpointId
  pc : BitVec 12
  deriving DecidableEq, Repr

/-- A stalled-send probe (R285). -/
structure Probe where
  origin : ProbeId
  forwarder : ProbeId
  hops : Nat
  deriving DecidableEq, Repr

/-- A FLAGSET on its way to the West root (R269), and the era of the sync mesh in which it left (log 33). -/
structure FlagUpdate where
  tile : TileId
  flag : BitVec 6
  val : Bool
  era : Nat
  deriving DecidableEq, Repr

/-- A block of the bulk mesh, or with `ctrl` a packet of the control mesh (R250, R261, R264, R443): source and destination
endpoint codes, virtual channel, the GEN of the issuer, sequence number, whether it is a broadcast, its payload, and its CRC as it stands. -/
structure MeshBlock where
  src : W16
  dst : W16
  vc : BitVec 2
  gen : Byte
  seq : W16
  ctrl : Bool
  bcast : Bool
  data : List Byte
  crc : W32
  deriving DecidableEq, Repr

/-- The operation, or the write, of a tile that a block carries out (R263): its tile, GEN and number. -/
structure Owner where
  tile : TileId
  gen : Byte
  seq : W16
  deriving DecidableEq, Repr

/-- What enters a router (R261, R262): a new block that a network interface injects, from which the source forms header, sequence
number and CRC; a block from a neighbour, a seam queue or a re-send; a sync message over a hop, with its parity bit. -/
inductive MeshItem where
  | inject (src dst : W16) (vc : BitVec 2) (ctrl bcast : Bool) (gen : Byte) (data : List Byte) (owner : Option Owner)
  | block (b : MeshBlock)
  | sync (src dst : W16) (cls : BitVec 2) (msg : Byte) (parity : Bool)
  deriving DecidableEq, Repr

/-- The refusal a device reports for a weave (R306, R307). -/
structure WeaveRefusal where
  reason : Byte
  sect : Byte
  ord : DevOrd
  recNo : W32
  deriving DecidableEq, Repr

/-- One device's vote on a weave, with the identifier and hash that leads exchange (R309, R312). -/
structure WeaveVote where
  ord : DevOrd
  refusal : Option WeaveRefusal
  weaveId : W64
  hash : BitVec 384
  deriving DecidableEq, Repr

/-- What a sending device tells the receiving device of a send endpoint in pass 2 (R298, R309): both endpoints, FORM, MAXMSG_U,
CREDIT_MAX, LOOP and RANK. -/
structure Confirm where
  who : EndpointId
  peer : EndpointId
  active : Bool
  maxU : Byte
  creditMax : W16
  loop : W16
  rank : W16
  deriving DecidableEq, Repr

/-- A fabric packet (R347, R349): the fields of its first unit, less LSEQ and HCRC, which belong to a hop, and its payload. CONTENT holds
the BCRC entries of a data packet; LEN of a control packet is 0. -/
structure Packet where
  typ : Byte
  cls : BitVec 2
  dl : Bool
  cm : Bool
  hops : BitVec 4
  len : BitVec 11
  dst : W32
  src : W32
  flow : W16
  epoch : BitVec 4
  gen : Byte
  arg : BitVec 48
  content : BitVec 256
  ecrc : W32
  payload : List Byte
  deriving DecidableEq, Repr

/-- What a link block carries (R343): the first unit of a packet with its HCRC, or one payload block, padded to whole units. -/
inductive LinkItem where
  | head (pkt : Packet) (hcrc : W32)
  | data (bytes : List Byte)
  deriving DecidableEq, Repr

/-- A link block with its number, which a payload block carries implicitly (R343). -/
structure LinkBody where
  lseq : BitVec 12
  item : LinkItem
  deriving DecidableEq, Repr

/-- A codeword at a port's receiver (R340 to R342): the symbol errors that the decoder finds, the 20-bit header, and the link blocks of
which it brings the last unit, after the one whose first unit it brings. -/
structure LinkBlock where
  errs : Nat
  hdr : BitVec 20
  blocks : List LinkBody
  deriving DecidableEq, Repr

/-- Where a packet to be routed comes from (R354): the oldest packet in a virtual channel of a port, or packet `i` of those that this
device sends for its output number `n`. -/
inductive PacketSrc where
  | port (p : PortNo) (vc : BitVec 3)
  | own (n i : Nat)
  deriving DecidableEq, Repr

/-- A link-state advertisement (R364). -/
structure Lsa where
  coord : W32
  serial : W32
  num : W32
  mask : W16
  widths : W32
  deriving DecidableEq, Repr

/-- A device's answer to the standby's query: the last DECIDE it holds (R392). -/
structure QueryAnswer where
  ord : DevOrd
  code : Byte
  step : W64
  deriving DecidableEq, Repr

/-- An error report, or an event in the same layout (R429, R520). -/
structure Report where
  code : W16
  flags : Byte
  unit : Byte
  loc : W32
  ord : DevOrd
  sub : W16
  opid : W32
  step : W64
  weave : W64
  optime : BitVec 48
  temp : W16
  cycle : W32
  volt : W16
  sensor : BitVec 6
  monitor : BitVec 5
  data : BitVec 128
  deriving DecidableEq, Repr

/-- A watched item whose window has expired (R432). -/
inductive Watched where
  | context (t : TileId)
  | port (t : TileId) (port : BitVec 3)
  | netOp (t : TileId) (seq : W16)
  | send (t : TileId) (ep : BitVec 6)
  | recv (t : TileId) (ep : BitVec 6)
  | collective (plan : W16)
  | homeAgent (slice : BitVec 6)
  | fabricPort (p : PortNo)
  deriving DecidableEq, Repr

/-- A hardened register (R427). -/
inductive HardReg where
  | mapCol (col : BitVec 7)
  | router (px : BitVec 7) (py : BitVec 5)
  | chCfg (t : TileId) (ep : BitVec 6)
  | chPeer (t : TileId) (ep : BitVec 6)
  | range (slice : BitVec 6) (r : Byte) (word : BitVec 2)
  | route (n : BitVec 6)
  | weight (p : PortNo)
  | coord
  | buddy
  deriving DecidableEq, Repr

/-- A notice packet's CONTENT (R438). -/
structure Notice where
  code : W16
  level : Byte
  unit : Byte
  loc : W32
  step : W64
  subject : W32
  nseq : W32
  optime : BitVec 48
  deriving DecidableEq, Repr

/-- A reset domain (R441). -/
inductive Domain where
  | tile (t : TileId)
  | cluster (c : BitVec 7)
  | half (east : Bool)
  | device
  deriving DecidableEq, Repr

/-- What a bring-up stage found: the inputs from which the stage's result is formed (R467 to R472). -/
structure StageFinding where
  fail : Byte
  fails : List Nat
  detail : BitVec 20
  wires : List Nat
  deriving DecidableEq, Repr

/-- The snapshot the Browse sequencer takes (R508). -/
structure Snapshot where
  ports : List Nat
  lsas : List Nat
  hostLink : Nat
  thermal : Nat
  deriving DecidableEq, Repr

/-- A side of a router (R261): row y + 1, column x + 1, row y − 1, column x − 1, each or the edge there, and the network interface. -/
inductive Side where
  | north | east | south | west | own
  deriving DecidableEq, Repr

/-- An instruction scanned into the test access port (R544). -/
inductive TapInstr where
  | idcode | bypass | samplePreload | extest | extestPulse | extestTrain
  deriving DecidableEq, Repr

/-- What the debugger asks for (R464, R473). -/
inductive DebugAction where
  | halt | resume | release
  deriving DecidableEq, Repr

/-- What the test engine is asked for (R493). -/
inductive TestAccess where
  | march (px : BitVec 7) (py : BitVec 5)
  | fuse (index : Nat)
  | column (col : BitVec 7) (state : BitVec 2)
  deriving DecidableEq, Repr

/-- A command of the block: one constructor for each row of the table of operations and events. -/
inductive Instr where
  /-- REGISTER_WRITE (R8): A host, firmware or SMBus write to a register that has no row of its own sets the field, or is refused and logged when the encoding or range is invalid, or is dropped when misaligned. -/
  | registerWrite (path : Path) (off : BitVec 26) (size : Nat) (v : W64)
  /-- WRITE_LATCH_LOAD (R6): A 32-bit write to the lower half of a 64-bit register loads its write latch and changes nothing else. -/
  | writeLatchLoad (path : Path) (off : BitVec 26) (v : W32)
  /-- UPPER_HALF_WRITE (R6): A 32-bit write to the upper half of a 64-bit register updates the whole register from the write and the write latch, then reloads the latch. -/
  | upperHalfWrite (path : Path) (off : BitVec 26) (v : W32)
  /-- LOWER_HALF_READ (R6): A 32-bit read of the lower half of a 64-bit register returns that half and loads the read latch with the upper half. -/
  | lowerHalfRead (path : Path) (off : BitVec 26)
  /-- UPPER_HALF_READ (R6): A 32-bit read of the upper half returns and empties the read latch, or returns the current upper half when the latch is empty. -/
  | upperHalfRead (path : Path) (off : BitVec 26)
  /-- STEP_STALE_READ (R61): A read of STEP_STALE returns the stale-read count and clears it. -/
  | stepStaleRead
  /-- HOME_STATUS_READ (R92): A read of HOME_STATUS returns the sweep figures and clears SWEEP_STALLS. -/
  | homeStatusRead
  /-- NM_ERR_READ (R103): A read of NM_ERR_s returns the stack error counts and clears CE and UE. -/
  | nmErrRead (s : BitVec 3)
  /-- FLT_MESH_CNT_READ (R261): A read of FLT_MESH_CNT returns the selected router's mismatch counters and clears them. -/
  | fltMeshCntRead
  /-- OL_PORT_ERR_READ (R344): A read of OL_PORT_ERR_p returns the port's codeword, CRC and replay counts and clears them. -/
  | olPortErrRead (p : PortNo)
  /-- OL_PORT_TRAFFIC_READ (R369): A read of OL_PORT_TRAFFIC_p returns the marked and dropped packet counts and clears them. -/
  | olPortTrafficRead (p : PortNo)
  /-- WV_FLUSH_CNT_READ (R317): A read of WV_FLUSH_CNT returns the count of discarded messages and clears it. -/
  | wvFlushCntRead
  /-- STEP_VOTE_TIME_READ (R389): A read of STEP_VOTE_TIME returns the vote times and clears MAX. -/
  | stepVoteTimeRead
  /-- STEP_DIGEST_ERR_READ (R385): A read of STEP_DIGEST_ERR returns the digest failure counts and clears every field. -/
  | stepDigestErrRead
  /-- FLT_HARDEN_READ (R427): A read of FLT_HARDEN returns the hardened-register scrub figures and clears CORRECTED. -/
  | fltHardenRead
  /-- FLT_GEN_DROPS_READ (R443): A read of FLT_GEN_DROPS returns the count of replies dropped by generation and clears it. -/
  | fltGenDropsRead
  /-- EVT_SUPPRESS_READ (R523): A read of EVT_SUPPRESS returns the count of dropped records and clears it. -/
  | evtSuppressRead
  /-- STEP_INTERVAL_WRITE (R58): A write of STEP_INTERVAL.K sets the commit interval, which takes effect at the next commit; a write of 0 is refused. -/
  | stepIntervalWrite (v : W32)
  /-- BUDDY_ENABLE (R69): A write that sets STEP_BUDDY.EN checks the named buddy and its failure domain, enabling mirroring or refusing with MIRROR_ERR. -/
  | buddyEnable (v : W32) (answer : Option BuddyAnswer)
  /-- BUDDY_DISABLE (R70): A write that clears STEP_BUDDY.EN reads back 0 at once and ends mirroring at the next commit. -/
  | buddyDisable (v : W32)
  /-- STEP_COORD_WRITE (R392): A write of STEP_COORD sets the primary and standby coordinators, refused unless the phase is idle and the values are valid. -/
  | stepCoordWrite (v : W32)
  /-- BAR2_READ (R64): A host read through BAR2 is translated at the lead and served from the committed frame, held during a commit, or returns all ones for stale, poisoned or outside pages. -/
  | bar2Read (off : BitVec 36) (len : Nat) (reply : Option (List Byte)) (found : List Nat) (copies : List (Nat × List Byte))
  /-- BAR2_WRITE (R65): A host write through BAR2 writes the committed frame of a versioned or constant page while idle, writes an unversioned page in place, or is dropped and logged. -/
  | bar2Write (off : BitVec 36) (data : List Byte)
  /-- JOB_MEMORY_WRITE_AT_HOME (R36): A write to job memory reaches its home, which writes the working frame of a versioned page, writes an unversioned page in place, or refuses a constant page. -/
  | jobMemoryWriteAtHome (req : Requester) (a : W64) (data : List Byte)
  /-- COPY_ON_WRITE_COMPLETE (R55): A copy-on-write completes, the held writes are applied in arrival order and the held reads are served from the working frame. -/
  | copyOnWriteComplete (lpn : Lpn) (sub : BitVec 5) (err : MemErr) (buddy : Option (List Byte))
  /-- JOB_MEMORY_READ_AT_HOME (R55): A read of job memory reaches its home, which selects the committed or working frame by the mask or holds it while a copy runs. -/
  | jobMemoryReadAtHome (req : Requester) (a : W64) (len : Nat)
  /-- MEMORY_ACCESS_COMPLETE (R82): A near or far access at the home completes and its data or acknowledgement returns to the requester. -/
  | memoryAccessComplete (req : Requester) (a : W64) (len : Nat) (e : Ecc) (bank : Nat) (row : Nat) (buddy : Option (List Byte))
  /-- ATOMIC_EXECUTE (R52): The home executes an atomic as one indivisible read-modify-write, serialised after any copy-on-write on its sub-block. -/
  | atomicExecute (req : Requester) (a : W64) (aop : BitVec 4) (wide : Bool) (x : W64) (expect : W64) (err : MemErr) (buddy : Option (List Byte))
  /-- ATOMIC_REPLY (R220): The reply of an atomic arrives at the tile, writes the old value into sD and clears its pending mark. -/
  | atomicReply (t : TileId) (gen : Byte) (seq : W16) (old : W64) (err : Bool)
  /-- WRITE_ACKNOWLEDGE (R45): The acknowledgement of a write arrives at the issuing tile and counts toward its fences and end-of-step wait. -/
  | writeAcknowledge (t : TileId) (gen : Byte) (seq : W16) (err : Bool)
  /-- SWEEPER_TOUCH (R92): The sweeper of a home agent touches the next Home Table entry, resolving it or updating its TAG. -/
  | sweeperTouch (slice : BitVec 6) (us : W16)
  /-- INTERVAL_OPEN (R92): The device opens the next interval serial once the required sweep pass has completed, counting any wait in SWEEP_STALLS. -/
  | intervalOpen
  /-- MIGRATE_REQUEST (R99): A write of HOME_MIGRATE with START queues a migration of one local page or refuses it with LAST_RESULT. -/
  | migrateRequest (v : W64)
  /-- MIGRATION_START (R100): The home agent takes the next queued migration, allocates target frames and sets MIGRATING. -/
  | migrationStart
  /-- MIGRATION_SUBBLOCK_COPY (R100): The copy of one sub-block of a migrating page completes and CURSOR advances. -/
  | migrationSubblockCopy (err : MemErr) (second : Bool) (buddy : Option (List Byte))
  /-- PATROL_SCRUB_READ (R103): The patrol scrubber reads and corrects the next location of a stack. -/
  | patrolScrubRead (stack : BitVec 3) (bank : Nat) (row : Nat) (e : Ecc) (unit : Nat) (buddy : Option (List Byte))
  /-- FAR_REQUEST_TIMEOUT (R106): A far-memory request unanswered within CXL_CTRL.TIMEOUT_US is treated as an uncorrectable error and REASON reads 8. -/
  | farRequestTimeout (port : BitVec 2) (req : Requester) (a : W64) (buddy : Option (List Byte))
  /-- EXPANDER_EVENT_FETCH (R106): Once per second the STAG fetches the expanders' event records through the mailbox and copies them to the event recorder. -/
  | expanderEventFetch (port : BitVec 2) (recs : List (BitVec 96))
  /-- CXL_LINK_DOWN (R107): A far port's link goes down during a job, which raises a fault and rolls the job back. -/
  | cxlLinkDown (port : BitVec 2)
  /-- CXL_LINK_RETRAINED (R107): A lost far port retrains within 2 s and the job may resume. -/
  | cxlLinkRetrained (port : BitVec 2)
  /-- CXL_RETRAIN_TIMEOUT (R107): A lost far port has not retrained within 2 s, so its pages are treated as lost or restored from buddies. -/
  | cxlRetrainTimeout (port : BitVec 2) (copies : List (Nat × List Byte))
  /-- BR (R207): Branch to PC plus OFF22, popping loop entries whose body the target leaves. -/
  | br (t : TileId) (e : CoreErr)
  /-- CALL (R204): Save PC plus 1 in s31 and branch to PC plus OFF22. -/
  | call (t : TileId) (e : CoreErr)
  /-- JR (R207): Jump to the address in sA, or raise the illegal-target fault. -/
  | jr (t : TileId) (e : CoreErr)
  /-- LOOPI (R208): Start a loop with an immediate count, pushing a loop-stack entry or skipping the body. -/
  | loopi (t : TileId) (e : CoreErr)
  /-- LOOPR (R208): Start a loop with its count in a register, pushing a loop-stack entry or skipping the body. -/
  | loopr (t : TileId) (e : CoreErr)
  /-- LIDX (R208): Write the iteration index of a loop level into sD. -/
  | lidx (t : TileId) (e : CoreErr)
  /-- CMP (R211): Compare two scalar registers into a predicate. -/
  | cmp (t : TileId) (e : CoreErr)
  /-- CMPI (R211): Compare a scalar register with an immediate into a predicate. -/
  | cmpi (t : TileId) (e : CoreErr)
  /-- PLOG (R211): Combine two predicates by AND, OR, XOR or ANDN. -/
  | plog (t : TileId) (e : CoreErr)
  /-- PRD (R211): Copy the predicates into sD. -/
  | prd (t : TileId) (e : CoreErr)
  /-- ADD (R212): Add two scalar registers modulo 2^64. -/
  | add (t : TileId) (e : CoreErr)
  /-- SUB (R212): Subtract two scalar registers modulo 2^64. -/
  | sub (t : TileId) (e : CoreErr)
  /-- MUL (R212): Multiply two scalar registers, keeping the low 64 bits. -/
  | mul (t : TileId) (e : CoreErr)
  /-- AND (R212): Bitwise AND of two scalar registers. -/
  | andS (t : TileId) (e : CoreErr)
  /-- OR (R212): Bitwise OR of two scalar registers. -/
  | orS (t : TileId) (e : CoreErr)
  /-- XOR (R212): Bitwise XOR of two scalar registers. -/
  | xorS (t : TileId) (e : CoreErr)
  /-- SHL (R212): Shift a scalar register left by sB mod 64. -/
  | shl (t : TileId) (e : CoreErr)
  /-- SHR (R212): Shift a scalar register right with zero fill. -/
  | shr (t : TileId) (e : CoreErr)
  /-- SAR (R212): Shift a scalar register right with sign fill. -/
  | sar (t : TileId) (e : CoreErr)
  /-- ADDI (R204): Add a sign-extended immediate to a scalar register. -/
  | addi (t : TileId) (e : CoreErr)
  /-- ANDI (R204): AND a scalar register with an immediate. -/
  | andi (t : TileId) (e : CoreErr)
  /-- ORI (R204): OR a scalar register with an immediate. -/
  | ori (t : TileId) (e : CoreErr)
  /-- SHLI (R204): Shift a scalar register left by an immediate. -/
  | shli (t : TileId) (e : CoreErr)
  /-- SHRI (R204): Shift a scalar register right by an immediate with zero fill. -/
  | shri (t : TileId) (e : CoreErr)
  /-- LI (R213): Load a shifted sign-extended 16-bit immediate into sD. -/
  | li (t : TileId) (e : CoreErr)
  /-- LIK (R213): Insert a 16-bit immediate into sD, keeping the other bits. -/
  | lik (t : TileId) (e : CoreErr)
  /-- INS (R213): Insert a bit field of sA into sD. -/
  | ins (t : TileId) (e : CoreErr)
  /-- EXT (R213): Extract a bit field of sA into sD, zero-extended. -/
  | extS (t : TileId) (e : CoreErr)
  /-- ADDA (R215): Add an immediate to an address register. -/
  | adda (t : TileId) (e : CoreErr)
  /-- ADDAS (R215): Add a shifted scalar register to an address register. -/
  | addas (t : TileId) (e : CoreErr)
  /-- MOVSA (R215): Copy a scalar register into an address register. -/
  | movsa (t : TileId) (e : CoreErr)
  /-- MOVAS (R215): Copy an address register into a scalar register. -/
  | movas (t : TileId) (e : CoreErr)
  /-- LDS (R215): Load 8 bytes of tile memory into sD after earlier writers of the line complete, or raise the tile-memory access fault. -/
  | lds (t : TileId) (e : CoreErr) (m : WordErr)
  /-- STS (R215): Store sD into 8 bytes of tile memory after earlier users of the line complete, or raise the tile-memory access fault. -/
  | sts (t : TileId) (e : CoreErr)
  /-- ISSUE_FILL_A (R214): Enqueue a FILL operation on the FILL_A port. -/
  | issueFillA (t : TileId) (e : CoreErr)
  /-- ISSUE_FILL_B (R214): Enqueue a FILL operation on the FILL_B port. -/
  | issueFillB (t : TileId) (e : CoreErr)
  /-- ISSUE_IBEX (R214): Enqueue a two-word Ibex operation, or raise the illegal-operand fault. -/
  | issueIbex (t : TileId) (e : CoreErr)
  /-- ISSUE_DRAIN (R214): Enqueue a two-word DRAIN operation, or raise the illegal-operand fault. -/
  | issueDrain (t : TileId) (e : CoreErr)
  /-- ISSUE_TAHR (R214): Enqueue a two-word Tahr operation, or raise the illegal-operand fault. -/
  | issueTahr (t : TileId) (e : CoreErr)
  /-- ISSUE_NET (R214): Enqueue a MOVE, RREL or CSTART operation on the NET port, or raise the illegal-operand fault. -/
  | issueNet (t : TileId) (e : CoreErr)
  /-- STALLED_ENQUEUE (R111): An entry frees in a full FIFO and the stalled engine-issue instruction enqueues its operation. -/
  | stalledEnqueue (t : TileId)
  /-- SEND (R216): Enqueue a NET send of bytes of tile memory on a send endpoint. -/
  | send (t : TileId) (e : CoreErr)
  /-- RECV (R217): Take the message at the ring's read position, returning its address and header and setting the held flag, or wait or fail with TRY. -/
  | recv (t : TileId) (e : CoreErr)
  /-- RELEASE (R218): Clear the held flag and enqueue a NET release of the held message, or raise the channel fault. -/
  | release (t : TileId) (e : CoreErr)
  /-- DISPATCH (R219): Receive an active message and jump to the handler named by its header. -/
  | dispatch (t : TileId) (e : CoreErr)
  /-- HRET (R219): Leave a handler, optionally releasing its message. -/
  | hret (t : TileId) (e : CoreErr)
  /-- ATOM_LOAD (R220): Enqueue an atomic load of a job address. -/
  | atomLoad (t : TileId) (e : CoreErr)
  /-- ATOM_STORE (R220): Enqueue an atomic store to a job address. -/
  | atomStore (t : TileId) (e : CoreErr)
  /-- ATOM_SWAP (R220): Enqueue an atomic swap at a job address. -/
  | atomSwap (t : TileId) (e : CoreErr)
  /-- ATOM_CAS (R220): Enqueue an atomic compare-and-swap at a job address. -/
  | atomCas (t : TileId) (e : CoreErr)
  /-- ATOM_ADD (R220): Enqueue an atomic fetch-add at a job address. -/
  | atomAdd (t : TileId) (e : CoreErr)
  /-- ATOM_MIN (R220): Enqueue an atomic fetch-min, signed or unsigned. -/
  | atomMin (t : TileId) (e : CoreErr)
  /-- ATOM_MAX (R220): Enqueue an atomic fetch-max, signed or unsigned. -/
  | atomMax (t : TileId) (e : CoreErr)
  /-- ATOM_AND (R220): Enqueue an atomic fetch-and. -/
  | atomAnd (t : TileId) (e : CoreErr)
  /-- ATOM_OR (R220): Enqueue an atomic fetch-or. -/
  | atomOr (t : TileId) (e : CoreErr)
  /-- ATOM_XOR (R220): Enqueue an atomic fetch-xor. -/
  | atomXor (t : TileId) (e : CoreErr)
  /-- WAITC (R221): Wait until an arrival counter reaches a value. -/
  | waitc (t : TileId) (e : CoreErr)
  /-- WAITC_RESUME (R221): A waiting WAITC finds its counter at or above the value and the context continues. -/
  | waitcResume (t : TileId)
  /-- CSUB (R221): Subtract a value from an arrival counter, or raise the counter fault. -/
  | csub (t : TileId) (e : CoreErr)
  /-- BAR (R222): Arrive at a sync-mesh barrier after a release fence and wait for departure. -/
  | bar (t : TileId) (e : CoreErr)
  /-- FLAGSET (R222): Send a flag value to the West root. -/
  | flagset (t : TileId) (e : CoreErr)
  /-- FLAGWAIT (R222): Wait until the tile's copy of a flag equals a value. -/
  | flagwait (t : TileId) (e : CoreErr)
  /-- FLAGWAIT_RESUME (R222): A waiting FLAGWAIT observes the flag value and the context continues. -/
  | flagwaitResume (t : TileId)
  /-- FENCE_RELEASE (R45): Start a release fence that waits for every earlier write to be acknowledged. -/
  | fenceRelease (t : TileId) (e : CoreErr)
  /-- FENCE_ACQUIRE (R46): Start an acquire fence that waits for every earlier read to return. -/
  | fenceAcquire (t : TileId) (e : CoreErr)
  /-- FENCE_FULL (R47): Start a full fence with the effects of a release then an acquire fence. -/
  | fenceFull (t : TileId) (e : CoreErr)
  /-- FENCE_COMPLETE (R117): A waiting fence's conditions hold and Muntjac resumes enqueuing. -/
  | fenceComplete (t : TileId)
  /-- STEPEND (R224): Execute the end-of-step instruction, after which the tile enqueues nothing and waits to report. -/
  | stepend (t : TileId) (e : CoreErr)
  /-- RDSYS (R225): Write a system value selected by SEL into sD. -/
  | rdsys (t : TileId) (e : CoreErr)
  /-- TRAP (R226): Raise the software fault carrying CODE. -/
  | trap (t : TileId) (e : CoreErr)
  /-- ILLEGAL_INSTRUCTION (R227): The PC reaches an undefined word and the context stops with the illegal-instruction fault. -/
  | illegalInstruction (t : TileId) (e : CoreErr)
  /-- FILL (R165): A FILL operation issues and copies tile memory into operand buffer segments. -/
  | fill (t : TileId) (b : Bool) (m : WordErr)
  /-- FILL_COMPLETE (R165): A FILL operation completes and its segments become available to readers. -/
  | fillComplete (t : TileId) (b : Bool)
  /-- MMA (R161): An MMA issues and accumulates the exact products of A and B into a bank. -/
  | mma (t : TileId) (e : BankErr) (cell : Option CellFault) (par : List (Bool × Nat))
  /-- RAWACC (R161): A RAWACC issues and adds ACC112 values from the A buffer into a bank. -/
  | rawacc (t : TileId) (e : BankErr) (par : List (Bool × Nat))
  /-- CLEAR (R161): A CLEAR issues and zeroes a bank and sets its ANCHOR. -/
  | clear (t : TileId)
  /-- IBEX_OP_COMPLETE (R163): An Ibex operation completes and its results stand in the bank. -/
  | ibexOpComplete (t : TileId)
  /-- DRAIN_TO_TILE_MEMORY (R170): A DRAIN with OPC 0x5 issues and writes rounded outputs and optionally the sum record to tile memory. -/
  | drainToTileMemory (t : TileId) (e : BankErr)
  /-- DRAIN_TO_VECTOR (R170): A DRAIN with OPC 0x6 issues and writes FP32 outputs to vector registers. -/
  | drainToVector (t : TileId) (e : BankErr)
  /-- DRAIN_COMPLETE (R171): A DRAIN completes and, with DUP set, sends its sum record to the partner tile. -/
  | drainComplete (t : TileId)
  /-- DUP_RECORD_ARRIVAL (R173): A partner's duplicate sum record arrives and is compared with the tile's own, a mismatch making both tiles dirty. -/
  | dupRecordArrival (t : TileId) (rec : BitVec 256)
  /-- DUP_COMPARE_TIMEOUT (R173): No partner record arrives within 10 µs of the tile's drain, which counts as a duplicate mismatch. -/
  | dupCompareTimeout (t : TileId)
  /-- FADD (R184): Tahr FP32 addition rounded once. -/
  | fadd (t : TileId) (e : LaneErr)
  /-- FSUB (R184): Tahr FP32 subtraction rounded once. -/
  | fsub (t : TileId) (e : LaneErr)
  /-- FMUL (R184): Tahr FP32 multiplication rounded once. -/
  | fmul (t : TileId) (e : LaneErr)
  /-- FMA (R184): Tahr fused multiply-add with one rounding. -/
  | fma (t : TileId) (e : LaneErr)
  /-- FMIN (R185): Tahr smaller of two FP32 values. -/
  | fmin (t : TileId) (e : LaneErr)
  /-- FMAX (R185): Tahr larger of two FP32 values. -/
  | fmax (t : TileId) (e : LaneErr)
  /-- FABS (R184): Tahr absolute value. -/
  | fabs (t : TileId) (e : LaneErr)
  /-- FNEG (R184): Tahr negation. -/
  | fneg (t : TileId) (e : LaneErr)
  /-- FCMP (R185): Tahr FP32 comparison into a lane mask. -/
  | fcmp (t : TileId) (e : LaneErr)
  /-- SEL (R183): Tahr lane select by a condition register. -/
  | sel (t : TileId) (e : LaneErr)
  /-- CLAMP (R183): Tahr clamp of a value between two bounds. -/
  | clamp (t : TileId) (e : LaneErr)
  /-- FDIV (R184): Tahr FP32 division rounded once. -/
  | fdiv (t : TileId) (e : LaneErr)
  /-- CVTFI (R186): Tahr conversion of FP32 to signed int32. -/
  | cvtfi (t : TileId) (e : LaneErr)
  /-- CVTIF (R184): Tahr conversion of signed int32 to FP32. -/
  | cvtif (t : TileId) (e : LaneErr)
  /-- RCP (R187): Tahr correctly rounded reciprocal. -/
  | rcp (t : TileId) (e : LaneErr)
  /-- SQRT (R187): Tahr correctly rounded square root. -/
  | sqrt (t : TileId) (e : LaneErr)
  /-- RSQRT (R187): Tahr correctly rounded reciprocal square root. -/
  | rsqrt (t : TileId) (e : LaneErr)
  /-- EXP2 (R187): Tahr correctly rounded power of two. -/
  | exp2 (t : TileId) (e : LaneErr)
  /-- LOG2 (R187): Tahr correctly rounded base-2 logarithm. -/
  | log2 (t : TileId) (e : LaneErr)
  /-- SINPI (R187): Tahr correctly rounded sin(πa). -/
  | sinpi (t : TileId) (e : LaneErr)
  /-- COSPI (R187): Tahr correctly rounded cos(πa). -/
  | cospi (t : TileId) (e : LaneErr)
  /-- EXP (R187): Tahr exponential by its fixed primitive sequence. -/
  | expT (t : TileId) (e : LaneErr)
  /-- LN (R187): Tahr natural logarithm by its fixed primitive sequence. -/
  | ln (t : TileId) (e : LaneErr)
  /-- SIGMOID (R187): Tahr sigmoid by its fixed primitive sequence. -/
  | sigmoid (t : TileId) (e : LaneErr)
  /-- TANH (R187): Tahr hyperbolic tangent by its fixed primitive sequence. -/
  | tanh (t : TileId) (e : LaneErr)
  /-- GELUS (R187): Tahr sigmoid-form GELU by its fixed primitive sequence. -/
  | gelus (t : TileId) (e : LaneErr)
  /-- SILU (R187): Tahr SiLU by its fixed primitive sequence. -/
  | silu (t : TileId) (e : LaneErr)
  /-- IADD (R183): Tahr integer addition modulo 2^32. -/
  | iadd (t : TileId) (e : LaneErr)
  /-- ISUB (R183): Tahr integer subtraction modulo 2^32. -/
  | isub (t : TileId) (e : LaneErr)
  /-- IMUL (R183): Tahr integer multiplication, low 32 bits. -/
  | imul (t : TileId) (e : LaneErr)
  /-- TAHR_AND (R183): Tahr bitwise AND of lanes. -/
  | tahrAnd (t : TileId) (e : LaneErr)
  /-- TAHR_OR (R183): Tahr bitwise OR of lanes. -/
  | tahrOr (t : TileId) (e : LaneErr)
  /-- TAHR_XOR (R183): Tahr bitwise XOR of lanes. -/
  | tahrXor (t : TileId) (e : LaneErr)
  /-- TAHR_SHL (R183): Tahr lane shift left. -/
  | tahrShl (t : TileId) (e : LaneErr)
  /-- TAHR_SHR (R183): Tahr lane shift right with zero fill. -/
  | tahrShr (t : TileId) (e : LaneErr)
  /-- TAHR_SAR (R183): Tahr lane shift right with sign fill. -/
  | tahrSar (t : TileId) (e : LaneErr)
  /-- ICMP (R186): Tahr integer comparison into a lane mask. -/
  | icmp (t : TileId) (e : LaneErr)
  /-- LANEID (R183): Tahr write of each lane's index plus an immediate. -/
  | laneid (t : TileId) (e : LaneErr)
  /-- SHUF (R189): Tahr lane permutation. -/
  | shuf (t : TileId) (e : LaneErr)
  /-- RAND (R189): Tahr write of generator words as integers or as FP32 in [0, 1). -/
  | rand (t : TileId) (e : LaneErr)
  /-- RSUM (R188): Tahr exact lane-group sum rounded once. -/
  | rsum (t : TileId) (e : LaneErr)
  /-- RSUMSQ (R188): Tahr exact lane-group sum of squares rounded once. -/
  | rsumsq (t : TileId) (e : LaneErr)
  /-- RMAX (R188): Tahr lane-group maximum. -/
  | rmax (t : TileId) (e : LaneErr)
  /-- RMIN (R188): Tahr lane-group minimum. -/
  | rmin (t : TileId) (e : LaneErr)
  /-- CHKR (R195): Tahr range check of lanes against a check entry, with failure handled under R197. -/
  | chkr (t : TileId) (e : LaneErr)
  /-- CHKP (R196): Tahr plausibility statistic update, with the final test and clearing when FINAL is set. -/
  | chkp (t : TileId) (e : LaneErr)
  /-- LD (R191): Tahr load of tile memory into vector registers, widening BF16 and FP16. -/
  | ld (t : TileId) (e : LaneErr) (m : WordErr)
  /-- ST (R191): Tahr store of vector registers to tile memory, narrowing as asked. -/
  | st (t : TileId) (e : LaneErr)
  /-- LDMX (R192): Tahr load and exact decode of MX blocks into FP32 lanes. -/
  | ldmx (t : TileId) (e : LaneErr) (m : WordErr)
  /-- STMX (R192): Tahr encode of FP32 lanes into MX blocks with scale selection and merged scale writes. -/
  | stmx (t : TileId) (e : LaneErr)
  /-- TAHR_OP_COMPLETE (R181): A Tahr operation completes and its destination registers hold their results. -/
  | tahrOpComplete (t : TileId)
  /-- MOVE_COMMONS_TO_TILE (R244): A MOVE with DIR 0 issues and copies Commons bytes into tile memory or a region record. -/
  | moveCommonsToTile (t : TileId)
  /-- MOVE_TILE_TO_COMMONS (R244): A MOVE with DIR 1 issues and copies tile memory into the Commons. -/
  | moveTileToCommons (t : TileId) (m : WordErr)
  /-- MOVE_JOB_TO_TILE (R244): A MOVE with DIR 2 issues and reads job memory into tile memory or a region record. -/
  | moveJobToTile (t : TileId)
  /-- MOVE_TILE_TO_JOB (R244): A MOVE with DIR 3 issues and writes tile memory to job memory. -/
  | moveTileToJob (t : TileId) (m : WordErr)
  /-- MOVE_REMOTE_WRITE (R244): A MOVE with DIR 4 issues and writes tile memory into another tile of the device. -/
  | moveRemoteWrite (t : TileId) (m : WordErr)
  /-- RREL (R243): An RREL issues and adds COUNT to a region's HEAD, or is discarded and reported when it passes TAIL. -/
  | rrel (t : TileId)
  /-- ATOMIC_ISSUE (R246): An atomic leaves the NET port once no overlapping NET access of the context is executing. -/
  | atomicIssue (t : TileId)
  /-- NET_OP_COMPLETE (R114): A NET operation completes when its last byte is written or has left tile memory, applying any counter increment due then. -/
  | netOpComplete (t : TileId) (gen : Byte) (seq : W16) (data : List Byte) (bad : List Nat) (err : Bool)
  /-- REMOTE_WRITE_ARRIVAL (R237): A whole-unit remote write reaches the receiving tile, which writes it within a window and increments the counter, or refuses it. -/
  | remoteWriteArrival (t : TileId) (src : TileId) (gen : Byte) (seq : W16) (a : BitVec 21) (data : List Byte) (ctr : Option (BitVec 5)) (bad : List Nat)
  /-- GATHER_WRITE (R234): A narrow remote write enters the gather buffer, merging into an entry or taking one. -/
  | gatherWrite (t : TileId) (src : TileId) (gen : Byte) (seq : W16) (a : BitVec 21) (data : List Byte) (ctr : Option (BitVec 5)) (bad : Bool)
  /-- GATHER_FLUSH (R235): A triggered or timed-out gather entry and all older entries are flushed to tile memory, acknowledging their writes and applying their increments. -/
  | gatherFlush (t : TileId) (m : WordErr)
  /-- COMMONS_SLICE_ACCESS (R249): A Commons slice serves an access that reached its port, reporting uncorrectable words. -/
  | commonsSliceAccess (slice : BitVec 6) (e : WordErr)
  /-- STEP_START_MARK (R118): The step-start mark reaches a tile at the step gate, which loads TIL_STEP, clears DIRTY and resumes Muntjac. -/
  | stepStartMark (t : TileId)
  /-- END_OF_STEP_REPORT (R119): After STEPEND and every operation and write has completed, the tile reports clean or dirty on the sync mesh and returns to the step gate. -/
  | endOfStepReport (t : TileId)
  /-- TILE_ROLLBACK (R121): A rollback command reaches a tile, which abandons its step and discards every unissued operation. -/
  | tileRollback (t : TileId)
  /-- TILE_ROLLBACK_DONE (R121): The last issued operation of a rolling-back tile has ended and the tile returns to the step gate with clear resources. -/
  | tileRollbackDone (t : TileId)
  /-- TIL_CTRL_CLEAR (R125): A write of TIL_CTRL.CLEAR sets every tile and endpoint counter to 0. -/
  | tilCtrlClear (t : TileId) (freeze : Bool)
  /-- TIL_CTRL_FREEZE (R124): A write of TIL_CTRL.FREEZE holds or releases every tile counter. -/
  | tilCtrlFreeze (t : TileId) (freeze : Bool)
  /-- BULK_BLOCK_ARRIVAL (R262): A bulk-mesh block reaches its destination, which acknowledges it, refuses it with a NAK, or acknowledges and discards a duplicate. -/
  | bulkBlockArrival (b : MeshBlock)
  /-- BULK_ACK_ARRIVAL (R262): An acknowledgement reaches the source, which frees the block from its retention buffer. -/
  | bulkAckArrival (b : MeshBlock)
  /-- BULK_NAK_ARRIVAL (R262): A NAK reaches the source, which re-sends the block at once. -/
  | bulkNakArrival (b : MeshBlock)
  /-- RESEND_TIMEOUT (R262): A source receives neither acknowledgement nor NAK within 4 µs and re-sends the block. -/
  | resendTimeout (b : MeshBlock)
  /-- CONTROL_PACKET_ARRIVAL (R264): A control-mesh packet reaches its destination and is acknowledged or refused, or a bad broadcast is requested again from the root. -/
  | controlPacketArrival (at_ : W16) (b : MeshBlock)
  /-- SYNC_MESSAGE_HOP (R265): A sync message crosses a hop, with a parity failure repeated and a fourth failure raising a sync fault. -/
  | syncMessageHop (src : W16) (dst : W16) (cls : BitVec 2) (msg : Byte) (parity : Bool)
  /-- BARRIER_ARRIVAL (R268): A barrier arrival reaches its root and is counted toward the barrier. -/
  | barrierArrival (t : TileId) (b : BitVec 4)
  /-- BAR_DEPARTURE (R268): The departure reaches a member tile, which completes its acquire fence and continues. -/
  | barDeparture (t : TileId) (b : BitVec 4)
  /-- FLAG_UPDATE_AT_ROOT (R269): A FLAGSET reaches the West root, which applies it in order and broadcasts the new value. -/
  | flagUpdateAtRoot (ups : List FlagUpdate)
  /-- FLAG_COPY_UPDATE (R269): A flag broadcast reaches a tile and updates its copy. -/
  | flagCopyUpdate (t : TileId) (f : BitVec 6) (v : Bool) (era : Nat)
  /-- DEVICE_VOTE_RESULT (R270): The combined end-of-step result of the tiles reaches the STAG, a dirty report starting the rollback at once. -/
  | deviceVoteResult
  /-- END_CAST (R376): Once the tile result, every collective run and every comparison are done, the STAG casts the device's END. -/
  | endCast
  /-- SEND_ISSUE (R281): A send at the NET head with enough credit issues, takes the credit and reserves space for the message. -/
  | sendIssue (t : TileId) (m : WordErr)
  /-- MESSAGE_PLACEMENT (R277): A message's first block reaches the receive endpoint, which places its record, writing a wrap record if needed. -/
  | messagePlacement (t : TileId) (ep : BitVec 6) (ms : List MsgIn)
  /-- MESSAGE_BLOCK_ARRIVAL (R284): A later block of a placed message is written into its record, or refused with an error response. -/
  | messageBlockArrival (t : TileId) (ep : BitVec 6) (who : EndpointId) (gen : Byte) (epoch : BitVec 4) (seq : W32) (at_ : Nat) (data : List Byte) (bad : List Nat)
  /-- RECV_RESUME (R279): The message at the read position becomes complete and a waiting RECV or DISPATCH takes it. -/
  | recvResume (t : TileId)
  /-- RELEASE_ISSUE (R280): A message release issues, moving RD past the record and returning its units as credit. -/
  | releaseIssue (t : TileId)
  /-- CREDIT_RETURN_ARRIVAL (R281): Returned credit reaches the sending tile and is added to the endpoint's CREDIT. -/
  | creditReturnArrival (t : TileId) (ep : BitVec 6) (units : W16) (epoch : BitVec 4)
  /-- STALL_DETECT (R285): A send has waited on credit alone for 2^STALL_LOG2 cycles and the tile sends a probe. -/
  | stallDetect (t : TileId)
  /-- PROBE_ARRIVAL (R285): A stalled-send probe reaches a tile, which forwards or discards it. -/
  | probeArrival (t : TileId) (p : Probe)
  /-- LOAD_WEAVE (R309): The host command that loads a full or partial weave, starting its passes at the lead. -/
  | loadWeave (q : BitVec 4) (cid : W16) (addr : W64) (len : W64) (clear : Bool)
  /-- WEAVE_PASS1 (R309): The lead reads and checks the whole weave, header, CRCs, signature and shared sections. -/
  | weavePass1 (bytes : Option (List Byte))
  /-- WEAVE_PASS2 (R309): The lead reads the weave again and sends each device its portion. -/
  | weavePass2 (bytes : Option (List Byte))
  /-- WEAVE_PORTION_ARRIVAL (R309): A device receives its portion, stores it, checks its own records, endpoints and frames, and reports accept or refusal. -/
  | weavePortionArrival (bytes : List Byte) (asks : List Confirm) (answers : List Byte)
  /-- WEAVE_VOTE (R309): The lead gathers every device's accept or refusal and decides whether the weave applies. -/
  | weaveVote (votes : List WeaveVote)
  /-- WEAVE_APPLY (R309): Every device applies a full weave: empties rings, allocates frames, builds Home Tables, images tiles and sets step and epoch registers. -/
  | weaveApply (us : W32)
  /-- PARTIAL_APPLY (R316): At a commit boundary meeting the mode's conditions, devices apply a partial weave, set the new epoch and re-image replaced tiles. -/
  | partialApply (us : W32)
  /-- DRAIN_LIMIT_EXPIRED (R318): DRAIN_LIMIT commits pass without the drain condition and the reconfiguration is refused. -/
  | drainLimitExpired
  /-- APPLY_ABANDON (R320): A fault during apply restores the old portion, epoch and WEAVE_ID and rolls back to the boundary commit. -/
  | applyAbandon
  /-- QUEUE_DEPTH_SAMPLE (R334): Each sample period a tile adds every configured endpoint's occupancy to its histogram. -/
  | queueDepthSample (t : TileId)
  /-- QS_CLEAR (R335): A write of WV_QS_CTRL.CLEAR clears every histogram and PEAK of the device. -/
  | qsClear (v : W32)
  /-- QS_SNAPSHOT (R336): A write of WV_QS_SEL starts a snapshot of the selected histogram or skew pair, or is refused while busy. -/
  | qsSnapshot (v : W32)
  /-- QS_SNAPSHOT_DONE (R336): The snapshot lands in WV_QS_DATA and VALID becomes 1. -/
  | qsSnapshotDone
  /-- LINK_BLOCK_RECEIVE (R344): A link block arrives on a port and is checked, accepted in order or answered with a NAK. -/
  | linkBlockReceive (p : PortNo) (b : LinkBlock)
  /-- ACK_TIMER (R344): The receiver sends a cumulative ACK every 32 blocks or 100 ns. -/
  | ackTimer (p : PortNo)
  /-- ACK_RECEIVED (R344): An ACK in a codeword header frees acknowledged blocks from the replay buffer. -/
  | ackReceived (p : PortNo) (hdr : BitVec 20)
  /-- NAK_RECEIVED (R344): A NAK makes the transmitter replay from the named block with RS set. -/
  | nakReceived (p : PortNo) (hdr : BitVec 20)
  /-- REPLAY_TIMEOUT (R344): No ACK or NAK covers the oldest block within 2 µs and the transmitter replays from it. -/
  | replayTimeout (p : PortNo)
  /-- LINK_CREDIT_RECEIVED (R351): A CREDIT codeword header returns units to a downstream virtual channel. -/
  | linkCreditReceived (p : PortNo) (hdr : BitVec 20)
  /-- LOCK_LOSS (R345): A receiver loses codeword lock for 1 µs and the link leaves ACTIVE. -/
  | lockLoss (p : PortNo)
  /-- PACKET_ROUTE (R354): An arriving or injected packet is routed by DST to a local target, a torus port or an uplink, or discarded with ERR. -/
  | packetRoute (src : PacketSrc)
  /-- PACKET_DELIVER (R350): A packet reaches its destination device, which checks ECRC and BCRC and hands it to its target or answers ERR. -/
  | packetDeliver (pkt : Packet) (now : Nat)
  /-- CNE_RECEIVED (R371): A CNE cuts the rate limit toward its destination. -/
  | cneReceived (dst : DevOrd) (now : Nat)
  /-- RATE_RECOVERY_TIMER (R371): Every 16 µs without a CNE a destination's RATE rises by 1, freeing the entry at 64. -/
  | rateRecoveryTimer (dst : DevOrd)
  /-- FABRIC_ERROR_RESPONSE (R350): An ERR packet reaches the requester, whose operation completes with an error response. -/
  | fabricErrorResponse (t : TileId) (gen : Byte) (seq : W16) (head : W64)
  /-- REQUEST_TIMEOUT (R442): A fabric request unanswered within OL_CTRL.REQ_TIMEOUT completes with a timeout. -/
  | requestTimeout (t : TileId) (gen : Byte) (seq : W16)
  /-- TRAINING_STATE_ADVANCE (R362): A port receives 16 good training words with ACK and moves to the next training state. -/
  | trainingStateAdvance (p : PortNo) (lane : BitVec 3) (words : List (BitVec 128)) (errs : List Nat)
  /-- DETECT_TIMEOUT (R361): A port in DETECT finds no peer within OL_TRAIN_WAIT and enters FAILED. -/
  | detectTimeout (p : PortNo)
  /-- TRAINING_TIMEOUT (R361): A training state exceeds its bound and the port enters FAILED with its RESULT code. -/
  | trainingTimeout (p : PortNo)
  /-- IDENT_TIMER (R361): A port in IDENT sends an IDENT packet every 100 µs. -/
  | identTimer (p : PortNo)
  /-- IDENT_RECEIVED (R365): An IDENT arrives and CHECK compares it with the descriptor, passing to CREDIT_INIT or failing. -/
  | identReceived (p : PortNo) (content : BitVec 256)
  /-- CREDIT_INIT_RECEIVED (R361): A port receives the peer's initial credits and enters STANDBY. -/
  | creditInitReceived (p : PortNo) (units : List Nat)
  /-- LSA_FLOOD (R364): When every port is in STANDBY or FAILED the device floods its LSA. -/
  | lsaFlood
  /-- LSA_RECEIVED (R364): A newer LSA from an origin is stored and forwarded on other STANDBY ports. -/
  | lsaReceived (p : PortNo) (l : Lsa)
  /-- ROUTE_COMPUTE (R364): With LSAs from every member or after 20 ms the device computes routes and the stage-6 outcome. -/
  | routeCompute (expired : Bool)
  /-- ROUTE_INSTALL (R359): Routes and port weights are installed while no step runs and STANDBY ports enter ACTIVE. -/
  | routeInstall
  /-- PORT_LEAVES_ACTIVE (R368): A fabric port leaves ACTIVE, raising a device fault and STOT, discarding its buffered packets and entering RETRAIN. -/
  | portLeavesActive (p : PortNo) (now : Nat)
  /-- REROUTE (R359): A write of OL_CTRL.REROUTE recomputes and installs routes, refused unless the phase is idle. -/
  | reroute (v : W32)
  /-- RETRAIN_ALL (R361): A write of OL_CTRL.RETRAIN_ALL retrains every used port from DETECT, refused while a weave is loaded. -/
  | retrainAll (v : W32)
  /-- CSTART (R375): A CSTART issues after earlier writes are acknowledged and starts a run of a collective plan. -/
  | cstart (t : TileId)
  /-- COLLECTIVE_PAYLOAD_RECEIVE (R377): A collective piece's payload arrives and the engine combines it at its node of the reduction tree. -/
  | collectivePayloadReceive (plan : W16) (run : Byte) (level : BitVec 4) (m : DevOrd) (data : List Byte) (fault : Option NodeFault)
  /-- COLLECTIVE_DIGEST_RECEIVE (R382): A piece's Velvet digest arrives and is checked against the received bytes. -/
  | collectiveDigestReceive (plan : W16) (run : Byte) (level : BitVec 4) (m : DevOrd) (digest : List Byte)
  /-- DIGEST_TIMEOUT (R382): A piece's digest has not arrived within REQ_TIMEOUT of its last packet, which counts as a CRC failure. -/
  | digestTimeout (plan : W16) (run : Byte) (level : BitVec 4) (m : DevOrd)
  /-- COLLECTIVE_RESULT_WRITTEN (R376): A member's result range is written, the completion signal is given and the result digest is sent to member 0. -/
  | collectiveResultWritten (plan : W16)
  /-- RESULT_DIGEST_RECEIVE (R384): Member 0 receives a result digest and compares it with its own. -/
  | resultDigestReceive (plan : W16) (run : Byte) (m : DevOrd) (digest : List Byte)
  /-- START (R389): A START packet reaches a device, which broadcasts the step mark to its tiles. -/
  | startMsg (step : W64)
  /-- END (R388): An END packet reaches the aggregator or primary and is combined toward the herd and job result. -/
  | endMsg (o : DevOrd) (step : W64) (dirty : Bool)
  /-- PREPARE_BOUNDARY (R332): PREPARE with code 0 makes each device run the boundary check of a non-commit step. -/
  | prepareBoundary (step : W64)
  /-- PREPARE_COMMIT (R389): PREPARE with code 1 makes each device run the boundary check for a commit step. -/
  | prepareCommit (step : W64)
  /-- VOTE_SEND (R389): Once no copy-on-write is in progress at its homes, a device sends its VOTE. -/
  | voteSend
  /-- VOTE (R391): A VOTE reaches the aggregator or primary, a no vote aborting before the decision point. -/
  | vote (o : DevOrd) (step : W64) (code : Byte)
  /-- DECIDE_AT_STANDBY (R389): The standby records a commit decision and replies ACK with code 3. -/
  | decideAtStandby (step : W64)
  /-- STANDBY_ACK (R389): The standby's ACK reaches the primary, which records the decision and sends DECIDE to every device. -/
  | standbyAck (step : W64)
  /-- DECIDE_COMMIT (R389): DECIDE with code 1 makes a device record the committed outcome, set STEP_COMMITTED and ACK. -/
  | decideCommit (step : W64) (mirror : Bool)
  /-- DECIDE_ABORT (R394): DECIDE with code 2 makes a device roll back its tiles, outcome, rings, counters and flags and ACK. -/
  | decideAbort (step : W64)
  /-- DECIDE_REVERT (R394): DECIDE with code 3 rolls back and records the serial of commit n as reverted. -/
  | decideRevert (step : W64)
  /-- ACK (R389): An ACK reaches the primary, which sends DONE or restarts steps once every ACK and reset is in. -/
  | ack (o : DevOrd) (step : W64) (code : Byte) (t100ns : W16)
  /-- DONE_COMMITTED (R389): DONE with code 1 clears COMMIT_BUSY, may carry START, and starts mirroring and the lead's completion. -/
  | doneCommitted (step : W64) (start : Bool)
  /-- DONE_DURABLE (R398): DONE with code 2 sets STEP_DURABLE and may carry START. -/
  | doneDurable (step : W64) (start : Bool)
  /-- DONE_HELD (R394): DONE with code 3 holds the job for topology or escalation and sets JOB_HELD. -/
  | doneHeld (topology : Bool)
  /-- VOTE_TIMEOUT (R391): A VOTE or herd result missing STEP_VOTE_CFG.TIMEOUT_US after PREPARE aborts the vote, or a missing ACK names a silent device. -/
  | voteTimeout
  /-- STANDBY_TAKEOVER (R392): The standby takes over on a Stot naming the primary or on silence, querying devices and completing or aborting the vote. -/
  | standbyTakeover (replies : List QueryAnswer)
  /-- QUERY_REPLY (R392): A device receiving the standby's query replies with the last DECIDE it holds. -/
  | queryReply (o : DevOrd)
  /-- MIRROR_STREAM (R395): After DONE the link engines stream the newly committed sub-blocks to the buddy and end with MIRROR code 1. -/
  | mirrorStream
  /-- MIRROR_DATA (R396): A mirror packet at the buddy writes its chunk into the unselected frame and sets the pending bit. -/
  | mirrorData (o : DevOrd) (serial : W16) (lpn : Lpn) (sub : BitVec 5) (chunk : BitVec 5) (data : List Byte)
  /-- MIRROR_END_OF_STREAM (R396): MIRROR code 1 at the buddy commits the pending copies when the count matches and replies accepted or refused. -/
  | mirrorEndOfStream (o : DevOrd) (count : W32) (portion : Option (List Byte))
  /-- MIRROR_ACCEPTED (R398): MIRROR code 2 at the source lets the device ACK toward durability. -/
  | mirrorAccepted
  /-- MIRROR_REFUSED (R397): MIRROR code 3, or no acceptance in time, clears STEP_BUDDY.EN and sets MIRROR_ERR. -/
  | mirrorRefused
  /-- MIRROR_RELEASE (R70): MIRROR code 4 at the former buddy frees the source's mirror table, frames and stored portion. -/
  | mirrorRelease (o : DevOrd)
  /-- RUN_STEPS (R415): The host command that runs COUNT steps from FIRST, checked in order and completed when its last step commits. -/
  | runSteps (lead : DevOrd) (q : BitVec 4) (cid : W16) (first : W64) (count : W32) (coordsAgree : Bool)
  /-- COMMIT_CTRL_COMMIT (R415): COMMIT_CTRL ACTION 1 makes the running or next step a commit step. -/
  | commitCtrlCommit (lead : DevOrd) (q : BitVec 4) (cid : W16)
  /-- COMMIT_CTRL_STOP (R415): COMMIT_CTRL ACTION 2 commits the running step and starts no further step of the command. -/
  | commitCtrlStop (lead : DevOrd) (q : BitVec 4) (cid : W16)
  /-- COMMIT_CTRL_ROLLBACK (R415): COMMIT_CTRL ACTION 3 makes the step end dirty so the job rolls back. -/
  | commitCtrlRollback (lead : DevOrd) (q : BitVec 4) (cid : W16)
  /-- COPY_HOST_TO_JOB (R417): The COPY command with DIR 0 moves host bytes into job memory. -/
  | copyHostToJob (q : BitVec 4) (cid : W16) (a : W64) (len : W32) (data : Option (List Byte))
  /-- COPY_JOB_TO_HOST (R417): The COPY command with DIR 1 moves job memory bytes to the host. -/
  | copyJobToHost (q : BitVec 4) (cid : W16) (host : W64) (a : W64) (len : W32) (remote : List (Nat × List Byte)) (found : List Nat) (copies : List (Nat × List Byte))
  /-- READ_EVENTS (R418): The host command that copies consistent event records of a member into a host buffer. -/
  | readEvents (q : BitVec 4) (cid : W16) (buf : W64) (from_ : BitVec 48) (bytes : BitVec 23) (pos : BitVec 6) (remote : Option (List (List Byte)))
  /-- SET_TOLERANCE (R419): The host command that sets the latency tolerance of the masked devices. -/
  | setTolerance (q : BitVec 4) (cid : W16) (us : W32) (mask : W64)
  /-- DOORBELL_WRITE (R410): A write of HQ_DOORBELL_q sets the SQ tail, or stops the queue with ERRCODE 1 when out of range. -/
  | doorbellWrite (q : BitVec 4) (v : W32)
  /-- SQ_ENTRY_FETCH (R410): The device fetches the next SQ entry round-robin and starts its command, or stops the queue on a failed fetch. -/
  | sqEntryFetch (entry : Option (List W64))
  /-- CQ_HEAD_WRITE (R410): A write of HQ_CQ_HEAD_q frees CQ slots so a waiting completion can be written. -/
  | cqHeadWrite (q : BitVec 4) (v : W32)
  /-- QUEUE_DISABLE (R420): A write of HQ_Q_CFG.EN = 0 stops fetching and clears the queue's ERR. -/
  | queueDisable (q : BitVec 4)
  /-- MEMBER_WINDOW_ACCESS (R409): A BAR0 access in the member window is carried to the selected member in order, or fails and sets FAIL. -/
  | memberWindowAccess (off : BitVec 25) (size : Nat) (wr : Option W64) (reply : Option W64)
  /-- HOST_LINK_TRAINED (R400): The host link settles, setting LINK_LOW and an event record when below 16 GT/s or ×4. -/
  | hostLinkTrained (rate : BitVec 2) (width : BitVec 2) (flit : Bool)
  /-- PERST_N (R401): PERST_N low resets the host port and HQ block only. -/
  | perstN (low : Bool)
  /-- HOT_RESET (R401): A PCIe hot reset resets the host port and HQ block only. -/
  | hotReset
  /-- FLR (R401): A function level reset resets the host port and HQ block within 10 ms. -/
  | flr
  /-- GET_INFO (R422): Mailbox command returning firmware version and serial number. -/
  | getInfo (path : Path)
  /-- TOPO_WRITE (R366): Mailbox command writing the expected-topology descriptor, refused when invalid. -/
  | topoWrite (path : Path) (flashOk : Bool)
  /-- TOPO_READ (R422): Mailbox command returning the descriptor in force. -/
  | topoRead (path : Path)
  /-- KEY_WRITE (R422): Mailbox command writing a signed public key into a slot. -/
  | keyWrite (path : Path) (flashOk : Bool)
  /-- KEY_REVOKE (R422): Mailbox command revoking a key slot with a signature. -/
  | keyRevoke (path : Path) (flashOk : Bool)
  /-- KEY_READ (R422): Mailbox command returning a key slot's state and key. -/
  | keyRead (path : Path)
  /-- MAILBOX_COMMAND_END (R422): The STAG ends a mailbox command, writing RESULT and LEN, clearing BUSY and raising the MBX cause. -/
  | mailboxCommandEnd
  /-- SMBUS_READ_ID (R423): SMBus code 0x00 returns the ID block bytes. -/
  | smbusReadId
  /-- SMBUS_READ_STATUS (R423): SMBus code 0x01 returns HQ_STATUS and HQ_HERD. -/
  | smbusReadStatus
  /-- SMBUS_READ_TEMPERATURE (R423): SMBus code 0x02 returns the highest junction temperature or 0x8000. -/
  | smbusReadTemperature
  /-- SMBUS_READ_POWER (R423): SMBus code 0x03 returns package power. -/
  | smbusReadPower
  /-- SMBUS_BAR0_READ (R423): SMBus code 0x08 reads a BAR0 register. -/
  | smbusBar0Read (off : W32) (pecOk : Bool)
  /-- SMBUS_MBX_WRITE (R423): SMBus code 0x09 writes a register of the MBX block. -/
  | smbusMbxWrite (off : W32) (v : W32) (pecOk : Bool)
  /-- SMBUS_CONTINUE (R473): SMBus code 0x0A with 0x5A01 sets RST_STAGE_CTRL.CONTINUE. -/
  | smbusContinue (v : W16) (pecOk : Bool)
  /-- SMBUS_TIMEOUT (R541): SMB_CLK low for more than 25 ms resets the SMBus interface and releases SMB_DAT. -/
  | smbusTimeout
  /-- ERROR_REPORT (R431): An error report reaches the STAG and is queued in FLT and written to the event recorder. -/
  | errorReport (r : Report)
  /-- FLT_REPORT_POP (R431): A write of FLT_REPORT_POP removes the oldest queued report. -/
  | fltReportPop (v : W32)
  /-- FLT_REPORT_STATUS_CLEAR (R431): A write of 1 to OVERFLOW clears it together with LOST. -/
  | fltReportStatusClear (v : W32)
  /-- HANG_WINDOW_EXPIRED (R433): A watched item makes no progress for its class window and raises its hang fault. -/
  | hangWindowExpired (w : Watched)
  /-- HARDENED_SCRUB (R427): The scrubber checks each hardened register, rewrites a lone disagreeing copy or declares the unit faulty. -/
  | hardenedScrub (r : HardReg) (c0 c1 c2 : W64) (p0 p1 p2 : Bool) (us : W16)
  /-- FAULT (R435): A FAULT notice reaches the primary, which aborts the vote or starts a rollback. -/
  | faultNotice (n : Notice)
  /-- STOT (R437): A STOT notice reaches a recipient, which records it and treats it as a fault notice at the coordinators. -/
  | stot (n : Notice)
  /-- RECOVERED (R437): A RECOVERED notice reaches the primary, reporting a completed reset. -/
  | recovered (n : Notice)
  /-- OUT (R437): An OUT notice reports a unit leaving service. -/
  | outNotice (n : Notice)
  /-- READMITTED (R437): A READMITTED notice reports a unit's readmission. -/
  | readmitted (n : Notice)
  /-- DOMAIN_RESET_BEGIN (R445): A tile, cluster, half or device reset closes its wrapper, increments GEN, answers requests and clears state. -/
  | domainResetBegin (d : Domain)
  /-- DOMAIN_RESET_END (R445): A domain reset completes, its wrapper opens with tiles at the step gate and RECOVERED is sent. -/
  | domainResetEnd (d : Domain)
  /-- READMIT_DEVICE (R455): FLT_READMIT KIND 0 on the lead readmits or replaces a device, restoring it from its buddy. -/
  | readmitDevice (pos : BitVec 6) (portion : List Byte) (copies : List (Nat × List Byte)) (committed durable : W64) (coord : W32)
  /-- READMIT_PORT (R451): FLT_READMIT KIND 1 returns a port to training at the next boundary. -/
  | readmitPort (p : PortNo)
  /-- READMIT_TILE (R485): FLT_READMIT KIND 2 clears a tile's fault mark so its column returns as spare at the next reset. -/
  | readmitTile (px : BitVec 7) (py : BitVec 5)
  /-- POR (R456): VDD_AON rises into range or drops, resetting everything and running the cold path. -/
  | por (cfg : Byte)
  /-- BO (R456): A rail other than VDD_AON leaves its range for 2 µs, resetting all but the always-on domain. -/
  | bo (cfg : Byte)
  /-- RESET_N (R461): RESET_N low for 10 µs holds the device in reset and its release starts the warm path. -/
  | resetN (low : Bool) (cfg : Byte) (now : Nat)
  /-- WDT (R456): The STAG watchdog expires and resets the device. -/
  | wdt (now : Nat)
  /-- KICK (R456): The STAG writes RST_WDT.KICK to restart the watchdog period. -/
  | kick (path : Path)
  /-- RST_SW_TILE (R475): RST_SW with SCOPE tile requests a tile reset. -/
  | rstSwTile (x : BitVec 6) (y : BitVec 5)
  /-- RST_SW_CLUSTER (R475): RST_SW with SCOPE cluster requests a cluster reset. -/
  | rstSwCluster (x : BitVec 6) (y : BitVec 5)
  /-- RST_SW_HALF (R475): RST_SW with SCOPE half requests a half reset. -/
  | rstSwHalf (x : BitVec 6) (y : BitVec 5)
  /-- RST_SW_DEVICE (R475): RST_SW with SCOPE device requests a device reset in any phase. -/
  | rstSwDevice
  /-- RST_BLK_SMB (R476): RST_BLK.SMB resets the SMBus target to address 0x5A. -/
  | rstBlkSmb
  /-- RST_BLK_HQ (R476): RST_BLK.HQ resets the host port and HQ block as in R401. -/
  | rstBlkHq
  /-- RST_BLK_CXL (R476): RST_BLK.CXL retrains and re-enumerates a far port, refused while in use. -/
  | rstBlkCxl (ports : BitVec 4)
  /-- RST_BLK_OL (R476): RST_BLK.OL restarts a fabric port from DETECT. -/
  | rstBlkOl (ports : W16)
  /-- DBG (R456): A debug request through the test access port resets the device when debug posture is open. -/
  | dbg (hold : Bool) (now : Nat)
  /-- CKF (R537): Loss of REFCLK_SYS or a core, mesh or STAG PLL lock resets the device. -/
  | ckf (pll : Bool) (idx : Byte) (now : Nat)
  /-- REFCLK_SYS_RESTORED (R537): REFCLK_SYS has been back in tolerance for 1 ms and the device takes the warm path. -/
  | refclkSysRestored
  /-- LKU (R456): STAG lock-up or an unacknowledged power-sequencer step resets the device. -/
  | lku (sequencer : Bool) (now : Nat)
  /-- STAGE_0 (R467): Bring-up stage 0 starts the always-on domain and measures CFGSEL. -/
  | stage0 (us : W32) (f : StageFinding)
  /-- STAGE_1 (R467): Bring-up stage 1 boots the STAG from signed flash. -/
  | stage1 (us : W32) (f : StageFinding)
  /-- STAGE_2 (R467): Bring-up stage 2 checks reference clocks, locks PLLs and releases the host port. -/
  | stage2 (us : W32) (f : StageFinding)
  /-- STAGE_3 (R467): Bring-up stage 3 loads repair maps and tests mesh links. -/
  | stage3 (us : W32) (f : StageFinding)
  /-- STAGE_4 (R467): Bring-up stage 4 self-tests and repairs the SRAMs. -/
  | stage4 (us : W32) (f : StageFinding)
  /-- STAGE_5 (R467): Bring-up stage 5 trains the near-memory stacks. -/
  | stage5 (us : W32) (f : StageFinding)
  /-- STAGE_6 (R467): Bring-up stage 6 trains the links and checks the topology. -/
  | stage6 (us : W32) (f : StageFinding)
  /-- STAGE_7 (R105): Bring-up stage 7 enumerates the far-memory ports. -/
  | stage7 (us : W32) (f : StageFinding)
  /-- STAGE_8 (R470): Bring-up stage 8 broadcasts tile firmware, runs tile self-test and re-images tiles. -/
  | stage8 (us : W32) (f : StageFinding)
  /-- STAGE_9 (R467): Bring-up stage 9 sets READY and writes the final report. -/
  | stage9 (us : W32) (f : StageFinding)
  /-- TILE_SELF_TEST_REPORT (R470): A tile's self-test signature arrives and a mismatch fences the tile. -/
  | tileSelfTestReport (t : TileId) (sig : W32)
  /-- SELF_TEST_REPORT_TIMEOUT (R470): A tile's self-test report has not arrived within 20 ms and the tile fails. -/
  | selfTestReportTimeout (t : TileId)
  /-- CONTINUE (R473): A write of RST_STAGE_CTRL.CONTINUE releases the stage held under strap codes 12 or 13. -/
  | continueStage (path : Path)
  /-- TEST_SLICE (R489): A due periodic self-test slice runs when its port is idle, a failure marking the column PENDING. -/
  | testSlice (t : TileId) (kind : BitVec 2) (ok : Bool)
  /-- TILE_MEMORY_SCRUB (R491): A tile reads and checks one tile-memory unit through slot 7, queuing soft repairs. -/
  | tileMemoryScrub (t : TileId) (row : Nat) (e : Ecc)
  /-- COMMONS_SCRUB (R491): A Commons slice scrubs itself in idle cycles, queuing soft repairs. -/
  | commonsScrub (slice : BitVec 6) (row : Nat) (e : Ecc)
  /-- SENSOR_SAMPLE (R547): Every 100 µs the temperature sensors and voltage monitors are read and the thresholds applied. -/
  | sensorSample (temps : List Int) (stackTemps : List Int) (mv : List Nat) (now : Nat)
  /-- PRONK_BEGIN (R512): With MODE Pronk-enabled and every condition met the device raises the voltage and switches to 1.7 GHz. -/
  | pronkBegin (now : Nat)
  /-- PRONK_BUDGET_END (R513): 300 ms of a burst pass and the tile clocks return to Sustained. -/
  | pronkBudgetEnd (now : Nat)
  /-- CURRENT_TRIP (R533): VIN_CORE above 900 A for 10 µs ends a burst or lowers the tile clocks. -/
  | currentTrip (now : Nat)
  /-- POWER_MEASURE (R515): Each millisecond package power is compared with the mode's limit and the tile clocks stepped down or up. -/
  | powerMeasure (watts : W16)
  /-- LOCKOUT_CLEAR (R514): A write of 1 to PWR_PRONK.LOCKOUT clears it and sets TRIPS to 0. -/
  | lockoutClear (v : W32)
  /-- PWR_MODE_WRITE (R511): A write of PWR_MODE.MODE selects Lean, Sustained or Pronk-enabled within 100 µs, ending any burst. -/
  | pwrModeWrite (v : W32) (now : Nat)
  /-- PWR_TOL_WRITE (R499): A write of PWR_TOL sets the latency tolerance and re-evaluates every domain's state. -/
  | pwrTolWrite (v : W32)
  /-- PWR_VOTE_WRITE (R501): A host write of PWR_VOTE_d sets or clears client bits, waking or releasing the domain. -/
  | pwrVoteWrite (d : Byte) (v : W32)
  /-- QUIESCE (R502): A domain's quiesce and logic gating completes and it reaches P1, IDLE. -/
  | quiesce (d : Byte)
  /-- STOP_OSCILLATORS (R502): A domain's PLLs stop and it reaches P2, SLEEP. -/
  | stopOscillators (d : Byte)
  /-- RETAIN_MEMORY (R502): A domain's memory reaches retention and it reaches P3, DEEP. -/
  | retainMemory (d : Byte)
  /-- REGULATORS_OFF (R502): A domain's supplies turn off and it reaches P4, OFF. -/
  | regulatorsOff (d : Byte)
  /-- WAKE_EVENT (R504): A wake event makes a domain stop at its next abort point and wake, recording aborts and re-enables. -/
  | wakeEvent (d : Byte) (client : Option (BitVec 4))
  /-- REGULATOR_READY (R503): A waking domain's supplies are good and its oscillators start. -/
  | regulatorReady (d : Byte)
  /-- OSCILLATOR_READY (R503): A waking domain's PLLs lock and its memory leaves retention. -/
  | oscillatorReady (d : Byte)
  /-- MEMORY_READY (R503): A waking domain's SRAM and stacks are ready and its logic wakes. -/
  | memoryReady (d : Byte)
  /-- LOGIC_READY (R503): A waking domain's wrapper opens and held requests proceed. -/
  | logicReady (d : Byte)
  /-- BROWSE_SAMPLE (R508): The Browse sequencer samples link, host and thermal status and wakes the device on a change. -/
  | browseSample (snap : Snapshot)
  /-- WAKE_N (R541): WAKE_N low wakes a device in DEEP, OFF or shutdown. -/
  | wakeN (low : Bool)
  /-- RECORD_WRITE (R518): An error report or event reaches the recorder and takes the next SEQ, or is merged or suppressed. -/
  | recordWrite (r : Report)
  /-- SUPPRESS_SECOND_END (R523): At the end of each OPTIME second a 0xD002 record is written for each suppressed CODE. -/
  | suppressSecondEnd
  /-- FLUSH_START (R524): A flush of the record store to the erased flash copy begins, at most once per second except on power failure. -/
  | flushStart (now : Nat)
  /-- EVT_FLUSH_REQUEST (R524): A write of EVT_CTRL.FLUSH requests a flush. -/
  | evtFlushRequest (v : W32)
  /-- FLUSH_COMPLETE (R524): A flush completes, the copy becomes the newer one, staged records move into the ring and the other copy is erased. -/
  | flushComplete (ok : Bool) (now : Nat)
  /-- ERASE_COMPLETE (R524): The erase of the older flash copy completes. -/
  | eraseComplete
  /-- PWRFAIL_N (R526): PWRFAIL_N falls, a 0xD001 record is written, recording stops and a clean flush starts. -/
  | pwrfailN
  /-- PWRFAIL_N_RELEASE (R526): PWRFAIL_N rises with VDD_AON held and recording resumes. -/
  | pwrfailNRelease
  /-- OPTIME_CHECKPOINT (R527): Every 64 s the always-on OPTIME checkpoint is written to flash. -/
  | optimeCheckpoint
  /-- EVT_READ_SEL_WRITE (R528): A write of EVT_READ_SEL selects the slot holding a SEQ or sets GONE. -/
  | evtReadSelWrite (v : W64)
  /-- REFCLK_PCIE_LOSS (R537): Loss of REFCLK_PCIE takes the host port out of L0 without a device reset. -/
  | refclkPcieLoss
  /-- REFCLK_CXL_LOSS (R537): Loss of REFCLK_CXL takes every used far port down. -/
  | refclkCxlLoss
  /-- LINK_PLL_LOSS (R537): Loss of a link PLL's lock makes its port leave ACTIVE. -/
  | linkPllLoss (p : PortNo)
  /-- XTAL_AON_LOSS (R537): Loss of XTAL_AON moves the always-on domain to its internal oscillator. -/
  | xtalAonLoss
  /-- REFCLK_PCIE_RESTORED (R537): REFCLK_PCIE returns to tolerance and the host port retrains. -/
  | refclkPcieRestored
  /-- ROUTER_INPUT_CHECK (R261): A bulk or control block or sync message enters a router input; the router checks its CRC, counts a mismatch in FLT_MESH_CNT and sets ROUTER_SUSPECT at 64, then forwards it unchanged. -/
  | routerInputCheck (px : BitVec 7) (py : BitVec 5) (input : Side) (item : MeshItem)
  /-- SMBUS_ARP (R423): An SMBus Address Resolution Protocol transaction changes the target's address from its default. -/
  | smbusArp (addr : BitVec 7)
  /-- BAR0_MISALIGNED_READ (R404): A BAR0 read that is not 4 bytes and 4-aligned, or 8 bytes and 8-aligned, returns all ones and writes one event record. -/
  | bar0MisalignedRead (off : BitVec 26) (size : Nat)
  /-- TAP_INSTRUCTION (R544): An IEEE 1149.1 instruction is scanned in through the test access port: IDCODE, BYPASS or SAMPLE/PRELOAD, or EXTEST, which is accepted only while RESET_N is low. -/
  | tapInstruction (i : TapInstr)
  /-- TRST_N (R544): TRST_N low holds the TAP in reset. -/
  | trstN (low : Bool)
  /-- DEBUGGER_HALT (R464): Under open debug posture, the debugger halts or resumes the STAG, stopping the watchdog count, or releases a held bring-up stage. -/
  | debuggerHalt (a : DebugAction)
  /-- TEST_ENGINE_ACCESS (R493): In MANUFACTURE or RMA, the test engine runs march tests, programs fuses or writes column states directly, which clears out-of-service marks. -/
  | testEngineAccess (a : TestAccess)
  /-- LIFE_CYCLE_TRANSITION (R494): A fuse transition moves MANUFACTURE to FIELD, or a signed transition moves FIELD to RMA, erasing near memory, the weave store and key slots 1 to 7. -/
  | lifeCycleTransition (rma : Bool) (sigR sigS : BitVec 384)
  /-- RECOVERY_FIRMWARE_WRITE (R464): Under recovery strap codes 8 or 9, firmware is written through the STAG mailbox over PCIe or SMBus. -/
  | recoveryFirmwareWrite (path : Path) (fw : List Byte)
  deriving DecidableEq, Repr

end Sys2Proof
end

