-- ==== Sys2Proof/Machine/Regs.lean ====
section
/-! DEFINITION. The registers of BAR0 outside the tile windows, field by field, as the register tables of the spec give
them (R3 to R11, R28, R403): offset in BAR0, bits, access, reset value, the sources that restore it, and the range of
values a write may give. -/

namespace Sys2Proof.Machine

/-- Access codes (R9). -/
inductive Acc where
  | rw | ro | w1c | w1s | rc | rwl | wo
  deriving DecidableEq, Repr

/-- Reset sources and domains (R11), as a mask: POR 1, BO 2, PIN 4, DEV 8, HALF 16, CLU 32, TILE 64, BLK 128. WDT, SWR,
DBG, CKF and LKU restore what DEV restores (R456). -/
abbrev SrcMask := Nat

/-- One register field: offset of its register (of element 0 of an array) in BAR0, stride of the array, bits, access,
reset value, the sources that restore it, and the least and greatest value a write may give it (R8). -/
structure Fld where
  off : Nat
  stride : Nat
  msb : Nat
  lsb : Nat
  acc : Acc
  rst : Nat
  src : SrcMask
  lo : Nat
  hi : Nat
  deriving DecidableEq, Repr

/-- Width of a field. -/
def Fld.width (f : Fld) : Nat := f.msb + 1 - f.lsb

/-- Key of a field in State's register map. -/
def Fld.key (f : Fld) : Nat := f.off * 64 + f.lsb

/-- The field of element `i` of its register array. -/
def Fld.ix (f : Fld) (i : Nat) : Fld := { f with off := f.off + f.stride * i }

/-- One register, or an array of registers with indices `first` to `last - 1`. -/
structure RegD where
  name : String
  off : Nat
  stride : Nat
  first : Nat
  last : Nat
  wide : Bool
  fields : List Fld
  deriving DecidableEq, Repr

/-- ID_PART.FAMILY, [31:16]. -/
def F.ID_PART.FAMILY : Fld := ⟨0x0, 0x0, 31, 16, .ro, 0xF1A, 0, 0, 0xFFFF⟩
/-- ID_PART.PART, [15:0]. -/
def F.ID_PART.PART : Fld := ⟨0x0, 0x0, 15, 0, .ro, 0x7264, 0, 0, 0xFFFF⟩
/-- ID_STEPPING.GEOM_VERSION, [31:16]. -/
def F.ID_STEPPING.GEOM_VERSION : Fld := ⟨0x4, 0x0, 31, 16, .ro, 0x1, 0, 0, 0xFFFF⟩
/-- ID_STEPPING.STEPPING, [7:0]. -/
def F.ID_STEPPING.STEPPING : Fld := ⟨0x4, 0x0, 7, 0, .ro, 0x0, 0, 0, 0xFF⟩
/-- ID_GEOM_ARRAY.SPARE_COLS, [31:24]. -/
def F.ID_GEOM_ARRAY.SPARE_COLS : Fld := ⟨0x8, 0x0, 31, 24, .ro, 0x2, 0, 0, 0xFF⟩
/-- ID_GEOM_ARRAY.PHYS_COLS, [23:16]. -/
def F.ID_GEOM_ARRAY.PHYS_COLS : Fld := ⟨0x8, 0x0, 23, 16, .ro, 0x44, 0, 0, 0xFF⟩
/-- ID_GEOM_ARRAY.ROWS, [15:8]. -/
def F.ID_GEOM_ARRAY.ROWS : Fld := ⟨0x8, 0x0, 15, 8, .ro, 0x20, 0, 0, 0xFF⟩
/-- ID_GEOM_ARRAY.COLS, [7:0]. -/
def F.ID_GEOM_ARRAY.COLS : Fld := ⟨0x8, 0x0, 7, 0, .ro, 0x40, 0, 0, 0xFF⟩
/-- ID_GEOM_BUF.TAHR_KIB, [31:24]. -/
def F.ID_GEOM_BUF.TAHR_KIB : Fld := ⟨0xC, 0x0, 31, 24, .ro, 0x8, 0, 0, 0xFF⟩
/-- ID_GEOM_BUF.ACC_KIB, [23:16]. -/
def F.ID_GEOM_BUF.ACC_KIB : Fld := ⟨0xC, 0x0, 23, 16, .ro, 0x80, 0, 0, 0xFF⟩
/-- ID_GEOM_BUF.B_KIB, [15:8]. -/
def F.ID_GEOM_BUF.B_KIB : Fld := ⟨0xC, 0x0, 15, 8, .ro, 0x40, 0, 0, 0xFF⟩
/-- ID_GEOM_BUF.A_KIB, [7:0]. -/
def F.ID_GEOM_BUF.A_KIB : Fld := ⟨0xC, 0x0, 7, 0, .ro, 0x40, 0, 0, 0xFF⟩
/-- ID_GEOM_SRAM.TILE_MEM_KIB, [31:16]. -/
def F.ID_GEOM_SRAM.TILE_MEM_KIB : Fld := ⟨0x10, 0x0, 31, 16, .ro, 0x800, 0, 0, 0xFFFF⟩
/-- ID_GEOM_SRAM.SLICES, [15:8]. -/
def F.ID_GEOM_SRAM.SLICES : Fld := ⟨0x10, 0x0, 15, 8, .ro, 0x40, 0, 0, 0xFF⟩
/-- ID_GEOM_SRAM.SLICE_MIB, [7:0]. -/
def F.ID_GEOM_SRAM.SLICE_MIB : Fld := ⟨0x10, 0x0, 7, 0, .ro, 0x20, 0, 0, 0xFF⟩
/-- ID_GEOM_ENDPT.REGIONS, [23:16]. -/
def F.ID_GEOM_ENDPT.REGIONS : Fld := ⟨0x14, 0x0, 23, 16, .ro, 0x10, 0, 0, 0xFF⟩
/-- ID_GEOM_ENDPT.ARRIVAL, [15:8]. -/
def F.ID_GEOM_ENDPT.ARRIVAL : Fld := ⟨0x14, 0x0, 15, 8, .ro, 0x20, 0, 0, 0xFF⟩
/-- ID_GEOM_ENDPT.CHANNELS, [7:0]. -/
def F.ID_GEOM_ENDPT.CHANNELS : Fld := ⟨0x14, 0x0, 7, 0, .ro, 0x40, 0, 0, 0xFF⟩
/-- ID_GEOM_MEM.FAR_PORTS, [31:24]. -/
def F.ID_GEOM_MEM.FAR_PORTS : Fld := ⟨0x18, 0x0, 31, 24, .ro, 0x4, 0, 0, 0xFF⟩
/-- ID_GEOM_MEM.FAR_MAX_TIB, [23:16]. -/
def F.ID_GEOM_MEM.FAR_MAX_TIB : Fld := ⟨0x18, 0x0, 23, 16, .ro, 0x4, 0, 0, 0xFF⟩
/-- ID_GEOM_MEM.STACK_GIB, [15:8]. -/
def F.ID_GEOM_MEM.STACK_GIB : Fld := ⟨0x18, 0x0, 15, 8, .ro, 0x48, 0, 0, 0xFF⟩
/-- ID_GEOM_MEM.STACKS, [7:0]. -/
def F.ID_GEOM_MEM.STACKS : Fld := ⟨0x18, 0x0, 7, 0, .ro, 0x8, 0, 0, 0xFF⟩
/-- ID_GEOM_HOME.ENTRIES, [31:0]. -/
def F.ID_GEOM_HOME.ENTRIES : Fld := ⟨0x1C, 0x0, 31, 0, .ro, 0x400000, 0, 0, 0xFFFFFFFF⟩
/-- ID_GEOM_PORTS.HOST_LANES, [31:24]. -/
def F.ID_GEOM_PORTS.HOST_LANES : Fld := ⟨0x20, 0x0, 31, 24, .ro, 0x10, 0, 0, 0xFF⟩
/-- ID_GEOM_PORTS.MAX_HERD, [23:16]. -/
def F.ID_GEOM_PORTS.MAX_HERD : Fld := ⟨0x20, 0x0, 23, 16, .ro, 0x40, 0, 0, 0xFF⟩
/-- ID_GEOM_PORTS.UPLINKS, [15:8]. -/
def F.ID_GEOM_PORTS.UPLINKS : Fld := ⟨0x20, 0x0, 15, 8, .ro, 0x4, 0, 0, 0xFF⟩
/-- ID_GEOM_PORTS.TORUS_PORTS, [7:0]. -/
def F.ID_GEOM_PORTS.TORUS_PORTS : Fld := ⟨0x20, 0x0, 7, 0, .ro, 0xC, 0, 0, 0xFF⟩
/-- ID_GEOM_CLOCKS.MESH, [31:24]. -/
def F.ID_GEOM_CLOCKS.MESH : Fld := ⟨0x24, 0x0, 31, 24, .ro, 0xC8, 0, 0, 0xFF⟩
/-- ID_GEOM_CLOCKS.PRONK, [23:16]. -/
def F.ID_GEOM_CLOCKS.PRONK : Fld := ⟨0x24, 0x0, 23, 16, .ro, 0xAA, 0, 0, 0xFF⟩
/-- ID_GEOM_CLOCKS.SUSTAINED, [15:8]. -/
def F.ID_GEOM_CLOCKS.SUSTAINED : Fld := ⟨0x24, 0x0, 15, 8, .ro, 0x8C, 0, 0, 0xFF⟩
/-- ID_GEOM_CLOCKS.LEAN, [7:0]. -/
def F.ID_GEOM_CLOCKS.LEAN : Fld := ⟨0x24, 0x0, 7, 0, .ro, 0x64, 0, 0, 0xFF⟩
/-- STEP_CURRENT.STEP, [63:0]. -/
def F.STEP_CURRENT.STEP : Fld := ⟨0xB0000, 0x0, 63, 0, .ro, 0x0, 3, 0, 0xFFFFFFFFFFFFFFFF⟩
/-- STEP_COMMITTED.STEP, [63:0]. -/
def F.STEP_COMMITTED.STEP : Fld := ⟨0xB0008, 0x0, 63, 0, .ro, 0x0, 3, 0, 0xFFFFFFFFFFFFFFFF⟩
/-- STEP_DURABLE.STEP, [63:0]. -/
def F.STEP_DURABLE.STEP : Fld := ⟨0xB0010, 0x0, 63, 0, .ro, 0x0, 3, 0, 0xFFFFFFFFFFFFFFFF⟩
/-- STEP_INTERVAL.K, [15:0]. -/
def F.STEP_INTERVAL.K : Fld := ⟨0xB0018, 0x0, 15, 0, .rw, 0x1, 3, 1, 0xFFFF⟩
/-- STEP_DOMAIN.DOMAIN, [15:0]. -/
def F.STEP_DOMAIN.DOMAIN : Fld := ⟨0xB001C, 0x0, 15, 0, .rw, 0x0, 3, 0, 0xFFFF⟩
/-- STEP_BUDDY.EN, [31:31]. -/
def F.STEP_BUDDY.EN : Fld := ⟨0xB0020, 0x0, 31, 31, .rw, 0x0, 3, 0, 0x1⟩
/-- STEP_BUDDY.BH, [13:6]. -/
def F.STEP_BUDDY.BH : Fld := ⟨0xB0020, 0x0, 13, 6, .rw, 0x0, 3, 0, 0xFF⟩
/-- STEP_BUDDY.BI, [5:4]. -/
def F.STEP_BUDDY.BI : Fld := ⟨0xB0020, 0x0, 5, 4, .rw, 0x0, 3, 0, 0x3⟩
/-- STEP_BUDDY.BJ, [3:2]. -/
def F.STEP_BUDDY.BJ : Fld := ⟨0xB0020, 0x0, 3, 2, .rw, 0x0, 3, 0, 0x3⟩
/-- STEP_BUDDY.BK, [1:0]. -/
def F.STEP_BUDDY.BK : Fld := ⟨0xB0020, 0x0, 1, 0, .rw, 0x0, 3, 0, 0x3⟩
/-- STEP_STATUS.MIRROR_ERR, [7:7]. -/
def F.STEP_STATUS.MIRROR_ERR : Fld := ⟨0xB0024, 0x0, 7, 7, .w1c, 0x0, 15, 0, 0x1⟩
/-- STEP_STATUS.MIRROR_PENDING, [6:6]. -/
def F.STEP_STATUS.MIRROR_PENDING : Fld := ⟨0xB0024, 0x0, 6, 6, .ro, 0x0, 15, 0, 0x1⟩
/-- STEP_STATUS.ROLLBACK, [5:5]. -/
def F.STEP_STATUS.ROLLBACK : Fld := ⟨0xB0024, 0x0, 5, 5, .w1c, 0x0, 15, 0, 0x1⟩
/-- STEP_STATUS.COMMIT_BUSY, [4:4]. -/
def F.STEP_STATUS.COMMIT_BUSY : Fld := ⟨0xB0024, 0x0, 4, 4, .ro, 0x0, 15, 0, 0x1⟩
/-- STEP_STATUS.PHASE, [3:0]. -/
def F.STEP_STATUS.PHASE : Fld := ⟨0xB0024, 0x0, 3, 0, .ro, 0x0, 15, 0, 0xF⟩
/-- STEP_STALE.COUNT, [31:0]. -/
def F.STEP_STALE.COUNT : Fld := ⟨0xB0028, 0x0, 31, 0, .rc, 0x0, 15, 0, 0xFFFFFFFF⟩
/-- STEP_STALE_ADDR.ADDR, [56:0]. -/
def F.STEP_STALE_ADDR.ADDR : Fld := ⟨0xB0030, 0x0, 56, 0, .ro, 0x0, 15, 0, 0x1FFFFFFFFFFFFFF⟩
/-- HOME_SERIAL.LAST_ROLLBACK, [31:16]. -/
def F.HOME_SERIAL.LAST_ROLLBACK : Fld := ⟨0xA0000, 0x0, 31, 16, .ro, 0x0, 3, 0, 0xFFFF⟩
/-- HOME_SERIAL.CURRENT, [15:0]. -/
def F.HOME_SERIAL.CURRENT : Fld := ⟨0xA0000, 0x0, 15, 0, .ro, 0x0, 3, 0, 0xFFFF⟩
/-- HOME_STATUS.POISON_HOLD, [31:31]. -/
def F.HOME_STATUS.POISON_HOLD : Fld := ⟨0xA0004, 0x0, 31, 31, .ro, 0x0, 15, 0, 0x1⟩
/-- HOME_STATUS.SWEEP_STALLS, [23:16]. -/
def F.HOME_STATUS.SWEEP_STALLS : Fld := ⟨0xA0004, 0x0, 23, 16, .rc, 0x0, 15, 0, 0xFF⟩
/-- HOME_STATUS.SWEEP_PASS_US, [15:0]. -/
def F.HOME_STATUS.SWEEP_PASS_US : Fld := ⟨0xA0004, 0x0, 15, 0, .ro, 0x0, 15, 0, 0xFFFF⟩
/-- HOME_MIGRATE.START, [63:63]. -/
def F.HOME_MIGRATE.START : Fld := ⟨0xA0010, 0x0, 63, 63, .wo, 0x0, 15, 0, 0x1⟩
/-- HOME_MIGRATE.TIER, [57:56]. -/
def F.HOME_MIGRATE.TIER : Fld := ⟨0xA0010, 0x0, 57, 56, .wo, 0x0, 15, 0, 0x1⟩
/-- HOME_MIGRATE.LPN, [21:0]. -/
def F.HOME_MIGRATE.LPN : Fld := ⟨0xA0010, 0x0, 21, 0, .wo, 0x0, 15, 0, 0x3FFFFF⟩
/-- HOME_MIGRATE_STATUS.BUSY, [31:31]. -/
def F.HOME_MIGRATE_STATUS.BUSY : Fld := ⟨0xA0018, 0x0, 31, 31, .ro, 0x0, 3, 0, 0x1⟩
/-- HOME_MIGRATE_STATUS.LAST_RESULT, [30:28]. -/
def F.HOME_MIGRATE_STATUS.LAST_RESULT : Fld := ⟨0xA0018, 0x0, 30, 28, .ro, 0x0, 15, 0, 0x7⟩
/-- HOME_MIGRATE_STATUS.QUEUED, [4:0]. -/
def F.HOME_MIGRATE_STATUS.QUEUED : Fld := ⟨0xA0018, 0x0, 4, 0, .ro, 0x0, 3, 0, 0x1F⟩
/-- NM_ERR_s.CE, [31:16]. -/
def F.NM_ERR.CE : Fld := ⟨0xE0000, 0x4, 31, 16, .rc, 0x0, 15, 0, 0xFFFF⟩
/-- NM_ERR_s.UE, [15:8]. -/
def F.NM_ERR.UE : Fld := ⟨0xE0000, 0x4, 15, 8, .rc, 0x0, 15, 0, 0xFF⟩
/-- NM_ERR_s.HOT, [1:1]. -/
def F.NM_ERR.HOT : Fld := ⟨0xE0000, 0x4, 1, 1, .ro, 0x0, 15, 0, 0x1⟩
/-- NM_ERR_s.TRAINED, [0:0]. -/
def F.NM_ERR.TRAINED : Fld := ⟨0xE0000, 0x4, 0, 0, .ro, 0x0, 15, 0, 0x1⟩
/-- CXL_PORT_STATUS_p.LINK_UP, [31:31]. -/
def F.CXL_PORT_STATUS.LINK_UP : Fld := ⟨0xD0000, 0x4, 31, 31, .ro, 0x0, 15, 0, 0x1⟩
/-- CXL_PORT_STATUS_p.USED, [30:30]. -/
def F.CXL_PORT_STATUS.USED : Fld := ⟨0xD0000, 0x4, 30, 30, .ro, 0x0, 15, 0, 0x1⟩
/-- CXL_PORT_STATUS_p.WIDTH, [29:28]. -/
def F.CXL_PORT_STATUS.WIDTH : Fld := ⟨0xD0000, 0x4, 29, 28, .ro, 0x0, 15, 0, 0x3⟩
/-- CXL_PORT_STATUS_p.REASON, [27:24]. -/
def F.CXL_PORT_STATUS.REASON : Fld := ⟨0xD0000, 0x4, 27, 24, .ro, 0x0, 15, 0, 0xF⟩
/-- CXL_PORT_STATUS_p.CAP_GIB, [12:0]. -/
def F.CXL_PORT_STATUS.CAP_GIB : Fld := ⟨0xD0000, 0x4, 12, 0, .ro, 0x0, 15, 0, 0x1FFF⟩
/-- CXL_CTRL.TIMEOUT_US, [15:0]. -/
def F.CXL_CTRL.TIMEOUT_US : Fld := ⟨0xD0010, 0x0, 15, 0, .rw, 0x64, 15, 10, 0x2710⟩
/-- FLT_MESH_STATUS.ROUTER_SUSPECT, [4:4]. -/
def F.FLT_MESH_STATUS.ROUTER_SUSPECT : Fld := ⟨0x70200, 0x0, 4, 4, .w1c, 0x0, 15, 0, 0x1⟩
/-- FLT_MESH_STATUS.SYNC_FAULT, [3:3]. -/
def F.FLT_MESH_STATUS.SYNC_FAULT : Fld := ⟨0x70200, 0x0, 3, 3, .w1c, 0x0, 15, 0, 0x1⟩
/-- FLT_MESH_STATUS.CTRL_PATH, [2:2]. -/
def F.FLT_MESH_STATUS.CTRL_PATH : Fld := ⟨0x70200, 0x0, 2, 2, .w1c, 0x0, 15, 0, 0x1⟩
/-- FLT_MESH_STATUS.BULK_PATH, [1:1]. -/
def F.FLT_MESH_STATUS.BULK_PATH : Fld := ⟨0x70200, 0x0, 1, 1, .w1c, 0x0, 15, 0, 0x1⟩
/-- FLT_MESH_PATH.MESH, [63:62]. -/
def F.FLT_MESH_PATH.MESH : Fld := ⟨0x70208, 0x0, 63, 62, .ro, 0x0, 15, 0, 0x3⟩
/-- FLT_MESH_PATH.VC, [61:60]. -/
def F.FLT_MESH_PATH.VC : Fld := ⟨0x70208, 0x0, 61, 60, .ro, 0x0, 15, 0, 0x3⟩
/-- FLT_MESH_PATH.RESENDS, [59:57]. -/
def F.FLT_MESH_PATH.RESENDS : Fld := ⟨0x70208, 0x0, 59, 57, .ro, 0x0, 15, 0, 0x7⟩
/-- FLT_MESH_PATH.SRC, [31:16]. -/
def F.FLT_MESH_PATH.SRC : Fld := ⟨0x70208, 0x0, 31, 16, .ro, 0x0, 15, 0, 0xFFFF⟩
/-- FLT_MESH_PATH.DST, [15:0]. -/
def F.FLT_MESH_PATH.DST : Fld := ⟨0x70208, 0x0, 15, 0, .ro, 0x0, 15, 0, 0xFFFF⟩
/-- FLT_MESH_CNT_SEL.PX, [14:8]. -/
def F.FLT_MESH_CNT_SEL.PX : Fld := ⟨0x70210, 0x0, 14, 8, .rw, 0x0, 15, 0, 0x43⟩
/-- FLT_MESH_CNT_SEL.PY, [4:0]. -/
def F.FLT_MESH_CNT_SEL.PY : Fld := ⟨0x70210, 0x0, 4, 0, .rw, 0x0, 15, 0, 0x1F⟩
/-- FLT_MESH_CNT.BULK_N, [63:56]. -/
def F.FLT_MESH_CNT.BULK_N : Fld := ⟨0x70218, 0x0, 63, 56, .rc, 0x0, 31, 0, 0xFF⟩
/-- FLT_MESH_CNT.BULK_E, [55:48]. -/
def F.FLT_MESH_CNT.BULK_E : Fld := ⟨0x70218, 0x0, 55, 48, .rc, 0x0, 31, 0, 0xFF⟩
/-- FLT_MESH_CNT.BULK_S, [47:40]. -/
def F.FLT_MESH_CNT.BULK_S : Fld := ⟨0x70218, 0x0, 47, 40, .rc, 0x0, 31, 0, 0xFF⟩
/-- FLT_MESH_CNT.BULK_W, [39:32]. -/
def F.FLT_MESH_CNT.BULK_W : Fld := ⟨0x70218, 0x0, 39, 32, .rc, 0x0, 31, 0, 0xFF⟩
/-- FLT_MESH_CNT.BULK_LOCAL, [31:24]. -/
def F.FLT_MESH_CNT.BULK_LOCAL : Fld := ⟨0x70218, 0x0, 31, 24, .rc, 0x0, 31, 0, 0xFF⟩
/-- FLT_MESH_CNT.CTRL, [23:16]. -/
def F.FLT_MESH_CNT.CTRL : Fld := ⟨0x70218, 0x0, 23, 16, .rc, 0x0, 31, 0, 0xFF⟩
/-- FLT_MESH_CNT.SYNC, [15:8]. -/
def F.FLT_MESH_CNT.SYNC : Fld := ⟨0x70218, 0x0, 15, 8, .rc, 0x0, 31, 0, 0xFF⟩
/-- FLT_MESH_CNT.SEAM, [7:0]. -/
def F.FLT_MESH_CNT.SEAM : Fld := ⟨0x70218, 0x0, 7, 0, .rc, 0x0, 31, 0, 0xFF⟩
/-- WV_STATUS.BUSY, [31:31]. -/
def F.WV_STATUS.BUSY : Fld := ⟨0xF0000, 0x0, 31, 31, .ro, 0x0, 15, 0, 0x1⟩
/-- WV_STATUS.PHASE, [30:28]. -/
def F.WV_STATUS.PHASE : Fld := ⟨0xF0000, 0x0, 30, 28, .ro, 0x0, 15, 0, 0x7⟩
/-- WV_STATUS.LOADED, [27:27]. -/
def F.WV_STATUS.LOADED : Fld := ⟨0xF0000, 0x0, 27, 27, .ro, 0x0, 3, 0, 0x1⟩
/-- WV_STATUS.LAST, [26:25]. -/
def F.WV_STATUS.LAST : Fld := ⟨0xF0000, 0x0, 26, 25, .ro, 0x0, 3, 0, 0x3⟩
/-- WV_STATUS.EPOCH, [19:16]. -/
def F.WV_STATUS.EPOCH : Fld := ⟨0xF0000, 0x0, 19, 16, .ro, 0x0, 3, 0, 0xF⟩
/-- WV_STATUS.EPOCH_USE, [15:0]. -/
def F.WV_STATUS.EPOCH_USE : Fld := ⟨0xF0000, 0x0, 15, 0, .ro, 0x0, 3, 0, 0xFFFF⟩
/-- WV_REFUSE.REASON, [63:56]. -/
def F.WV_REFUSE.REASON : Fld := ⟨0xF0008, 0x0, 63, 56, .ro, 0x0, 3, 0, 0xFF⟩
/-- WV_REFUSE.SECTION, [55:48]. -/
def F.WV_REFUSE.SECTION : Fld := ⟨0xF0008, 0x0, 55, 48, .ro, 0x0, 3, 0, 0xFF⟩
/-- WV_REFUSE.ORD, [47:34]. -/
def F.WV_REFUSE.ORD : Fld := ⟨0xF0008, 0x0, 47, 34, .ro, 0x0, 3, 0, 0x3FFF⟩
/-- WV_REFUSE.RECORD, [31:0]. -/
def F.WV_REFUSE.RECORD : Fld := ⟨0xF0008, 0x0, 31, 0, .ro, 0x0, 3, 0, 0xFFFFFFFF⟩
/-- WV_WEAVE_ID.ID, [63:0]. -/
def F.WV_WEAVE_ID.ID : Fld := ⟨0xF0010, 0x0, 63, 0, .ro, 0x0, 3, 0, 0xFFFFFFFFFFFFFFFF⟩
/-- WV_FLUSH_CNT.COUNT, [31:0]. -/
def F.WV_FLUSH_CNT.COUNT : Fld := ⟨0xF0018, 0x0, 31, 0, .rc, 0x0, 15, 0, 0xFFFFFFFF⟩
/-- WV_LOAD_US.TIME, [31:0]. -/
def F.WV_LOAD_US.TIME : Fld := ⟨0xF001C, 0x0, 31, 0, .ro, 0x0, 3, 0, 0xFFFFFFFF⟩
/-- WV_STORE.FRAMES, [8:0]. -/
def F.WV_STORE.FRAMES : Fld := ⟨0xF0020, 0x0, 8, 0, .ro, 0x0, 3, 0, 0x1FF⟩
/-- WV_QS_CTRL.EN, [31:31]. -/
def F.WV_QS_CTRL.EN : Fld := ⟨0xF0040, 0x0, 31, 31, .rw, 0x0, 15, 0, 0x1⟩
/-- WV_QS_CTRL.CLEAR, [30:30]. -/
def F.WV_QS_CTRL.CLEAR : Fld := ⟨0xF0040, 0x0, 30, 30, .wo, 0x0, 15, 0, 0x1⟩
/-- WV_QS_CTRL.PERIOD_LOG2, [4:0]. -/
def F.WV_QS_CTRL.PERIOD_LOG2 : Fld := ⟨0xF0040, 0x0, 4, 0, .rw, 0xC, 15, 8, 0x18⟩
/-- WV_QS_SEL.KIND, [31:30]. -/
def F.WV_QS_SEL.KIND : Fld := ⟨0xF0044, 0x0, 31, 30, .rw, 0x0, 15, 0, 0x1⟩
/-- WV_QS_SEL.X, [29:24]. -/
def F.WV_QS_SEL.X : Fld := ⟨0xF0044, 0x0, 29, 24, .rw, 0x0, 15, 0, 0x3F⟩
/-- WV_QS_SEL.Y, [23:19]. -/
def F.WV_QS_SEL.Y : Fld := ⟨0xF0044, 0x0, 23, 19, .rw, 0x0, 15, 0, 0x1F⟩
/-- WV_QS_SEL.SUB, [5:0]. -/
def F.WV_QS_SEL.SUB : Fld := ⟨0xF0044, 0x0, 5, 0, .rw, 0x0, 15, 0, 0x3F⟩
/-- WV_QS_STATUS.VALID, [31:31]. -/
def F.WV_QS_STATUS.VALID : Fld := ⟨0xF0048, 0x0, 31, 31, .ro, 0x0, 15, 0, 0x1⟩
/-- WV_QS_STATUS.BUSY, [30:30]. -/
def F.WV_QS_STATUS.BUSY : Fld := ⟨0xF0048, 0x0, 30, 30, .ro, 0x0, 15, 0, 0x1⟩
/-- WV_QS_STATUS.EMPTY, [29:29]. -/
def F.WV_QS_STATUS.EMPTY : Fld := ⟨0xF0048, 0x0, 29, 29, .ro, 0x0, 15, 0, 0x1⟩
/-- WV_QS_STATUS.SAT, [28:28]. -/
def F.WV_QS_STATUS.SAT : Fld := ⟨0xF0048, 0x0, 28, 28, .ro, 0x0, 15, 0, 0x1⟩
/-- WV_QS_DATA_n.HI, [31:16]. -/
def F.WV_QS_DATA.HI : Fld := ⟨0xF0050, 0x4, 31, 16, .ro, 0x0, 15, 0, 0xFFFF⟩
/-- WV_QS_DATA_n.LO, [15:0]. -/
def F.WV_QS_DATA.LO : Fld := ⟨0xF0050, 0x4, 15, 0, .ro, 0x0, 15, 0, 0xFFFF⟩
/-- OL_CTRL.REROUTE, [31:31]. -/
def F.OL_CTRL.REROUTE : Fld := ⟨0xC0000, 0x0, 31, 31, .wo, 0x0, 7, 0, 0x1⟩
/-- OL_CTRL.RETRAIN_ALL, [30:30]. -/
def F.OL_CTRL.RETRAIN_ALL : Fld := ⟨0xC0000, 0x0, 30, 30, .wo, 0x0, 7, 0, 0x1⟩
/-- OL_CTRL.CM_EN, [23:23]. -/
def F.OL_CTRL.CM_EN : Fld := ⟨0xC0000, 0x0, 23, 23, .rw, 0x1, 7, 0, 0x1⟩
/-- OL_CTRL.CM_THRESH, [22:16]. -/
def F.OL_CTRL.CM_THRESH : Fld := ⟨0xC0000, 0x0, 22, 16, .rw, 0x40, 7, 16, 0x7F⟩
/-- OL_CTRL.REQ_TIMEOUT, [15:0]. -/
def F.OL_CTRL.REQ_TIMEOUT : Fld := ⟨0xC0000, 0x0, 15, 0, .rw, 0x32, 7, 1, 0x2710⟩
/-- OL_TRAIN_WAIT.MS, [15:0]. -/
def F.OL_TRAIN_WAIT.MS : Fld := ⟨0xC0004, 0x0, 15, 0, .rw, 0x1F4, 7, 10, 0xEA60⟩
/-- OL_TOPO_STATUS.OUTCOME, [31:29]. -/
def F.OL_TOPO_STATUS.OUTCOME : Fld := ⟨0xC0008, 0x0, 31, 29, .ro, 0x0, 15, 0, 0x7⟩
/-- OL_TOPO_STATUS.DESC_VALID, [28:28]. -/
def F.OL_TOPO_STATUS.DESC_VALID : Fld := ⟨0xC0008, 0x0, 28, 28, .ro, 0x0, 15, 0, 0x1⟩
/-- OL_TOPO_STATUS.MISSING, [27:21]. -/
def F.OL_TOPO_STATUS.MISSING : Fld := ⟨0xC0008, 0x0, 27, 21, .ro, 0x0, 15, 0, 0x7F⟩
/-- OL_TOPO_STATUS.UNROUTABLE, [20:14]. -/
def F.OL_TOPO_STATUS.UNROUTABLE : Fld := ⟨0xC0008, 0x0, 20, 14, .ro, 0x0, 15, 0, 0x7F⟩
/-- OL_TOPO_SERIAL.SERIAL, [31:0]. -/
def F.OL_TOPO_SERIAL.SERIAL : Fld := ⟨0xC000C, 0x0, 31, 0, .ro, 0x0, 0, 0, 0xFFFFFFFF⟩
/-- OL_PORT_STATUS_p.STATE, [31:28]. -/
def F.OL_PORT_STATUS.STATE : Fld := ⟨0xC0100, 0x20, 31, 28, .ro, 0x0, 15, 0, 0xF⟩
/-- OL_PORT_STATUS_p.RESULT, [27:24]. -/
def F.OL_PORT_STATUS.RESULT : Fld := ⟨0xC0100, 0x20, 27, 24, .ro, 0x0, 15, 0, 0xF⟩
/-- OL_PORT_STATUS_p.WIDTH, [23:22]. -/
def F.OL_PORT_STATUS.WIDTH : Fld := ⟨0xC0100, 0x20, 23, 22, .ro, 0x0, 15, 0, 0x3⟩
/-- OL_PORT_STATUS_p.LANES, [21:14]. -/
def F.OL_PORT_STATUS.LANES : Fld := ⟨0xC0100, 0x20, 21, 14, .ro, 0x0, 15, 0, 0xFF⟩
/-- OL_PORT_STATUS_p.WRAP, [13:13]. -/
def F.OL_PORT_STATUS.WRAP : Fld := ⟨0xC0100, 0x20, 13, 13, .ro, 0x0, 15, 0, 0x1⟩
/-- OL_PORT_PEER_p.IDENT, [63:0]. -/
def F.OL_PORT_PEER.IDENT : Fld := ⟨0xC0108, 0x20, 63, 0, .ro, 0x0, 15, 0, 0xFFFFFFFFFFFFFFFF⟩
/-- OL_PORT_ERR_p.CW_CORR, [63:48]. -/
def F.OL_PORT_ERR.CW_CORR : Fld := ⟨0xC0110, 0x20, 63, 48, .rc, 0x0, 15, 0, 0xFFFF⟩
/-- OL_PORT_ERR_p.CW_UNCORR, [47:32]. -/
def F.OL_PORT_ERR.CW_UNCORR : Fld := ⟨0xC0110, 0x20, 47, 32, .rc, 0x0, 15, 0, 0xFFFF⟩
/-- OL_PORT_ERR_p.CRC_FAIL, [31:16]. -/
def F.OL_PORT_ERR.CRC_FAIL : Fld := ⟨0xC0110, 0x20, 31, 16, .rc, 0x0, 15, 0, 0xFFFF⟩
/-- OL_PORT_ERR_p.REPLAYS, [15:0]. -/
def F.OL_PORT_ERR.REPLAYS : Fld := ⟨0xC0110, 0x20, 15, 0, .rc, 0x0, 15, 0, 0xFFFF⟩
/-- OL_PORT_TRAFFIC_p.CM_MARKED, [31:16]. -/
def F.OL_PORT_TRAFFIC.CM_MARKED : Fld := ⟨0xC0118, 0x20, 31, 16, .rc, 0x0, 15, 0, 0xFFFF⟩
/-- OL_PORT_TRAFFIC_p.DROPPED, [15:0]. -/
def F.OL_PORT_TRAFFIC.DROPPED : Fld := ⟨0xC0118, 0x20, 15, 0, .rc, 0x0, 15, 0, 0xFFFF⟩
/-- OL_RT_n.VALID, [31:31]. -/
def F.OL_RT.VALID : Fld := ⟨0xC0400, 0x4, 31, 31, .ro, 0x0, 15, 0, 0x1⟩
/-- OL_RT_n.DIR, [30:28]. -/
def F.OL_RT.DIR : Fld := ⟨0xC0400, 0x4, 30, 28, .ro, 0x0, 15, 0, 0x7⟩
/-- OL_RT_n.HOPS, [27:24]. -/
def F.OL_RT.HOPS : Fld := ⟨0xC0400, 0x4, 27, 24, .ro, 0x0, 15, 0, 0xF⟩
/-- STEP_COORD.SB_EN, [31:31]. -/
def F.STEP_COORD.SB_EN : Fld := ⟨0xB0040, 0x0, 31, 31, .rw, 0x0, 3, 0, 0x1⟩
/-- STEP_COORD.STANDBY, [29:16]. -/
def F.STEP_COORD.STANDBY : Fld := ⟨0xB0040, 0x0, 29, 16, .rw, 0x0, 3, 0, 0x3FFF⟩
/-- STEP_COORD.PRIMARY, [13:0]. -/
def F.STEP_COORD.PRIMARY : Fld := ⟨0xB0040, 0x0, 13, 0, .rw, 0x0, 3, 0, 0x3FFF⟩
/-- STEP_VOTE_CFG.TIMEOUT_US, [15:0]. -/
def F.STEP_VOTE_CFG.TIMEOUT_US : Fld := ⟨0xB0044, 0x0, 15, 0, .rw, 0xC8, 3, 20, 0x2710⟩
/-- STEP_LAST_VOTE.STEP, [63:32]. -/
def F.STEP_LAST_VOTE.STEP : Fld := ⟨0xB0048, 0x0, 63, 32, .ro, 0x0, 3, 0, 0xFFFFFFFF⟩
/-- STEP_LAST_VOTE.OUTCOME, [31:28]. -/
def F.STEP_LAST_VOTE.OUTCOME : Fld := ⟨0xB0048, 0x0, 31, 28, .ro, 0x0, 3, 0, 0xF⟩
/-- STEP_LAST_VOTE.REASON, [27:24]. -/
def F.STEP_LAST_VOTE.REASON : Fld := ⟨0xB0048, 0x0, 27, 24, .ro, 0x0, 3, 0, 0xF⟩
/-- STEP_LAST_VOTE.ORD, [13:0]. -/
def F.STEP_LAST_VOTE.ORD : Fld := ⟨0xB0048, 0x0, 13, 0, .ro, 0x0, 3, 0, 0x3FFF⟩
/-- STEP_VOTE_TIME.MAX, [31:16]. -/
def F.STEP_VOTE_TIME.MAX : Fld := ⟨0xB0050, 0x0, 31, 16, .rc, 0x0, 15, 0, 0xFFFF⟩
/-- STEP_VOTE_TIME.LAST, [15:0]. -/
def F.STEP_VOTE_TIME.LAST : Fld := ⟨0xB0050, 0x0, 15, 0, .ro, 0x0, 15, 0, 0xFFFF⟩
/-- STEP_DIGEST_ERR.CRC, [31:24]. -/
def F.STEP_DIGEST_ERR.CRC : Fld := ⟨0xB0054, 0x0, 31, 24, .rc, 0x0, 15, 0, 0xFF⟩
/-- STEP_DIGEST_ERR.SUM, [23:16]. -/
def F.STEP_DIGEST_ERR.SUM : Fld := ⟨0xB0054, 0x0, 23, 16, .rc, 0x0, 15, 0, 0xFF⟩
/-- STEP_DIGEST_ERR.NODE, [15:8]. -/
def F.STEP_DIGEST_ERR.NODE : Fld := ⟨0xB0054, 0x0, 15, 8, .rc, 0x0, 15, 0, 0xFF⟩
/-- STEP_DIGEST_ERR.RESULT, [7:0]. -/
def F.STEP_DIGEST_ERR.RESULT : Fld := ⟨0xB0054, 0x0, 7, 0, .rc, 0x0, 15, 0, 0xFF⟩
/-- STEP_MIRROR.SOURCES, [31:29]. -/
def F.STEP_MIRROR.SOURCES : Fld := ⟨0xB0058, 0x0, 31, 29, .ro, 0x0, 3, 0, 0x7⟩
/-- STEP_MIRROR.FRAMES, [19:0]. -/
def F.STEP_MIRROR.FRAMES : Fld := ⟨0xB0058, 0x0, 19, 0, .ro, 0x0, 3, 0, 0xFFFFF⟩
/-- HQ_SQ_BASE_q.ADDR, [63:12]. -/
def F.HQ_SQ_BASE.ADDR : Fld := ⟨0x10000, 0x40, 63, 12, .rw, 0x0, 143, 0, 0xFFFFFFFFFFFFF⟩
/-- HQ_CQ_BASE_q.ADDR, [63:12]. -/
def F.HQ_CQ_BASE.ADDR : Fld := ⟨0x10008, 0x40, 63, 12, .rw, 0x0, 143, 0, 0xFFFFFFFFFFFFF⟩
/-- HQ_Q_CFG_q.EN, [31:31]. -/
def F.HQ_Q_CFG.EN : Fld := ⟨0x10010, 0x40, 31, 31, .rw, 0x0, 143, 0, 0x1⟩
/-- HQ_Q_CFG_q.SQ_LOG2, [27:24]. -/
def F.HQ_Q_CFG.SQ_LOG2 : Fld := ⟨0x10010, 0x40, 27, 24, .rw, 0x0, 143, 4, 0xC⟩
/-- HQ_Q_CFG_q.CQ_LOG2, [23:20]. -/
def F.HQ_Q_CFG.CQ_LOG2 : Fld := ⟨0x10010, 0x40, 23, 20, .rw, 0x0, 143, 4, 0xC⟩
/-- HQ_Q_CFG_q.VECTOR, [10:0]. -/
def F.HQ_Q_CFG.VECTOR : Fld := ⟨0x10010, 0x40, 10, 0, .rw, 0x0, 143, 0, 0x7FF⟩
/-- HQ_Q_STATUS_q.ERR, [31:31]. -/
def F.HQ_Q_STATUS.ERR : Fld := ⟨0x10014, 0x40, 31, 31, .ro, 0x0, 143, 0, 0x1⟩
/-- HQ_Q_STATUS_q.ERRCODE, [30:28]. -/
def F.HQ_Q_STATUS.ERRCODE : Fld := ⟨0x10014, 0x40, 30, 28, .ro, 0x0, 143, 0, 0x7⟩
/-- HQ_Q_STATUS_q.IDLE, [27:27]. -/
def F.HQ_Q_STATUS.IDLE : Fld := ⟨0x10014, 0x40, 27, 27, .ro, 0x1, 143, 0, 0x1⟩
/-- HQ_Q_STATUS_q.SQ_HEAD, [11:0]. -/
def F.HQ_Q_STATUS.SQ_HEAD : Fld := ⟨0x10014, 0x40, 11, 0, .ro, 0x0, 143, 0, 0xFFF⟩
/-- HQ_DOORBELL_q.INDEX, [11:0]. -/
def F.HQ_DOORBELL.INDEX : Fld := ⟨0x10018, 0x40, 11, 0, .rw, 0x0, 143, 0, 0xFFF⟩
/-- HQ_CQ_HEAD_q.INDEX, [11:0]. -/
def F.HQ_CQ_HEAD.INDEX : Fld := ⟨0x1001C, 0x40, 11, 0, .rw, 0x0, 143, 0, 0xFFF⟩
/-- HQ_STATUS.READY, [31:31]. -/
def F.HQ_STATUS.READY : Fld := ⟨0x11000, 0x0, 31, 31, .ro, 0x0, 15, 0, 0x1⟩
/-- HQ_STATUS.LINK_LOW, [30:30]. -/
def F.HQ_STATUS.LINK_LOW : Fld := ⟨0x11000, 0x0, 30, 30, .ro, 0x0, 143, 0, 0x1⟩
/-- HQ_STATUS.FLIT, [29:29]. -/
def F.HQ_STATUS.FLIT : Fld := ⟨0x11000, 0x0, 29, 29, .ro, 0x0, 143, 0, 0x1⟩
/-- HQ_STATUS.RATE, [28:27]. -/
def F.HQ_STATUS.RATE : Fld := ⟨0x11000, 0x0, 28, 27, .ro, 0x0, 143, 0, 0x3⟩
/-- HQ_STATUS.WIDTH, [26:25]. -/
def F.HQ_STATUS.WIDTH : Fld := ⟨0x11000, 0x0, 26, 25, .ro, 0x0, 143, 0, 0x3⟩
/-- HQ_STATUS.JOB_UNREC, [24:24]. -/
def F.HQ_STATUS.JOB_UNREC : Fld := ⟨0x11000, 0x0, 24, 24, .ro, 0x0, 15, 0, 0x1⟩
/-- HQ_STATUS.JOB_HELD, [23:23]. -/
def F.HQ_STATUS.JOB_HELD : Fld := ⟨0x11000, 0x0, 23, 23, .ro, 0x0, 15, 0, 0x1⟩
/-- HQ_HERD.LEAD, [31:31]. -/
def F.HQ_HERD.LEAD : Fld := ⟨0x11004, 0x0, 31, 31, .ro, 0x0, 15, 0, 0x1⟩
/-- HQ_HERD.H, [23:16]. -/
def F.HQ_HERD.H : Fld := ⟨0x11004, 0x0, 23, 16, .ro, 0x0, 15, 0, 0xFF⟩
/-- HQ_HERD.N, [15:8]. -/
def F.HQ_HERD.N : Fld := ⟨0x11004, 0x0, 15, 8, .ro, 0x0, 15, 0, 0xFF⟩
/-- HQ_HERD.POS, [5:0]. -/
def F.HQ_HERD.POS : Fld := ⟨0x11004, 0x0, 5, 0, .ro, 0x0, 15, 0, 0x3F⟩
/-- HQ_HERD_PRESENT.MASK, [63:0]. -/
def F.HQ_HERD_PRESENT.MASK : Fld := ⟨0x11008, 0x0, 63, 0, .ro, 0x0, 15, 0, 0xFFFFFFFFFFFFFFFF⟩
/-- HQ_BAR2_BASE.BASE, [56:36]. -/
def F.HQ_BAR2_BASE.BASE : Fld := ⟨0x11010, 0x0, 56, 36, .rw, 0x0, 143, 0, 0x1FFFFF⟩
/-- HQ_MEMBER_SEL.FAIL, [31:31]. -/
def F.HQ_MEMBER_SEL.FAIL : Fld := ⟨0x11018, 0x0, 31, 31, .w1c, 0x0, 143, 0, 0x1⟩
/-- HQ_MEMBER_SEL.POS, [5:0]. -/
def F.HQ_MEMBER_SEL.POS : Fld := ⟨0x11018, 0x0, 5, 0, .rw, 0x0, 143, 0, 0x3F⟩
/-- HQ_IRQ_MAP.FAULT_EN, [31:31]. -/
def F.HQ_IRQ_MAP.FAULT_EN : Fld := ⟨0x11020, 0x0, 31, 31, .rw, 0x0, 143, 0, 0x1⟩
/-- HQ_IRQ_MAP.FAULT_VEC, [26:16]. -/
def F.HQ_IRQ_MAP.FAULT_VEC : Fld := ⟨0x11020, 0x0, 26, 16, .rw, 0x0, 143, 0, 0x7FF⟩
/-- HQ_IRQ_MAP.MBX_EN, [15:15]. -/
def F.HQ_IRQ_MAP.MBX_EN : Fld := ⟨0x11020, 0x0, 15, 15, .rw, 0x0, 143, 0, 0x1⟩
/-- HQ_IRQ_MAP.MBX_VEC, [10:0]. -/
def F.HQ_IRQ_MAP.MBX_VEC : Fld := ⟨0x11020, 0x0, 10, 0, .rw, 0x0, 143, 0, 0x7FF⟩
/-- HQ_IRQ_CAUSE.FAULT, [1:1]. -/
def F.HQ_IRQ_CAUSE.FAULT : Fld := ⟨0x11024, 0x0, 1, 1, .w1c, 0x0, 143, 0, 0x1⟩
/-- HQ_IRQ_CAUSE.MBX, [0:0]. -/
def F.HQ_IRQ_CAUSE.MBX : Fld := ⟨0x11024, 0x0, 0, 0, .w1c, 0x0, 143, 0, 0x1⟩
/-- MBX_CMD.GO, [31:31]. -/
def F.MBX_CMD.GO : Fld := ⟨0x30000, 0x0, 31, 31, .wo, 0x0, 15, 0, 0x1⟩
/-- MBX_CMD.CODE, [7:0]. -/
def F.MBX_CMD.CODE : Fld := ⟨0x30000, 0x0, 7, 0, .rw, 0x0, 15, 0, 0xFF⟩
/-- MBX_STATUS.BUSY, [31:31]. -/
def F.MBX_STATUS.BUSY : Fld := ⟨0x30004, 0x0, 31, 31, .ro, 0x0, 15, 0, 0x1⟩
/-- MBX_STATUS.OWNER, [30:30]. -/
def F.MBX_STATUS.OWNER : Fld := ⟨0x30004, 0x0, 30, 30, .ro, 0x0, 15, 0, 0x1⟩
/-- MBX_STATUS.RESULT, [23:16]. -/
def F.MBX_STATUS.RESULT : Fld := ⟨0x30004, 0x0, 23, 16, .ro, 0x0, 15, 0, 0xFF⟩
/-- MBX_STATUS.LEN, [15:0]. -/
def F.MBX_STATUS.LEN : Fld := ⟨0x30004, 0x0, 15, 0, .ro, 0x0, 15, 0, 0xFFFF⟩
/-- FLT_REPORT_STATUS.OVERFLOW, [31:31]. -/
def F.FLT_REPORT_STATUS.OVERFLOW : Fld := ⟨0x70000, 0x0, 31, 31, .w1c, 0x0, 15, 0, 0x1⟩
/-- FLT_REPORT_STATUS.LOST, [15:8]. -/
def F.FLT_REPORT_STATUS.LOST : Fld := ⟨0x70000, 0x0, 15, 8, .ro, 0x0, 15, 0, 0xFF⟩
/-- FLT_REPORT_STATUS.COUNT, [7:0]. -/
def F.FLT_REPORT_STATUS.COUNT : Fld := ⟨0x70000, 0x0, 7, 0, .ro, 0x0, 15, 0, 0xFF⟩
/-- FLT_REPORT_POP.POP, [0:0]. -/
def F.FLT_REPORT_POP.POP : Fld := ⟨0x70004, 0x0, 0, 0, .wo, 0x0, 15, 0, 0x1⟩
/-- FLT_HANG_WIN_c.US, [21:0]. -/
def F.FLT_HANG_WIN.US : Fld := ⟨0x70010, 0x4, 21, 0, .rw, 0xC350, 15, 1, 0x3D0900⟩
/-- FLT_ESC_CFG.TILE_N, [31:28]. -/
def F.FLT_ESC_CFG.TILE_N : Fld := ⟨0x70020, 0x0, 31, 28, .rw, 0x3, 3, 2, 0xF⟩
/-- FLT_ESC_CFG.TILE_S, [27:16]. -/
def F.FLT_ESC_CFG.TILE_S : Fld := ⟨0x70020, 0x0, 27, 16, .rw, 0xA, 3, 1, 0xFFF⟩
/-- FLT_ESC_CFG.DEV_N, [15:12]. -/
def F.FLT_ESC_CFG.DEV_N : Fld := ⟨0x70020, 0x0, 15, 12, .rw, 0x4, 3, 2, 0xF⟩
/-- FLT_ESC_CFG.DEV_MIN, [11:0]. -/
def F.FLT_ESC_CFG.DEV_MIN : Fld := ⟨0x70020, 0x0, 11, 0, .rw, 0x3C, 3, 1, 0xFFF⟩
/-- FLT_ESC_STATE.SPARE_W, [31:30]. -/
def F.FLT_ESC_STATE.SPARE_W : Fld := ⟨0x70024, 0x0, 31, 30, .ro, 0x0, 0, 0, 0x3⟩
/-- FLT_ESC_STATE.SPARE_E, [29:28]. -/
def F.FLT_ESC_STATE.SPARE_E : Fld := ⟨0x70024, 0x0, 29, 28, .ro, 0x0, 0, 0, 0x3⟩
/-- FLT_ESC_STATE.DEV_OOS, [27:27]. -/
def F.FLT_ESC_STATE.DEV_OOS : Fld := ⟨0x70024, 0x0, 27, 27, .ro, 0x0, 0, 0, 0x1⟩
/-- FLT_ESC_STATE.OOS_TILES, [26:20]. -/
def F.FLT_ESC_STATE.OOS_TILES : Fld := ⟨0x70024, 0x0, 26, 20, .ro, 0x0, 0, 0, 0x7F⟩
/-- FLT_ESC_STATE.OOS_PORTS, [15:0]. -/
def F.FLT_ESC_STATE.OOS_PORTS : Fld := ⟨0x70024, 0x0, 15, 0, .ro, 0x0, 0, 0, 0xFFFF⟩
/-- FLT_READMIT.GO, [31:31]. -/
def F.FLT_READMIT.GO : Fld := ⟨0x70028, 0x0, 31, 31, .wo, 0x0, 15, 0, 0x1⟩
/-- FLT_READMIT.KIND, [30:29]. -/
def F.FLT_READMIT.KIND : Fld := ⟨0x70028, 0x0, 30, 29, .wo, 0x0, 15, 0, 0x2⟩
/-- FLT_READMIT.POS, [28:23]. -/
def F.FLT_READMIT.POS : Fld := ⟨0x70028, 0x0, 28, 23, .wo, 0x0, 15, 0, 0x3F⟩
/-- FLT_READMIT.X, [22:17]. -/
def F.FLT_READMIT.X : Fld := ⟨0x70028, 0x0, 22, 17, .wo, 0x0, 15, 0, 0x3F⟩
/-- FLT_READMIT.X6, [16:16]. -/
def F.FLT_READMIT.X6 : Fld := ⟨0x70028, 0x0, 16, 16, .wo, 0x0, 15, 0, 0x1⟩
/-- FLT_READMIT.Y, [15:11]. -/
def F.FLT_READMIT.Y : Fld := ⟨0x70028, 0x0, 15, 11, .wo, 0x0, 15, 0, 0x1F⟩
/-- FLT_READMIT.PORT, [10:7]. -/
def F.FLT_READMIT.PORT : Fld := ⟨0x70028, 0x0, 10, 7, .wo, 0x0, 15, 0, 0xF⟩
/-- FLT_FM_COORD.VALID, [63:63]. -/
def F.FLT_FM_COORD.VALID : Fld := ⟨0x70030, 0x0, 63, 63, .rw, 0x0, 3, 0, 0x1⟩
/-- FLT_FM_COORD.DST, [31:0]. -/
def F.FLT_FM_COORD.DST : Fld := ⟨0x70030, 0x0, 31, 0, .rw, 0x0, 3, 0, 0xFFFFFFFF⟩
/-- FLT_HARDEN.CORRECTED, [31:16]. -/
def F.FLT_HARDEN.CORRECTED : Fld := ⟨0x70038, 0x0, 31, 16, .rc, 0x0, 15, 0, 0xFFFF⟩
/-- FLT_HARDEN.SCRUB_US, [15:0]. -/
def F.FLT_HARDEN.SCRUB_US : Fld := ⟨0x70038, 0x0, 15, 0, .ro, 0x0, 15, 0, 0xFFFF⟩
/-- FLT_GEN_DROPS.COUNT, [31:0]. -/
def F.FLT_GEN_DROPS.COUNT : Fld := ⟨0x7003C, 0x0, 31, 0, .rc, 0x0, 15, 0, 0xFFFFFFFF⟩
/-- FLT_REPORT_n.DATA, [31:0]. -/
def F.FLT_REPORT.DATA : Fld := ⟨0x70040, 0x4, 31, 0, .ro, 0x0, 15, 0, 0xFFFFFFFF⟩
/-- RST_CAUSE.LKU, [8:8]. -/
def F.RST_CAUSE.LKU : Fld := ⟨0x60000, 0x0, 8, 8, .w1c, 0x0, 1, 0, 0x1⟩
/-- RST_CAUSE.CKF, [7:7]. -/
def F.RST_CAUSE.CKF : Fld := ⟨0x60000, 0x0, 7, 7, .w1c, 0x0, 1, 0, 0x1⟩
/-- RST_CAUSE.DBG, [6:6]. -/
def F.RST_CAUSE.DBG : Fld := ⟨0x60000, 0x0, 6, 6, .w1c, 0x0, 1, 0, 0x1⟩
/-- RST_CAUSE.SWR, [5:5]. -/
def F.RST_CAUSE.SWR : Fld := ⟨0x60000, 0x0, 5, 5, .w1c, 0x0, 1, 0, 0x1⟩
/-- RST_CAUSE.WDT, [4:4]. -/
def F.RST_CAUSE.WDT : Fld := ⟨0x60000, 0x0, 4, 4, .w1c, 0x0, 1, 0, 0x1⟩
/-- RST_CAUSE.PIN, [3:3]. -/
def F.RST_CAUSE.PIN : Fld := ⟨0x60000, 0x0, 3, 3, .w1c, 0x0, 1, 0, 0x1⟩
/-- RST_CAUSE.BO, [2:2]. -/
def F.RST_CAUSE.BO : Fld := ⟨0x60000, 0x0, 2, 2, .w1c, 0x0, 1, 0, 0x1⟩
/-- RST_CAUSE.POR, [1:1]. -/
def F.RST_CAUSE.POR : Fld := ⟨0x60000, 0x0, 1, 1, .w1c, 0x1, 1, 0, 0x1⟩
/-- RST_CAUSE.FAULT, [0:0]. -/
def F.RST_CAUSE.FAULT : Fld := ⟨0x60000, 0x0, 0, 0, .w1c, 0x0, 1, 0, 0x1⟩
/-- RST_CFGSEL.VALID, [31:31]. -/
def F.RST_CFGSEL.VALID : Fld := ⟨0x60004, 0x0, 31, 31, .ro, 0x0, 7, 0, 0x1⟩
/-- RST_CFGSEL.RAW, [15:8]. -/
def F.RST_CFGSEL.RAW : Fld := ⟨0x60004, 0x0, 15, 8, .ro, 0x0, 7, 0, 0xFF⟩
/-- RST_CFGSEL.DEBUG, [4:4]. -/
def F.RST_CFGSEL.DEBUG : Fld := ⟨0x60004, 0x0, 4, 4, .ro, 0x0, 7, 0, 0x1⟩
/-- RST_CFGSEL.CODE, [3:0]. -/
def F.RST_CFGSEL.CODE : Fld := ⟨0x60004, 0x0, 3, 0, .ro, 0x0, 7, 0, 0xF⟩
/-- RST_SW.GO, [31:31]. -/
def F.RST_SW.GO : Fld := ⟨0x60008, 0x0, 31, 31, .wo, 0x0, 15, 0, 0x1⟩
/-- RST_SW.SCOPE, [30:29]. -/
def F.RST_SW.SCOPE : Fld := ⟨0x60008, 0x0, 30, 29, .wo, 0x0, 15, 0, 0x3⟩
/-- RST_SW.X, [16:11]. -/
def F.RST_SW.X : Fld := ⟨0x60008, 0x0, 16, 11, .wo, 0x0, 15, 0, 0x3F⟩
/-- RST_SW.Y, [10:6]. -/
def F.RST_SW.Y : Fld := ⟨0x60008, 0x0, 10, 6, .wo, 0x0, 15, 0, 0x1F⟩
/-- RST_BLK.SMB, [21:21]. -/
def F.RST_BLK.SMB : Fld := ⟨0x6000C, 0x0, 21, 21, .wo, 0x0, 15, 0, 0x1⟩
/-- RST_BLK.HQ, [20:20]. -/
def F.RST_BLK.HQ : Fld := ⟨0x6000C, 0x0, 20, 20, .wo, 0x0, 15, 0, 0x1⟩
/-- RST_BLK.CXL, [19:16]. -/
def F.RST_BLK.CXL : Fld := ⟨0x6000C, 0x0, 19, 16, .wo, 0x0, 15, 0, 0xF⟩
/-- RST_BLK.OL, [15:0]. -/
def F.RST_BLK.OL : Fld := ⟨0x6000C, 0x0, 15, 0, .wo, 0x0, 15, 0, 0xFFFF⟩
/-- RST_WDT.EN, [31:31]. -/
def F.RST_WDT.EN : Fld := ⟨0x60010, 0x0, 31, 31, .rw, 0x0, 15, 0, 0x1⟩
/-- RST_WDT.KICK, [30:30]. -/
def F.RST_WDT.KICK : Fld := ⟨0x60010, 0x0, 30, 30, .wo, 0x0, 15, 0, 0x1⟩
/-- RST_WDT.PERIOD_MS, [15:0]. -/
def F.RST_WDT.PERIOD_MS : Fld := ⟨0x60010, 0x0, 15, 0, .rw, 0x3E8, 15, 10, 0x2710⟩
/-- RST_STAGE_CTRL.HOLD_EN, [31:31]. -/
def F.RST_STAGE_CTRL.HOLD_EN : Fld := ⟨0x60014, 0x0, 31, 31, .ro, 0x0, 7, 0, 0x1⟩
/-- RST_STAGE_CTRL.CONTINUE, [30:30]. -/
def F.RST_STAGE_CTRL.CONTINUE : Fld := ⟨0x60014, 0x0, 30, 30, .wo, 0x0, 15, 0, 0x1⟩
/-- RST_STAGE_CTRL.HELD, [29:29]. -/
def F.RST_STAGE_CTRL.HELD : Fld := ⟨0x60014, 0x0, 29, 29, .ro, 0x0, 15, 0, 0x1⟩
/-- RST_STAGE_CTRL.HALTED, [28:28]. -/
def F.RST_STAGE_CTRL.HALTED : Fld := ⟨0x60014, 0x0, 28, 28, .ro, 0x0, 15, 0, 0x1⟩
/-- RST_STAGE_CTRL.STAGE, [27:24]. -/
def F.RST_STAGE_CTRL.STAGE : Fld := ⟨0x60014, 0x0, 27, 24, .ro, 0x0, 15, 0, 0xF⟩
/-- RST_STAGE_CTRL.KIND, [23:20]. -/
def F.RST_STAGE_CTRL.KIND : Fld := ⟨0x60014, 0x0, 23, 20, .ro, 0x0, 15, 0, 0xF⟩
/-- RST_STAGE_s.RESULT, [63:60]. -/
def F.RST_STAGE.RESULT : Fld := ⟨0x60100, 0x8, 63, 60, .ro, 0x0, 15, 0, 0xF⟩
/-- RST_STAGE_s.FAIL, [59:52]. -/
def F.RST_STAGE.FAIL : Fld := ⟨0x60100, 0x8, 59, 52, .ro, 0x0, 15, 0, 0xFF⟩
/-- RST_STAGE_s.DETAIL, [51:32]. -/
def F.RST_STAGE.DETAIL : Fld := ⟨0x60100, 0x8, 51, 32, .ro, 0x0, 15, 0, 0xFFFFF⟩
/-- RST_STAGE_s.TIME_US, [31:0]. -/
def F.RST_STAGE.TIME_US : Fld := ⟨0x60100, 0x8, 31, 0, .ro, 0x0, 15, 0, 0xFFFFFFFF⟩
/-- MAP_STATUS.LC, [31:30]. -/
def F.MAP_STATUS.LC : Fld := ⟨0x90000, 0x0, 31, 30, .ro, 0x0, 0, 0, 0x3⟩
/-- MAP_STATUS.FUSED_OK, [29:29]. -/
def F.MAP_STATUS.FUSED_OK : Fld := ⟨0x90000, 0x0, 29, 29, .ro, 0x0, 3, 0, 0x1⟩
/-- MAP_STATUS.SOFT_OK, [28:28]. -/
def F.MAP_STATUS.SOFT_OK : Fld := ⟨0x90000, 0x0, 28, 28, .ro, 0x0, 3, 0, 0x1⟩
/-- MAP_STATUS.SOFT_SEQ, [23:0]. -/
def F.MAP_STATUS.SOFT_SEQ : Fld := ⟨0x90000, 0x0, 23, 0, .ro, 0x0, 3, 0, 0xFFFFFF⟩
/-- MAP_ST_CTRL.EN, [31:31]. -/
def F.MAP_ST_CTRL.EN : Fld := ⟨0x90008, 0x0, 31, 31, .rw, 0x1, 15, 0, 0x1⟩
/-- MAP_ST_CTRL.SCRUB, [30:30]. -/
def F.MAP_ST_CTRL.SCRUB : Fld := ⟨0x90008, 0x0, 30, 30, .rw, 0x1, 15, 0, 0x1⟩
/-- MAP_ST_CTRL.INTERVAL_LOG2, [4:0]. -/
def F.MAP_ST_CTRL.INTERVAL_LOG2 : Fld := ⟨0x90008, 0x0, 4, 0, .rw, 0x11, 15, 16, 0x18⟩
/-- MAP_ST_STATUS.FAIL, [31:31]. -/
def F.MAP_ST_STATUS.FAIL : Fld := ⟨0x9000C, 0x0, 31, 31, .w1c, 0x0, 15, 0, 0x1⟩
/-- MAP_ST_STATUS.PENDING, [30:30]. -/
def F.MAP_ST_STATUS.PENDING : Fld := ⟨0x9000C, 0x0, 30, 30, .ro, 0x0, 15, 0, 0x1⟩
/-- MAP_ST_STATUS.PASSES, [15:0]. -/
def F.MAP_ST_STATUS.PASSES : Fld := ⟨0x9000C, 0x0, 15, 0, .ro, 0x0, 15, 0, 0xFFFF⟩
/-- MAP_ST_FAIL.PX, [31:25]. -/
def F.MAP_ST_FAIL.PX : Fld := ⟨0x90010, 0x0, 31, 25, .ro, 0x0, 15, 0, 0x7F⟩
/-- MAP_ST_FAIL.PY, [24:20]. -/
def F.MAP_ST_FAIL.PY : Fld := ⟨0x90010, 0x0, 24, 20, .ro, 0x0, 15, 0, 0x1F⟩
/-- MAP_ST_FAIL.TEST, [19:16]. -/
def F.MAP_ST_FAIL.TEST : Fld := ⟨0x90010, 0x0, 19, 16, .ro, 0x0, 15, 0, 0xF⟩
/-- MAP_COL_n.STATE, [31:30]. -/
def F.MAP_COL.STATE : Fld := ⟨0x90100, 0x4, 31, 30, .ro, 0x0, 31, 0, 0x3⟩
/-- MAP_COL_n.LOGICAL, [29:24]. -/
def F.MAP_COL.LOGICAL : Fld := ⟨0x90100, 0x4, 29, 24, .ro, 0x0, 31, 0, 0x3F⟩
/-- MAP_COL_n.PENDING, [23:23]. -/
def F.MAP_COL.PENDING : Fld := ⟨0x90100, 0x4, 23, 23, .ro, 0x0, 31, 0, 0x1⟩
/-- MAP_COL_n.FAULT_Y, [22:18]. -/
def F.MAP_COL.FAULT_Y : Fld := ⟨0x90100, 0x4, 22, 18, .ro, 0x0, 31, 0, 0x1F⟩
/-- MAP_COL_n.CAUSE, [17:16]. -/
def F.MAP_COL.CAUSE : Fld := ⟨0x90100, 0x4, 17, 16, .ro, 0x0, 31, 0, 0x3⟩
/-- PWR_CLIENT_LIM.FW, [26:24]. -/
def F.PWR_CLIENT_LIM.FW : Fld := ⟨0x40000, 0x0, 26, 24, .ro, 0x0, 15, 0, 0x7⟩
/-- PWR_CLIENT_LIM.HOST, [23:0]. -/
def F.PWR_CLIENT_LIM.HOST : Fld := ⟨0x40000, 0x0, 23, 0, .rw, 0x0, 15, 0, 0xFFFFFF⟩
/-- PWR_TOL.US, [31:0]. -/
def F.PWR_TOL.US : Fld := ⟨0x40004, 0x0, 31, 0, .rw, 0x0, 15, 0, 0xFFFFFFFF⟩
/-- PWR_MODE.MODE, [31:30]. -/
def F.PWR_MODE.MODE : Fld := ⟨0x40008, 0x0, 31, 30, .rw, 0x1, 15, 0, 0x2⟩
/-- PWR_STATUS.W_CLK, [31:24]. -/
def F.PWR_STATUS.W_CLK : Fld := ⟨0x4000C, 0x0, 31, 24, .ro, 0x64, 15, 0, 0xFF⟩
/-- PWR_STATUS.E_CLK, [23:16]. -/
def F.PWR_STATUS.E_CLK : Fld := ⟨0x4000C, 0x0, 23, 16, .ro, 0x64, 15, 0, 0xFF⟩
/-- PWR_STATUS.W_MESH_SLOW, [15:15]. -/
def F.PWR_STATUS.W_MESH_SLOW : Fld := ⟨0x4000C, 0x0, 15, 15, .ro, 0x0, 15, 0, 0x1⟩
/-- PWR_STATUS.E_MESH_SLOW, [14:14]. -/
def F.PWR_STATUS.E_MESH_SLOW : Fld := ⟨0x4000C, 0x0, 14, 14, .ro, 0x0, 15, 0, 0x1⟩
/-- PWR_STATUS.PRONK, [13:13]. -/
def F.PWR_STATUS.PRONK : Fld := ⟨0x4000C, 0x0, 13, 13, .ro, 0x0, 15, 0, 0x1⟩
/-- PWR_STATUS.W_THROTTLE, [12:12]. -/
def F.PWR_STATUS.W_THROTTLE : Fld := ⟨0x4000C, 0x0, 12, 12, .ro, 0x0, 15, 0, 0x1⟩
/-- PWR_STATUS.E_THROTTLE, [11:11]. -/
def F.PWR_STATUS.E_THROTTLE : Fld := ⟨0x4000C, 0x0, 11, 11, .ro, 0x0, 15, 0, 0x1⟩
/-- PWR_STATUS.W_JLIMIT, [10:10]. -/
def F.PWR_STATUS.W_JLIMIT : Fld := ⟨0x4000C, 0x0, 10, 10, .ro, 0x0, 15, 0, 0x1⟩
/-- PWR_STATUS.E_JLIMIT, [9:9]. -/
def F.PWR_STATUS.E_JLIMIT : Fld := ⟨0x4000C, 0x0, 9, 9, .ro, 0x0, 15, 0, 0x1⟩
/-- PWR_STATUS.LIMITING, [8:8]. -/
def F.PWR_STATUS.LIMITING : Fld := ⟨0x4000C, 0x0, 8, 8, .ro, 0x0, 15, 0, 0x1⟩
/-- PWR_PRONK.LOCKOUT, [31:31]. -/
def F.PWR_PRONK.LOCKOUT : Fld := ⟨0x40010, 0x0, 31, 31, .w1c, 0x0, 3, 0, 0x1⟩
/-- PWR_PRONK.TRIPS, [30:28]. -/
def F.PWR_PRONK.TRIPS : Fld := ⟨0x40010, 0x0, 30, 28, .ro, 0x0, 3, 0, 0x7⟩
/-- PWR_PRONK.LAST_END, [27:26]. -/
def F.PWR_PRONK.LAST_END : Fld := ⟨0x40010, 0x0, 27, 26, .ro, 0x0, 3, 0, 0x3⟩
/-- PWR_PRONK.LAST_MS, [8:0]. -/
def F.PWR_PRONK.LAST_MS : Fld := ⟨0x40010, 0x0, 8, 0, .ro, 0x0, 3, 0, 0x1FF⟩
/-- PWR_BROWSE.CAUSE, [31:28]. -/
def F.PWR_BROWSE.CAUSE : Fld := ⟨0x40014, 0x0, 31, 28, .ro, 0x0, 15, 0, 0xF⟩
/-- PWR_BROWSE.PERIOD_US, [13:0]. -/
def F.PWR_BROWSE.PERIOD_US : Fld := ⟨0x40014, 0x0, 13, 0, .rw, 0x3E8, 15, 100, 0x2710⟩
/-- PWR_VOTE_d.HOST, [15:8]. -/
def F.PWR_VOTE.HOST : Fld := ⟨0x40400, 0x4, 15, 8, .rw, 0x0, 3, 0, 0xFF⟩
/-- PWR_VOTE_d.FW, [6:6]. -/
def F.PWR_VOTE.FW : Fld := ⟨0x40400, 0x4, 6, 6, .ro, 0x0, 15, 0, 0x1⟩
/-- PWR_VOTE_d.HW, [5:0]. -/
def F.PWR_VOTE.HW : Fld := ⟨0x40400, 0x4, 5, 0, .ro, 0x0, 15, 0, 0x3F⟩
/-- PWR_STATE_d.STATE, [31:29]. -/
def F.PWR_STATE.STATE : Fld := ⟨0x40800, 0x4, 31, 29, .ro, 0x0, 15, 0, 0x7⟩
/-- PWR_STATE_d.TARGET, [28:26]. -/
def F.PWR_STATE.TARGET : Fld := ⟨0x40800, 0x4, 28, 26, .ro, 0x0, 15, 0, 0x7⟩
/-- PWR_STATE_d.MOVING, [25:25]. -/
def F.PWR_STATE.MOVING : Fld := ⟨0x40800, 0x4, 25, 25, .ro, 0x0, 15, 0, 0x1⟩
/-- PWR_STATE_d.REENABLE, [24:24]. -/
def F.PWR_STATE.REENABLE : Fld := ⟨0x40800, 0x4, 24, 24, .w1c, 0x0, 15, 0, 0x1⟩
/-- PWR_STATE_d.REENABLE_CLIENT, [23:20]. -/
def F.PWR_STATE.REENABLE_CLIENT : Fld := ⟨0x40800, 0x4, 23, 20, .ro, 0x0, 15, 0, 0xF⟩
/-- PWR_STATE_d.ABORT_PT, [19:17]. -/
def F.PWR_STATE.ABORT_PT : Fld := ⟨0x40800, 0x4, 19, 17, .ro, 0x0, 15, 0, 0x7⟩
/-- PWR_STATE_d.ABORTS, [15:0]. -/
def F.PWR_STATE.ABORTS : Fld := ⟨0x40800, 0x4, 15, 0, .ro, 0x0, 15, 0, 0xFFFF⟩
/-- EVT_STATUS.FLUSHING, [31:31]. -/
def F.EVT_STATUS.FLUSHING : Fld := ⟨0x80000, 0x0, 31, 31, .ro, 0x0, 1, 0, 0x1⟩
/-- EVT_STATUS.ERASING, [30:30]. -/
def F.EVT_STATUS.ERASING : Fld := ⟨0x80000, 0x0, 30, 30, .ro, 0x0, 1, 0, 0x1⟩
/-- EVT_STATUS.WIN, [29:29]. -/
def F.EVT_STATUS.WIN : Fld := ⟨0x80000, 0x0, 29, 29, .ro, 0x0, 0, 0, 0x1⟩
/-- EVT_STATUS.PF_HOLD, [28:28]. -/
def F.EVT_STATUS.PF_HOLD : Fld := ⟨0x80000, 0x0, 28, 28, .ro, 0x0, 1, 0, 0x1⟩
/-- EVT_STATUS.COUNT, [8:0]. -/
def F.EVT_STATUS.COUNT : Fld := ⟨0x80000, 0x0, 8, 0, .ro, 0x0, 0, 0, 0x1FF⟩
/-- EVT_NEXT_SEQ.SEQ, [47:0]. -/
def F.EVT_NEXT_SEQ.SEQ : Fld := ⟨0x80008, 0x0, 47, 0, .ro, 0x0, 0, 0, 0xFFFFFFFFFFFF⟩
/-- EVT_OLDEST.SEQ, [47:0]. -/
def F.EVT_OLDEST.SEQ : Fld := ⟨0x80010, 0x0, 47, 0, .ro, 0x0, 0, 0, 0xFFFFFFFFFFFF⟩
/-- EVT_FLUSHED.SEQ, [47:0]. -/
def F.EVT_FLUSHED.SEQ : Fld := ⟨0x80018, 0x0, 47, 0, .ro, 0x0, 0, 0, 0xFFFFFFFFFFFF⟩
/-- EVT_TIME.OPTIME, [47:0]. -/
def F.EVT_TIME.OPTIME : Fld := ⟨0x80020, 0x0, 47, 0, .ro, 0x0, 0, 0, 0xFFFFFFFFFFFF⟩
/-- EVT_PCC.COUNT, [31:0]. -/
def F.EVT_PCC.COUNT : Fld := ⟨0x80028, 0x0, 31, 0, .ro, 0x0, 0, 0, 0xFFFFFFFF⟩
/-- EVT_SUPPRESS.COUNT, [31:0]. -/
def F.EVT_SUPPRESS.COUNT : Fld := ⟨0x8002C, 0x0, 31, 0, .rc, 0x0, 1, 0, 0xFFFFFFFF⟩
/-- EVT_CTRL.FLUSH, [31:31]. -/
def F.EVT_CTRL.FLUSH : Fld := ⟨0x80030, 0x0, 31, 31, .wo, 0x0, 15, 0, 0x1⟩
/-- EVT_READ_SEL.SEQ, [47:0]. -/
def F.EVT_READ_SEL.SEQ : Fld := ⟨0x80040, 0x0, 47, 0, .rw, 0x0, 15, 0, 0xFFFFFFFFFFFF⟩
/-- EVT_READ_STATUS.GONE, [31:31]. -/
def F.EVT_READ_STATUS.GONE : Fld := ⟨0x80048, 0x0, 31, 31, .ro, 0x0, 15, 0, 0x1⟩
/-- EVT_READ_DATA_n.DATA, [63:0]. -/
def F.EVT_READ_DATA.DATA : Fld := ⟨0x80080, 0x8, 63, 0, .ro, 0x0, 15, 0, 0xFFFFFFFFFFFFFFFF⟩
/-- CLK_REF_STATUS.SYS_OK, [31:31]. -/
def F.CLK_REF_STATUS.SYS_OK : Fld := ⟨0x50000, 0x0, 31, 31, .ro, 0x0, 15, 0, 0x1⟩
/-- CLK_REF_STATUS.PCIE_OK, [30:30]. -/
def F.CLK_REF_STATUS.PCIE_OK : Fld := ⟨0x50000, 0x0, 30, 30, .ro, 0x0, 15, 0, 0x1⟩
/-- CLK_REF_STATUS.CXL_OK, [29:29]. -/
def F.CLK_REF_STATUS.CXL_OK : Fld := ⟨0x50000, 0x0, 29, 29, .ro, 0x0, 15, 0, 0x1⟩
/-- CLK_REF_STATUS.AON_OK, [28:28]. -/
def F.CLK_REF_STATUS.AON_OK : Fld := ⟨0x50000, 0x0, 28, 28, .ro, 0x0, 15, 0, 0x1⟩
/-- CLK_REF_STATUS.AON_INT, [27:27]. -/
def F.CLK_REF_STATUS.AON_INT : Fld := ⟨0x50000, 0x0, 27, 27, .ro, 0x0, 15, 0, 0x1⟩
/-- CLK_REF_STATUS.LINK_LOCK, [15:0]. -/
def F.CLK_REF_STATUS.LINK_LOCK : Fld := ⟨0x50000, 0x0, 15, 0, .ro, 0x0, 15, 0, 0xFFFF⟩
/-- CLK_REF_LOSS.PLL, [4:4]. -/
def F.CLK_REF_LOSS.PLL : Fld := ⟨0x50004, 0x0, 4, 4, .w1c, 0x0, 1, 0, 0x1⟩
/-- CLK_REF_LOSS.SYS, [3:3]. -/
def F.CLK_REF_LOSS.SYS : Fld := ⟨0x50004, 0x0, 3, 3, .w1c, 0x0, 1, 0, 0x1⟩
/-- CLK_REF_LOSS.PCIE, [2:2]. -/
def F.CLK_REF_LOSS.PCIE : Fld := ⟨0x50004, 0x0, 2, 2, .w1c, 0x0, 1, 0, 0x1⟩
/-- CLK_REF_LOSS.CXL, [1:1]. -/
def F.CLK_REF_LOSS.CXL : Fld := ⟨0x50004, 0x0, 1, 1, .w1c, 0x0, 1, 0, 0x1⟩
/-- CLK_REF_LOSS.AON, [0:0]. -/
def F.CLK_REF_LOSS.AON : Fld := ⟨0x50004, 0x0, 0, 0, .w1c, 0x0, 1, 0, 0x1⟩

def regTable0 : List RegD := [
  ⟨"ID_PART", 0x0, 0x0, 0, 1, false, [F.ID_PART.FAMILY, F.ID_PART.PART]⟩,
  ⟨"ID_STEPPING", 0x4, 0x0, 0, 1, false, [F.ID_STEPPING.GEOM_VERSION, F.ID_STEPPING.STEPPING]⟩,
  ⟨"ID_GEOM_ARRAY", 0x8, 0x0, 0, 1, false, [F.ID_GEOM_ARRAY.SPARE_COLS, F.ID_GEOM_ARRAY.PHYS_COLS, F.ID_GEOM_ARRAY.ROWS, F.ID_GEOM_ARRAY.COLS]⟩,
  ⟨"ID_GEOM_BUF", 0xC, 0x0, 0, 1, false, [F.ID_GEOM_BUF.TAHR_KIB, F.ID_GEOM_BUF.ACC_KIB, F.ID_GEOM_BUF.B_KIB, F.ID_GEOM_BUF.A_KIB]⟩,
  ⟨"ID_GEOM_SRAM", 0x10, 0x0, 0, 1, false, [F.ID_GEOM_SRAM.TILE_MEM_KIB, F.ID_GEOM_SRAM.SLICES, F.ID_GEOM_SRAM.SLICE_MIB]⟩,
  ⟨"ID_GEOM_ENDPT", 0x14, 0x0, 0, 1, false, [F.ID_GEOM_ENDPT.REGIONS, F.ID_GEOM_ENDPT.ARRIVAL, F.ID_GEOM_ENDPT.CHANNELS]⟩,
  ⟨"ID_GEOM_MEM", 0x18, 0x0, 0, 1, false, [F.ID_GEOM_MEM.FAR_PORTS, F.ID_GEOM_MEM.FAR_MAX_TIB, F.ID_GEOM_MEM.STACK_GIB, F.ID_GEOM_MEM.STACKS]⟩,
  ⟨"ID_GEOM_HOME", 0x1C, 0x0, 0, 1, false, [F.ID_GEOM_HOME.ENTRIES]⟩,
  ⟨"ID_GEOM_PORTS", 0x20, 0x0, 0, 1, false, [F.ID_GEOM_PORTS.HOST_LANES, F.ID_GEOM_PORTS.MAX_HERD, F.ID_GEOM_PORTS.UPLINKS, F.ID_GEOM_PORTS.TORUS_PORTS]⟩,
  ⟨"ID_GEOM_CLOCKS", 0x24, 0x0, 0, 1, false, [F.ID_GEOM_CLOCKS.MESH, F.ID_GEOM_CLOCKS.PRONK, F.ID_GEOM_CLOCKS.SUSTAINED, F.ID_GEOM_CLOCKS.LEAN]⟩,
  ⟨"STEP_CURRENT", 0xB0000, 0x0, 0, 1, true, [F.STEP_CURRENT.STEP]⟩,
  ⟨"STEP_COMMITTED", 0xB0008, 0x0, 0, 1, true, [F.STEP_COMMITTED.STEP]⟩]

def regTable1 : List RegD := [
  ⟨"STEP_DURABLE", 0xB0010, 0x0, 0, 1, true, [F.STEP_DURABLE.STEP]⟩,
  ⟨"STEP_INTERVAL", 0xB0018, 0x0, 0, 1, false, [F.STEP_INTERVAL.K]⟩,
  ⟨"STEP_DOMAIN", 0xB001C, 0x0, 0, 1, false, [F.STEP_DOMAIN.DOMAIN]⟩,
  ⟨"STEP_BUDDY", 0xB0020, 0x0, 0, 1, false, [F.STEP_BUDDY.EN, F.STEP_BUDDY.BH, F.STEP_BUDDY.BI, F.STEP_BUDDY.BJ, F.STEP_BUDDY.BK]⟩,
  ⟨"STEP_STATUS", 0xB0024, 0x0, 0, 1, false, [F.STEP_STATUS.MIRROR_ERR, F.STEP_STATUS.MIRROR_PENDING, F.STEP_STATUS.ROLLBACK, F.STEP_STATUS.COMMIT_BUSY, F.STEP_STATUS.PHASE]⟩,
  ⟨"STEP_STALE", 0xB0028, 0x0, 0, 1, false, [F.STEP_STALE.COUNT]⟩,
  ⟨"STEP_STALE_ADDR", 0xB0030, 0x0, 0, 1, true, [F.STEP_STALE_ADDR.ADDR]⟩,
  ⟨"HOME_SERIAL", 0xA0000, 0x0, 0, 1, false, [F.HOME_SERIAL.LAST_ROLLBACK, F.HOME_SERIAL.CURRENT]⟩,
  ⟨"HOME_STATUS", 0xA0004, 0x0, 0, 1, false, [F.HOME_STATUS.POISON_HOLD, F.HOME_STATUS.SWEEP_STALLS, F.HOME_STATUS.SWEEP_PASS_US]⟩,
  ⟨"HOME_MIGRATE", 0xA0010, 0x0, 0, 1, true, [F.HOME_MIGRATE.START, F.HOME_MIGRATE.TIER, F.HOME_MIGRATE.LPN]⟩,
  ⟨"HOME_MIGRATE_STATUS", 0xA0018, 0x0, 0, 1, false, [F.HOME_MIGRATE_STATUS.BUSY, F.HOME_MIGRATE_STATUS.LAST_RESULT, F.HOME_MIGRATE_STATUS.QUEUED]⟩,
  ⟨"NM_ERR_s", 0xE0000, 0x4, 0, 8, false, [F.NM_ERR.CE, F.NM_ERR.UE, F.NM_ERR.HOT, F.NM_ERR.TRAINED]⟩]

def regTable2 : List RegD := [
  ⟨"CXL_PORT_STATUS_p", 0xD0000, 0x4, 0, 4, false, [F.CXL_PORT_STATUS.LINK_UP, F.CXL_PORT_STATUS.USED, F.CXL_PORT_STATUS.WIDTH, F.CXL_PORT_STATUS.REASON, F.CXL_PORT_STATUS.CAP_GIB]⟩,
  ⟨"CXL_CTRL", 0xD0010, 0x0, 0, 1, false, [F.CXL_CTRL.TIMEOUT_US]⟩,
  ⟨"FLT_MESH_STATUS", 0x70200, 0x0, 0, 1, false, [F.FLT_MESH_STATUS.ROUTER_SUSPECT, F.FLT_MESH_STATUS.SYNC_FAULT, F.FLT_MESH_STATUS.CTRL_PATH, F.FLT_MESH_STATUS.BULK_PATH]⟩,
  ⟨"FLT_MESH_PATH", 0x70208, 0x0, 0, 1, true, [F.FLT_MESH_PATH.MESH, F.FLT_MESH_PATH.VC, F.FLT_MESH_PATH.RESENDS, F.FLT_MESH_PATH.SRC, F.FLT_MESH_PATH.DST]⟩,
  ⟨"FLT_MESH_CNT_SEL", 0x70210, 0x0, 0, 1, false, [F.FLT_MESH_CNT_SEL.PX, F.FLT_MESH_CNT_SEL.PY]⟩,
  ⟨"FLT_MESH_CNT", 0x70218, 0x0, 0, 1, true, [F.FLT_MESH_CNT.BULK_N, F.FLT_MESH_CNT.BULK_E, F.FLT_MESH_CNT.BULK_S, F.FLT_MESH_CNT.BULK_W, F.FLT_MESH_CNT.BULK_LOCAL, F.FLT_MESH_CNT.CTRL, F.FLT_MESH_CNT.SYNC, F.FLT_MESH_CNT.SEAM]⟩,
  ⟨"WV_STATUS", 0xF0000, 0x0, 0, 1, false, [F.WV_STATUS.BUSY, F.WV_STATUS.PHASE, F.WV_STATUS.LOADED, F.WV_STATUS.LAST, F.WV_STATUS.EPOCH, F.WV_STATUS.EPOCH_USE]⟩,
  ⟨"WV_REFUSE", 0xF0008, 0x0, 0, 1, true, [F.WV_REFUSE.REASON, F.WV_REFUSE.SECTION, F.WV_REFUSE.ORD, F.WV_REFUSE.RECORD]⟩,
  ⟨"WV_WEAVE_ID", 0xF0010, 0x0, 0, 1, true, [F.WV_WEAVE_ID.ID]⟩,
  ⟨"WV_FLUSH_CNT", 0xF0018, 0x0, 0, 1, false, [F.WV_FLUSH_CNT.COUNT]⟩,
  ⟨"WV_LOAD_US", 0xF001C, 0x0, 0, 1, false, [F.WV_LOAD_US.TIME]⟩,
  ⟨"WV_STORE", 0xF0020, 0x0, 0, 1, false, [F.WV_STORE.FRAMES]⟩]

def regTable3 : List RegD := [
  ⟨"WV_QS_CTRL", 0xF0040, 0x0, 0, 1, false, [F.WV_QS_CTRL.EN, F.WV_QS_CTRL.CLEAR, F.WV_QS_CTRL.PERIOD_LOG2]⟩,
  ⟨"WV_QS_SEL", 0xF0044, 0x0, 0, 1, false, [F.WV_QS_SEL.KIND, F.WV_QS_SEL.X, F.WV_QS_SEL.Y, F.WV_QS_SEL.SUB]⟩,
  ⟨"WV_QS_STATUS", 0xF0048, 0x0, 0, 1, false, [F.WV_QS_STATUS.VALID, F.WV_QS_STATUS.BUSY, F.WV_QS_STATUS.EMPTY, F.WV_QS_STATUS.SAT]⟩,
  ⟨"WV_QS_DATA_n", 0xF0050, 0x4, 0, 8, false, [F.WV_QS_DATA.HI, F.WV_QS_DATA.LO]⟩,
  ⟨"OL_CTRL", 0xC0000, 0x0, 0, 1, false, [F.OL_CTRL.REROUTE, F.OL_CTRL.RETRAIN_ALL, F.OL_CTRL.CM_EN, F.OL_CTRL.CM_THRESH, F.OL_CTRL.REQ_TIMEOUT]⟩,
  ⟨"OL_TRAIN_WAIT", 0xC0004, 0x0, 0, 1, false, [F.OL_TRAIN_WAIT.MS]⟩,
  ⟨"OL_TOPO_STATUS", 0xC0008, 0x0, 0, 1, false, [F.OL_TOPO_STATUS.OUTCOME, F.OL_TOPO_STATUS.DESC_VALID, F.OL_TOPO_STATUS.MISSING, F.OL_TOPO_STATUS.UNROUTABLE]⟩,
  ⟨"OL_TOPO_SERIAL", 0xC000C, 0x0, 0, 1, false, [F.OL_TOPO_SERIAL.SERIAL]⟩,
  ⟨"OL_PORT_STATUS_p", 0xC0100, 0x20, 0, 16, false, [F.OL_PORT_STATUS.STATE, F.OL_PORT_STATUS.RESULT, F.OL_PORT_STATUS.WIDTH, F.OL_PORT_STATUS.LANES, F.OL_PORT_STATUS.WRAP]⟩,
  ⟨"OL_PORT_PEER_p", 0xC0108, 0x20, 0, 16, true, [F.OL_PORT_PEER.IDENT]⟩,
  ⟨"OL_PORT_ERR_p", 0xC0110, 0x20, 0, 16, true, [F.OL_PORT_ERR.CW_CORR, F.OL_PORT_ERR.CW_UNCORR, F.OL_PORT_ERR.CRC_FAIL, F.OL_PORT_ERR.REPLAYS]⟩,
  ⟨"OL_PORT_TRAFFIC_p", 0xC0118, 0x20, 0, 16, false, [F.OL_PORT_TRAFFIC.CM_MARKED, F.OL_PORT_TRAFFIC.DROPPED]⟩]

def regTable4 : List RegD := [
  ⟨"OL_RT_n", 0xC0400, 0x4, 0, 64, false, [F.OL_RT.VALID, F.OL_RT.DIR, F.OL_RT.HOPS]⟩,
  ⟨"STEP_COORD", 0xB0040, 0x0, 0, 1, false, [F.STEP_COORD.SB_EN, F.STEP_COORD.STANDBY, F.STEP_COORD.PRIMARY]⟩,
  ⟨"STEP_VOTE_CFG", 0xB0044, 0x0, 0, 1, false, [F.STEP_VOTE_CFG.TIMEOUT_US]⟩,
  ⟨"STEP_LAST_VOTE", 0xB0048, 0x0, 0, 1, true, [F.STEP_LAST_VOTE.STEP, F.STEP_LAST_VOTE.OUTCOME, F.STEP_LAST_VOTE.REASON, F.STEP_LAST_VOTE.ORD]⟩,
  ⟨"STEP_VOTE_TIME", 0xB0050, 0x0, 0, 1, false, [F.STEP_VOTE_TIME.MAX, F.STEP_VOTE_TIME.LAST]⟩,
  ⟨"STEP_DIGEST_ERR", 0xB0054, 0x0, 0, 1, false, [F.STEP_DIGEST_ERR.CRC, F.STEP_DIGEST_ERR.SUM, F.STEP_DIGEST_ERR.NODE, F.STEP_DIGEST_ERR.RESULT]⟩,
  ⟨"STEP_MIRROR", 0xB0058, 0x0, 0, 1, false, [F.STEP_MIRROR.SOURCES, F.STEP_MIRROR.FRAMES]⟩,
  ⟨"HQ_SQ_BASE_q", 0x10000, 0x40, 0, 16, true, [F.HQ_SQ_BASE.ADDR]⟩,
  ⟨"HQ_CQ_BASE_q", 0x10008, 0x40, 0, 16, true, [F.HQ_CQ_BASE.ADDR]⟩,
  ⟨"HQ_Q_CFG_q", 0x10010, 0x40, 0, 16, false, [F.HQ_Q_CFG.EN, F.HQ_Q_CFG.SQ_LOG2, F.HQ_Q_CFG.CQ_LOG2, F.HQ_Q_CFG.VECTOR]⟩,
  ⟨"HQ_Q_STATUS_q", 0x10014, 0x40, 0, 16, false, [F.HQ_Q_STATUS.ERR, F.HQ_Q_STATUS.ERRCODE, F.HQ_Q_STATUS.IDLE, F.HQ_Q_STATUS.SQ_HEAD]⟩,
  ⟨"HQ_DOORBELL_q", 0x10018, 0x40, 0, 16, false, [F.HQ_DOORBELL.INDEX]⟩]

def regTable5 : List RegD := [
  ⟨"HQ_CQ_HEAD_q", 0x1001C, 0x40, 0, 16, false, [F.HQ_CQ_HEAD.INDEX]⟩,
  ⟨"HQ_STATUS", 0x11000, 0x0, 0, 1, false, [F.HQ_STATUS.READY, F.HQ_STATUS.LINK_LOW, F.HQ_STATUS.FLIT, F.HQ_STATUS.RATE, F.HQ_STATUS.WIDTH, F.HQ_STATUS.JOB_UNREC, F.HQ_STATUS.JOB_HELD]⟩,
  ⟨"HQ_HERD", 0x11004, 0x0, 0, 1, false, [F.HQ_HERD.LEAD, F.HQ_HERD.H, F.HQ_HERD.N, F.HQ_HERD.POS]⟩,
  ⟨"HQ_HERD_PRESENT", 0x11008, 0x0, 0, 1, true, [F.HQ_HERD_PRESENT.MASK]⟩,
  ⟨"HQ_BAR2_BASE", 0x11010, 0x0, 0, 1, true, [F.HQ_BAR2_BASE.BASE]⟩,
  ⟨"HQ_MEMBER_SEL", 0x11018, 0x0, 0, 1, false, [F.HQ_MEMBER_SEL.FAIL, F.HQ_MEMBER_SEL.POS]⟩,
  ⟨"HQ_IRQ_MAP", 0x11020, 0x0, 0, 1, false, [F.HQ_IRQ_MAP.FAULT_EN, F.HQ_IRQ_MAP.FAULT_VEC, F.HQ_IRQ_MAP.MBX_EN, F.HQ_IRQ_MAP.MBX_VEC]⟩,
  ⟨"HQ_IRQ_CAUSE", 0x11024, 0x0, 0, 1, false, [F.HQ_IRQ_CAUSE.FAULT, F.HQ_IRQ_CAUSE.MBX]⟩,
  ⟨"MBX_CMD", 0x30000, 0x0, 0, 1, false, [F.MBX_CMD.GO, F.MBX_CMD.CODE]⟩,
  ⟨"MBX_STATUS", 0x30004, 0x0, 0, 1, false, [F.MBX_STATUS.BUSY, F.MBX_STATUS.OWNER, F.MBX_STATUS.RESULT, F.MBX_STATUS.LEN]⟩,
  ⟨"FLT_REPORT_STATUS", 0x70000, 0x0, 0, 1, false, [F.FLT_REPORT_STATUS.OVERFLOW, F.FLT_REPORT_STATUS.LOST, F.FLT_REPORT_STATUS.COUNT]⟩,
  ⟨"FLT_REPORT_POP", 0x70004, 0x0, 0, 1, false, [F.FLT_REPORT_POP.POP]⟩]

def regTable6 : List RegD := [
  ⟨"FLT_HANG_WIN_c", 0x70010, 0x4, 0, 3, false, [F.FLT_HANG_WIN.US]⟩,
  ⟨"FLT_ESC_CFG", 0x70020, 0x0, 0, 1, false, [F.FLT_ESC_CFG.TILE_N, F.FLT_ESC_CFG.TILE_S, F.FLT_ESC_CFG.DEV_N, F.FLT_ESC_CFG.DEV_MIN]⟩,
  ⟨"FLT_ESC_STATE", 0x70024, 0x0, 0, 1, false, [F.FLT_ESC_STATE.SPARE_W, F.FLT_ESC_STATE.SPARE_E, F.FLT_ESC_STATE.DEV_OOS, F.FLT_ESC_STATE.OOS_TILES, F.FLT_ESC_STATE.OOS_PORTS]⟩,
  ⟨"FLT_READMIT", 0x70028, 0x0, 0, 1, false, [F.FLT_READMIT.GO, F.FLT_READMIT.KIND, F.FLT_READMIT.POS, F.FLT_READMIT.X, F.FLT_READMIT.X6, F.FLT_READMIT.Y, F.FLT_READMIT.PORT]⟩,
  ⟨"FLT_FM_COORD", 0x70030, 0x0, 0, 1, true, [F.FLT_FM_COORD.VALID, F.FLT_FM_COORD.DST]⟩,
  ⟨"FLT_HARDEN", 0x70038, 0x0, 0, 1, false, [F.FLT_HARDEN.CORRECTED, F.FLT_HARDEN.SCRUB_US]⟩,
  ⟨"FLT_GEN_DROPS", 0x7003C, 0x0, 0, 1, false, [F.FLT_GEN_DROPS.COUNT]⟩,
  ⟨"FLT_REPORT_n", 0x70040, 0x4, 0, 16, false, [F.FLT_REPORT.DATA]⟩,
  ⟨"RST_CAUSE", 0x60000, 0x0, 0, 1, false, [F.RST_CAUSE.LKU, F.RST_CAUSE.CKF, F.RST_CAUSE.DBG, F.RST_CAUSE.SWR, F.RST_CAUSE.WDT, F.RST_CAUSE.PIN, F.RST_CAUSE.BO, F.RST_CAUSE.POR, F.RST_CAUSE.FAULT]⟩,
  ⟨"RST_CFGSEL", 0x60004, 0x0, 0, 1, false, [F.RST_CFGSEL.VALID, F.RST_CFGSEL.RAW, F.RST_CFGSEL.DEBUG, F.RST_CFGSEL.CODE]⟩,
  ⟨"RST_SW", 0x60008, 0x0, 0, 1, false, [F.RST_SW.GO, F.RST_SW.SCOPE, F.RST_SW.X, F.RST_SW.Y]⟩,
  ⟨"RST_BLK", 0x6000C, 0x0, 0, 1, false, [F.RST_BLK.SMB, F.RST_BLK.HQ, F.RST_BLK.CXL, F.RST_BLK.OL]⟩]

def regTable7 : List RegD := [
  ⟨"RST_WDT", 0x60010, 0x0, 0, 1, false, [F.RST_WDT.EN, F.RST_WDT.KICK, F.RST_WDT.PERIOD_MS]⟩,
  ⟨"RST_STAGE_CTRL", 0x60014, 0x0, 0, 1, false, [F.RST_STAGE_CTRL.HOLD_EN, F.RST_STAGE_CTRL.CONTINUE, F.RST_STAGE_CTRL.HELD, F.RST_STAGE_CTRL.HALTED, F.RST_STAGE_CTRL.STAGE, F.RST_STAGE_CTRL.KIND]⟩,
  ⟨"RST_STAGE_s", 0x60100, 0x8, 1, 10, true, [F.RST_STAGE.RESULT, F.RST_STAGE.FAIL, F.RST_STAGE.DETAIL, F.RST_STAGE.TIME_US]⟩,
  ⟨"MAP_STATUS", 0x90000, 0x0, 0, 1, false, [F.MAP_STATUS.LC, F.MAP_STATUS.FUSED_OK, F.MAP_STATUS.SOFT_OK, F.MAP_STATUS.SOFT_SEQ]⟩,
  ⟨"MAP_ST_CTRL", 0x90008, 0x0, 0, 1, false, [F.MAP_ST_CTRL.EN, F.MAP_ST_CTRL.SCRUB, F.MAP_ST_CTRL.INTERVAL_LOG2]⟩,
  ⟨"MAP_ST_STATUS", 0x9000C, 0x0, 0, 1, false, [F.MAP_ST_STATUS.FAIL, F.MAP_ST_STATUS.PENDING, F.MAP_ST_STATUS.PASSES]⟩,
  ⟨"MAP_ST_FAIL", 0x90010, 0x0, 0, 1, false, [F.MAP_ST_FAIL.PX, F.MAP_ST_FAIL.PY, F.MAP_ST_FAIL.TEST]⟩,
  ⟨"MAP_COL_n", 0x90100, 0x4, 0, 68, false, [F.MAP_COL.STATE, F.MAP_COL.LOGICAL, F.MAP_COL.PENDING, F.MAP_COL.FAULT_Y, F.MAP_COL.CAUSE]⟩,
  ⟨"PWR_CLIENT_LIM", 0x40000, 0x0, 0, 1, false, [F.PWR_CLIENT_LIM.FW, F.PWR_CLIENT_LIM.HOST]⟩,
  ⟨"PWR_TOL", 0x40004, 0x0, 0, 1, false, [F.PWR_TOL.US]⟩,
  ⟨"PWR_MODE", 0x40008, 0x0, 0, 1, false, [F.PWR_MODE.MODE]⟩,
  ⟨"PWR_STATUS", 0x4000C, 0x0, 0, 1, false, [F.PWR_STATUS.W_CLK, F.PWR_STATUS.E_CLK, F.PWR_STATUS.W_MESH_SLOW, F.PWR_STATUS.E_MESH_SLOW, F.PWR_STATUS.PRONK, F.PWR_STATUS.W_THROTTLE, F.PWR_STATUS.E_THROTTLE, F.PWR_STATUS.W_JLIMIT, F.PWR_STATUS.E_JLIMIT, F.PWR_STATUS.LIMITING]⟩]

def regTable8 : List RegD := [
  ⟨"PWR_PRONK", 0x40010, 0x0, 0, 1, false, [F.PWR_PRONK.LOCKOUT, F.PWR_PRONK.TRIPS, F.PWR_PRONK.LAST_END, F.PWR_PRONK.LAST_MS]⟩,
  ⟨"PWR_BROWSE", 0x40014, 0x0, 0, 1, false, [F.PWR_BROWSE.CAUSE, F.PWR_BROWSE.PERIOD_US]⟩,
  ⟨"PWR_VOTE_d", 0x40400, 0x4, 0, 159, false, [F.PWR_VOTE.HOST, F.PWR_VOTE.FW, F.PWR_VOTE.HW]⟩,
  ⟨"PWR_STATE_d", 0x40800, 0x4, 0, 159, false, [F.PWR_STATE.STATE, F.PWR_STATE.TARGET, F.PWR_STATE.MOVING, F.PWR_STATE.REENABLE, F.PWR_STATE.REENABLE_CLIENT, F.PWR_STATE.ABORT_PT, F.PWR_STATE.ABORTS]⟩,
  ⟨"EVT_STATUS", 0x80000, 0x0, 0, 1, false, [F.EVT_STATUS.FLUSHING, F.EVT_STATUS.ERASING, F.EVT_STATUS.WIN, F.EVT_STATUS.PF_HOLD, F.EVT_STATUS.COUNT]⟩,
  ⟨"EVT_NEXT_SEQ", 0x80008, 0x0, 0, 1, true, [F.EVT_NEXT_SEQ.SEQ]⟩,
  ⟨"EVT_OLDEST", 0x80010, 0x0, 0, 1, true, [F.EVT_OLDEST.SEQ]⟩,
  ⟨"EVT_FLUSHED", 0x80018, 0x0, 0, 1, true, [F.EVT_FLUSHED.SEQ]⟩,
  ⟨"EVT_TIME", 0x80020, 0x0, 0, 1, true, [F.EVT_TIME.OPTIME]⟩,
  ⟨"EVT_PCC", 0x80028, 0x0, 0, 1, false, [F.EVT_PCC.COUNT]⟩,
  ⟨"EVT_SUPPRESS", 0x8002C, 0x0, 0, 1, false, [F.EVT_SUPPRESS.COUNT]⟩,
  ⟨"EVT_CTRL", 0x80030, 0x0, 0, 1, false, [F.EVT_CTRL.FLUSH]⟩]

def regTable9 : List RegD := [
  ⟨"EVT_READ_SEL", 0x80040, 0x0, 0, 1, true, [F.EVT_READ_SEL.SEQ]⟩,
  ⟨"EVT_READ_STATUS", 0x80048, 0x0, 0, 1, false, [F.EVT_READ_STATUS.GONE]⟩,
  ⟨"EVT_READ_DATA_n", 0x80080, 0x8, 0, 16, true, [F.EVT_READ_DATA.DATA]⟩,
  ⟨"CLK_REF_STATUS", 0x50000, 0x0, 0, 1, false, [F.CLK_REF_STATUS.SYS_OK, F.CLK_REF_STATUS.PCIE_OK, F.CLK_REF_STATUS.CXL_OK, F.CLK_REF_STATUS.AON_OK, F.CLK_REF_STATUS.AON_INT, F.CLK_REF_STATUS.LINK_LOCK]⟩,
  ⟨"CLK_REF_LOSS", 0x50004, 0x0, 0, 1, false, [F.CLK_REF_LOSS.PLL, F.CLK_REF_LOSS.SYS, F.CLK_REF_LOSS.PCIE, F.CLK_REF_LOSS.CXL, F.CLK_REF_LOSS.AON]⟩]

/-- Every register of BAR0 whose fields the spec tabulates, but for the tile windows. -/
def regTable : List RegD :=
  regTable0 ++ regTable1 ++ regTable2 ++ regTable3 ++ regTable4 ++ regTable5 ++ regTable6 ++ regTable7 ++ regTable8 ++ regTable9

end Sys2Proof.Machine
end

