-- ==== Sys2Proof/Config.lean ====
section
/-! DEFINITION. What one device has built in: its geometry (R28) and the values the spec leaves open. An open value is
an opaque constant: no proof can see it, so a statement about it holds whatever it is. -/

namespace Sys2Proof.Config

/-! ## Geometry (the ID block, R28, R110, R229) -/

def rows : Nat := 32
def physCols : Nat := 68
def tiles : Nat := 2048
def tileMem : Nat := 2 ^ 21
def slices : Nat := 64
def sliceBytes : Nat := 2 ^ 25
def bufBytes : Nat := 65536
def fifoDepth : Nat := 16
def netSlots : Nat := 16
def pages : Nat := 2 ^ 22
def pageBytes : Nat := 2 ^ 21
def subBytes : Nat := 2 ^ 16
def farPorts : Nat := 4
def ringSlots : Nat := 480
def stageSlots : Nat := 32

/-! ## Values the spec leaves open

Each takes a seed, which State advances whenever an undefined value is drawn again, and an index. -/

/-- A byte whose contents are undefined: an operand buffer after a reset, a record's padding, a stale page (R60, R166, R274). -/
opaque freeByte : Nat → Nat → Byte
/-- A lane of a vector register that no operation has written (R176). -/
opaque freeLane : Nat → Nat → W32
/-- The 128-bit raw form of an uninitialised bank position (R166). -/
opaque freeCell : Nat → Nat → BitVec 128
/-- The ANCHOR of an uninitialised bank (R166). -/
opaque freeAnchor : Nat → BitVec 10
/-- A counter that counts cycles, which the model does not time (R124). -/
opaque freeCount : Nat → Nat → W64
/-- A field that a report or a register takes from an unmodelled measurement: a cycle count, a duration. -/
opaque freeWord : Nat → Nat → W32

/-! ## Constants of the part that the spec does not give as numbers -/

/-- The steppings of the part (R1, ID_STEPPING). -/
inductive Stepping where
  | a0 | b0
  deriving DecidableEq, Repr, Inhabited
/-- The letter of a stepping, 0 = A and 1 = B, in [7:4] and its digit in [3:0]: A0 reads 0x00, B0 0x10 (R1). -/
def Stepping.letter : Stepping → Nat
  | .a0 => 0
  | .b0 => 1
def Stepping.digit : Stepping → Nat
  | .a0 => 0
  | .b0 => 0
def Stepping.code (x : Stepping) : Nat := x.letter * 16 + x.digit
/-- The stepping of this device. -/
opaque stepping : Stepping
/-- The public key of slot 0, fixed at manufacture (R304): the two coordinates of a point of P-384. -/
opaque slot0Key : BitVec 768
/-- The hash of what a signed FIELD to RMA transition signs (R494). -/
opaque rmaHash : BitVec 384
/-- Firmware version and serial number, which GET_INFO returns (R422). -/
opaque firmwareVersion : W64
opaque serialNumber : BitVec 128
/-- The signature a healthy tile's self-test leaves (R470). -/
opaque selfTestSig : W32
/-- The parity symbols of a codeword's 514 data symbols (R340): the spec names the code, not its generator. -/
opaque parity : List Nat → List Nat
/-- The code within a range of TYPE codes that R348 gives several packets, and the FLOW of a path key (R357). -/
opaque typeSlot : Nat → BitVec 3
opaque flow : Nat → W16
/-- The preset that a port asks of its peer's transmitter on a lane (R361, R362). -/
opaque preset : Nat → Nat → BitVec 4
/-- The temperature sensor and the voltage monitor nearest to a unit, by UNIT and LOC (R429). -/
opaque nearestSensor : Byte → W32 → BitVec 6
opaque nearestMonitor : Byte → W32 → BitVec 5

end Sys2Proof.Config
end

