-- ==== Sys2Proof/Machine/State.lean ====
section
/-! DEFINITION. The state of one FRL-7264 device, as plain data: everything the spec gives it. What crosses its boundary,
or travels between its units, is appended to `out`; what arrives is a command. -/

namespace Sys2Proof.Machine

/-- Why a step stops: the spec gives every command of the table an effect, so none raises a fault. -/
inductive Fault where
  /-- Raised by no command: one that names a unit the device does not have leaves the state as it is (log 33). Safe. -/
  | noSuchUnit
  deriving DecidableEq, Repr

/-- Why a command has no meaning. -/
inductive Refusal where
  /-- Raised by no command of this model: every row of the table has its meaning. Safe: it would stop the run. -/
  | notModelled (mnemonic : String)
  deriving DecidableEq, Repr

/-! ## The tile (R108 to R125, R199 to R201) -/

/-- An operation waiting in a FIFO or executing, as Muntjac enqueued it (R111, R206). `two` is a two-word operation of
the IBEX, DRAIN or TAHR port, with the scalar value of SREG that an STMX copies; `net` is a MOVE, RREL or CSTART. -/
inductive OpKind where
  | fill (w : W64)
  | two (w0 w1 : W64) (x : Byte)
  | net (w0 w1 : W64)
  | send (ch : BitVec 6) (a : BitVec 21) (len : Nat) (hidx : BitVec 6)
  | release (ch : BitVec 6)
  | atom (a : W64) (aop : BitVec 4) (wide : Bool) (x expect : W64) (rd : BitVec 5)
  deriving DecidableEq, Repr

/-- An operation: its place `n` in the context's program order (its 16-bit sequence number is n mod 65,536, R111), its
port in the order of R110 (0 FILL_A to 5 NET), and the PC of the instruction that enqueued it. -/
structure Op where
  n : Nat
  port : Nat
  pc : BitVec 12
  kind : OpKind
  deriving DecidableEq, Repr

/-- A loop-stack entry (R199, R208). -/
structure Loop where
  first : Nat
  last : Nat
  index : W64
  left : Nat
  deriving DecidableEq, Repr

/-- Where Muntjac stands while an instruction waits (R111, R117, R205): nowhere, on a full FIFO, on a counter, on a
message (for RECV, or for DISPATCH), on a barrier (its release fence, its departure, its acquire fence), on a flag,
in a fence of R223, in the release fence of an atomic, or in the wait of R119. -/
inductive Wait where
  | none
  | enqueue (op : Op)
  | counter (c : BitVec 5) (v : W64)
  | message (ch : BitVec 6) (ad : BitVec 4) (sd : BitVec 5) (dispatch : Bool)
  | barrier (b : BitVec 4) (stage : BitVec 2)
  | flag (f : BitVec 6) (v : Bool)
  | fence (release acquire : Bool)
  | atomic (op : Op) (acquire : Bool)
  | stepEnd
  deriving DecidableEq, Repr

/-- Muntjac's state (R199). Unlisted registers hold 0; bit 0 of the predicates is not used, p0 reading 1. `pend` lists
the registers with an atomic reply outstanding, each with the operation that it awaits. -/
structure Core where
  pc : BitVec 12
  sreg : SMap W64
  areg : SMap W64
  preds : BitVec 8
  loops : List Loop
  handler : Option (BitVec 12 × BitVec 6)
  held : BitVec 64
  pend : List (BitVec 5 × Nat)
  wait : Wait
  stopped : Bool
  deriving DecidableEq, Repr

/-- Where Muntjac resumes at the step-start mark (R118). -/
inductive Resume where
  | entry | resume | next
  deriving DecidableEq, Repr

/-- The tile image of the loaded weave (R294, R295), which a load places and a reset restores (R201, R446). -/
structure Image where
  ctx : Bool
  level : BitVec 2
  entry : BitVec 12
  resume : BitVec 12
  barmask : W16
  dup : Option TileId
  handlers : SMap (BitVec 12)
  windows : List (Nat × Nat)
  regions : SMap W32
  sreg : SMap W64
  areg : SMap W64
  preds : BitVec 8
  checks : SMap (BitVec 256)
  code : SMap W32
  deriving DecidableEq, Repr

/-- A message's record in a ring (R274 to R277): the count at which it begins, its units, the units of the wrap record
before it, its sender, header word, length, and the bytes not yet written. -/
structure Rec where
  start : Nat
  units : Nat
  wrap : Nat
  who : EndpointId
  hdr : W64
  len : Nat
  left : Nat
  epoch : BitVec 4
  deriving DecidableEq, Repr

/-- A drain's sum record (R173, R175): the operation's number, PC and word 0, and the record. -/
structure Dup where
  n : Nat
  pc : BitVec 12
  word : W64
  sum : BitVec 256
  deriving DecidableEq, Repr

/-- A channel endpoint (R272, R277, R281, R288, R334): its configuration words as TIL_CH_CFG and TIL_CH_PEER hold them,
the declarations of the weave that no register shows, its pointers, credit, message number, records, counters and
histogram. -/
structure Endpoint where
  cfg : W32
  peer : W32
  senders : List EndpointId
  depmask : W64
  loop : W16
  rank : W16
  rd : Nat
  wr : Nat
  credit : Nat
  creditMax : Nat
  seq : W32
  recs : List Rec
  /-- An apply has affected the endpoint (R315, R317): it accepts the current epoch only. -/
  affected : Bool
  msgs : Nat
  stalls : Nat
  hist : SMap Nat
  deriving DecidableEq, Repr

/-- A skew pair kept at its join tile (R301, R329, R335). -/
structure Skew where
  pair : W16
  bound : Nat
  fork : EndpointId
  shortEp : BitVec 6
  shortSrc : EndpointId
  longEp : BitVec 6
  longSrc : EndpointId
  short : Nat
  long : Nat
  peak : Int
  deriving DecidableEq, Repr

/-- One output position of a bank (R133). -/
structure Cell where
  value : BitVec 112
  nan : Bool
  pinf : Bool
  ninf : Bool
  oor : Bool
  trunc : Bool
  groups : Nat
  deriving DecidableEq, Repr

/-- An accumulator bank (R133, R166). Positions that are not listed are zero after a clear (`seed` none), and undefined
while the bank has not been cleared since a reset, a load or a rollback. -/
structure Bank where
  init : Bool
  anchor : BitVec 10
  seed : Option Nat
  cells : SMap Cell
  deriving DecidableEq, Repr

/-- An operand buffer (R154, R164, R175): bytes that no fill has written since its contents became undefined read the
free byte of `seed`; `bad` lists bytes whose parity is wrong. -/
structure Buffer where
  seed : Nat
  data : SMap Byte
  bad : List Nat
  deriving DecidableEq, Repr

/-- The vector file (R176), keyed register × 64 + lane. -/
structure VFile where
  seed : Nat
  lanes : SMap W32
  deriving DecidableEq, Repr

/-- An entry of the gather buffer (R233 to R235): the line, the bytes written, the writes to acknowledge (issuer, its GEN, its
operation) with the counters they increment, whether a counted write has merged into it, and the words of the line whose bytes
were uncorrectable where they came from. -/
structure Gather where
  line : Nat
  data : SMap Byte
  acks : List (TileId × Byte × W16 × Option (BitVec 5))
  counted : Bool
  bad : List Nat
  deriving DecidableEq, Repr

/-- The statistic of a check entry (R196): SUMSQ in units of 2^−298. -/
structure Stat where
  count : Nat
  nf : Nat
  sumsq : Nat
  deriving DecidableEq, Repr

/-- A write of the context that is not acknowledged yet (R45, R324): its operation, the parts still to be acknowledged,
and the counter increment due then (R554). -/
structure Unacked where
  n : Nat
  parts : Nat
  inc : Option (BitVec 5)
  op : Op
  deriving DecidableEq, Repr

/-- One-off records of a step (R139, R197, R200, R233): an item that has written its report or record in this step. -/
inductive Once where
  | oorDrain | bank | vreg | core | word | gather
  | check (e : Nat)
  deriving DecidableEq, Repr

/-- The state of one logical tile. -/
structure Tile where
  /-- TIL_STATE.PHASE (R121, TIL_STATE). -/
  phase : BitVec 4
  dirty : Bool
  gen : Byte
  step : W32
  resume : Resume
  img : Image
  core : Core
  imem : SMap W32
  /-- Operations enqueued and not issued, oldest first, of all ports; and operations executing. -/
  fifo : List Op
  exec : List Op
  /-- Number of the last operation enqueued since the sequence began at 1. -/
  enq : Nat
  unacked : List Unacked
  bufA : Buffer
  bufB : Buffer
  banks : SMap Bank
  bankSeed : Nat
  vec : VFile
  mem : SMap Byte
  /-- Words of tile memory marked uncorrectable (R230, R233), by address / 8. -/
  bad : List Nat
  arr : SMap Nat
  heads : SMap Nat
  tails : SMap Nat
  eps : SMap Endpoint
  skews : List Skew
  gather : List Gather
  flags : W64
  stats : SMap Stat
  once : List Once
  /-- MMAs with CHK = 1 issued in this step (R173). -/
  chk1 : Nat
  /-- Duplicate records: the tile's own awaiting the partner's, and the partner's arrived early (R173). -/
  dupOwn : List Dup
  dupPeer : List (BitVec 256)
  /-- Checksum mismatches found by MMAs still executing: operation, first failing row and column (R174, R175). -/
  sums : List (Nat × Nat × Nat)
  freeze : Bool
  opsDone : W64
  /-- Seed of the cycle counters of R124; 0 while they hold zero. -/
  cntSeed : Nat
  /-- Barriers whose departure is on its way to the tile (R268). -/
  departs : W16
  deriving DecidableEq, Repr

/-! ## What leaves a unit -/

/-- What the gateway slice, number PAGE mod 64, finds for an access (R82): the ordinal of the home, the local page number there, and
whether the home is this device, so that the access goes on to its slice LPN mod 64, or leaves through the link block. -/
structure HomeRef where
  gateway : Nat
  home : Nat
  lpn : Nat
  here : Bool
  deriving DecidableEq, Repr

/-- What the device, or one of its units, sends: the reply to a read, a message of a mesh, a packet, a signal. The model
appends each to `State.out`, in order. -/
inductive Output where
  /-- Data of a register read, zero-extended (R6, R9). -/
  | readData (path : Path) (off : Nat) (v : W64)
  /-- An error report on its way to the STAG; `urgent` travels on C0 (R254, R431). -/
  | report (r : Report) (urgent : Bool)
  /-- A read of job memory leaves the tile and, with what its gateway slice computes, goes on to its home (R40, R82, R244). -/
  | jobRead (t : TileId) (gen : Byte) (seq : W16) (a : W64) (len : Nat) (h : HomeRef)
  /-- A write of job memory leaves the tile, with the 64-byte units that are uncorrectable (R82, R233, R244). -/
  | jobWrite (t : TileId) (gen : Byte) (seq : W16) (a : W64) (data : List Byte) (bad : List Nat) (h : HomeRef)
  /-- An atomic leaves the NET port (R82, R220, R246). -/
  | atomic (t : TileId) (gen : Byte) (seq : W16) (a : W64) (aop : BitVec 4) (wide : Bool) (x expect : W64) (h : HomeRef)
  /-- An access to a far frame on the other half's ports goes from its home slice to the relaying one (R98). -/
  | relay (home via : Nat) (a len : Nat) (write : Bool)
  /-- A remote write to another tile of the device, at the physical place that the map gives that tile (R252), with its 64-byte units that
  are uncorrectable and its counter (R237). -/
  | remoteWrite (src : TileId) (gen : Byte) (seq : W16) (dst : TileId) (place : W16) (a : BitVec 21) (data : List Byte)
      (bad : List Nat) (ctr : Option (BitVec 5))
  /-- The acknowledgement, or the error response, of a write (R45, R236, R237). -/
  | writeAck (t : TileId) (gen : Byte) (seq : W16) (err : Bool)
  /-- A channel message leaves the tile (R281, R283). -/
  | message (dst : EndpointId) (m : MsgIn)
  /-- Units of credit return to a send endpoint (R280, R281). -/
  | credit (dst : EndpointId) (units : Nat) (epoch : BitVec 4)
  /-- A stalled-send probe to the tile of an endpoint (R285). -/
  | probe (dst : EndpointId) (p : Probe)
  /-- A sum record to the partner tile (R173). -/
  | dupRecord (dst : TileId) (r : BitVec 256)
  /-- Barrier arrival, departure; flag update, broadcast; end-of-step report (R268 to R270). -/
  | barArrive (t : TileId) (b : BitVec 4)
  | barDepart (t : TileId) (b : BitVec 4)
  | flagSet (u : FlagUpdate)
  | flagCast (f : BitVec 6) (v : Bool) (era : Nat)
  | tileReport (t : TileId) (dirty : Bool)
  /-- A message block is acknowledged to its sender, or refused (R284, R324). -/
  | messageAck (dst : EndpointId) (gen : Byte) (seq : W32) (err : Bool)
  /-- A block leaves a router for a side of the next one, or reaches its destination endpoint; a sync message leaves a seam queue, to the
  East root when `east` (R253, R259). -/
  | meshHop (px py : Nat) (side : Side) (b : MeshBlock)
  | meshAt (dst : W16) (b : MeshBlock)
  | syncAcross (east : Bool) (cls : BitVec 2) (msg : Byte)
  /-- A block takes effect at its destination, once (R262). -/
  | accepted (b : MeshBlock)
  /-- Acknowledgement or NAK of a mesh block, its re-send, a broadcast asked for again by an endpoint, a sync message repeated, and the
  error response to the owner of a block whose path has failed (R262 to R265). -/
  | meshAck (b : MeshBlock) (ok : Bool)
  | meshResend (b : MeshBlock)
  | bcastAgain (at_ : W16) (b : MeshBlock)
  | syncRepeat (src dst : W16) (cls : BitVec 2) (msg : Byte)
  | pathFault (b : MeshBlock) (owner : Option Owner)
  /-- Replies of a home: data of a read, with its uncorrectable units; the acknowledgement of a write; an atomic's old value;
  an error response (R36, R52, R82). -/
  | homeData (req : Requester) (a : Nat) (data : List Byte)
  | homeAck (req : Requester) (a : Nat) (len : Nat)
  | homeOld (req : Requester) (old : W64)
  | homeErr (req : Requester) (a : Nat)
  /-- A BAR2 read's data (R64); an access through BAR2 carried to its home on another device (R405). -/
  | bar2Data (off : Nat) (data : List Byte)
  | bar2Read (a : Nat) (len : Nat)
  | bar2Write (a : Nat) (data : List Byte)
  /-- A completion entry written to host memory, an MSI-X message, bytes written to host memory (R410, R417, R418, R420). -/
  | cqWrite (a : Nat) (entry : List Byte)
  | msix (v : Nat) (a : Nat) (data : W32)
  | hostWrite (a : Nat) (data : List Byte)
  /-- The queue's command starts (R411). -/
  | cmdStart (q : BitVec 4) (words : List W64)
  /-- A herd member takes a latency tolerance (R419). -/
  | tolerance (pos : Nat) (us : W32)
  /-- A device's portion; its confirmation of a send endpoint to the receiving device; its vote; the lead's decision
  (R298, R309). -/
  | weavePortion (o : Nat) (bytes : List Byte)
  | weaveConfirm (o : Nat) (c : Confirm)
  /-- The receiving device's answer for a send endpoint of device `o`: 0, or the code that refuses (R298). -/
  | weaveAnswer (o : Nat) (who : EndpointId) (code : Byte)
  | weaveVote (v : WeaveVote)
  | weaveResult (r : Option WeaveRefusal)
  /-- A vote-traffic packet of R388: TYPE, the device it goes to (none: every device of the job), the step, the code. -/
  | ctrl (typ : Byte) (dst : Option Nat) (step : W64) (code : Byte)
  /-- A DONE that carries START for the step that follows (R389, R398). -/
  | doneStart (step : W64) (code : Byte)
  /-- A MIRROR packet: the device, the code, the count (R395). -/
  | mirrorCtl (dst : Nat) (code : Byte) (count : Nat)
  /-- A mirror packet of TYPE 0x84 (R395). -/
  | mirrorData (dst : Nat) (serial : W16) (lpn sub chunk : Nat) (data : List Byte)
  /-- The lead asks the primary for what a command of its host wants: the steps of a run-steps command, a commit-control action
  (R408). -/
  | runWindow (first last : Nat)
  | ctrlAsk (action : Nat)
  /-- A piece of a collective, its digest, a result digest; an engine's read and write of job memory at another device
  (R373, R386). -/
  | piece (dst : Nat) (plan run level : Nat) (data : List Byte)
  | digest (dst : Nat) (plan run level : Nat) (digest : List Byte)
  | resultDigest (dst : Nat) (plan run : Nat) (digest : List Byte)
  | engineRead (plan : Nat) (a len : Nat)
  | engineWrite (plan : Nat) (a : Nat) (data : List Byte)
  /-- The answer to the standby's query: the last DECIDE held (R392). -/
  | queryAnswer (dst : Nat) (a : QueryAnswer)
  /-- A notice, to the recipients of its TYPE, and to the fabric manager when FLT_FM_COORD names one (R437). -/
  | notice (typ : Byte) (n : Notice) (manager : Bool)
  /-- A codeword leaves on a port (R340, R341): its header, its ten units, and the symbols of each active lane. A replay from a block. -/
  | codeword (p : Nat) (hdr : BitVec 20) (units : List (List Byte)) (lanes : List (Nat × List Nat))
  | linkReplay (p : Nat) (from_ : Nat)
  /-- The training words that a port sends from now on, by lane (R362). -/
  | training (p : Nat) (words : List (BitVec 128))
  /-- A packet of this device goes over the bulk mesh to a link-block port, toward the output (R323); a packet that arrived on one
  half's port goes over the bulk mesh to the other half's link block (R357). -/
  | toLink (place : W16) (out : Nat) (pkt : Packet)
  | acrossSeam (from_ : Nat) (out : Nat) (pkt : Packet)
  /-- A packet for this device leaves its input, and is handed to its target; a fabric error response to the source of a packet; a
  congestion echo (R350, R354, R360, R370). -/
  | deliver (pkt : Packet)
  | handed (pkt : Packet)
  | fabricErr (dst : W32) (pkt : Packet)
  | cne (dst : W32) (about : W32)
  /-- IDENT, CREDIT_INIT and LSA packets on a port (R351, R361, R364). -/
  | ident (p : Nat) (content : BitVec 256)
  | creditInit (p : Nat) (rooms : List Nat)
  | lsa (p : Nat) (l : Lsa)
  /-- An access through the member window goes to a member (R409). -/
  | memberAccess (pos : Nat) (off : Nat) (size : Nat) (wr : Option W64)
  /-- Data or refusal of an SMBus transaction (R423); SMB_DAT is released (R541). -/
  | smbData (data : List Byte)
  | smbNak
  | smbRelease
  /-- A test instruction's register (R544): its code, 32 bits of data. -/
  | tapData (i : TapInstr) (data : W32)
  /-- The test engine's march over an array (R493). -/
  | march (px py : Nat)
  /-- The host port leaves L0 (R537) or begins training (R461). -/
  | hostLink (up : Bool)
  deriving DecidableEq, Repr

/-! ## The event recorder and the report queue (R429 to R431, R518 to R528) -/

/-- A record of the recorder (R519), less its CRC, its reserved bytes and the copy of HEAD that TAIL is. -/
structure Record where
  seq : BitVec 48
  ver : W16
  pcc : W32
  again : W16
  last : BitVec 48
  body : Report
  deriving DecidableEq, Repr

/-- A valid flash copy (R524): its header and the image of the ring, by slot, and of the staging area. -/
structure Flash where
  copySeq : BitVec 48
  pcc : W32
  optime : BitVec 48
  clean : Bool
  ring : SMap Record
  staging : List Record
  deriving DecidableEq, Repr

/-- The event recorder, in the always-on domain. -/
structure Recorder where
  ring : SMap Record
  staging : List Record
  nextSeq : BitVec 48
  pcc : W32
  /-- The second of OPTIME whose records are being counted, records written per CODE, and those dropped (R523). -/
  second : Nat
  written : SMap Nat
  dropped : SMap Nat
  flushing : Bool
  /-- The image a running flush programs, and whether it is clean (R524, R526). -/
  image : Option Flash
  erasing : Bool
  /-- A trigger that waits for its second to pass; the end of the previous flush, ns (R524). -/
  wanted : Bool
  lastEnd : Option Nat
  /-- The copy that is the newer one: false A, true B (EVT_STATUS.WIN). -/
  win : Bool
  copyA : Option Flash
  copyB : Option Flash
  pfHold : Bool
  ckptOptime : BitVec 48
  ckptPcc : W32
  powered : Bool
  /-- The slot shown by EVT_READ_DATA (R528); none: GONE, or nothing selected. -/
  shown : Option Nat
  deriving DecidableEq, Repr

/-! ## The device -/

/-- An access waiting at a Commons slice port (R246, R248, R249): the tile, its generation and operation, the byte within
the slice, the length, the tile-memory address that a read fills, and the bytes of a write with its uncorrectable
64-byte units. -/
structure SliceReq where
  t : TileId
  gen : Byte
  seq : W16
  off : Nat
  len : Nat
  taddr : Nat
  data : Option (List Byte × List Nat)
  deriving DecidableEq, Repr

/-- A block in a retention buffer (R262): the transfers of it that have failed, and the operation that owns it. -/
structure Kept where
  block : MeshBlock
  fails : Nat
  owner : Option Owner
  deriving DecidableEq, Repr

/-- A router's output (R253, R254): the blocks that wait for it with the code of their input, oldest first; the block that holds it, with
its flits still to go; the cycles in a row for which the lowest virtual channel has been refused; the input served last, by channel. -/
structure MeshOut where
  wait : List (Nat × MeshBlock)
  hold : Option (MeshBlock × Nat)
  late : Nat
  turns : SMap Nat
  deriving DecidableEq, Repr

/-- The meshes (R250 to R271, R449): sequence numbers by pair of endpoints, retention buffers, sequence numbers accepted at a destination,
broadcasts asked for again with their failed repeats, router outputs and seam queues (of flits, each with whether it is its block's last;
of sync messages), hops that repeat a sync message, the routers' counters (router × 64 + lowest bit of the counter), the path faults of
late (time in ns, source, destination), and the era of the sync mesh, the model's own (log 33). -/
structure Mesh where
  seqs : SMap Nat
  kept : List Kept
  seen : List MeshBlock
  asks : List (W16 × MeshBlock × Nat)
  outs : SMap MeshOut
  seam : SMap (List (MeshBlock × Bool))
  syncSeam : SMap (List (BitVec 2 × Byte))
  hops : List (W16 × W16 × BitVec 2 × Nat)
  cnt : SMap Nat
  faults : List (Nat × W16 × W16)
  era : Nat
  deriving DecidableEq, Repr

/-- A range of the interleave table (R79). -/
structure Range where
  kind : BitVec 2
  tier : BitVec 2
  gran : BitVec 4
  base : BitVec 36
  pages : BitVec 36
  count : BitVec 15
  first : DevOrd
  lbase : Lpn
  deriving DecidableEq, Repr

/-- A Home Table entry (R86). -/
structure Entry where
  frame0 : BitVec 24
  frame1 : BitVec 24
  kind : BitVec 2
  stale : Bool
  migrating : Bool
  cursor : Nat
  poison : Bool
  sel : W32
  mask : W32
  tag : W16
  range : Byte
  new0 : BitVec 24
  new1 : BitVec 24
  deriving DecidableEq, Repr

/-- A request at a home: a write, a read or an atomic on job address `a` (R52, R55). -/
inductive HomeReq where
  | write (req : Requester) (a : Nat) (data : List Byte)
  | read (req : Requester) (a : Nat) (len : Nat)
  | atomic (req : Requester) (a : Nat) (aop : BitVec 4) (wide : Bool) (x expect : W64)
  deriving DecidableEq, Repr

/-- A copy-on-write in progress, with the requests it holds, in order of arrival (R54, R55). -/
structure Cow where
  lpn : Nat
  sub : Nat
  held : List HomeReq
  deriving DecidableEq, Repr

/-- An access that a home has ordered and memory has not completed (R82, R93): its bytes lie at `at_` in the frames; `data` is
what a read found, or what a write writes. -/
structure HomeAcc where
  req : Requester
  a : Nat
  len : Nat
  at_ : Nat
  read : Bool
  data : List Byte
  /-- The home slice of the other half that relays the access to its far port (R98). -/
  via : Option Nat
  deriving DecidableEq, Repr

/-- The home of job memory on this device (R83 to R107): the Home Table by LPN, outcomes by interval serial, and what is in
progress. -/
structure Home where
  table : SMap Entry
  /-- Outcome codes of interval serials: 1 committed, 2 rolled back, 3 reverted; open when unlisted (R87). -/
  outcomes : SMap Nat
  /-- The serial of the last commit (R89). -/
  lastCommit : W16
  /-- The outcome of CURRENT is recorded and the next interval is not open; whether its wait has been counted (R92). -/
  closing : Bool
  stalled : Bool
  /-- Intervals since the load; per slice the sweeper's next entry, and the interval in which its pass, and its last
  completed pass, began (R92). -/
  intervals : Nat
  sweepPos : SMap Nat
  sweepFrom : SMap Nat
  sweepLast : SMap Nat
  /-- Entries held in the home agents' caches (R83): LPNs, most recent first, per slice. -/
  cache : SMap (List Nat)
  cows : List Cow
  accs : List HomeAcc
  /-- Host reads held during a commit (R57): at the lead, BAR2 offset, length and the reply of the home when it lies elsewhere; at the
  home, the reads of leads (requester, address, length). -/
  hostHeld : List (Nat × Nat × Option (List Byte))
  hostReads : List (Requester × Nat × Nat)
  /-- Pages whose frames or Home Table entry are lost (R104, R107), by LPN: no access to them finds data. -/
  gone : List Nat
  /-- Migrations queued: LPN and whether the target is far; and the page that migrates (R99, R100). -/
  migQ : List (Nat × Bool)
  migNow : Option Nat
  /-- Units of 64 bytes of a poisoned constant page that the host has rewritten, by LPN (R104). -/
  rewritten : SMap (List Nat)
  /-- Frames of each far port (R95) and the width recorded with them (R468), and far ports whose link is down in a job (R107). -/
  farCap : SMap Nat
  farWidth : SMap Nat
  farLost : List Nat
  /-- Patrol scrub: corrected errors per row of the pass, last location read, rows remapped (R103). -/
  rowErrs : List (Nat × Nat × Nat × Nat)
  scrubAt : SMap (Nat × Nat)
  remapped : List (Nat × Nat × Nat)
  deriving DecidableEq, Repr

/-! ## The host queues (R410 to R420) -/

/-- A request that the device holds until it wakes (R502, R504, R507, R510): an access of the host to BAR0's lower half, through the member
window, or to BAR2, or a packet addressed to the device. -/
inductive HeldReq where
  | read (off size : Nat)
  | write (off size v : Nat)
  | window (off : BitVec 25) (size : Nat) (wr reply : Option W64)
  | bar2Read (off : BitVec 36) (len : Nat) (reply : Option (List Byte)) (found : List Nat) (copies : List (Nat × List Byte))
  | bar2Write (off : BitVec 36) (data : List Byte)
  | packet (pkt : Packet) (now : Nat)
  deriving DecidableEq, Repr

/-- A fetched SQ entry: its eight words, the SQ head after its fetch, and its place in the order of fetch (R411 to R413); whether its
completion is written, as it is unless the HQ block has been reset since (R401). -/
structure Fetched where
  words : List W64
  head : Nat
  order : Nat
  live : Bool
  deriving DecidableEq, Repr

/-- A queue pair's progress, beside its registers: entries fetched whose commands have not started, the command in execution,
the next CQ slot and the PHASE it takes, and the completions that wait for room (R410). -/
structure Queue where
  fetched : List Fetched
  busy : Option Fetched
  tail : Nat
  lap : Bool
  held : List (List Byte)
  deriving DecidableEq, Repr

/-! ## The weave (R289 to R321) -/

/-- A TILE record (R294): its index in the section, its rectangle, DUP fields, NINST and NCHK, the image it gives, and its
instruction words in order. -/
structure TileRec where
  idx : Nat
  ord : Nat
  x : Nat
  y : Nat
  w : Nat
  h : Nat
  dupv : Bool
  dupx : Nat
  dupy : Nat
  nchk : Nat
  entry : Nat
  resume : Nat
  handlers : List Nat
  code : List W32
  windows : List W64
  regions : List W32
  checks : List (BitVec 256)
  /-- A reserved field or padding byte is not zero. -/
  dirty : Bool
  img : Image
  deriving DecidableEq, Repr

/-- A sender of an SLIST, or a channel of a LOOP or SKEW record (R297, R300): the send endpoint's identity and two values, LOOP
and RANK, or CREDIT_MAX and MAXMSG_U. -/
structure ChEntry where
  id : Nat
  a : Nat
  b : Nat
  deriving DecidableEq, Repr

/-- A CHANNEL record (R297). -/
structure ChanRec where
  idx : Nat
  ord : Nat
  tile : TileId
  ep : Nat
  cfg : W32
  peer : W32
  creditMax : Nat
  dep : W64
  loop : Nat
  rank : Nat
  slist : List ChEntry
  dirty : Bool
  deriving DecidableEq, Repr

/-- A LOOP record (R300). -/
structure LoopRec where
  idx : Nat
  loop : Nat
  rank : Nat
  bound : Nat
  chs : List ChEntry
  dirty : Bool
  deriving DecidableEq, Repr

/-- A SKEW record (R301). -/
structure SkewRec where
  idx : Nat
  pair : Nat
  d : Nat
  short : List ChEntry
  long : List ChEntry
  dirty : Bool
  deriving DecidableEq, Repr

/-- A COLLECTIVE record (R303). -/
structure Plan where
  idx : Nat
  plan : Nat
  op : Nat
  rop : Nat
  fmt : Nat
  rm : Nat
  sat : Bool
  elems : Nat
  src : Nat
  dst : Nat
  first : Nat
  count : Nat
  stride : Nat
  sigKind : Nat
  sig : Nat
  x : Nat
  y : Nat
  stream : W16
  dirty : Bool
  deriving DecidableEq, Repr

/-- The header of a weave (R290). -/
structure Header where
  kind : Nat
  mode : Nat
  id : W64
  base : W64
  geom : List W32
  herdN : Nat
  herds : Nat
  k : Nat
  epoch : Nat
  seed : W64
  near : Nat
  far : Nat
  drain : Nat
  nsect : Nat
  total : Nat
  deriving DecidableEq, Repr

/-- A weave as a device holds it, its TILE and CHANNEL records being those of the device (R308). -/
structure Weave where
  hdr : Header
  tiles : List TileRec
  chans : List ChanRec
  loops : List LoopRec
  skews : List SkewRec
  plans : List Plan
  ranges : SMap Range
  deriving DecidableEq, Repr

/-- What an abandoned apply restores (R320), until the step after the apply starts: the weave and portion in force before, the send
endpoints that were affected from outside, the epoch and the identifier. -/
structure Undo where
  weave : Option Weave
  portion : List Byte
  told : List (TileId × Nat)
  epoch : Nat
  id : Nat
  k : Nat
  member : List W16
  deriving DecidableEq, Repr

/-- A load or reconfiguration in progress (R309, R316): the queue of its command, if this device is the lead and the queue still
runs it; LEN, CLEAR and whether a step was in progress when it was given; the bytes of pass 1; the hash of pass 2; the
portion received, what it says, this device's refusal; commits passed in drain mode (R318). -/
structure Load where
  lead : Bool
  queue : Option (BitVec 4)
  len : Nat
  clear : Bool
  inStep : Bool
  bytes : List Byte
  hash : BitVec 384
  portion : List Byte
  next : Option Weave
  refusal : Option WeaveRefusal
  waited : Nat
  /-- Send endpoints here whose receivers, on other devices, are affected (R315). -/
  told : List (TileId × Nat)
  deriving DecidableEq, Repr

/-! ## Collectives (R373 to R386) -/

/-- A piece received: level, sending ordinal, bytes; and whether its digest has been checked. -/
structure Piece where
  level : Nat
  who : Nat
  data : List Byte
  checked : Bool
  fault : Option NodeFault
  deriving DecidableEq, Repr

/-- A run of a plan on this member (R375 to R379): the pieces received; once it has started, the partial held here and the next
level to combine; the result once it is known; whether its range is written; whether the run's error report is written
(R385); result digests that member 0 still awaits (R384). -/
structure Run where
  plan : Nat
  run : Nat
  started : Bool
  pieces : List Piece
  part : List Byte
  have_ : Bool
  level : Nat
  result : Option (List Byte)
  written : Bool
  reported : Bool
  awaits : List Nat
  early : List (Nat × List Byte)
  deriving DecidableEq, Repr

/-! ## The coordinator and the vote (R388 to R394) -/

/-- Where the coordinator of the job, or the aggregator of a herd, stands; `starting` while a START that it has sent is on its way. -/
inductive Stage where
  | none | starting | running | boundary | voting | standby | flipping | mirroring | rolling | reverting | held
  deriving DecidableEq, Repr

/-- The bookkeeping of the primary or of an aggregator: the step concerned, the ordinals whose clean END, yes vote or ACK is
held, and t0 of the vote. -/
structure Coord where
  stage : Stage
  step : Nat
  ends : List Nat
  votes : List Nat
  acks : List Nat
  t0 : Nat
  /-- The standby has taken over (R392); a fault met after the decision point asks, once the commit is done, for a rollback (1) or
  for a return to the commit before (2) (R24, R73, R391); resets of other devices that a STOT has announced and no RECOVERED has ended. -/
  acting : Bool
  rollAfter : Nat
  resets : List Nat
  /-- Run-steps commands in execution on the leads, as they have told the coordinator: lead, first step, last step (R408); the lead whose
  COMMIT_CTRL ACTION 3 is to end the step (R415). -/
  windows : List (Nat × Nat × Nat)
  rollLead : Option Nat
  deriving DecidableEq, Repr

/-- A run-steps command in execution at the lead (R415). -/
structure RunCmd where
  queue : Option (BitVec 4)
  first : Nat
  count : Nat
  stop : Bool
  deriving DecidableEq, Repr

/-- A commit-control command in execution: its queue, its action, and the step it acts on (R415). -/
structure CtrlCmd where
  queue : Option (BitVec 4)
  action : Nat
  step : Nat
  deriving DecidableEq, Repr

/-! ## Buddy mirroring (R69 to R74, R395 to R398) -/

/-- A mirror-table entry (R396). -/
structure MirrorEntry where
  frameA : Nat
  frameB : Nat
  sel : W32
  pend : W32
  deriving DecidableEq, Repr

/-- What a buddy keeps for one source: the frames of its mirror table, the entries by LPN, the chunks received in the stream
under way (LPN × 1,024 + SUB × 32 + CHUNK), the portion of the source's weave (R454), whether the stream under way has found no
space, and whether any stream has been accepted. -/
structure Source where
  table : List Nat
  pages : SMap MirrorEntry
  got : List Nat
  portion : List Byte
  refused : Bool
  accepted : Bool
  deriving DecidableEq, Repr

/-- Mirroring at the source: whether the buddy's next stream is its first one, sub-blocks to stream (LPN × 32 + SUB), those the host has
written since the last stream, those of the stream under way, whether one is under way, whether one is due, and the former buddy while
a disable waits, with whether the next commit has come (R70) and whether its own first stream is still to be accepted. -/
structure Mirror where
  first : Bool
  todo : List Nat
  hostWrote : List Nat
  streaming : Bool
  due : Bool
  former : Option (Nat × Bool)
  formerFirst : Bool
  sent : List Nat
  deriving DecidableEq, Repr

/-! ## What firmware keeps in flash (R305, R366, R422) -/

/-- A public-key slot: empty, a key, or revoked (R305, R422). -/
inductive KeySlot where
  | empty
  | key (k : BitVec 768)
  | revoked
  deriving DecidableEq, Repr

/-! ## The fabric (R340 to R371) -/

/-- A packet in an input buffer (R346, R351): its payload grows as its blocks arrive, `left` of which are still to come; the output that
it has been routed to, and whether that output has begun to send it. -/
structure InPkt where
  pkt : Packet
  left : Nat
  out : Option Nat
  begun : Bool
  deriving DecidableEq, Repr

/-- A packet that holds an output (R352): the port and the virtual channel whose oldest packet it is, 16 for a packet of this device; the
packet as it leaves; its blocks sent so far. -/
structure Held where
  src : Nat
  vc : Nat
  pkt : Packet
  sent : Nat
  deriving DecidableEq, Repr

/-- A fabric port's link state. At the receiver: the next LSEQ, good blocks since the last ACK, whether units are discarded until a
replay begins, failures of the block awaited, the NAK, the ACK and the credit that are due, the input buffers by virtual channel, and the
channel of the packet whose payload is arriving (R341 to R346, R351). At the transmitter: the next LSEQ, blocks not acknowledged, blocks
that are still to go with the units of the first that have gone, whether a replay begins, replays of the oldest block, credit by virtual
channel, packets of this device that wait, the packet that holds the output, the refusals in a row of REQ and of BG, and the input served
last, by class (R344, R351, R352). Beside them: lanes good here and at the peer, presets asked for by the peer, its IDENT, and whether the
link is to leave ACTIVE. -/
structure Port where
  rxNext : Nat
  good : Nat
  waitRs : Bool
  fails : Nat
  nakDue : Option Nat
  ackDue : Bool
  credDue : SMap Nat
  inq : SMap (List InPkt)
  rxIn : Option Nat
  txNext : Nat
  replay : List LinkBody
  tx : List LinkBody
  off : Nat
  rs : Bool
  tries : Nat
  credit : SMap Nat
  inj : List Packet
  hold : Option Held
  lateReq : Nat
  lateBg : Nat
  turns : SMap Nat
  lanesHere : Byte
  rxPeer : Byte
  presets : SMap Nat
  ident : BitVec 256
  lost : Bool
  /-- The time at which the peer's LSA with no port in its mask arrived (R509). -/
  bye : Option Nat
  deriving DecidableEq, Repr

/-- A destination's rate limit (R371): RATE, the time of the last cut, and the bucket, in eighths of a byte, at a time in ns. -/
structure Rate where
  rate : Nat
  cut : Nat
  level : Nat
  at_ : Nat
  deriving DecidableEq, Repr

/-- A computed route to a position: routable, direction, hops (OL_RT_n). -/
structure Route where
  valid : Bool
  dir : Nat
  hops : Nat
  deriving DecidableEq, Repr

/-! ## Repair, bring-up, power (R447, R456 to R517, R539 to R547) -/

/-- A fault mark on a physical column (R482, R484): the row of the faulty tile or router, its CAUSE (1 compute, 2 router, 3 self-test),
and whether the map in force holds it; one that is not loaded reads PENDING. -/
structure ColMark where
  col : Nat
  row : Nat
  cause : Nat
  loaded : Bool
  deriving DecidableEq, Repr

/-- The soft map in flash (R484): its sequence number, the fault marks, soft SRAM repairs in force and queued (array, row), and the
out-of-service marks of tiles (row × 68 + column), of the device and of its fabric ports. -/
structure Soft where
  seq : Nat
  marks : List ColMark
  repairs : List (Nat × Nat)
  queued : List (Nat × Nat)
  oosTiles : List Nat
  oosDevice : Bool
  oosPorts : List Nat
  deriving DecidableEq, Repr

/-- Bring-up (R458 to R472): whether it runs, its path (1 cold, 2 warm, 3 West half, 4 East half) and its next stage; whether
stage 9 has been completed since the last POR or BO; the reading CFGSEL will give; tiles that failed the self-test of stage 8
(physical), and tiles whose report has arrived. -/
structure BringUp where
  active : Bool
  path : Nat
  next : Nat
  done9 : Bool
  cfgRaw : Byte
  bad : List Nat
  heard : List TileId
  deriving DecidableEq, Repr

/-- Sideband pins and what holds the device in reset: RESET_N low, PERST_N low, WAKE_N low, TRST_N low, THERM_N driven low, the
system reference lost (R461, R537, R541 to R544); the instruction in the test access port. -/
structure Pins where
  resetLow : Bool
  perstLow : Bool
  wakeLow : Bool
  trstLow : Bool
  thermLow : Bool
  clkLost : Bool
  xtalLost : Bool
  tap : TapInstr
  deriving DecidableEq, Repr

/-- A power domain's motion (R502 to R505): the abort point reached (0 to 4), whether a wake event has come during the action that
runs, the waking step whose ready signal is awaited (1 regulator to 4 logic; 0 none), and the clients that have cleared their bit
since the domain was last settled. -/
structure PowerMove where
  point : Nat
  abort : Bool
  waking : Nat
  cleared : List Nat
  deriving DecidableEq, Repr

/-- Pronk (R512 to R515): the time at which the burst began and at which the last one ended, the thermal trips of the last 60 s. -/
structure Pronk where
  since : Option Nat
  lastEnd : Option Nat
  trips : List Nat
  deriving DecidableEq, Repr

/-- The state of the device. -/
structure State where
  pending : List Instr
  out : List Output
  /-- The next free value to draw (the model's own counter). -/
  free : Nat
  /-- The latest time a command has named, ns since power-on, and OPTIME at time 0 (R520). -/
  now : Nat
  optime0 : Nat
  /-- Register fields that differ from their reset value, by key (R5, R9). -/
  regs : SMap Nat
  /-- Write and read latches of the 64-bit registers, by offset (R6). -/
  wlatch : SMap W32
  rlatch : SMap W32
  tiles : SMap Tile
  recorder : Recorder
  reports : List Report
  nseq : W32
  temps : SMap Int
  volts : SMap Nat
  commons : SMap Byte
  /-- Commons words marked uncorrectable, by address / 8 (R249). -/
  commonsBad : List Nat
  sliceQ : SMap (List SliceReq)
  /-- Slices that have written their corrected-error record in this step (R249), and the tile each served last (R248). -/
  sliceOnce : List Nat
  sliceTurn : SMap Nat
  /-- The valid ranges of the interleave table (R78). -/
  ranges : SMap Range
  home : Home
  /-- Near and far memory: frame × 2 MiB + offset, where bit 23 of a frame number is the tier (R85, R94). An unlisted byte
  reads 0. `memBad` lists the 64-byte units that are uncorrectable, by address / 64 (R103, R104). -/
  mem : List Host.Cell
  memBad : List Nat
  /-- Near frames that hold mirror tables and copies of other devices (R94, R396). -/
  mirrorFrames : List Nat
  /-- An error of the device, not of a tile, has made the running step dirty (R104, R332, R385, R425, R551). -/
  endDirty : Bool
  mesh : Mesh
  /-- The combined end-of-step result of the tiles: none until it has reached the STAG, then whether it is dirty (R270). -/
  result : Option Bool
  /-- A snapshot in progress: WV_QS_DATA, EMPTY, SAT (R336). -/
  snapshot : Option (List W32 × Bool × Bool)
  /-- GEN of the last block heard from each sender on another device, and whether a rollback has overtaken it (R287, R443). -/
  heardGen : List (EndpointId × Byte × Bool)
  rootFlags : W64
  barriers : SMap (List TileId)
  /-- The plans of which this device is a member (R374). -/
  member : List W16
  /-- The job's SEED (R142). -/
  seed : W64
  /-- Queue pairs, the next SQ served round-robin, and the MSI-X table and pending bits (R399, R403, R410). -/
  queues : SMap Queue
  nextQ : Nat
  fetches : Nat
  msix : SMap W32
  msixPend : List Nat
  /-- The weave in force as this device holds it, its portion in the weave store, and K in force for the running interval
  (R58, R308). -/
  weave : Option Weave
  portion : List Byte
  kNow : Nat
  load : Option Load
  undo : Option Undo
  /-- Collective runs of the step, and runs begun per plan (R375). -/
  runs : List Run
  runCount : SMap Nat
  /-- Coordination: the primary's or aggregator's record, the standby's recorded decision, run-steps and commit-control
  commands in execution at the lead, the step at whose end a commit is asked for, whether a rollback is, whether the primary is
  lost (R392), and the step before the last commit (R394). -/
  coord : Coord
  decided : Option Nat
  cmdRun : Option RunCmd
  cmdCtrl : List CtrlCmd
  askCommit : Option Nat
  askRollback : Bool
  needPrimary : Bool
  /-- Mirroring is enabled on some device of the job (R72); the job is held for topology (R368); units that notices have named
  as out of service: subject, UNIT, LOC (R416, R448 to R450). -/
  jobMirror : Bool
  heldTopology : Bool
  outUnits : List (W32 × Byte × W32)
  /-- Units of `outUnits` that have been readmitted and wait for the reset that returns their column (R416, R485). -/
  backUnits : List (W32 × Byte × W32)
  beforeCommit : Nat
  /-- This device's END has been cast, and a PREPARE waits for its VOTE: 1 boundary, 2 commit; whether residue was found
  (R332, R389). -/
  ended : Bool
  prepared : Option (Nat × Bool)
  /-- Tiles that the rollback under way has still to end (R121), the step whose ACK of code 2 is due (R394), and whether a
  rollback has been decided after which the job has neither restarted nor been held. -/
  rolling : List TileId
  ackStep : Option Nat
  afterRoll : Bool
  /-- A START that waits here for its interval or for a reconfiguration (R92, R316); the step whose vote a reset of this device has
  interrupted after its VOTE, so that its homes still await the decision (R389). -/
  startWait : Option Nat
  undecided : Option Nat
  /-- Resets of domains of this device that faults have asked for, and those that run (R425, R436, R445). -/
  resetAsk : List Domain
  resetRun : List Domain
  /-- CODE, UNIT and LOC of the report behind each of these resets, for its RECOVERED notice (R438). -/
  causes : List (Domain × W16 × Byte × W32)
  mirror : Mirror
  sources : SMap Source
  /-- The expected-topology descriptor in force, and the one in flash, which takes effect at the next stage 6 or RETRAIN_ALL
  (R366); the key slots 1 to 7 (R422). -/
  descr : List Byte
  descrFlash : List Byte
  keys : SMap KeySlot
  /-- Fabric ports; LSAs held by in-herd position and the number of the last flood (R364); routes computed and not installed
  (R359); port weights installed (R357); the rate limiter by destination ordinal (R371); how many of the packets that each entry of
  `out` gives have been routed (R354, the model's own field); devices
  sent a CNE, with the time (R370); ports readmitted that wait for a boundary (R451). -/
  ports : SMap Port
  lsas : SMap Lsa
  lsaNum : W32
  routes : Option (List Route)
  weights : SMap Nat
  rates : SMap Rate
  routed : SMap Nat
  cneSent : List (Nat × Nat)
  portsBack : List Nat
  /-- Times of the resets and losses charged to each unit (R447): tiles by physical row × 68 + column, clusters from 0x10000, halves
  from 0x20000, the device at 0x30000, ports from 0x40000. -/
  charges : SMap (List Nat)
  /-- Notices received: SUBJECT and NSEQ (R439). -/
  seen : List (W32 × W32)
  /-- The mailbox (R422): MBX_BUF, and the result and output of the command that runs. The SMBus address (R423). -/
  mbxBuf : SMap Byte
  mbxRun : Option (Nat × List Byte)
  smbAddr : BitVec 7
  /-- Package power as last measured, W (R423, R515). -/
  watts : W16
  /-- The soft map, the fuses programmed (R487, R493), and the physical tiles that are fenced (row × 68 + column). -/
  soft : Soft
  /-- The older copy of the soft map in flash (R484). -/
  softOld : Soft
  fuses : List Nat
  fenced : List Nat
  /-- TIL_STATE.GEN of the physical tiles that serve no logical tile (R123, R443). -/
  physGen : SMap Byte
  bring : BringUp
  pins : Pins
  /-- The STAG: running; halted by the debugger; recovery firmware written (R464). The host port is released (R462); the time from
  which the watchdog counts. -/
  stagUp : Bool
  stagHalted : Bool
  recoveryFw : List Byte
  hostPort : Bool
  wdtFrom : Nat
  /-- Periodic self-test (R489): slices run, by tile × 4 + kind, since MAP_ST_STATUS.PASSES last moved. Corrected errors of the scrub pass by
  array and row, and where each array's scrub stands (R491). -/
  slices : SMap Nat
  scrubErrs : List (Nat × Nat × Nat)
  scrubPos : SMap Nat
  /-- Power: the motion of each domain, requests that hold a domain (client ACCESS), the Browse snapshot (R508), Pronk, whether a
  current trip has lowered the clocks (R533), the shutdown of R517, and sensors that have failed, with the time since when one
  differs from its neighbours (R547). -/
  moves : SMap PowerMove
  access : List Nat
  /-- Requests held until the device wakes (R502, R504, R507, R510), in the order of their arrival. -/
  heldReqs : List HeldReq
  snap : Option Snapshot
  pronk : Pronk
  tripped : Bool
  shutdown : Bool
  oddSensors : SMap Nat
  deriving DecidableEq, Repr

/-! ## Reset

State right after the first power-on, before bring-up: the fields at the values the register tables give, the always-on history empty,
the identity map of R479, and the recorder's first record (R527). -/

/-- The event record 0xD003 with DATA 0 that a recorder without a valid flash copy writes first (R527). -/
def firstRecord : Record :=
  { seq := 0, ver := 0, pcc := 0, again := 0, last := 0
    body := { code := 0xD003, flags := 0, unit := 8, loc := 0, ord := 0, sub := 0, opid := 0, step := 0, weave := 0, optime := 0
              temp := 0, cycle := Config.freeWord 0 0, volt := 0, sensor := Config.nearestSensor 8 0
              monitor := Config.nearestMonitor 8 0, data := 0 } }

def Recorder.first : Recorder :=
  { ring := [(0, firstRecord)], staging := [], nextSeq := 1, pcc := 0, second := 0, written := [(0xD003, 1)], dropped := []
    flushing := false, image := none, erasing := false, wanted := false, lastEnd := none, win := false, copyA := none, copyB := none
    pfHold := false, ckptOptime := 0, ckptPcc := 0, powered := true, shown := none }

def Mesh.empty : Mesh :=
  { seqs := [], kept := [], seen := [], asks := [], outs := [], seam := [], syncSeam := [], hops := [], cnt := [], faults := [], era := 0 }

def Home.empty : Home :=
  { table := [], outcomes := [], lastCommit := 0, closing := false, stalled := false, intervals := 0, sweepPos := [], sweepFrom := []
    sweepLast := [], cache := [], cows := [], accs := [], hostHeld := [], hostReads := [], gone := [], migQ := [], migNow := none, rewritten := [], farCap := []
    farWidth := [], farLost := [], rowErrs := [], scrubAt := [], remapped := [] }

def Coord.idle : Coord :=
  { stage := .none, step := 0, ends := [], votes := [], acks := [], t0 := 0, acting := false, rollAfter := 0, resets := [],
    windows := [], rollLead := none }

def Mirror.idle : Mirror :=
  { first := false, todo := [], hostWrote := [], streaming := false, due := false, former := none, formerFirst := false, sent := [] }

/-- Register fields that power-on finds away from their tables' values: SPARE_W and SPARE_E, the life-cycle fuses, the identity map. -/
def resetRegs : SMap Nat :=
  [(F.FLT_ESC_STATE.SPARE_E.key, 2), (F.FLT_ESC_STATE.SPARE_W.key, 2), (F.MAP_STATUS.LC.key, 1)]
    ++ (List.range Config.physCols).flatMap (fun n =>
      if n = 0 then [] else if n % 34 ≥ 32 then [((F.MAP_COL.STATE.ix n).key, 1)]
      else [((F.MAP_COL.LOGICAL.ix n).key, if n < 34 then n else n - 2)])

/-- The soft map as the device leaves final test: no mark, no repair (R479). -/
def Soft.first : Soft := { seq := 0, marks := [], repairs := [], queued := [], oosTiles := [], oosDevice := false, oosPorts := [] }

/-- The device right after reset. -/
def State.reset : State :=
  { pending := [], out := [], free := 0, now := 0, optime0 := 0, regs := resetRegs, wlatch := [], rlatch := [], tiles := []
    recorder := Recorder.first, reports := [], nseq := 0, temps := [], volts := [], commons := [], commonsBad := [], sliceQ := []
    sliceOnce := [], sliceTurn := [], ranges := [], home := Home.empty, mem := [], memBad := [], mirrorFrames := [], endDirty := false
    mesh := Mesh.empty, result := none, snapshot := none, heardGen := [], rootFlags := 0, barriers := [], member := [], seed := 0, queues := []
    nextQ := 0, fetches := 0, msix := [], msixPend := [], weave := none, portion := [], kNow := 1, load := none, undo := none, runs := []
    runCount := [], coord := Coord.idle, decided := none, cmdRun := none, cmdCtrl := [], askCommit := none, askRollback := false
    needPrimary := false, jobMirror := false, heldTopology := false, outUnits := [], backUnits := [], beforeCommit := 0, ended := false
    prepared := none, rolling := [], ackStep := none, afterRoll := false, startWait := none, undecided := none, resetAsk := [], resetRun := [], causes := [], mirror := Mirror.idle, sources := []
    descr := [], descrFlash := [], keys := [], ports := [], lsas := [], lsaNum := 0, routes := none, weights := [], rates := [], routed := []
    cneSent := [], portsBack := [], charges := [], seen := [], mbxBuf := [], mbxRun := none, smbAddr := 0x5A, watts := 0
    soft := Soft.first, softOld := Soft.first, fuses := [], fenced := [], physGen := []
    bring := { active := true, path := 1, next := 0, done9 := false, cfgRaw := 0, bad := [], heard := [] }
    pins := { resetLow := false, perstLow := false, wakeLow := false, trstLow := false, thermLow := false, clkLost := false
              xtalLost := false, tap := .idcode }
    stagUp := false, stagHalted := false, recoveryFw := [], hostPort := false, wdtFrom := 0, slices := [], scrubErrs := [], scrubPos := []
    moves := [], access := [], heldReqs := [], snap := none, pronk := { since := none, lastEnd := none, trips := [] }, tripped := false
    shutdown := false, oddSensors := [] }

end Sys2Proof.Machine
end

