-- ==== Sys2Proof/Machine/Ops.lean ====
section
/-! DEFINITION. The named operations over the state: sparse maps, register fields, tiles, bytes, reports and events. -/

namespace Sys2Proof.Machine

abbrev Outcome := Host.Outcome State Fault Refusal

/-! ## Sparse maps -/

/-- The value listed at a key. -/
def mapFind {V : Type} : SMap V → Nat → Option V
  | [], _ => none
  | (k, v) :: m, x => if x = k then some v else mapFind m x

/-- The value at a key, `d` where none is listed. -/
def mapGet {V : Type} (d : V) (m : SMap V) (x : Nat) : V := (mapFind m x).getD d

/-- List a value at a key, keeping the keys rising. -/
def mapIns {V : Type} (x : Nat) (v : V) : SMap V → SMap V
  | [] => [(x, v)]
  | (k, w) :: m => if x < k then (x, v) :: (k, w) :: m else if x = k then (x, v) :: m else (k, w) :: mapIns x v m

/-- Take a key off the list. -/
def mapDel {V : Type} (x : Nat) : SMap V → SMap V
  | [] => []
  | (k, w) :: m => if x = k then mapDel x m else (k, w) :: mapDel x m

/-- Set the value at a key in the map whose default is `d`: the default is never listed. -/
def mapPut {V : Type} [DecidableEq V] (d : V) (x : Nat) (v : V) (m : SMap V) : SMap V :=
  if v = d then mapDel x m else mapIns x v m

/-! ## Numbers and bytes -/

/-- Bits [hi:lo] of a number. -/
def bits (v hi lo : Nat) : Nat := v / 2 ^ lo % 2 ^ (hi + 1 - lo)

/-- Bit n of a number. -/
def bit (v n : Nat) : Bool := v / 2 ^ n % 2 == 1

/-- A number of `n` bytes, little-endian (R3). -/
def toBytes : Nat → Nat → List Byte
  | 0, _ => []
  | n + 1, v => BitVec.ofNat 8 v :: toBytes n (v / 256)

/-- The number that bytes hold, little-endian (R3). -/
def ofBytes : List Byte → Nat
  | [] => 0
  | b :: bs => b.toNat + 256 * ofBytes bs

/-- Sign-extend the low `w` bits of a number. -/
def sext (w v : Nat) : Int := if v % 2 ^ w ≥ 2 ^ (w - 1) then (v % 2 ^ w : Nat) - (2 ^ w : Nat) else (v % 2 ^ w : Nat)

/-- ⌈a / b⌉. -/
def cdiv (a b : Nat) : Nat := (a + b - 1) / b

/-- Write bytes into a map whose default is `d`, from a key on. -/
def writeBytes (d : Byte) : Nat → List Byte → SMap Byte → SMap Byte
  | _, [], m => m
  | a, b :: bs, m => writeBytes d (a + 1) bs (mapPut d a b m)

/-- Write bytes into a map whose unlisted bytes are undefined: every byte written is listed. -/
def insBytes : Nat → List Byte → SMap Byte → SMap Byte
  | _, [], m => m
  | a, b :: bs, m => insBytes (a + 1) bs (mapIns a b m)

/-- Read `n` bytes from a map whose default is `d`. -/
def readBytes (d : Byte) (m : SMap Byte) (a : Nat) : Nat → List Byte
  | 0 => []
  | n + 1 => mapGet d m a :: readBytes d m (a + 1) n

/-- A list without the first element that equals `x`. -/
def dropOne {α : Type} [DecidableEq α] (x : α) : List α → List α
  | [] => []
  | y :: ys => if y = x then ys else y :: dropOne x ys

/-- Add to a collection without order, unless it is there. -/
def addTo {α : Type} [DecidableEq α] (x : α) (xs : List α) : List α := if x ∈ xs then xs else x :: xs

/-- CRC-32C, polynomial 0x1EDC_6F41 (reflected 0x82F6_3B78), one byte at a time. -/
def crcBits : Nat → Nat → Nat
  | 0, c => c
  | n + 1, c => crcBits n (if c % 2 = 1 then (c / 2) ^^^ 0x82F63B78 else c / 2)

def crc32c (bs : List Byte) : W32 :=
  BitVec.ofNat 32 ((bs.foldl (fun c b => crcBits 8 (c ^^^ b.toNat)) 0xFFFFFFFF) ^^^ 0xFFFFFFFF)

/-! ## Register fields (R5, R9, R11) -/

/-- The value of a register field. -/
def State.fget (s : State) (f : Fld) : Nat := mapGet f.rst s.regs f.key

/-- Set a register field, as the hardware does. -/
def State.fset (s : State) (f : Fld) (v : Nat) : State :=
  { s with regs := mapPut f.rst f.key (v % 2 ^ f.width) s.regs }

/-- Add to a counting field, saturating. -/
def State.fadd (s : State) (f : Fld) (n : Nat) : State := s.fset f (min (s.fget f + n) (2 ^ f.width - 1))

/-- A one-bit field as a Bool. -/
def State.fbit (s : State) (f : Fld) : Bool := s.fget f == 1

def State.fsetb (s : State) (f : Fld) (b : Bool) : State := s.fset f (if b then 1 else 0)

/-! ## Outputs, free values, time -/

def State.emit (s : State) (o : Output) : State := { s with out := s.out ++ [o] }

def State.emits (s : State) (os : List Output) : State := { s with out := s.out ++ os }

/-- Draw the next free value: its seed, and the state that has moved on. -/
def State.draw (s : State) : Nat × State := (s.free + 1, { s with free := s.free + 1 })

/-- The latest time named never goes back. -/
def State.at (s : State) (t : Nat) : State := { s with now := max s.now t }

/-- OPTIME, in units of 1/1024 s (R520). -/
def State.optime (s : State) : BitVec 48 := BitVec.ofNat 48 (s.optime0 + s.now * 1024 / 1000000000)

/-- Tile and cluster numbers (R122). -/
def tileX (t : TileId) : Nat := t.toNat % 64
def tileY (t : TileId) : Nat := t.toNat / 64
def clusterOf (t : TileId) : Nat := tileY t / 4 * 16 + tileX t / 4
def isEast (t : TileId) : Bool := tileX t ≥ 32
def mkTile (x y : Nat) : TileId := BitVec.ofNat 11 (y % 32 * 64 + x % 64)

/-- This device's herd position, its ordinal, and its coordinate: position i × (N / 4) + j × (N / 16) + k of a herd of N, and
ordinal h × N + position (R77). -/
def State.pos (s : State) : Nat := s.fget F.HQ_HERD.POS
def State.herdN (s : State) : Nat := max 16 (s.fget F.HQ_HERD.N)
def State.ordAt (s : State) (h pos : Nat) : Nat := h * s.herdN + pos
def State.ord (s : State) : DevOrd := BitVec.ofNat 14 (s.ordAt (s.fget F.HQ_HERD.H) s.pos)

/-- Coordinates i, j and k of a position in a herd of `n`, and the position of coordinates (R77, R354). -/
def coordI (n pos : Nat) : Nat := pos / (n / 4) % 4
def coordJ (n pos : Nat) : Nat := pos % (n / 4) / (n / 16)
def coordK (n pos : Nat) : Nat := pos % (n / 16)
def posOf (n i j k : Nat) : Nat := i * (n / 4) + j * (n / 16) + k

/-- The physical column that serves a logical column under the map in force (R480). -/
def State.physCol (s : State) (x : Nat) : Nat :=
  ((List.range Config.physCols).find? (fun n =>
    s.fget (F.MAP_COL.STATE.ix n) == 0 && s.fget (F.MAP_COL.LOGICAL.ix n) == x)).getD x

/-- The physical tile that serves a logical tile is fenced (TIL_STATE.FENCED). -/
def State.isFenced (s : State) (t : TileId) : Bool := decide (tileY t * 68 + s.physCol (tileX t) ∈ s.fenced)

/-- LOC of a logical tile (R429). -/
def State.tileLoc (s : State) (t : TileId) : W32 :=
  BitVec.ofNat 32 (2 ^ 31 + tileX t * 2 ^ 25 + tileY t * 2 ^ 20 + s.physCol (tileX t) * 2 ^ 13 + tileY t * 2 ^ 8)

/-- Endpoint code of a logical tile, at the place that the map in force gives it (R252, FLT_MESH_PATH). -/
def State.tileCode (s : State) (t : TileId) : W16 := BitVec.ofNat 16 (s.physCol (tileX t) * 2 ^ 7 + tileY t)

/-- A half's mesh is stopped: the half or the device is in reset, in DEEP or powered down (R260). -/
def State.meshStopped (s : State) (east : Bool) : Bool :=
  decide (Domain.half east ∈ s.resetRun ∨ Domain.device ∈ s.resetRun)
    || [if east then 129 else 128, 158].any (fun d => decide (4 ≤ s.fget (F.PWR_STATE.STATE.ix d)))

/-- LOC of a unit that is not a tile: its index in [19:13] (R429). -/
def unitLoc (i : Nat) : W32 := BitVec.ofNat 32 (i % 128 * 2 ^ 13)

/-- A temperature sensor is failed (R547): it reads outside −40 °C to 150 °C, or has differed from both neighbours for 1 ms. Readings
are in units of 1/8 °C. -/
def State.sensorBad (s : State) (i : Nat) : Bool :=
  let v := mapGet 0 s.temps i
  decide (v < -320 ∨ 1200 < v) || (match mapFind s.oddSensors i with | some t => decide (t + 1000000 ≤ s.now) | none => false)

/-- The sensor used in place of one that is failed: the nearest valid one (R547). -/
def State.useSensor (s : State) (i : Nat) : Nat :=
  let valid := (List.range 48).filter (fun j => !s.sensorBad j)
  let far (j : Nat) : Nat := max i j - min i j
  if !s.sensorBad i then i
  else valid.foldl (fun b j => if s.sensorBad b || far j < far b then j else b) i

/-- An error report, or an event's body, with the fields that the device fills in itself (R429, R520). LEVEL (R295) has no field in
R429's layout (log 32). -/
def State.mkReport (s : State) (code : Nat) (flags : Nat) (unit : Byte) (loc : W32) (sub : Nat) (opid : Nat)
    (data : Nat) : Report :=
  let sn := BitVec.ofNat 6 (s.useSensor (Config.nearestSensor unit loc).toNat)
  let mn := Config.nearestMonitor unit loc
  { code := BitVec.ofNat 16 code, flags := BitVec.ofNat 8 flags, unit := unit, loc := loc, ord := s.ord
    sub := BitVec.ofNat 16 sub, opid := BitVec.ofNat 32 opid
    step := BitVec.ofNat 64 (s.fget F.STEP_CURRENT.STEP), weave := BitVec.ofNat 64 (s.fget F.WV_WEAVE_ID.ID)
    optime := s.optime
    temp := BitVec.ofInt 16 (mapGet 0 s.temps sn.toNat)
    cycle := Config.freeWord s.free 0
    volt := BitVec.ofNat 16 (mapGet 0 s.volts mn.toNat)
    sensor := sn, monitor := mn, data := BitVec.ofNat 128 data }

/-! ## The recorder (R518 to R528) -/

/-- HEAD of a record (R519). -/
def Record.head (r : Record) : W64 := BitVec.ofNat 64 (r.seq.toNat * 2 ^ 16 + r.ver.toNat)

/-- The 64 bytes of a report (R429). -/
def reportBytes (r : Report) : List Byte :=
  toBytes 2 r.code.toNat ++ toBytes 1 r.flags.toNat ++ toBytes 1 r.unit.toNat ++ toBytes 4 r.loc.toNat
    ++ toBytes 2 r.ord.toNat ++ toBytes 2 r.sub.toNat ++ toBytes 4 r.opid.toNat ++ toBytes 8 r.step.toNat
    ++ toBytes 8 r.weave.toNat ++ toBytes 6 r.optime.toNat ++ toBytes 2 r.temp.toNat ++ toBytes 4 r.cycle.toNat
    ++ toBytes 2 r.volt.toNat ++ toBytes 1 r.sensor.toNat ++ toBytes 1 r.monitor.toNat ++ toBytes 16 r.data.toNat

/-- The 128 bytes of a record (R519). -/
def recordBytes (r : Record) : List Byte :=
  let front := toBytes 8 r.head.toNat ++ toBytes 4 r.pcc.toNat ++ toBytes 2 r.again.toNat ++ toBytes 2 0
    ++ toBytes 6 r.last.toNat ++ toBytes 10 0 ++ reportBytes r.body ++ toBytes 16 0
  front ++ toBytes 4 (crc32c front).toNat ++ toBytes 4 0 ++ toBytes 8 r.head.toNat

/-- Every record held, in the ring and in the staging area; a staged merge stands for the record of the ring (R525). -/
def Recorder.held (r : Recorder) : List Record :=
  (r.ring.map Prod.snd).filter (fun q => !r.staging.any (fun x => x.seq == q.seq)) ++ r.staging

/-- Whether an error report was never to be dropped: FLAGS[1] or FLAGS[5] (R523). -/
def mustKeep (r : Report) : Bool := r.code.toNat < 0x9000 && (r.flags.getLsbD 1 || r.flags.getLsbD 5)

/-- Whether a record can take in a new event (R522): CODE 0x9000 to 0xCFFF, the same CODE, UNIT, LOC, ORD and SUB,
within 1 s, REPEAT not saturated, among the 8 records with the highest SEQ. -/
def canMerge (top : Nat) (q : Record) (r : Report) : Bool :=
  0x9000 ≤ r.code.toNat && r.code.toNat ≤ 0xCFFF
    && q.body.code == r.code && q.body.unit == r.unit && q.body.loc == r.loc && q.body.ord == r.ord
    && q.body.sub == r.sub && decide (r.optime.toNat ≤ q.last.toNat + 1024) && q.again != 0xFFFF#16
    && decide (top ≤ q.seq.toNat + 8)

/-- A merge (R522). -/
def mergeInto (q : Record) (r : Report) : Record :=
  { q with ver := q.ver + 1, again := q.again + 1, last := r.optime }

/-- The slot that a new record of the ring takes: a free one, or that of the lowest SEQ (R518). -/
def ringSlot (ring : SMap Record) : Nat :=
  match (List.range Config.ringSlots).find? (fun i => (mapFind ring i).isNone) with
  | some i => i
  | none =>
    (ring.foldl (fun acc (k, q) => match acc with
      | none => some (k, q.seq)
      | some (k', b) => if q.seq.toNat < b.toNat then some (k, q.seq) else some (k', b)) none).elim 0 Prod.fst

/-- Records are counted per second of OPTIME (R523): a record of a later second begins the count again. -/
def Recorder.roll (r : Recorder) (sec : Nat) : Recorder :=
  if r.second < sec then { r with second := sec, written := [] } else r

/-- Put a new record or merge it (R518, R522, R523, R525, R526); whether it was dropped and is to be counted. -/
def Recorder.add (r : Recorder) (b : Report) : Recorder × Bool :=
  if r.pfHold then (r, false) else
  let r := r.roll (b.optime.toNat / 1024)
  let top := r.nextSeq.toNat
  let best := r.held.foldl (fun acc q => if canMerge top q b then
      (match acc with | none => some q | some a => if a.seq.toNat < q.seq.toNat then some q else some a) else acc) none
  match best with
  | some q =>
    let q' := mergeInto q b
    if r.flushing then
      -- while a flush runs a merge goes to the staging area, not to the ring (R525)
      if r.staging.any (fun x => x.seq == q.seq) then
        ({ r with staging := r.staging.map (fun x => if x.seq == q.seq then q' else x) }, false)
      else if r.staging.length < Config.stageSlots then ({ r with staging := r.staging ++ [q'] }, false)
      else (r, true)
    else ({ r with ring := r.ring.map (fun (k, x) => (k, if x.seq == q.seq then q' else x)) }, false)
  | none =>
    let n := mapGet 0 r.written b.code.toNat
    if n ≥ 64 ∧ mustKeep b = false then
      ({ r with dropped := mapIns b.code.toNat (mapGet 0 r.dropped b.code.toNat + 1) r.dropped }, true)
    else
      let q : Record := { seq := r.nextSeq, ver := 0, pcc := r.pcc, again := 0, last := b.optime, body := b }
      if r.flushing ∧ r.staging.length ≥ Config.stageSlots then (r, true)
      else
        let r := { r with nextSeq := r.nextSeq + 1, written := mapIns b.code.toNat (n + 1) r.written }
        if r.flushing then ({ r with staging := r.staging ++ [q] }, false)
        else ({ r with ring := mapIns (ringSlot r.ring) q r.ring }, false)

/-- A report or event reaches the recorder (R518 to R526); an error report also asks for a flush (R524). -/
def State.record (s : State) (b : Report) : State :=
  let (r, lost) := s.recorder.add b
  let r := if b.code.toNat < 0x9000 then { r with wanted := true } else r
  let s := { s with recorder := r }
  if lost then s.fadd F.EVT_SUPPRESS.COUNT 1 else s

/-- "Writes one event record": an event with FLAGS 0 (R520). -/
def State.event (s : State) (code : Nat) (unit : Byte) (loc : W32) (sub : Nat) (data : Nat) : State :=
  s.record (s.mkReport code 0 unit loc sub 0 data)

/-- Two 8-byte halves of a DATA field. -/
def data2 (lo hi : Nat) : Nat := lo % 2 ^ 64 + hi % 2 ^ 64 * 2 ^ 64

/-- A refused register write (R8): the event 0x9001 names the register's offset in the device's own BAR0 map. -/
def State.refuseWrite (s : State) (off : Nat) (v : Nat) : State := s.event 0x9001 8 0 0 (data2 off v)

/-- A BAR access dropped or answered with all ones (R404, event 0x9002): BAR number, offset. -/
def State.barEvent (s : State) (bar off : Nat) : State := s.event 0x9002 8 0 0 (data2 bar off)

/-! ## Tiles -/

def Bank.undefinedBank (seed : Nat) : Bank := ⟨false, Config.freeAnchor seed, some seed, []⟩

/-- The image of a tile that no weave covers: no context (R295). -/
def Image.none : Image :=
  { ctx := false, level := 0, entry := 0, resume := 0, barmask := 0, dup := Option.none, handlers := [], windows := []
    regions := [], sreg := [], areg := [], preds := 0, checks := [], code := [] }

def Core.start : Core :=
  { pc := 0, sreg := [], areg := [], preds := 0, loops := [], handler := Option.none, held := 0, pend := []
    wait := .none, stopped := false }

/-- A tile as power-on leaves it (TIL_STATE, R446): in reset, its registers zero, its memory zeroed, its buffers, banks
and vector file undefined. -/
def Tile.reset : Tile :=
  { phase := 0, dirty := false, gen := 0, step := 0, resume := .entry, img := Image.none, core := Core.start, imem := []
    fifo := [], exec := [], enq := 0, unacked := []
    bufA := ⟨0, [], []⟩, bufB := ⟨0, [], []⟩, banks := [], bankSeed := 0, vec := ⟨0, []⟩
    mem := [], bad := [], arr := [], heads := [], tails := [], eps := [], skews := [], gather := [], flags := 0
    stats := [], once := [], chk1 := 0, dupOwn := [], dupPeer := [], sums := [], freeze := false, opsDone := 0
    cntSeed := 0, departs := 0 }

def State.tile (s : State) (t : TileId) : Tile := mapGet Tile.reset s.tiles t.toNat

def State.setTile (s : State) (t : TileId) (x : Tile) : State := { s with tiles := mapIns t.toNat x s.tiles }

/-- The sequence number of an operation (R111). -/
def Op.seq (o : Op) : W16 := BitVec.ofNat 16 o.n

/-- OPID: the sequence number in [31:16] and the PC in [15:4] (R429). -/
def opid (seq : Nat) (pc : BitVec 12) : Nat := seq % 2 ^ 16 * 2 ^ 16 + pc.toNat * 16

def Op.opid (o : Op) : Nat := Machine.opid o.n o.pc

/-- What an operation of a tile reports beside its effect on the tile: an error (R424), an event record, an output. -/
inductive Note where
  | err (code : Nat) (stops : Bool) (ask : Nat) (sub opid data : Nat)
  | event (code : Nat) (sub opid data : Nat)
  | out (o : Output)
  | flag (f : BitVec 6) (v : Bool)
  deriving DecidableEq, Repr

/-- FLAGS of a report (R429): step made dirty, context stopped, reset asked. -/
def errFlags (stops : Bool) (ask : Nat) : Nat := 1 + (if stops then 2 else 0) + ask * 4

/-- An error of a tile (R120, R424, R431): the step is dirty, and the report leaves for the STAG, on C0 when the error
stops the context. -/
def State.tileErr (s : State) (t : TileId) (code : Nat) (stops : Bool) (ask sub opid data : Nat) : State :=
  let r := s.mkReport code (errFlags stops ask) 0 (s.tileLoc t) sub opid data
  let x := s.tile t
  (s.setTile t { x with dirty := true, core := { x.core with stopped := x.core.stopped || stops } }).emit (.report r stops)

/-- An event of a tile (R520). -/
def State.tileEvent (s : State) (t : TileId) (code sub opid data : Nat) : State :=
  s.record (s.mkReport code 0 0 (s.tileLoc t) sub opid data)

def State.note (s : State) (t : TileId) : Note → State
  | .err code stops ask sub op data => s.tileErr t code stops ask sub op data
  | .event code sub op data => s.tileEvent t code sub op data
  | .out o => s.emit o
  | .flag f v => s.emit (.flagSet ⟨t, f, v, s.mesh.era⟩)

/-- Put a tile's new state, and what it reports. -/
def State.putTile (s : State) (t : TileId) (r : Tile × List Note) : State :=
  r.2.foldl (fun s n => s.note t n) (s.setTile t r.1)

/-- An error of a unit that is not a tile: its report (R424). -/
def State.unitErr (s : State) (code ask : Nat) (unit : Byte) (loc : W32) (sub : Nat) (data : Nat) : State :=
  s.emit (.report (s.mkReport code (errFlags false ask) unit loc sub 0 data) false)

/-- A record or report that a tile writes once in a step: whether it is due, and the tile that remembers it. -/
def Tile.oncePer (x : Tile) (o : Once) : Bool × Tile := if o ∈ x.once then (false, x) else (true, { x with once := o :: x.once })

/-- A corrected error: one event record per tile per step (R175, R198, R200, R233); array and address in DATA. -/
def Tile.correctedNote (x : Tile) (o : Once) (array addr : Nat) : Tile × List Note :=
  let (due, x) := x.oncePer o
  (x, if due then [.event 0x9010 0 0 (data2 array addr)] else [])

/-! ## Fabric ports -/

/-- Training states (R361). -/
def tsDisabled : Nat := 0
def tsDetect : Nat := 1
def tsLaneTest : Nat := 3
def tsAlign : Nat := 4
def tsIdent : Nat := 5
def tsCheck : Nat := 6
def tsCredit : Nat := 7
def tsStandby : Nat := 8
def tsActive : Nat := 9
def tsRetrain : Nat := 10
def tsFailed : Nat := 11

def State.portState (s : State) (p : Nat) : Nat := s.fget (F.OL_PORT_STATUS.STATE.ix p)
/-! ## Power domains (R495, R496), numbered as PWR_VOTE_d numbers them -/

inductive DomKind where
  | cluster | half | port | stack | far | device
  deriving DecidableEq, Repr

def domKind (d : Nat) : DomKind :=
  if d < 128 then .cluster else if d < 130 then .half else if d < 146 then .port else if d < 154 then .stack
  else if d < 158 then .far else .device

def PowerMove.settled : PowerMove := { point := 0, abort := false, waking := 0, cleared := [] }

def State.move (s : State) (d : Nat) : PowerMove := mapGet PowerMove.settled s.moves d

/-- The device domain is below RUN, or on its way back to it. -/
def State.deviceAsleep (s : State) : Bool := (s.move 158).point != 0

/-- A request that the sleeping device holds: it sets ACCESS, and is served once the device has woken (R498, R502, R504). -/
def State.keepReq (s : State) (i : HeldReq) : State := { s with heldReqs := s.heldReqs ++ [i], access := addTo 158 s.access }

end Sys2Proof.Machine
end

