-- ==== Sys2Proof/Machine/Clock.lean ====
section
/-! DEFINITION. Tile clocks and Pronk bursts (R511 to R516), in units of 10 MHz. -/

namespace Sys2Proof.Machine

/-- The clock of a mode (R511): Lean, or Sustained, between whose bursts Pronk-enabled runs. -/
def State.modeClock (s : State) : Nat := if s.fget F.PWR_MODE.MODE = 0 then 100 else 140

/-- The floor that R515 gives the mode. -/
def State.floorClock (s : State) : Nat := if s.fget F.PWR_MODE.MODE = 0 then 70 else 100

/-- Set both tile clocks; a throttled half stays at or below 1.0 GHz (R516). -/
def State.setClocks (s : State) (v : Nat) : State :=
  let cap (t : Bool) : Nat := if t then min v 100 else v
  (s.fset F.PWR_STATUS.W_CLK (cap (s.fbit F.PWR_STATUS.W_THROTTLE))).fset F.PWR_STATUS.E_CLK (cap (s.fbit F.PWR_STATUS.E_THROTTLE))

/-- PWR_PRONK as a word. -/
def State.pronkWord (s : State) : Nat :=
  s.fget F.PWR_PRONK.LOCKOUT * 2 ^ 31 + s.fget F.PWR_PRONK.TRIPS * 2 ^ 28 + s.fget F.PWR_PRONK.LAST_END * 2 ^ 26 + s.fget F.PWR_PRONK.LAST_MS

/-- A thermal trip (R514): the third within 60 s sets LOCKOUT, with one event record. -/
def State.thermalTrip (s : State) : State :=
  let trips := s.pronk.trips.filter (fun t => decide (s.now < t + 60000000000)) ++ [s.now]
  let s := { s with pronk := { s.pronk with trips := trips } }.fset F.PWR_PRONK.TRIPS (min 3 trips.length)
  if trips.length < 3 || s.fbit F.PWR_PRONK.LOCKOUT then s
  else let s := s.fsetb F.PWR_PRONK.LOCKOUT true; s.event 0xB001 8 0 0 s.pronkWord

/-- A burst ends (R513): 1 budget, 2 thermal trip, 3 current trip, MODE write or STEP clear. -/
def State.endBurst (s : State) (why : Nat) : State :=
  if !s.fbit F.PWR_STATUS.PRONK then s
  else
    let ms := min 300 ((s.now - s.pronk.since.getD s.now) / 1000000)
    let s := ((s.fsetb F.PWR_STATUS.PRONK false).fset F.PWR_PRONK.LAST_END why).fset F.PWR_PRONK.LAST_MS ms
    let s := { s with pronk := { s.pronk with since := none, lastEnd := some s.now } }.setClocks s.modeClock
    if why = 2 then s.thermalTrip else s

end Sys2Proof.Machine
end

