-- ==== Sys2Proof/Machine/Crypto.lean ====
section
/-! DEFINITION. The signature of a weave, a key or a life-cycle transition (R305, R422, R494): ECDSA on curve P-384 with
SHA-384, as FIPS 186-5 has it. PRESUMED: the constants of FIPS 180-4 and SP 800-186, which the spec names and does not print. -/

namespace Sys2Proof.Machine

/-! ## SHA-384 -/

def m64 : Nat := 2 ^ 64

def rotr64 (n x : Nat) : Nat := (x / 2 ^ n + x * 2 ^ (64 - n)) % m64

/-- The 64-bit words of a number, `n` of them, the most significant first. -/
def wordsOf (n v : Nat) : List Nat := (List.range n).map (fun i => v / m64 ^ (n - 1 - i) % m64)

/-- The round constants of SHA-384, eight words to a number. -/
def shaTable : List Nat := [
  0x428a2f98d728ae227137449123ef65cdb5c0fbcfec4d3b2fe9b5dba58189dbbc3956c25bf348b53859f111f1b605d019923f82a4af194f9bab1c5ed5da6d8118,
  0xd807aa98a303024212835b0145706fbe243185be4ee4b28c550c7dc3d5ffb4e272be5d74f27b896f80deb1fe3b1696b19bdc06a725c71235c19bf174cf692694,
  0xe49b69c19ef14ad2efbe4786384f25e30fc19dc68b8cd5b5240ca1cc77ac9c652de92c6f592b02754a7484aa6ea6e4835cb0a9dcbd41fbd476f988da831153b5,
  0x983e5152ee66dfaba831c66d2db43210b00327c898fb213fbf597fc7beef0ee4c6e00bf33da88fc2d5a79147930aa72506ca6351e003826f142929670a0e6e70,
  0x27b70a8546d22ffc2e1b21385c26c9264d2c6dfc5ac42aed53380d139d95b3df650a73548baf63de766a0abb3c77b2a881c2c92e47edaee692722c851482353b,
  0xa2bfe8a14cf10364a81a664bbc423001c24b8b70d0f89791c76c51a30654be30d192e819d6ef5218d69906245565a910f40e35855771202a106aa07032bbd1b8,
  0x19a4c116b8d2d0c81e376c085141ab532748774cdf8eeb9934b0bcb5e19b48a8391c0cb3c5c95a634ed8aa4ae3418acb5b9cca4f7763e373682e6ff3d6b2b8a3,
  0x748f82ee5defb2fc78a5636f43172f6084c87814a1f0ab728cc702081a6439ec90befffa23631e28a4506cebde82bde9bef9a3f7b2c67915c67178f2e372532b,
  0xca273eceea26619cd186b8c721c0c207eada7dd6cde0eb1ef57d4f7fee6ed17806f067aa72176fba0a637dc5a2c898a6113f9804bef90dae1b710b35131c471b,
  0x28db77f523047d8432caab7b40c724933c9ebe0a15c9bebc431d67c49c100d4c4cc5d4becb3e42b6597f299cfc657e2a5fcb6fab3ad6faec6c44198c4a475817]
def shaK : List Nat := shaTable.flatMap (wordsOf 8)

/-- The initial hash value of SHA-384. -/
def shaStart : List Nat := wordsOf 8
  0xcbbb9d5dc1059ed8629a292a367cd5079159015a3070dd17152fecd8f70e593967332667ffc00b318eb44a8768581511db0c2e0d64f98fa747b5481dbefa4fa4

/-- The number that bytes hold, most significant first. -/
def beBytes (bs : List Byte) : Nat := ofBytes bs.reverse
/-- Bytes of a number, most significant first. -/
def toBe (n v : Nat) : List Byte := (toBytes n v).reverse

/-- The exclusive or of rotations of a word. -/
def rotations (ns : List Nat) (x : Nat) : Nat := (ns.map (rotr64 · x)).foldl Nat.xor 0

/-- The word of the message schedule that follows sixteen words, the newest first. -/
def shaNext (w : List Nat) : Nat :=
  let back (i : Nat) : Nat := w.getD (i - 1) 0
  let small (ns : List Nat) (by_ i : Nat) : Nat := rotations ns (back i) ^^^ back i / 2 ^ by_
  (back 16 + back 7 + small [1, 8] 7 15 + small [19, 61] 6 2) % m64

/-- One round over the working variables a to h. Bit by bit, e chooses between f and g, and a, b and c vote. -/
def shaRound (v : List Nat) (kw : Nat) : List Nat :=
  let x (i : Nat) : Nat := v.getD i 0
  let chosen := x 6 ^^^ (x 4 &&& (x 5 ^^^ x 6))
  let voted := (x 0 &&& (x 1 ||| x 2)) ||| (x 1 &&& x 2)
  let feed := x 7 + kw + chosen + rotations [14, 18, 41] (x 4)
  ((feed + voted + rotations [28, 34, 39] (x 0)) % m64) :: v.take 3 ++ ((x 3 + feed) % m64) :: (v.drop 4).take 3

/-- The rounds of a block, for the constants still to be used: the first sixteen words come from the block. -/
def shaRounds : List Nat → List Nat → List Nat → List Nat → List Nat
  | [], _, _, v => v
  | k :: ks, block, w, v =>
    let x := block.headD (shaNext w)
    shaRounds ks block.tail ((x :: w).take 16) (shaRound v (k + x))

/-- The hash value after one more block of 128 bytes. -/
def shaBlock (h : List Nat) (block : List Byte) : List Nat :=
  List.zipWith (fun x y => (x + y) % m64) h (shaRounds shaK (wordsOf 16 (beBytes block)) [] h)

/-- The message with its padding: a one bit, zeros, and its length in bits in the last 16 bytes of a block. -/
def shaPadded (msg : List Byte) : List Byte :=
  let len := cdiv (msg.length + 17) 128 * 128
  msg ++ 0x80 :: toBe (len - msg.length - 1) (msg.length * 8)

/-- SHA-384 of a byte string, as a number. -/
def sha384 (msg : List Byte) : BitVec 384 :=
  let bs := shaPadded msg
  let h := (List.range (bs.length / 128)).foldl (fun h i => shaBlock h ((bs.drop (128 * i)).take 128)) shaStart
  BitVec.ofNat 384 ((h.take 6).foldl (fun n w => n * m64 + w) 0)

/-! ## The curve -/

def curveP : Nat := 2 ^ 384 - 2 ^ 128 - 2 ^ 96 + 2 ^ 32 - 1
def curveB : Nat := 0xb3312fa7e23ee7e4988e056be3f82d19181d9c6efe8141120314088f5013875ac656398d8a2ed19d2a85c8edd3ec2aef
def curveGx : Nat := 0xaa87ca22be8b05378eb1c71ef320ad746e1d3b628ba79b9859f741e082542a385502f25dbf55296c3a545e3872760ab7
def curveGy : Nat := 0x3617de4a96262c6f5d9e98bf9292dc29f8f41dbd289a147ce9da3113b5f0b8c00a60b1ce1d7e819d7a431d7c90ea0e5f
def curveN : Nat := 0xffffffffffffffffffffffffffffffffffffffffffffffffc7634d81f4372ddf581a0db248b0a77aecec196accc52973

/-- b^e mod m, over the low `k` bits of e, least significant first. -/
def powMod (m : Nat) : Nat → Nat → Nat → Nat → Nat
  | 0, _, _, acc => acc
  | k + 1, b, e, acc => powMod m k (b * b % m) (e / 2) (if e % 2 = 1 then acc * b % m else acc)

/-- The inverse modulo a prime. -/
def invMod (m a : Nat) : Nat := powMod m 384 (a % m) (m - 2) 1

def subMod (m a b : Nat) : Nat := (a + (m - b % m)) % m

/-- A point (X, Y, Z) with x = X / Z² and y = Y / Z³; Z = 0 is the point at infinity. -/
abbrev CurvePt := Nat × Nat × Nat

def ptDouble (q : CurvePt) : CurvePt :=
  let p := curveP
  let (x, y, z) := q
  let d := z * z % p
  let g := y * y % p
  let b := x * g % p
  let a := 3 * (subMod p x d * ((x + d) % p) % p) % p
  let x3 := subMod p (a * a % p) (8 * b % p)
  let z3 := subMod p (subMod p ((y + z) * (y + z) % p) g) d
  (x3, subMod p (a * subMod p (4 * b % p) x3 % p) (8 * (g * g % p) % p), z3)

def ptAdd (q r : CurvePt) : CurvePt :=
  let p := curveP
  let (x1, y1, z1) := q
  let (x2, y2, z2) := r
  if z1 = 0 then r else if z2 = 0 then q else
  let u1 := x1 * (z2 * z2 % p) % p
  let u2 := x2 * (z1 * z1 % p) % p
  let s1 := y1 * (z2 * z2 % p * z2 % p) % p
  let s2 := y2 * (z1 * z1 % p * z1 % p) % p
  let h := subMod p u2 u1
  let k := subMod p s2 s1
  if h = 0 then (if k = 0 then ptDouble q else (1, 1, 0)) else
  let hh := h * h % p
  let v := u1 * hh % p
  let hhh := h * hh % p
  let x3 := subMod p (subMod p (k * k % p) hhh) (2 * v % p)
  (x3, subMod p (k * subMod p v x3 % p) (s1 * hhh % p), h * z1 % p * z2 % p)

/-- k times a point, over the low `n` bits of k, least significant first. -/
def ptMul : Nat → Nat → CurvePt → CurvePt → CurvePt
  | 0, _, _, acc => acc
  | n + 1, k, q, acc => ptMul n (k / 2) (ptDouble q) (if k % 2 = 1 then ptAdd acc q else acc)

/-- The point lies on the curve. -/
def onCurve (x y : Nat) : Bool :=
  decide (x < curveP ∧ y < curveP) && y * y % curveP == subMod curveP (x * x % curveP * x + curveB) (3 * x)

/-- Verify (r, s) over a hash with the public key (x, y). -/
def ecdsaOk (key : BitVec 768) (hash : BitVec 384) (r s : Nat) : Bool :=
  let x := key.toNat / 2 ^ 384
  let y := key.toNat % 2 ^ 384
  if !onCurve x y || r = 0 || r ≥ curveN || s = 0 || s ≥ curveN then false
  else
    let w := invMod curveN s
    let u1 := hash.toNat * w % curveN
    let u2 := r * w % curveN
    let (px, _, pz) := ptAdd (ptMul 384 u1 (curveGx, curveGy, 1) (1, 1, 0)) (ptMul 384 u2 (x, y, 1) (1, 1, 0))
    if pz = 0 then false
    else
      let zi := invMod curveP pz
      px * (zi * zi % curveP) % curveP % curveN == r

/-- The signature bytes of R305 from r on: 48 bytes of r and 48 of s, each little-endian (R3). -/
def signatureOk (key : BitVec 768) (msg rs : List Byte) : Bool :=
  ecdsaOk key (sha384 msg) (ofBytes (rs.take 48)) (ofBytes ((rs.drop 48).take 48))

end Sys2Proof.Machine
end

