-- ==== Sys2Proof/Machine/Irq.lean ====
section
/-! DEFINITION. Interrupts of the host (R399, R403, R407, R416, R420, R421): MSI-X messages and the causes; and the notices that the
device sends (R437, R438). -/

namespace Sys2Proof.Machine

/-- This device is the lead of its herd (R407). -/
def State.isLead (s : State) : Bool := s.fbit F.HQ_HERD.LEAD

/-- The device domain is in OFF. -/
def State.isOff (s : State) : Bool := s.fget (F.PWR_STATE.STATE.ix 158) == 5

/-- The host port answers nothing: the device is off, or the port is not released, or absent (R21, R462, R546). -/
def State.hostSilent (s : State) : Bool := s.isOff || !s.hostPort

/-! ## Interrupts (R399, R403, R420, R421) -/

/-- A double word of the MSI-X table: vectors are masked until the host unmasks them. -/
def State.msixWord (s : State) (i : Nat) : W32 := mapGet (if i % 4 = 3 then 1 else 0) s.msix i

/-- Send the message of a vector: a member that is not the lead sends none (R407), and a masked vector pends. -/
def State.signal (s : State) (v : Nat) : State :=
  if !s.isLead then s
  else if (s.msixWord (v * 4 + 3)).getLsbD 0 then { s with msixPend := addTo v s.msixPend }
  else s.emit (.msix v ((s.msixWord (v * 4)).toNat + (s.msixWord (v * 4 + 1)).toNat * 2 ^ 32) (s.msixWord (v * 4 + 2)))

/-- The FAULT cause becomes set (R421). -/
def State.faultCause (s : State) : State :=
  if s.fbit F.HQ_IRQ_CAUSE.FAULT then s
  else
    let s := s.fsetb F.HQ_IRQ_CAUSE.FAULT true
    if s.fbit F.HQ_IRQ_MAP.FAULT_EN then s.signal (s.fget F.HQ_IRQ_MAP.FAULT_VEC) else s

/-- The MBX cause becomes set (R421). -/
def State.mbxCause (s : State) : State :=
  if s.fbit F.HQ_IRQ_CAUSE.MBX then s
  else
    let s := s.fsetb F.HQ_IRQ_CAUSE.MBX true
    if s.fbit F.HQ_IRQ_MAP.MBX_EN then s.signal (s.fget F.HQ_IRQ_MAP.MBX_VEC) else s

/-- JOB_UNREC and JOB_HELD change with the FAULT cause (R416, R421). -/
def State.setHeld (s : State) (b : Bool) : State :=
  if s.fbit F.HQ_STATUS.JOB_HELD == b then s else (s.fsetb F.HQ_STATUS.JOB_HELD b).faultCause
def State.setUnrec (s : State) (b : Bool) : State :=
  if s.fbit F.HQ_STATUS.JOB_UNREC == b then s else (s.fsetb F.HQ_STATUS.JOB_UNREC b).faultCause

/-! ## Steps and notices (R32, R437, R438) -/

def State.current (s : State) : Nat := s.fget F.STEP_CURRENT.STEP
def State.committed (s : State) : Nat := s.fget F.STEP_COMMITTED.STEP

/-- A coordinate in the DST layout with TARGET 0, and the ordinal of one (R77, R347). -/
def State.coordWord (s : State) (o : Nat) : W32 :=
  let n := s.herdN
  let p := o % n
  BitVec.ofNat 32 (o / n * 2 ^ 24 + coordI n p * 2 ^ 22 + coordJ n p * 2 ^ 20 + coordK n p * 2 ^ 18)
def State.wordOrd (s : State) (w : W32) : Nat :=
  s.ordAt (bits w.toNat 31 24) (posOf s.herdN (bits w.toNat 23 22) (bits w.toNat 21 20) (bits w.toNat 19 18))

/-- A notice of this device, with the next sequence number (R437, R438). -/
def State.notify (s : State) (typ : Byte) (code : W16) (level : Nat) (unit : Byte) (loc : W32) (subject : Nat) : State :=
  let n : Notice := { code := code, level := BitVec.ofNat 8 level, unit := unit, loc := loc
                      step := BitVec.ofNat 64 s.current, subject := s.coordWord subject, nseq := s.nseq + 1, optime := s.optime }
  let manager := s.fbit F.FLT_FM_COORD.VALID && (typ == 0x11 || typ == 0x12 || typ == 0x13 || typ == 0x14)
  { s with nseq := s.nseq + 1 }.emit (.notice typ n manager)

end Sys2Proof.Machine
end

