-- ==== Sys2Proof/Machine/Num.lean ====
section
/-! DEFINITION. The numeric formats, the rounding modes, the random generator and the scalar functions
of Tahr (R126 to R147, R184 to R189, R552), each computed exactly on integers. -/

namespace Sys2Proof.Num

/-- A decoded value: a NaN, an infinity, or (−1)^neg × m × 2^e exactly (a zero keeps its sign). -/
inductive FVal where
  | nan
  | inf (neg : Bool)
  | fin (neg : Bool) (m : Nat) (e : Int)
  deriving DecidableEq, Repr

/-- A binary floating format without its NaN and infinity encodings: fraction bits and bias (R127, R130). -/
structure Fmt where
  frac : Nat
  bias : Nat
  expBits : Nat
  deriving DecidableEq, Repr

def fp32 : Fmt := ⟨23, 127, 8⟩
def bf16 : Fmt := ⟨7, 127, 8⟩
def fp16 : Fmt := ⟨10, 15, 5⟩
def e4m3 : Fmt := ⟨3, 7, 4⟩
def e5m2 : Fmt := ⟨2, 15, 5⟩
def e3m2 : Fmt := ⟨2, 3, 3⟩
def e2m3 : Fmt := ⟨3, 1, 2⟩
def e2m1 : Fmt := ⟨1, 1, 2⟩

/-- Magnitude bits of infinity: the exponent all ones, the fraction zero. -/
def Fmt.infBits (f : Fmt) : Nat := (2 ^ f.expBits - 1) * 2 ^ f.frac

/-- The exponent of one unit of the subnormal range. -/
def Fmt.qMin (f : Fmt) : Int := 1 - (f.bias : Int) - (f.frac : Int)

/-- The value of magnitude bits that are neither infinity nor NaN (R130). -/
def Fmt.magVal (f : Fmt) (bits : Nat) : Nat × Int :=
  let e := bits / 2 ^ f.frac
  let m := bits % 2 ^ f.frac
  if e = 0 then (m, f.qMin) else (2 ^ f.frac + m, f.qMin + (e : Int) - 1)

/-- Decode an IEEE 754 encoding (R127): `FP32`, `BF16` or `FP16`. -/
def Fmt.decode (f : Fmt) (w : Nat) : FVal :=
  let mag := w % 2 ^ (f.expBits + f.frac)
  let neg := (w / 2 ^ (f.expBits + f.frac)) % 2 == 1
  if mag > f.infBits then .nan
  else if mag = f.infBits then .inf neg
  else let (m, e) := f.magVal mag; .fin neg m e

/-- Rounding modes (R140). -/
inductive RM where
  | rne | rtz | rdn | rup | sr
  deriving DecidableEq, Repr

/-- The 3-bit rounding code; codes 5 to 7 are undefined (R140). -/
def RM.ofCode : Nat → Option RM
  | 0 => some .rne
  | 1 => some .rtz
  | 2 => some .rdn
  | 3 => some .rup
  | 4 => some .sr
  | _ => none

/-- How one operation rounds: its mode, its SAT bit and, for SR, the generator word of the element (R140, R141). -/
structure Rnd where
  rm : RM
  sat : Bool
  word : Nat
  deriving DecidableEq, Repr

/-- Whether the magnitude n + r/d rounds up to n + 1 (R140, R141). -/
def Rnd.up (c : Rnd) (neg : Bool) (n r d : Nat) : Bool :=
  match c.rm with
  | .rne => 2 * r > d || (2 * r == d && n % 2 == 1)
  | .rtz => false
  | .rdn => neg && r != 0
  | .rup => !neg && r != 0
  | .sr => r * 2 ^ 32 / d > c.word

/-- ⌊log2 (num / den)⌋ of positive numbers. -/
def log2Rat (num den : Nat) : Int :=
  let l : Int := (Nat.log2 num : Int) - (Nat.log2 den : Int)
  let below := if 0 ≤ l then num < den * 2 ^ l.toNat else num * 2 ^ (-l).toNat < den
  if below then l - 1 else l

/-- num / den × 2^e as a fraction of units of 2^q. -/
def scaleRat (num den : Nat) (e q : Int) : Nat × Nat :=
  if q ≤ e then (num * 2 ^ (e - q).toNat, den) else (num, den * 2 ^ (q - e).toNat)

/-- The magnitude bits that num / den × 2^e rounds to in a format whose exponent range has no upper end. -/
def Fmt.roundMag (f : Fmt) (c : Rnd) (neg : Bool) (num den : Nat) (e : Int) : Nat :=
  if num = 0 then 0 else
  let q := max (log2Rat num den + e - (f.frac : Int)) f.qMin
  let (n, d) := scaleRat num den e q
  let k := n / d + (if c.up neg (n / d) (n % d) d then 1 else 0)
  (q - f.qMin).toNat * 2 ^ f.frac + k

/-- The magnitude an overflowed result takes (R140, R141): IEEE 754 in modes 0 to 3, infinity in SR, and the
largest finite value under SAT. -/
def Fmt.overflow (f : Fmt) (c : Rnd) (neg : Bool) : Nat :=
  let big := f.infBits - 1
  if c.sat then big else
  match c.rm with
  | .rne => f.infBits
  | .rtz => big
  | .rdn => if neg then f.infBits else big
  | .rup => if neg then big else f.infBits
  | .sr => f.infBits

def Fmt.signBit (f : Fmt) (neg : Bool) : Nat := if neg then 2 ^ (f.expBits + f.frac) else 0

/-- The canonical NaN (R128). -/
def Fmt.nanBits (f : Fmt) : Nat := f.infBits + 2 ^ (f.frac - 1)

/-- Round the exact value (−1)^neg × num / den × 2^e into an IEEE format (R140). A non-zero value that rounds to
zero keeps its sign. -/
def Fmt.roundRat (f : Fmt) (c : Rnd) (neg : Bool) (num den : Nat) (e : Int) : Nat :=
  let m := f.roundMag c neg num den e
  f.signBit neg + (if m ≥ f.infBits then f.overflow c neg else m)

/-- Round a decoded value into an IEEE format; SAT does not change infinite or NaN inputs (R140). -/
def Fmt.ofVal (f : Fmt) (c : Rnd) : FVal → Nat
  | .nan => f.nanBits
  | .inf neg => f.signBit neg + f.infBits
  | .fin neg m e => f.roundRat c neg m 1 e

def exactRnd : Rnd := ⟨.rne, false, 0⟩

/-! ## The generator (R142) -/

/-- One round of Philox4x32. -/
def philoxRound (k : Nat × Nat) (c : Nat × Nat × Nat × Nat) : Nat × Nat × Nat × Nat :=
  let p0 := 0xD2511F53 * c.1
  let p1 := 0xCD9E8D57 * c.2.2.1
  (((p1 / 2 ^ 32) ^^^ c.2.1) ^^^ k.1, p1 % 2 ^ 32, ((p0 / 2 ^ 32) ^^^ c.2.2.2) ^^^ k.2, p0 % 2 ^ 32)

/-- Ten rounds, the key advancing by the two Weyl constants between them. -/
def philox : Nat → Nat × Nat → Nat × Nat × Nat × Nat → Nat × Nat × Nat × Nat
  | 0, _, c => c
  | n + 1, k, c =>
    philox n ((k.1 + 0x9E3779B9) % 2 ^ 32, (k.2 + 0xBB67AE85) % 2 ^ 32) (philoxRound k c)

/-- The generator word of element `e` (R142). -/
def genWord (seed : Nat) (purpose stream e step : Nat) : Nat :=
  let g := e / 4
  let o := philox 10 (seed % 2 ^ 32, seed / 2 ^ 32 % 2 ^ 32)
    (g % 2 ^ 32, purpose % 16 * 2 ^ 28 + stream % 2 ^ 16 * 2 ^ 12 + g / 2 ^ 32 % 2 ^ 12,
     step % 2 ^ 32, step / 2 ^ 32 % 2 ^ 32)
  match e % 4 with
  | 0 => o.1
  | 1 => o.2.1
  | 2 => o.2.2.1
  | _ => o.2.2.2

/-! ## FP32 arithmetic (R184 to R186) -/

def dec (w : W32) : FVal := fp32.decode w.toNat
def enc (n : Nat) : W32 := BitVec.ofNat 32 n
def nan32 : W32 := 0x7FC00000#32
def inf32 (neg : Bool) : W32 := if neg then 0xFF800000#32 else 0x7F800000#32
def zero32 (neg : Bool) : W32 := if neg then 0x80000000#32 else 0#32

/-- The signed integer (−1)^neg × m scaled from exponent `e` to exponent `q ≤ e`. -/
def atExp (neg : Bool) (m : Nat) (e q : Int) : Int :=
  let v : Int := (m * 2 ^ (e - q).toNat : Nat)
  if neg then -v else v

/-- Round the signed integer v × 2^q to FP32; an exact zero takes the sign `z`. -/
def roundInt (c : Rnd) (v : Int) (q : Int) (z : Bool) : W32 :=
  if v = 0 then zero32 z else enc (fp32.roundRat c (v < 0) v.natAbs 1 q)

/-- The sign of an exact zero sum of terms that are not all zeros of one sign (IEEE 754). -/
def zeroSign (rm : RM) : Bool := rm == .rdn

/-- The sum of two decoded values, rounded once. -/
def addVal (c : Rnd) : FVal → FVal → W32
  | .nan, _ => nan32
  | _, .nan => nan32
  | .inf s, .inf t => if s == t then inf32 s else nan32
  | .inf s, .fin .. => inf32 s
  | .fin .., .inf t => inf32 t
  | .fin s m e, .fin t n f =>
    let q := min e f
    let z := if m = 0 ∧ n = 0 ∧ s = t then s else zeroSign c.rm
    roundInt c (atExp s m e q + atExp t n f q) q z

def negVal : FVal → FVal
  | .nan => .nan
  | .inf s => .inf (!s)
  | .fin s m e => .fin (!s) m e

/-- The exact product of two decoded values: infinity times zero is a NaN. -/
def mulVal : FVal → FVal → FVal
  | .nan, _ => .nan
  | _, .nan => .nan
  | .inf s, .inf t => .inf (s ^^ t)
  | .inf s, .fin t n _ => if n = 0 then .nan else .inf (s ^^ t)
  | .fin s m _, .inf t => if m = 0 then .nan else .inf (s ^^ t)
  | .fin s m e, .fin t n f => .fin (s ^^ t) (m * n) (e + f)

def fadd (c : Rnd) (a b : W32) : W32 := addVal c (dec a) (dec b)
def fsub (c : Rnd) (a b : W32) : W32 := addVal c (dec a) (negVal (dec b))
def fmul (c : Rnd) (a b : W32) : W32 := enc (fp32.ofVal c (mulVal (dec a) (dec b)))
def fma (c : Rnd) (a b d : W32) : W32 := addVal c (mulVal (dec a) (dec b)) (dec d)

/-- Division of decoded values, rounded once (R184). -/
def divVal (c : Rnd) : FVal → FVal → W32
  | .nan, _ => nan32
  | _, .nan => nan32
  | .inf _, .inf _ => nan32
  | .inf s, .fin t _ _ => inf32 (s ^^ t)
  | .fin s _ _, .inf t => zero32 (s ^^ t)
  | .fin s m e, .fin t n f =>
    if n = 0 then (if m = 0 then nan32 else inf32 (s ^^ t))
    else if m = 0 then zero32 (s ^^ t)
    else enc (fp32.roundRat c (s ^^ t) m n (e - f))

def fdiv (c : Rnd) (a b : W32) : W32 := divVal c (dec a) (dec b)

def isNan (w : W32) : Bool := dec w == .nan
def isFinite (w : W32) : Bool := match dec w with | .fin .. => true | _ => false

/-- FABS and FNEG change only the sign bit of a non-NaN value (R184). -/
def fabs (a : W32) : W32 := if isNan a then nan32 else a &&& 0x7FFFFFFF#32
def fneg (a : W32) : W32 := if isNan a then nan32 else a ^^^ 0x80000000#32

/-- The encoding of a non-NaN FP32 as an integer that orders −0 below +0 (R185). -/
def ordKey (w : W32) : Int :=
  let m : Int := (w.toNat % 2 ^ 31 : Nat)
  if w.toNat ≥ 2 ^ 31 then -m - 1 else m

def fmin (a b : W32) : W32 :=
  if isNan a || isNan b then nan32 else if ordKey b < ordKey a then b else a
def fmax (a b : W32) : W32 :=
  if isNan a || isNan b then nan32 else if ordKey a < ordKey b then b else a

/-- The encoding as an integer under which −0 equals +0, for comparisons (R185). -/
def cmpKey (w : W32) : Int :=
  let m : Int := (w.toNat % 2 ^ 31 : Nat)
  if w.toNat ≥ 2 ^ 31 then -m else m

/-- FCMP conditions 0 EQ to 7 ORD (R185). -/
def fcmpHolds (cond : Nat) (a b : W32) : Bool :=
  let un := isNan a || isNan b
  let x := cmpKey a
  let y := cmpKey b
  match cond with
  | 0 => !un && x == y
  | 1 => un || x != y
  | 2 => !un && x < y
  | 3 => !un && x ≤ y
  | 4 => !un && y < x
  | 5 => !un && y ≤ x
  | 6 => un
  | _ => !un

/-- ICMP conditions 0 to 5; 6 and 7 are undefined and never enqueued (R186). -/
def icmpHolds (cond : Nat) (a b : W32) : Bool :=
  match cond with
  | 0 => a == b
  | 1 => a != b
  | 2 => a.slt b
  | 3 => a.sle b
  | 4 => a.ult b
  | 5 => a.ule b
  | _ => false

/-- Round num / den × 2^e to an integer magnitude. -/
def roundNat (c : Rnd) (neg : Bool) (num den : Nat) (e : Int) : Nat :=
  let (n, d) := scaleRat num den e 0
  n / d + (if c.up neg (n / d) (n % d) d then 1 else 0)

/-- CVTFI (R186). -/
def cvtfi (c : Rnd) (a : W32) : W32 :=
  match dec a with
  | .nan => 0#32
  | .inf s => if s then 0x80000000#32 else 0x7FFFFFFF#32
  | .fin s m e =>
    let v := roundNat c s m 1 e
    if s then (if v ≥ 2 ^ 31 then 0x80000000#32 else BitVec.ofInt 32 (-(v : Int)))
    else (if v ≥ 2 ^ 31 then 0x7FFFFFFF#32 else BitVec.ofNat 32 v)

/-- CVTIF (R184). -/
def cvtif (c : Rnd) (a : W32) : W32 := roundInt c a.toInt 0 false

/-! ## Functions (R187)

A result that is irrational is computed as a fixed-point number with 256 fraction bits, and half a unit is added so
that it is never taken for an exact value. -/

/-- Fraction bits of the fixed-point work. -/
def fx : Nat := 256
/-- ⌊π × 2^256⌋. -/
def piFx : Nat := 0x3243f6a8885a308d313198a2e03707344a4093822299f31d0082efa98ec4e6c89
/-- ⌊ln 2 × 2^256⌋. -/
def ln2Fx : Nat := 0xb17217f7d1cf79abc9e3b39803f2f6af40f343267298b62d8a0d175b8baafa2b

/-- Σ x^k / k! for x = z / 2^256, over the `n` terms from term `t` of index `k`. -/
def expSeries (z : Nat) : Nat → Nat → Nat → Nat
  | 0, _, _ => 0
  | n + 1, k, t => t + expSeries z n (k + 1) (t * z / 2 ^ fx / (k + 1))

/-- 2^f in units of 2^−256, for the fraction f = z / 2^256. -/
def exp2Fx (z : Nat) : Nat := expSeries (z * ln2Fx / 2 ^ fx) 64 0 (2 ^ fx)

/-- Σ z^(2k+1) / (2k+1): atanh, over `n` terms, with `p` the current power. -/
def atanhSeries (z2 : Nat) : Nat → Nat → Nat → Nat
  | 0, _, _ => 0
  | n + 1, k, p => p / (2 * k + 1) + atanhSeries z2 n (k + 1) (p * z2 / 2 ^ fx)

/-- log2 of m / 2^23 in units of 2^−256, for 2^23 ≤ m < 2^24. -/
def log2Fx (m : Nat) : Nat :=
  let z := (m - 2 ^ 23) * 2 ^ fx / (m + 2 ^ 23)
  2 * atanhSeries (z * z / 2 ^ fx) 96 0 z * 2 ^ fx / ln2Fx

/-- Σ (−1)^k x^(2k+i) / (2k+i)!: sine from (x, i = 1) and cosine from (1, i = 0), as a positive and a negative sum. -/
def trigSeries (x2 : Nat) : Nat → Nat → Nat → Nat × Nat
  | 0, _, _ => (0, 0)
  | n + 1, i, t =>
    let (p, q) := trigSeries x2 n (i + 2) (t * x2 / 2 ^ fx / ((i + 1) * (i + 2)))
    (t + q, p)

/-- sin(π r) in units of 2^−256, for 0 < r < 1/2 given as r × 2^256. -/
def sinpiFx (r : Nat) : Nat :=
  if r ≤ 2 ^ (fx - 2) then
    let x := r * piFx / 2 ^ fx
    let (p, q) := trigSeries (x * x / 2 ^ fx) 48 1 x
    p - q
  else
    let x := (2 ^ (fx - 1) - r) * piFx / 2 ^ fx
    let (p, q) := trigSeries (x * x / 2 ^ fx) 48 0 (2 ^ fx)
    -- the cosine of a nonzero angle is below 1
    min (p - q) (2 ^ fx - 1)

/-- Round the inexact fixed-point value v / 2^256 × 2^e (between v and v + 1 units). -/
def roundFx (c : Rnd) (neg : Bool) (v : Nat) (e : Int) : W32 :=
  enc (fp32.roundRat c neg (2 * v + 1) 1 (e - (fx : Int) - 1))

def frcp (c : Rnd) (a : W32) : W32 := divVal c (.fin false 1 0) (dec a)

/-- √ of m × 2^e for even e, with the sticky half unit when the root is not exact. -/
def sqrtMag (m : Nat) (e : Int) : Nat × Int :=
  let (m1, e1) := if e % 2 = 0 then (m, e) else (2 * m, e - 1)
  let w := m1 * 2 ^ 128
  let r := Nat.sqrt w
  (if r * r = w then 2 * r else 2 * r + 1, e1 / 2 - 65)

def fsqrt (c : Rnd) (a : W32) : W32 :=
  match dec a with
  | .nan => nan32
  | .inf s => if s then nan32 else inf32 false
  | .fin s m e =>
    if m = 0 then zero32 s else if s then nan32
    else let (r, q) := sqrtMag m e; enc (fp32.roundRat c false r 1 q)

/-- 1/√: the reciprocal of m × 2^e is formed with 400 more bits, and its root is then exact to 200 bits. -/
def frsqrt (c : Rnd) (a : W32) : W32 :=
  match dec a with
  | .nan => nan32
  | .inf s => if s then nan32 else zero32 false
  | .fin s m e =>
    if m = 0 then inf32 s else if s then nan32
    else
      let (m1, e1) := if e % 2 = 0 then (m, e) else (2 * m, e - 1)
      let w := 2 ^ 400 / m1
      let r := Nat.sqrt w
      let exact := r * r * m1 == 2 ^ 400
      enc (fp32.roundRat c false (if exact then 2 * r else 2 * r + 1) 1 (-(e1 / 2) - 201))

def fexp2 (c : Rnd) (a : W32) : W32 :=
  match dec a with
  | .nan => nan32
  | .inf s => if s then zero32 false else inf32 false
  | .fin s m e =>
    if m = 0 then 0x3F800000#32
    else if log2Rat m 1 + e ≥ 10 then
      -- |a| ≥ 2^10: far above the range, or far below it
      enc (fp32.roundRat c false 1 1 (if s then -1024 else 1024))
    else
      let v := atExp s m e (-(fx : Int))
      let n := v / (2 ^ fx : Nat)
      let f := (v % (2 ^ fx : Nat)).toNat
      if f = 0 then enc (fp32.roundRat c false 1 1 n) else roundFx c false (exp2Fx f) n

def flog2 (c : Rnd) (a : W32) : W32 :=
  match dec a with
  | .nan => nan32
  | .inf s => if s then nan32 else inf32 false
  | .fin s m e =>
    if m = 0 then inf32 true else if s then nan32
    else
      let l := Nat.log2 m
      let m1 := m * 2 ^ (23 - l)
      let n : Int := e + (l : Int)
      if m1 = 2 ^ 23 then roundInt c n 0 false
      else
        let v : Int := n * (2 ^ fx : Nat) + (log2Fx m1 : Nat)
        roundFx c (v < 0) v.natAbs 0

/-- ±sin(π r) for r in half turns × 2^256, r < 2: `neg` flips the sign; an exact zero takes the sign `z`. -/
def sinpiRound (c : Rnd) (r : Nat) (neg z : Bool) : W32 :=
  let one := 2 ^ fx
  let half := 2 ^ (fx - 1)
  let neg' := neg ^^ decide (r ≥ one)
  let r1 := r % one
  if r1 = 0 then zero32 z
  else if r1 = half then enc (fp32.roundRat c neg' 1 1 0)
  else roundFx c neg' (sinpiFx (if r1 < half then r1 else one - r1)) 0

/-- |a| modulo 2, in units of 2^−256. -/
def turnFx (m : Nat) (e : Int) : Nat :=
  if e ≥ 1 then 0 else (m * 2 ^ ((fx : Int) + e).toNat) % 2 ^ (fx + 1)

def fsinpi (c : Rnd) (a : W32) : W32 :=
  match dec a with
  | .nan => nan32
  | .inf _ => nan32
  | .fin s m e => sinpiRound c (turnFx m e) s s

def fcospi (c : Rnd) (a : W32) : W32 :=
  match dec a with
  | .nan => nan32
  | .inf _ => nan32
  | .fin _ m e => sinpiRound c ((turnFx m e + 2 ^ (fx - 1)) % 2 ^ (fx + 1)) false false

/-! The composite functions (R187): every step but the last in RNE without SAT. -/

def one32 : W32 := 0x3F800000#32

def fexp (c : Rnd) (x : W32) : W32 := fexp2 c (fmul exactRnd x 0x3FB8AA3B#32)
def fln (c : Rnd) (x : W32) : W32 := fmul c (flog2 exactRnd x) 0x3F317218#32
def fsigmoid (c : Rnd) (x : W32) : W32 :=
  frcp c (fadd exactRnd one32 (fexp exactRnd (fneg x)))
/-- `return y with the sign of x`. -/
def copySign (y x : W32) : W32 := if isNan y then nan32 else (y &&& 0x7FFFFFFF#32) ||| (x &&& 0x80000000#32)
def ftanh (c : Rnd) (x : W32) : W32 :=
  if isNan x then nan32
  else if cmpKey (fabs x) < cmpKey 0x39800000#32 then x
  else
    let e := fexp exactRnd (fmul exactRnd (fabs x) 0xC0000000#32)
    copySign (fmul c (fsub exactRnd one32 e) (frcp exactRnd (fadd exactRnd one32 e))) x
def fgelus (c : Rnd) (x : W32) : W32 :=
  match dec x with
  | .nan => nan32
  | .inf s => if s then zero32 true else inf32 false
  | .fin .. => fmul c x (fsigmoid exactRnd (fmul exactRnd x 0x3FD9DB23#32))
def fsilu (c : Rnd) (x : W32) : W32 :=
  match dec x with
  | .nan => nan32
  | .inf s => if s then zero32 true else inf32 false
  | .fin .. => fmul c x (fsigmoid exactRnd x)

/-! ## Exact reductions (R188) -/

/-- A running exact sum: its integer value in units of 2^q, the special values seen, and whether every term so far
was −0. -/
structure Sum where
  v : Int
  nan : Bool
  pinf : Bool
  ninf : Bool
  allNegZero : Bool
  deriving DecidableEq, Repr

/-- Unit of an FP32 sum, and of a sum of squares: every finite input is a whole number of them. -/
def sumQ (sq : Bool) : Int := if sq then -298 else -149

def Sum.empty : Sum := ⟨0, false, false, false, true⟩

/-- Add one input, or its square. -/
def Sum.add (sq : Bool) (s : Sum) (w : W32) : Sum :=
  match (if sq then mulVal (dec w) (dec w) else dec w) with
  | .nan => { s with nan := true }
  | .inf n => if n then { s with ninf := true } else { s with pinf := true }
  | .fin n m e => { s with v := s.v + atExp n m e (sumQ sq), allNegZero := s.allNegZero && (n && m == 0) }

def Sum.result (sq : Bool) (c : Rnd) (s : Sum) : W32 :=
  if s.nan || (s.pinf && s.ninf) then nan32
  else if s.pinf then inf32 false
  else if s.ninf then inf32 true
  else roundInt c s.v (sumQ sq) (c.rm == .rdn || s.allNegZero)

def rsum (sq : Bool) (c : Rnd) (xs : List W32) : W32 := (xs.foldl (Sum.add sq) Sum.empty).result sq c

/-- RMAX and RMIN order as FMAX and FMIN (R188). -/
def rext (f : W32 → W32 → W32) : List W32 → W32
  | [] => nan32
  | x :: xs => xs.foldl f (if isNan x then nan32 else x)

/-! ## Block-scaled elements (R129 to R131, R144 to R147, R552) -/

/-- The element encodings of the MX formats (R130). -/
inductive MxElem where
  | flt (f : Fmt) (top : Nat)     -- magnitude bits of the largest finite value
  | int (bits : Nat)
  deriving DecidableEq, Repr

/-- MX formats by their format code 0x3 to 0x9 (R126). -/
def MxElem.ofCode : Nat → Option MxElem
  | 3 => some (.flt e4m3 0x7E)
  | 4 => some (.flt e5m2 0x7B)
  | 5 => some (.flt e3m2 0x1F)
  | 6 => some (.flt e2m3 0x1F)
  | 7 => some (.flt e2m1 0x7)
  | 8 => some (.int 8)
  | 9 => some (.int 4)
  | _ => none

/-- Bits of one element. -/
def MxElem.width : MxElem → Nat
  | .flt f _ => 1 + f.expBits + f.frac
  | .int b => b

/-- Bytes of the 32 elements of a block (R131). -/
def MxElem.blockBytes (k : MxElem) : Nat := 4 * k.width

/-- The exponent of the largest finite element value (R130). -/
def MxElem.emax : MxElem → Int
  | .flt f top => ((top / 2 ^ f.frac : Nat) : Int) - (f.bias : Int)
  | .int _ => 0

/-- Fraction bits of an integer element: MXINT8 counts in 2^−6, MXINT4 in 2^−2. -/
def intFrac (b : Nat) : Int := (b : Int) - 2

/-- The value of one element of a block whose scale is X (R129, R130). -/
def MxElem.decode (k : MxElem) (x : Nat) (w : Nat) : FVal :=
  if x = 0xFF then .nan else
  let sc : Int := (x : Int) - 127
  match k with
  | .int b =>
    let i : Int := if w ≥ 2 ^ (b - 1) then (w : Int) - (2 ^ b : Nat) else (w : Int)
    .fin (i < 0) i.natAbs (sc - intFrac b)
  | .flt f top =>
    let mag := w % 2 ^ (f.expBits + f.frac)
    let neg := w / 2 ^ (f.expBits + f.frac) % 2 == 1
    if mag ≤ top then let (m, e) := f.magVal mag; .fin neg m (e + sc)
    else if f = e5m2 ∧ mag = f.infBits then .inf neg
    else .nan

/-- A signed integer element, `I` in two's complement: a magnitude above the largest finite one, 2^(b−1) − 1, becomes that one
(R130, R146). DEDUCED (log 12): for either sign. -/
def encInt (b : Nat) (neg : Bool) (mag : Nat) : Nat :=
  let m := min mag (2 ^ (b - 1) - 1)
  if neg && m != 0 then 2 ^ b - m else m

/-- The rounded magnitude of q = m × 2^e in the element format, before the clamp of R146. -/
def MxElem.roundMag (k : MxElem) (c : Rnd) (neg : Bool) (m : Nat) (e : Int) : Nat :=
  match k with
  | .flt f _ => f.roundMag c neg m 1 e
  | .int b => roundNat c neg m 1 (e + intFrac b)

/-- The largest finite element magnitude of R130, on the same scale as `roundMag`. -/
def MxElem.topMag : MxElem → Nat
  | .flt _ top => top
  | .int b => 2 ^ (b - 1) - 1

/-- One element from q (R146). -/
def MxElem.encode (k : MxElem) (c : Rnd) (neg : Bool) (m : Nat) (e : Int) : Nat :=
  let r := k.roundMag c neg m e
  match k with
  | .flt f top => (if neg then 2 ^ (f.expBits + f.frac) else 0) + min r top
  | .int b => encInt b neg r

/-- ⌊log2⌋ of the largest magnitude among the finite non-zero values of a block. -/
def maxExp (xs : List W32) : Option Int :=
  xs.foldl (fun acc w => match dec w with
    | .fin _ m e => if m = 0 then acc else
        let l := log2Rat m 1 + e
        some (match acc with | none => l | some a => max a l)
    | _ => acc) none

/-- The largest magnitude of a block, as an FP32 magnitude encoding. -/
def maxMag (xs : List W32) : Nat :=
  xs.foldl (fun acc w => if isFinite w then max acc (w.toNat % 2 ^ 31) else acc) 0

/-- Scale selection codes (R145). -/
inductive ScaleSel where
  | floor | ceil | explicit (x : Nat)
  deriving DecidableEq, Repr

/-- Encode a block of 32 FP32 values, each with its own rounding word: the scale X and the elements
(R145 to R147, R552). -/
def mxEncode (k : MxElem) (sel : ScaleSel) (c : Rnd) (xs : List (W32 × Nat)) : Nat × List Nat :=
  let vals := xs.map Prod.fst
  if vals.any (fun w => !isFinite w) then (0xFF, xs.map (fun _ => 0)) else
  let at_ (x : Nat) (w : W32) (word : Nat) : Bool × Nat × Int × Rnd :=
    match dec w with
    | .fin s m e => (s, m, e - ((x : Int) - 127), { c with word := word })
    | _ => (false, 0, 0, c)
  let flo : Nat := match maxExp vals with
    | none => 0
    | some l => (min 254 (max 0 (l - k.emax + 127))).toNat
  let x := match sel with
    | .floor => flo
    | .explicit x => x
    | .ceil =>
      let big := maxMag vals
      let exceeds := xs.any (fun (w, word) =>
        w.toNat % 2 ^ 31 == big &&
        (let (s, m, e, r) := at_ flo w word; k.roundMag r s m e > k.topMag))
      if big ≠ 0 ∧ exceeds then min 254 (flo + 1) else flo
  (x, xs.map (fun (w, word) => let (s, m, e, r) := at_ x w word; k.encode r s m e))

/-- Pack elements of `width` bits, the lowest-indexed in the lowest bits, into bytes (R131). -/
def packElems (width : Nat) (xs : List Nat) : List Byte :=
  let v := xs.foldr (fun x acc => acc * 2 ^ width + x % 2 ^ width) 0
  (List.range (xs.length * width / 8)).map (fun i => BitVec.ofNat 8 (v / 2 ^ (8 * i)))

/-- Unpack `n` elements of `width` bits (R131). -/
def unpackElems (width n : Nat) (bs : List Byte) : List Nat :=
  let v := bs.foldr (fun b acc => acc * 256 + b.toNat) 0
  (List.range n).map (fun i => v / 2 ^ (width * i) % 2 ^ width)

/-- Decode a block to FP32 (R147): exact, or infinity (the largest finite value with SAT) above the FP32 range. -/
def mxDecode (k : MxElem) (sat : Bool) (x : Nat) (ws : List Nat) : List W32 :=
  ws.map (fun w => enc (fp32.ofVal ⟨.rne, sat, 0⟩ (k.decode x w)))

/-- Round an exact signed integer in units of 2^e to FP32, BF16 or FP16 for a drain (R139): zero is +0. -/
def drainRound (f : Fmt) (c : Rnd) (v : Int) (e : Int) : Nat :=
  if v = 0 then 0 else f.roundRat c (v < 0) v.natAbs 1 e

/-- Convert an FP32 lane to BF16 or FP16 (R144). -/
def narrow (f : Fmt) (c : Rnd) (w : W32) : Nat := f.ofVal c (dec w)

/-- Widen a BF16 or FP16 encoding to FP32, exactly (R144). -/
def widen (f : Fmt) (w : Nat) : W32 := enc (fp32.ofVal exactRnd (f.decode w))

end Sys2Proof.Num
end

