-- ==== Sys2Proof/Machine/Operands.lean ====
section
/-! DEFINITION. Operand forms: the fields of Muntjac's instruction words (R202 to R226) and of the operation words of the
engines (R158, R164, R168, R177, R190, R244, R375), the rules under which an operation is not enqueued (R159, R164, R171,
R179, R193, R245), and the resources an operation names to the scoreboard (R112, R160, R180, R193). -/

namespace Sys2Proof.Machine

open Sys2Proof.Num

/-! ## Muntjac words -/

/-- OPC of an instruction word (R202). -/
def wOpc (w : W32) : Nat := bits w.toNat 31 26
/-- The guard: PN and PG (R202). -/
def wGuard (w : W32) : Bool × Nat := (bit w.toNat 25, bits w.toNat 24 22)
def wField (w : W32) (hi lo : Nat) : Nat := bits w.toNat hi lo
/-- D, A and B of the R and I formats (R202). -/
def wD (w : W32) : Nat := bits w.toNat 21 17
def wA (w : W32) : Nat := bits w.toNat 16 12
def wB (w : W32) : Nat := bits w.toNat 11 7
/-- IMM12, sign-extended (R204). -/
def wImm12 (w : W32) : W64 := BitVec.ofInt 64 (sext 12 (bits w.toNat 11 0))
/-- OFF22, signed (R202). -/
def wOff22 (w : W32) : Int := sext 22 (bits w.toNat 21 0)

/-- The OPC codes that R204 lists. -/
def opcListed (o : Nat) : Bool :=
  o ∈ [0x01, 0x02, 0x03, 0x04, 0x05, 0x06, 0x08, 0x09, 0x0A, 0x0B, 0x10, 0x11, 0x12, 0x13, 0x14, 0x15, 0x18, 0x19, 0x1A,
    0x1B, 0x1C, 0x1D, 0x1E, 0x1F, 0x20, 0x21, 0x24, 0x28, 0x29, 0x2A, 0x2B, 0x2C, 0x2E, 0x30, 0x31, 0x34, 0x35, 0x36,
    0x38, 0x3C, 0x3D, 0x3E]

/-! ## IBEX words (R158) -/

/-- The fields of an IBEX operation. K, M, N, AKB, BNC and BKB are counts (the encodings hold them minus 1, or as MSEL
and NSEL codes). -/
structure IbexF where
  opc : Nat
  bank : Nat
  clr : Bool
  tb : Bool
  chk : Nat
  fa : Nat
  fb : Nat
  msel : Nat
  nsel : Nat
  k : Nat
  anchor : BitVec 10
  resv : Nat
  aseg : Nat
  bseg : Nat
  akb : Nat
  ab0 : Nat
  bnc : Nat
  bkb : Nat
  bc0 : Nat
  bb0 : Nat
  deriving DecidableEq, Repr

def ibexF (w0 w1 : W64) : IbexF :=
  let a := w0.toNat
  let b := w1.toNat
  { opc := bits a 63 60, bank := bits a 59 58, clr := bit a 57, tb := bit a 56, chk := bits a 55 54, fa := bits a 53 50
    fb := bits a 49 46, msel := bits a 45 44, nsel := bits a 43 42, k := 32 * (bits a 41 36 + 1)
    anchor := BitVec.ofNat 10 (bits a 35 26), resv := bits a 25 0 + bits b 11 0
    aseg := bits b 63 58, bseg := bits b 57 52, akb := bits b 51 46 + 1, ab0 := bits b 45 40, bnc := bits b 39 32 + 1
    bkb := bits b 31 26 + 1, bc0 := bits b 25 18, bb0 := bits b 17 12 }

/-- 32, 16 or 8 by an MSEL or NSEL code (R158). -/
def selCount (c : Nat) : Nat := match c with | 0 => 32 | 1 => 16 | _ => 8

def IbexF.m (f : IbexF) : Nat := selCount f.msel
def IbexF.n (f : IbexF) : Nat := selCount f.nsel

def isMx (f : Nat) : Bool := 3 ≤ f && f ≤ 9
def isScalar16 (f : Nat) : Bool := f == 1 || f == 2

/-- eb: bytes of a block of 32 elements in an operand image (R131, R154). -/
def ebOf (f : Nat) : Nat := match MxElem.ofCode f with | some k => k.blockBytes | none => 64

/-- Image sizes (R154). -/
def imageBytes (fmt count blocks : Nat) : Nat := count * blocks * (ebOf fmt + (if isMx fmt then 1 else 0))
def IbexF.aBytes (f : IbexF) : Nat := if f.opc = 2 then f.m * 512 else imageBytes f.fa f.m f.akb
def IbexF.bBytes (f : IbexF) : Nat := imageBytes f.fb f.bnc f.bkb

/-- An IBEX operation that may be enqueued (R159). -/
def ibexLegal (f : IbexF) : Bool :=
  (f.opc == 1 || f.opc == 2 || f.opc == 3) && f.fa ≤ 0xA && f.msel ≠ 3 && f.nsel ≠ 3 && f.resv == 0
    && (match f.opc with
      | 1 => ((isMx f.fa && isMx f.fb) || (isScalar16 f.fa && isScalar16 f.fb))
          && f.ab0 + f.k / 32 ≤ f.akb
          && (if f.tb then f.bc0 + f.k ≤ f.bnc && f.bb0 < f.bkb
              else f.bc0 + f.n ≤ f.bnc && f.bb0 + f.k / 32 ≤ f.bkb)
          && f.aseg * 1024 + f.aBytes ≤ Config.bufBytes && f.bseg * 1024 + f.bBytes ≤ Config.bufBytes
      | 2 => f.fa == 0xA && f.aseg * 1024 + f.aBytes ≤ Config.bufBytes
      | _ => true)

/-! ## FILL (R164) and DRAIN (R168) words -/

structure FillF where
  opc : Nat
  seg : Nat
  units : Nat
  src : Nat
  resv : Nat
  deriving DecidableEq, Repr

def fillF (w : W64) : FillF :=
  let a := w.toNat
  ⟨bits a 63 60, bits a 59 54, bits a 53 44 + 1, bits a 20 0, bits a 43 21⟩

def fillLegal (f : FillF) : Bool :=
  f.opc == 4 && f.resv == 0 && f.src % 64 == 0 && f.seg * 1024 + f.units * 64 ≤ Config.bufBytes
    && f.src + f.units * 64 ≤ Config.tileMem

structure DrainF where
  opc : Nat
  bank : Nat
  rm : Nat
  sat : Bool
  fmt : Nat
  msel : Nat
  nsel : Nat
  sum : Bool
  dup : Bool
  stride : Nat
  vbase : Nat
  vresv : Nat
  dst : Nat
  resv : Nat
  stream : Nat
  ebase : Nat
  deriving DecidableEq, Repr

def drainF (w0 w1 : W64) : DrainF :=
  let a := w0.toNat
  let b := w1.toNat
  { opc := bits a 63 60, bank := bits a 59 58, rm := bits a 57 55, sat := bit a 54, fmt := bits a 53 50
    msel := bits a 49 48, nsel := bits a 47 46, sum := bit a 45, dup := bit a 44, stride := bits a 43 33
    vbase := bits a 37 33, vresv := bits a 43 38, dst := bits a 20 0, resv := bits a 32 21 + bits b 47 46
    stream := bits b 63 48, ebase := bits b 45 0 }

def DrainF.m (f : DrainF) : Nat := selCount f.msel
def DrainF.n (f : DrainF) : Nat := selCount f.nsel

/-- Bytes of one drained output (R170). -/
def DrainF.w (f : DrainF) : Nat := match f.fmt with | 0 => 4 | 0xA => 16 | _ => 2

/-- A DRAIN that may be enqueued (R168, R171). -/
def drainLegal (f : DrainF) : Bool :=
  (RM.ofCode f.rm).isSome && f.msel ≠ 3 && f.nsel ≠ 3 && f.resv == 0
    && (match f.opc with
      | 5 => (f.fmt == 0 || f.fmt == 1 || f.fmt == 2 || f.fmt == 0xA) && 1 ≤ f.stride && f.dst % 64 == 0
          && f.n * f.w ≤ f.stride * 64 && f.dst + (f.m - 1) * f.stride * 64 + f.n * f.w ≤ Config.tileMem
          && (!f.sum || f.dst + f.m * f.stride * 64 + 32 ≤ Config.tileMem)
      | 6 => f.fmt == 0 && !f.sum && f.vresv == 0 && f.dst == 0 && f.vbase + cdiv f.m 2 ≤ 32
      | _ => false)

/-! ## TAHR words (R177, R178, R190) -/

structure TahrF where
  opc : Nat
  vd : Nat
  va : Nat
  vb : Nat
  vc : Nat
  rm : Nat
  sat : Bool
  bsrc : Nat
  lenc : Nat
  resv : Nat
  ctl : Nat
  stream : Nat
  sresv : Nat
  ebase : Nat
  hi1 : Nat
  imm : W32
  -- form M
  fmt : Nat
  mrm : Nat
  msat : Bool
  sel : Nat
  mlenc : Nat
  sreg : Nat
  addr : Nat
  saddr : Nat
  deriving DecidableEq, Repr

def tahrF (w0 w1 : W64) : TahrF :=
  let a := w0.toNat
  let b := w1.toNat
  { opc := bits a 63 58, vd := bits a 57 53, va := bits a 52 48, vb := bits a 47 43, vc := bits a 42 38, rm := bits a 37 35
    sat := bit a 34, bsrc := bits a 33 32, lenc := bits a 31 29, resv := bits a 28 16, ctl := bits a 15 0
    stream := bits b 63 48, sresv := bits b 47 46, ebase := bits b 45 0, hi1 := bits b 63 32
    imm := BitVec.ofNat 32 (bits b 31 0)
    fmt := bits a 52 49, mrm := bits a 48 46, msat := bit a 45, sel := bits a 44 43, mlenc := bits a 42 40
    sreg := bits a 39 35, addr := bits a 34 20 * 64, saddr := bits a 19 0 * 2 }

def TahrF.len (f : TahrF) : Nat := 2 ^ f.lenc
def TahrF.mlen (f : TahrF) : Nat := 2 ^ f.mlenc

/-- The operands a form V operation reads: a, b, c (R183). -/
def tahrReads (opc : Nat) : Bool × Bool × Bool :=
  if opc ∈ [0x32, 0x35] then (false, false, false)
  else if opc ∈ [0x0B, 0x11, 0x12] then (true, true, true)
  else if opc ∈ [0x0E, 0x0F, 0x14, 0x15, 0x18, 0x19, 0x1A, 0x1B, 0x1C, 0x1D, 0x1E, 0x20, 0x21, 0x22, 0x23, 0x24, 0x25, 0x38,
    0x39, 0x3A, 0x3B, 0x3C, 0x3D] then (true, false, false)
  else (true, true, false)

/-- Whether the operation writes registers: all but the checks (R183). -/
def tahrWrites (opc : Nat) : Bool := opc ≠ 0x3C && opc ≠ 0x3D

/-- The form V operation codes (R183). -/
def tahrFormV (opc : Nat) : Bool :=
  (0x08 ≤ opc && opc ≤ 0x15) || (0x18 ≤ opc && opc ≤ 0x1E) || (0x20 ≤ opc && opc ≤ 0x25) || (0x28 ≤ opc && opc ≤ 0x32)
    || opc == 0x34 || opc == 0x35 || (0x38 ≤ opc && opc ≤ 0x3D)

/-- The rounding modes R183 allows: the greatest RM code, or none where RM and SAT must be 0. -/
def tahrRmMax (opc : Nat) : Option Nat :=
  if opc ∈ [0x08, 0x09, 0x0A, 0x0B, 0x13, 0x15, 0x38, 0x39] then some 4
  else if opc = 0x14 ∨ (0x18 ≤ opc ∧ opc ≤ 0x1E) then some 3
  else if 0x20 ≤ opc ∧ opc ≤ 0x25 then some 0
  else none

/-- The CTL bits an operation uses, as a mask (R553). -/
def tahrCtlMask (opc : Nat) : Nat :=
  if opc ∈ [0x10, 0x31, 0x38, 0x39, 0x3A, 0x3B] then 0x7
  else if opc = 0x35 then 0x1
  else if opc = 0x3C then 0x1FFF
  else if opc = 0x3D then 0x3FFF
  else 0

/-- CTL[2] of a reduction: ACROSS (R188). -/
def tahrAcross (f : TahrF) : Bool := 0x38 ≤ f.opc && f.opc ≤ 0x3B && bit f.ctl 2

/-- Registers of the destination group: one for a reduction across members (R179). -/
def TahrF.dlen (f : TahrF) : Nat := if tahrAcross f then 1 else f.len

/-- Registers that operand b covers: the group, one register, or none (R177, R179). -/
def TahrF.blen (f : TahrF) : Nat := match f.bsrc with | 0 => f.len | 1 => 1 | _ => 0

def TahrF.rng (f : TahrF) : Bool := f.rm == 4 || f.opc == 0x35

/-- A destination group that overlaps a source group without being identical to it (R179). -/
def clash (d dl v vl : Nat) : Bool := d < v + vl && v < d + dl && !(d == v && dl == vl)

/-- A form V operation that may be enqueued (R177 to R179, R183, R186, R194, R553); `valid` tells whether a check entry
is in use. -/
def tahrVLegal (f : TahrF) (valid : Nat → Bool) : Bool :=
  let (ra, rb, rc) := tahrReads f.opc
  tahrFormV f.opc && f.lenc ≤ 5 && f.resv == 0 && f.ctl &&& tahrCtlMask f.opc == f.ctl && f.bsrc ≠ 3
    && (match tahrRmMax f.opc with | none => f.rm == 0 && !f.sat | some m => f.rm ≤ m)
    && (if f.rng then f.sresv == 0 else f.hi1 == 0)
    && (!ra || f.va + f.len ≤ 32) && (!rb || f.vb + f.blen ≤ 32) && (!rc || f.vc + f.len ≤ 32)
    && (!tahrWrites f.opc || (f.vd + f.dlen ≤ 32
        && !(ra && clash f.vd f.dlen f.va f.len) && !(rb && f.blen ≠ 0 && clash f.vd f.dlen f.vb f.blen)
        && !(rc && clash f.vd f.dlen f.vc f.len)))
    && !(f.bsrc == 2 && f.rm == 4)
    && (f.opc ≠ 0x31 || f.ctl ≤ 5)
    && (!(f.opc == 0x3C || f.opc == 0x3D) || valid (bits f.ctl 12 7))

/-- Bytes of one element of LD and ST: w (R191). -/
def tahrW (fmt : Nat) : Nat := if fmt = 1 ∨ fmt = 2 then 2 else 4

/-- Bytes of elements, and of scales, that a form M operation moves (R191, R192). -/
def TahrF.elemBytes (f : TahrF) : Nat :=
  if f.opc ≤ 2 then 64 * tahrW f.fmt * f.mlen else 2 * f.mlen * ebOf f.fmt
def TahrF.scaleBytes (f : TahrF) : Nat := if f.opc ≤ 2 then 0 else 2 * f.mlen

/-- A form M operation that may be enqueued (R190, R193). -/
def tahrMLegal (f : TahrF) (w1 : W64) : Bool :=
  let stmx := f.opc == 4
  (f.opc == 1 || f.opc == 2 || f.opc == 3 || f.opc == 4)
    && (if f.opc ≤ 2 then f.fmt == 0 || f.fmt == 1 || f.fmt == 2 || f.fmt == 0xA else isMx f.fmt)
    && (if f.opc == 2 || stmx then (RM.ofCode f.mrm).isSome else f.mrm == 0)
    && (f.opc == 2 || !f.msat) && (if stmx then f.sel ≠ 3 else f.sel == 0) && ((stmx && f.sel == 2) || f.sreg == 0)
    && (f.opc ≥ 3 || f.saddr == 0) && f.mlenc ≤ 5
    && (if (f.opc == 2 || stmx) && f.mrm == 4 then f.sresv == 0 else w1 == 0)
    && f.vd + f.mlen ≤ 32 && f.addr + f.elemBytes ≤ Config.tileMem && f.saddr + f.scaleBytes ≤ Config.tileMem
    && !(f.scaleBytes ≠ 0 && f.addr < f.saddr + f.scaleBytes && f.saddr < f.addr + f.elemBytes)

/-! ## NET words (R244, R375) -/

structure MoveF where
  opc : Nat
  dir : Nat
  rgn : Bool
  rid : Nat
  ctr : BitVec 5
  cen : Bool
  len : Nat
  taddr : Nat
  far : Nat
  deriving DecidableEq, Repr

def moveF (w0 w1 : W64) : MoveF :=
  let a := w0.toNat
  ⟨bits a 63 60, bits a 59 57, bit a 56, bits a 55 52, BitVec.ofNat 5 (bits a 51 47), bit a 46, bits a 45 30 + 1,
    bits a 20 0, w1.toNat⟩

/-- The destination tile and address of a MOVE with DIR 4 (R244). -/
def MoveF.rx (f : MoveF) : Nat := bits f.far 31 26
def MoveF.ry (f : MoveF) : Nat := bits f.far 25 21
def MoveF.raddr (f : MoveF) : Nat := bits f.far 20 0

/-- End of the view that holds a Commons address (R247). -/
def commonsEnd (a : Nat) : Nat := if bit a 31 then 2 ^ 32 else 2 ^ 31

structure RrelF where
  rid : Nat
  count : Nat
  lines : Nat
  taddr : Nat
  resv : Nat
  deriving DecidableEq, Repr

def rrelF (w0 : W64) : RrelF :=
  let a := w0.toNat
  ⟨bits a 55 52, bits a 51 37, (bits a 36 21 + 1) * 64, bits a 20 0, bits a 59 56⟩

/-- Region fields of TIL_RGN_CFG (R241). -/
def rgnValid (c : W32) : Bool := bit c.toNat 31
def rgnSize (c : W32) : Nat := 2 ^ bits c.toNat 30 26
def rgnRec (c : W32) : Nat := 2 ^ bits c.toNat 25 22
def rgnBase (c : W32) : Nat := bits c.toNat 14 0 * 64
def rgnSlots (c : W32) : Nat := rgnSize c / rgnRec c

/-- A MOVE that may be enqueued by tile `t` (R244, R245). -/
def moveLegal (t : TileId) (regions : SMap W32) (f : MoveF) (w0 : W64) : Bool :=
  let rc := mapGet 0 regions f.rid
  let narrow := f.len == 4 || f.len == 8 || f.len == 16 || f.len == 32
  f.dir ≤ 4 && bits w0.toNat 29 21 == 0
    && (if f.dir ≤ 3 then f.taddr % 64 == 0 && f.far % 64 == 0 && f.len % 64 == 0
        else (f.len % 64 == 0 && f.taddr % 64 == 0 && f.raddr % 64 == 0)
          || (narrow && f.taddr % f.len == 0 && f.raddr % f.len == 0))
    && (f.dir ≥ 2 || (f.far < 2 ^ 32 && f.far + f.len ≤ commonsEnd f.far))
    && (f.dir ≠ 4 || (bits f.far 63 32 == 0 && f.raddr + f.len ≤ Config.tileMem && mkTile f.rx f.ry ≠ t))
    && (if f.rgn then (f.dir == 0 || f.dir == 2) && f.cen && f.taddr == 0 && rgnValid rc && f.len ≤ rgnRec rc
        else f.taddr + f.len ≤ Config.tileMem)

/-- An RREL that may be enqueued (R244, R245). -/
def rrelLegal (regions : SMap W32) (f : RrelF) (w1 : W64) : Bool :=
  let rc := mapGet 0 regions f.rid
  f.resv == 0 && w1 == 0 && 1 ≤ f.count && f.count ≤ 16384 && rgnValid rc
    && rgnBase rc ≤ f.taddr && f.taddr + f.lines ≤ rgnBase rc + rgnSize rc

/-- A CSTART that may be enqueued: its plan counts this device among its members (R245, R375). -/
def cstartLegal (plans : List W16) (w0 w1 : W64) : Bool :=
  bits w0.toNat 43 0 == 0 && w1 == 0 && BitVec.ofNat 16 (bits w0.toNat 59 44) ∈ plans

/-- Whether ISSUE may enqueue the words on the port (R214): `entries` are the tile's check entries, `plans` the plans of
which this device is a member. -/
def issueLegal (t : TileId) (port : Nat) (img : Image) (plans : List W16) (w0 w1 : W64) : Bool :=
  match port with
  | 0 => fillLegal (fillF w0)
  | 1 => fillLegal (fillF w0)
  | 2 => ibexLegal (ibexF w0 w1)
  | 3 => drainLegal (drainF w0 w1)
  | 4 =>
    let f := tahrF w0 w1
    if 1 ≤ f.opc ∧ f.opc ≤ 4 then tahrMLegal f w1
    else tahrVLegal f (fun e => ((mapFind img.checks e).elim false (fun c => c.getLsbD 171)))
  | _ =>
    match bits w0.toNat 63 60 with
    | 7 => moveLegal t img.regions (moveF w0 w1) w0
    | 8 => rrelLegal img.regions (rrelF w0) w1
    | 9 => cstartLegal plans w0 w1
    | _ => false

/-! ## Resources (R112) -/

/-- A kind of resource and a range of its units: A segments, B segments, banks, vector registers, tile-memory lines. -/
inductive ResKind where
  | segA | segB | bank | vreg | line
  deriving DecidableEq, Repr

/-- Units lo to hi − 1 of a kind. -/
structure Span where
  kind : ResKind
  lo : Nat
  hi : Nat
  deriving DecidableEq, Repr

def Span.overlaps (a b : Span) : Bool := a.kind == b.kind && a.lo < b.hi && b.lo < a.hi

def anyOverlap (xs ys : List Span) : Bool := xs.any (fun x => ys.any x.overlaps)

/-- The tile-memory lines of a byte range. -/
def lines (a n : Nat) : List Span := if n = 0 then [] else [⟨.line, a / 256, (a + n - 1) / 256 + 1⟩]

/-- TIL_CH_CFG and TIL_CH_PEER fields of an endpoint (R272, R273). -/
def Endpoint.valid (e : Endpoint) : Bool := bit e.cfg.toNat 31
def Endpoint.isRecv (e : Endpoint) : Bool := bit e.cfg.toNat 30
def Endpoint.active (e : Endpoint) : Bool := bit e.cfg.toNat 29
def Endpoint.inCommons (e : Endpoint) : Bool := bit e.cfg.toNat 28
def Endpoint.units (e : Endpoint) : Nat := 2 ^ bits e.cfg.toNat 27 23 / 64
def Endpoint.maxMsg (e : Endpoint) : Nat := (bits e.cfg.toNat 22 15 + 1) * 64
def Endpoint.stallLog2 (e : Endpoint) : Nat := bits e.cfg.toNat 14 10
def Endpoint.base (e : Endpoint) : Nat := bits e.peer.toNat 18 0 * 4096
/-- The endpoint that an identity in the send layout of TIL_CH_PEER names. -/
def endpointOf (w : Nat) : EndpointId :=
  ⟨BitVec.ofNat 14 (bits w 30 17), mkTile (bits w 16 11) (bits w 10 6), BitVec.ofNat 6 (bits w 5 0)⟩
def Endpoint.peerId (e : Endpoint) : EndpointId := endpointOf e.peer.toNat

def Endpoint.unused : Endpoint :=
  { cfg := 0, peer := 0, senders := [], depmask := 0, loop := 0, rank := 0, rd := 0, wr := 0, credit := 0, creditMax := 0
    seq := 0, recs := [], affected := false, msgs := 0, stalls := 0, hist := [] }

def Tile.ep (x : Tile) (c : BitVec 6) : Endpoint := mapGet Endpoint.unused x.eps c.toNat
def Tile.setEp (x : Tile) (c : BitVec 6) (e : Endpoint) : Tile := { x with eps := mapIns c.toNat e x.eps }

/-- Units of a message's record: r = 1 + ⌈LEN / 64⌉ (R274). -/
def recUnits (len : Nat) : Nat := 1 + cdiv len 64

/-- The ring byte address of a unit count (R277). -/
def Endpoint.unitAddr (e : Endpoint) (n : Nat) : Nat := e.base + n % e.units * 64

/-- The resources an operation reads, and those it writes (R112, R160, R164, R180, R193, R216, R218, R243, R246). -/
def Op.res (x : Tile) (o : Op) : List Span × List Span :=
  match o.kind with
  | .fill w =>
    let f := fillF w
    (lines f.src (f.units * 64), [⟨if o.port = 0 then .segA else .segB, f.seg, f.seg + cdiv f.units 16⟩])
  | .two w0 w1 _ =>
    match o.port with
    | 2 =>
      let f := ibexF w0 w1
      let bank : Span := ⟨.bank, f.bank, f.bank + 1⟩
      let a : Span := ⟨.segA, f.aseg, f.aseg + cdiv f.aBytes 1024⟩
      let b : Span := ⟨.segB, f.bseg, f.bseg + cdiv f.bBytes 1024⟩
      ((match f.opc with | 1 => [a, b] | 2 => [a] | _ => []) ++ (if f.opc ≠ 3 && !f.clr then [bank] else []), [bank])
    | 3 =>
      let f := drainF w0 w1
      ([⟨.bank, f.bank, f.bank + 1⟩],
        if f.opc = 6 then [⟨.vreg, f.vbase, f.vbase + cdiv f.m 2⟩]
        else (List.range f.m).flatMap (fun i => lines (f.dst + i * f.stride * 64) (f.n * f.w))
          ++ (if f.sum then lines (f.dst + f.m * f.stride * 64) 32 else []))
    | _ =>
      let f := tahrF w0 w1
      if f.opc ≤ 4 then
        let regs : List Span := [⟨.vreg, f.vd, f.vd + f.mlen⟩]
        let mem := lines f.addr f.elemBytes ++ lines f.saddr f.scaleBytes
        if f.opc = 1 ∨ f.opc = 3 then (mem, regs) else (regs, mem)
      else
        let (ra, rb, rc) := tahrReads f.opc
        ((if ra then [⟨.vreg, f.va, f.va + f.len⟩] else [])
          ++ (if rb && f.blen ≠ 0 then [⟨.vreg, f.vb, f.vb + f.blen⟩] else [])
          ++ (if rc then [⟨.vreg, f.vc, f.vc + f.len⟩] else []),
         if tahrWrites f.opc then [⟨.vreg, f.vd, f.vd + f.dlen⟩] else [])
  | .net w0 w1 =>
    match bits w0.toNat 63 60 with
    | 7 =>
      let f := moveF w0 w1
      if f.rgn then ([], []) else
      if f.dir = 0 ∨ f.dir = 2 then ([], lines f.taddr f.len) else (lines f.taddr f.len, [])
    | 8 => let f := rrelF w0; ([], lines f.taddr f.lines)
    | _ => ([], [])
  | .send _ a len _ => (lines a.toNat len, [])
  | .release ch =>
    let e := x.ep ch
    match e.recs with
    | r :: _ => if e.inCommons then ([], []) else ([], lines (e.unitAddr r.start) (r.units * 64))
    | [] => ([], [])
  | .atom .. => ([], [])

end Sys2Proof.Machine
end

