-- ==== Sys2Proof/Machine/Board.lean ====
section
/-! DEFINITION. The operation queue and the scoreboard (R110 to R117, R121), the context's outstanding writes (R45, R324,
R554), arrival counters (R238, R239) and the cycle counters of a tile (R124). -/

namespace Sys2Proof.Machine

/-! ## Phases (TIL_STATE.PHASE) -/

def phReset : BitVec 4 := 0x0
def phIdle : BitVec 4 := 0x1
def phGate : BitVec 4 := 0x2
def phRunning : BitVec 4 := 0x3
def phEnding : BitVec 4 := 0x4
def phClean : BitVec 4 := 0x5
def phDirty : BitVec 4 := 0x6
def phRolling : BitVec 4 := 0x7
def phNoContext : BitVec 4 := 0x8

/-- Counters count while PHASE is 0x3 or 0x4 and FREEZE is 0 (R124, R288). -/
def Tile.counting (x : Tile) : Bool := (x.phase == phRunning || x.phase == phEnding) && !x.freeze

/-- Operations of a port that wait, and that execute (R110). -/
def Tile.waiting (x : Tile) (p : Nat) : List Op := x.fifo.filter (fun o => o.port == p)
def Tile.running (x : Tile) (p : Nat) : List Op := x.exec.filter (fun o => o.port == p)

/-- The head of a port's FIFO (R113, condition 1). -/
def Tile.head (x : Tile) (p : Nat) : Option Op := (x.waiting p).head?

/-- Operations in execution that a port allows at once (R110). -/
def portSlots (p : Nat) : Nat := if p = 5 then Config.netSlots else 1

/-- Operations enqueued before `o` that have not completed. -/
def Tile.earlier (x : Tile) (o : Op) : List Op := (x.exec ++ x.fifo).filter (fun e => e.n < o.n)

/-- Condition 2 of R113: no earlier operation still has to write a source. -/
def Tile.sourcesReady (x : Tile) (o : Op) : Bool :=
  (x.earlier o).all (fun e => !anyOverlap (e.res x).2 (o.res x).1)

/-- A free record of a region (R241, R242). -/
def Tile.freeRecords (x : Tile) (rid : Nat) : Nat :=
  rgnSlots (mapGet 0 x.img.regions rid) - (mapGet 0 x.tails rid + 65536 - mapGet 0 x.heads rid) % 65536

/-- Condition 3 of R113: no earlier operation still reads or writes a destination, and a region move has a free record
(R242). -/
def Tile.roomReady (x : Tile) (o : Op) : Bool :=
  (x.earlier o).all (fun e => !anyOverlap ((e.res x).1 ++ (e.res x).2) (o.res x).2)
    && (match o.kind with
      | .net w0 w1 => bits w0.toNat 63 60 != 7 || !(moveF w0 w1).rgn || x.freeRecords (moveF w0 w1).rid ≥ 1
      | _ => true)

/-- Condition 4 of R113. -/
def Tile.portReady (x : Tile) (p : Nat) : Bool := (x.running p).length < portSlots p

/-- Condition 5 of R113: credit for the whole message (R281). -/
def Tile.creditReady (x : Tile) (o : Op) : Bool :=
  match o.kind with
  | .send ch _ len _ => recUnits len ≤ (x.ep ch).credit
  | _ => true

/-- A Commons byte range of a ring or a move, as slice-linear addresses: one address per byte block of 256 (R247). -/
def commonsLinear (a : Nat) : Nat :=
  if bit a 31 then bits a 13 8 * 2 ^ 25 + bits a 30 14 * 256 + bits a 7 0 else a

/-- Two Commons ranges overlap, either view: compared in blocks of 64 bytes, the unit of every Commons access (R245). -/
def commonsOverlap (a n b m : Nat) : Bool :=
  (List.range (n / 64)).any (fun i => let p := commonsLinear (a + 64 * i)
    (List.range (m / 64)).any (fun j => commonsLinear (b + 64 * j) == p))

/-- The far access of a NET operation: space (0 Commons, 1 job memory), address, length (R246). -/
def farAccess (o : Op) : Option (Nat × Nat × Nat) :=
  match o.kind with
  | .net w0 w1 =>
    let f := moveF w0 w1
    if f.opc ≠ 7 then none
    else if f.dir ≤ 1 then some (0, f.far, f.len)
    else if f.dir ≤ 3 then some (1, f.far, f.len)
    else none
  | .atom a _ wide _ _ _ => some (1, a.toNat, if wide then 8 else 4)
  | _ => none

def farOverlap : Nat × Nat × Nat → Nat × Nat × Nat → Bool
  | (s, a, n), (r, b, m) =>
    s == r && (if s = 0 then commonsOverlap a n b m else decide (a < b + m ∧ b < a + n))

/-- A NET access is held while an earlier one of the context that overlaps it executes (R246); the release of a message in
the Commons waits in the same way (R280). -/
def Tile.farReady (x : Tile) (o : Op) : Bool :=
  let mine := match o.kind with
    | .release ch =>
      let e := x.ep ch
      match e.recs with
      | r :: _ => if e.inCommons then some (0, e.unitAddr r.start, r.units * 64) else none
      | [] => none
    | _ => farAccess o
  match mine with
  | none => true
  | some m => x.exec.all (fun e => match farAccess e with | none => true | some f => !farOverlap f m)

/-- CSTART waits until every earlier write of the context is acknowledged (R375). -/
def Tile.ackReady (x : Tile) (o : Op) : Bool :=
  match o.kind with
  | .net w0 _ => bits w0.toNat 63 60 != 9 || x.unacked.all (fun u => o.n < u.n)
      && (x.earlier o).isEmpty
  | _ => true

/-- An operation can issue in a phase in which the tile runs its context or lets it drain (R114, R119, R121). -/
def Tile.issues (x : Tile) : Bool := x.phase == phRunning || x.phase == phEnding

/-- The issue rule (R113) with the holds of R246, R280 and R375. -/
def Tile.canIssue (x : Tile) (o : Op) : Bool :=
  x.issues && x.sourcesReady o && x.roomReady o && x.portReady o.port && x.creditReady o && x.farReady o && x.ackReady o

/-- The number of the first condition of R113 that the head of a port fails; 0 when it issues (R434). -/
def Tile.firstFail (x : Tile) (o : Op) : Nat :=
  if !x.sourcesReady o then 2 else if !x.roomReady o then 3 else if !x.portReady o.port then 4
  else if !x.creditReady o then 5 else 0

/-- The send at the NET head that waits on condition 5 of R113, and its endpoint (R285). -/
def Tile.blockedSend (x : Tile) : Option (Op × BitVec 6) :=
  match x.head 5 with
  | some o => match o.kind with | .send ch .. => if x.issues && !x.creditReady o then some (o, ch) else none | _ => none
  | none => none

/-- The send at the NET head that waits on credit alone (R285, R288). -/
def Tile.stalledSend (x : Tile) : Option (Op × BitVec 6) :=
  match x.blockedSend with
  | some (o, ch) => if x.sourcesReady o && x.roomReady o && x.portReady 5 then some (o, ch) else none
  | none => none

/-- The endpoint on which the context waits in RECV or DISPATCH (R288). -/
def Tile.recvWait (x : Tile) : Option (BitVec 6) := match x.core.wait with | .message ch .. => some ch | _ => none

/-- STALLS of an endpoint that waits goes on by a free number of cycles (R288). -/
def Tile.stallsMore (x : Tile) (n : Nat) : Tile :=
  (x.recvWait.toList ++ (x.stalledSend.map Prod.snd).toList).foldl (fun x ch =>
    x.setEp ch { x.ep ch with stalls := min (2 ^ 32 - 1) ((x.ep ch).stalls + (Config.freeCount n (64 + ch.toNat)).toNat) }) x

/-- The endpoints of tile `t` that wait have waited further cycles. -/
def State.moreStalls (s : State) (t : TileId) : State :=
  let x := s.tile t
  if x.recvWait.isNone && x.stalledSend.isNone then s
  else
    let (n, s) := s.draw
    s.setTile t (x.stallsMore n)

/-- The head of a port that issues now. -/
def Tile.issuable (x : Tile) (p : Nat) : Option Op :=
  match x.head p with
  | some o => if x.canIssue o then some o else none
  | none => none

/-- Move an operation from its FIFO into execution. -/
def Tile.toExec (x : Tile) (o : Op) : Tile := { x with fifo := dropOne o x.fifo, exec := x.exec ++ [o] }

/-- An operation completes: its port and its resources are free (R114); TIL_CNT_OPS counts it (R124). -/
def Tile.complete (x : Tile) (o : Op) : Tile :=
  { x with exec := dropOne o x.exec, opsDone := if x.counting then x.opsDone + 1 else x.opsDone }

/-- The one operation executing on a port of the engines. -/
def Tile.executing (x : Tile) (p : Nat) : Option Op := (x.running p).head?

/-- Whether a FIFO has room (R111). -/
def Tile.hasRoom (x : Tile) (p : Nat) : Bool := (x.waiting p).length < Config.fifoDepth

/-- Enqueue an operation, giving it the next sequence number (R111). -/
def Tile.enqueue (x : Tile) (port : Nat) (pc : BitVec 12) (kind : OpKind) : Tile × Op :=
  let o : Op := ⟨x.enq + 1, port, pc, kind⟩
  ({ x with fifo := x.fifo ++ [o], enq := x.enq + 1 }, o)

/-- DONE: every operation up to this number has completed (TIL_OPSEQ). -/
def Tile.doneSeq (x : Tile) : Nat :=
  (x.exec ++ x.fifo).foldl (fun m o => min m (o.n - 1)) x.enq

/-! ## Outstanding writes and fences (R45, R46, R117, R119) -/

/-- Whether an operation writes tile memory, the Commons or job memory; a send counts among the writes (R324). -/
def Op.writes (o : Op) : Bool :=
  match o.kind with
  | .fill _ => false
  | .two w0 _ _ =>
    match o.port with
    | 3 => bits w0.toNat 63 60 == 5
    | 4 => let c := bits w0.toNat 63 58; c == 2 || c == 4
    | _ => false
  | .net w0 _ => bits w0.toNat 63 60 == 7
  | .send .. => true
  | .release _ => false
  | .atom _ aop .. => aop != 0

/-- Whether an operation reads tile memory, the Commons or job memory. -/
def Op.reads (o : Op) : Bool :=
  match o.kind with
  | .fill _ => true
  | .two w0 _ _ =>
    match o.port with
    | 4 => let c := bits w0.toNat 63 58; c == 1 || c == 3
    | _ => false
  | .net w0 _ => bits w0.toNat 63 60 == 7
  | .send .. => true
  | .release _ => false
  | .atom .. => true

/-- A release fence may complete (R45, R117): every write enqueued has completed and been acknowledged. -/
def Tile.releaseDone (x : Tile) : Bool := (x.exec ++ x.fifo).all (fun o => !o.writes) && x.unacked.isEmpty

/-- An acquire fence may complete (R46, R117): every read enqueued has completed. -/
def Tile.acquireDone (x : Tile) : Bool := (x.exec ++ x.fifo).all (fun o => !o.reads)

/-- Every FIFO empty, every operation complete, every write acknowledged (R119). -/
def Tile.drained (x : Tile) : Bool := x.fifo.isEmpty && x.exec.isEmpty && x.unacked.isEmpty

/-! ## Arrival counters (R238, R239, R554) -/

/-- Add 1 to a counter; one that would pass 0xFFFF_FFFF stays, and the tile reports it (R239). -/
def Tile.increment (x : Tile) (c : BitVec 5) : Tile × List Note :=
  let v := mapGet 0 x.arr c.toNat
  if v ≥ 2 ^ 32 - 1 then
    ({ x with dirty := true }, [.err 0x1034 false 0 c.toNat 0 (data2 c.toNat 0)])
  else ({ x with arr := mapPut 0 c.toNat (v + 1) x.arr }, [])

def Tile.incrementOpt (x : Tile) : Option (BitVec 5) → Tile × List Note
  | none => (x, [])
  | some c => x.increment c

/-- One acknowledgement for operation `n` (R45); the last one applies a counter increment that waited for it (R554). -/
def Tile.acknowledge (x : Tile) (n : Nat) : Tile × List Note :=
  match x.unacked.find? (fun u => u.n == n) with
  | none => (x, [])
  | some u =>
    if u.parts > 1 then
      ({ x with unacked := x.unacked.map (fun v => if v.n == n then { v with parts := v.parts - 1 } else v) }, [])
    else ({ x with unacked := x.unacked.filter (fun v => v.n != n) }).incrementOpt u.inc

/-- The operation number that a 16-bit sequence number names among the outstanding writes or executing operations. -/
def Tile.unackedBySeq (x : Tile) (seq : W16) : Option Nat :=
  (x.unacked.find? (fun u => BitVec.ofNat 16 u.n == seq)).map Unacked.n
def Tile.execBySeq (x : Tile) (seq : W16) : Option Op := x.exec.find? (fun o => o.seq == seq)

/-! ## Tile-memory words (R230, R233) -/

/-- Bytes of tile memory, which zeros where nothing has been written (R446). -/
def Tile.readMem (x : Tile) (a n : Nat) : List Byte := readBytes 0 x.mem a n

/-- Uncorrectable words of a byte range, as word indices. -/
def badWords (bad : List Nat) (a n : Nat) : List Nat := bad.filter (fun w => decide (a < w * 8 + 8 ∧ w * 8 < a + n))

/-- Write bytes: a word written in full loses its uncorrectable mark, one written in part keeps it (R230, R233). -/
def Tile.writeMem (x : Tile) (a : Nat) (bs : List Byte) : Tile :=
  { x with mem := writeBytes 0 a bs x.mem, bad := x.bad.filter (fun w => !decide (a ≤ w * 8 ∧ w * 8 + 8 ≤ a + bs.length)) }

/-- What the code of tile memory finds as a client reads the range (R233): a corrected error is one event of the step; an uncorrectable
word takes its mark. -/
def Tile.meet (x : Tile) (m : WordErr) (a n : Nat) : Tile × List Note :=
  match m with
  | .none => (x, [])
  | .corrected p => if a < p / 8 * 8 + 8 ∧ p / 8 * 8 < a + n then x.correctedNote .word 1 (p / 8 * 8) else (x, [])
  | .uncorrectable p => (if a < p / 8 * 8 + 8 ∧ p / 8 * 8 < a + n then { x with bad := addTo (p / 8) x.bad } else x, [])

/-- A read that meets uncorrectable words: DIRTY, and a report for each, naming the address and the slot (R233). -/
def Tile.wordErrs (x : Tile) (a n slot opid : Nat) : List Note :=
  (badWords x.bad a n).map (fun w => .err 0x2001 false 0 slot opid (data2 (w * 8) slot))

end Sys2Proof.Machine
end

