-- ==== Sys2Proof/Machine/Ibex.lean ====
section
/-! DEFINITION. The FILL, IBEX and DRAIN ports (R152 to R175, R133 to R142): fills, multiply-accumulate on exact integers,
raw accumulate, clear, drains, sum records, the checksum row and column, and duplicate comparison. An operation moves its
data when it issues; its completion frees what it holds. -/

namespace Sys2Proof.Machine

open Sys2Proof.Num

/-! ## Operand buffers -/

def Buffer.byte (b : Buffer) (a : Nat) : Byte := (mapFind b.data a).getD (Config.freeByte b.seed a)

def Buffer.bytes (b : Buffer) (a : Nat) : Nat → List Byte
  | 0 => []
  | n + 1 => b.byte a :: b.bytes (a + 1) n

/-- Write bytes with good parity, but for the listed positions (R175, R233). -/
def Buffer.write (b : Buffer) (a : Nat) (bs : List Byte) (bad : List Nat) : Buffer :=
  { b with data := insBytes a bs b.data, bad := bad ++ b.bad.filter (fun p => !decide (a ≤ p ∧ p < a + bs.length)) }

/-- The FILL executing or issuing on port `p` copies tile memory into its buffer (R164, R233). -/
def Tile.doFill (x : Tile) (o : Op) (w : W64) (m : WordErr) : Tile × List Note :=
  let f := fillF w
  let n := f.units * 64
  let (x, ns) := x.meet m f.src n
  let d := f.seg * 1024
  let bad := (badWords x.bad f.src n).flatMap (fun i => (List.range 8).map (fun k => d + (i * 8 + k - f.src)))
  let put (b : Buffer) := b.write d (x.readMem f.src n) bad
  let y := if o.port = 0 then { x with bufA := put x.bufA } else { x with bufB := put x.bufB }
  (y, ns ++ x.wordErrs f.src n o.port o.opid)

/-! ## Banks -/

def Cell.zero : Cell := ⟨0, false, false, false, false, false, 0⟩

/-- The raw form (R138). -/
def Cell.raw (c : Cell) : Nat :=
  c.groups % 2 ^ 11 * 2 ^ 117 + (if c.trunc then 2 ^ 116 else 0) + (if c.oor then 2 ^ 115 else 0)
    + (if c.ninf then 2 ^ 114 else 0) + (if c.pinf then 2 ^ 113 else 0) + (if c.nan then 2 ^ 112 else 0) + c.value.toNat

def Cell.ofRaw (v : Nat) : Cell :=
  ⟨BitVec.ofNat 112 v, bit v 112, bit v 113, bit v 114, bit v 115, bit v 116, bits v 127 117⟩

def Tile.bank (x : Tile) (b : Nat) : Bank := (mapFind x.banks b).getD (Bank.undefinedBank (x.bankSeed * 4 + b))
def Tile.setBank (x : Tile) (b : Nat) (k : Bank) : Tile := { x with banks := mapIns b k x.banks }

def Bank.cell (k : Bank) (p : Nat) : Cell :=
  (mapFind k.cells p).getD (match k.seed with | none => Cell.zero | some n => Cell.ofRaw (Config.freeCell n p).toNat)

/-- A cleared bank: every output zero, ANCHOR set (R133, R161). -/
def Bank.cleared (k : Bank) (anchor : BitVec 10) : Bank := { k with anchor := anchor, seed := none, cells := [] }

/-- Add one amount, flags and groups to an output (R134 to R136, R138): GROUPS saturates at 2,047, and OOR is set while it
exceeds 1,024; a sum outside 112 bits is held modulo 2^112 with OOR (R138). -/
def Cell.add (c : Cell) (v : Int) (d : Cell) : Cell :=
  let w := c.value.toInt + v
  let g := min 2047 (c.groups + d.groups)
  { value := BitVec.ofInt 112 w
    nan := c.nan || d.nan, pinf := c.pinf || d.pinf, ninf := c.ninf || d.ninf
    oor := c.oor || d.oor || decide (g > 1024) || decide (w < -(2 ^ 111 : Nat) ∨ w ≥ (2 ^ 111 : Nat))
    trunc := c.trunc || d.trunc, groups := g }

/-! ## Products (R134 to R136) -/

/-- The running effect of products on one output: the amount, and the flags. -/
structure Eff where
  sum : Int
  nan : Bool
  pinf : Bool
  ninf : Bool
  oor : Bool
  truncs : Nat
  /-- The exact sum of the finite products, in units of 2^−512. -/
  exact : Int
  deriving DecidableEq, Repr

def Eff.zero : Eff := ⟨0, false, false, false, false, 0, 0⟩

/-- The effect of one product under ANCHOR `a`. A finite product that adds 0 for its size is truncated too: its effect differs from
p / 2^ANCHOR (R134, R135); a special product sets its own flag alone (log 32). -/
def Eff.product (a : Int) (s : Eff) (p : FVal) : Eff :=
  match p with
  | .nan => { s with nan := true }
  | .inf n => if n then { s with ninf := true } else { s with pinf := true }
  | .fin n m e =>
    if m = 0 then s
    else if log2Rat m 1 + e ≥ a + 96 then { s with oor := true, truncs := s.truncs + 1 }
    else
      let x := atExp n m e (-512)
      let u : Int := (2 ^ (a + 512).toNat : Nat)
      { s with sum := s.sum + x / u, truncs := if x % u = 0 then s.truncs else s.truncs + 1, exact := s.exact + x }

/-- The effect of two lists of operands, multiplied in pairs. -/
def Eff.dot (a : Int) : List FVal → List FVal → Eff → Eff
  | x :: xs, y :: ys, s => Eff.dot a xs ys (s.product a (mulVal x y))
  | _, _, s => s

/-- Decode elements of a scalar block. -/
def scalarElem (fmt : Nat) (w : Nat) : FVal := if fmt = 1 then bf16.decode w else fp16.decode w

/-- The 32 elements of a block that stands at byte `a`, with its scale at byte `sa` (R129, R131, R154). -/
def Buffer.block (b : Buffer) (fmt a sa : Nat) : List FVal :=
  match MxElem.ofCode fmt with
  | some k =>
    let x := (b.byte sa).toNat
    (unpackElems k.width 32 (b.bytes a k.blockBytes)).map (k.decode x)
  | none => (unpackElems 16 32 (b.bytes a 64)).map (scalarElem fmt)

/-- Where block `blk` of row or column `i` stands in an image of `count` rows of `blocks` blocks (R154). -/
def blockAt (fmt count blocks i blk : Nat) : Nat × Nat :=
  ((i * blocks + blk) * ebOf fmt, count * blocks * ebOf fmt + i * blocks + blk)

/-- K elements of one row of A, or one column of B, from block `b0` on (R155). -/
def Buffer.row (b : Buffer) (seg fmt count blocks i b0 nblk : Nat) : List FVal :=
  (List.range nblk).flatMap (fun j =>
    let (e, sc) := blockAt fmt count blocks i (b0 + j)
    b.block fmt (seg * 1024 + e) (seg * 1024 + sc))

def aRow (x : Tile) (f : IbexF) (i : Nat) : List FVal := x.bufA.row f.aseg f.fa f.m f.akb i f.ab0 (f.k / 32)

/-- Column j of B, plain (R155) or transposed (R156). -/
def bCol (x : Tile) (f : IbexF) (j : Nat) : List FVal :=
  if f.tb then
    (List.range f.k).map (fun k =>
      let (e, sc) := blockAt f.fb f.bnc f.bkb (f.bc0 + k) f.bb0
      ((x.bufB.block f.fb (f.bseg * 1024 + e) (f.bseg * 1024 + sc))[j]?).getD (.fin false 0 0))
  else x.bufB.row f.bseg f.fb f.bnc f.bkb (f.bc0 + j) f.bb0 (f.k / 32)

/-! ## Parity (R175) -/

/-- Byte ranges read for blocks b0 .. b0+n−1 of row i: the elements, and the scales of an MX image. -/
def rowBytes (seg fmt count blocks i b0 n : Nat) : List (Nat × Nat) :=
  let (e, sc) := blockAt fmt count blocks i b0
  (seg * 1024 + e, n * ebOf fmt) :: (if isMx fmt then [(seg * 1024 + sc, n)] else [])

def elemWidth (fmt : Nat) : Nat := match MxElem.ofCode fmt with | some k => k.width | none => 16

/-- Byte ranges read for column j of B. -/
def colBytes (f : IbexF) (j : Nat) : List (Nat × Nat) :=
  if f.tb then
    (List.range f.k).flatMap (fun k =>
      let (e, sc) := blockAt f.fb f.bnc f.bkb (f.bc0 + k) f.bb0
      let w := elemWidth f.fb
      (f.bseg * 1024 + e + j * w / 8, ((j + 1) * w - 1) / 8 - j * w / 8 + 1)
        :: (if isMx f.fb then [(f.bseg * 1024 + sc, 1)] else []))
  else rowBytes f.bseg f.fb f.bnc f.bkb (f.bc0 + j) f.bb0 (f.k / 32)

/-- Parity errors that a read of the buffers has found: the bytes of buffer A (false) and B (true). -/
def Tile.parityMet (x : Tile) (par : List (Bool × Nat)) : Tile :=
  par.foldl (fun x p => if p.1 then { x with bufB := { x.bufB with bad := addTo p.2 x.bufB.bad } }
    else { x with bufA := { x.bufA with bad := addTo p.2 x.bufA.bad } }) x

/-- The lowest byte with bad parity among ranges. -/
def badIn (bad : List Nat) (rs : List (Nat × Nat)) : Option Nat :=
  bad.foldl (fun acc p => if rs.any (fun r => decide (r.1 ≤ p ∧ p < r.1 + r.2)) then
    some (match acc with | none => p | some q => min p q) else acc) none

def minOpt (a b : Option Nat) : Option Nat :=
  match a, b with
  | some x, some y => some (min x y)
  | some x, none => some x
  | none, y => y

/-- The report of a parity error: the segment and the byte within it. -/
def parityNote (o : Op) (w0 : W64) (buf : Nat) : Option Nat → List Note
  | none => []
  | some p => [.err 0x1011 false 1 buf o.opid (data2 w0.toNat (p / 1024 + p % 1024 * 2 ^ 8))]

/-! ## Bank errors (R175) -/

/-- Output positions an operation touches: i × 32 + j for i < m, j < n. -/
def positions (m n : Nat) : List Nat := (List.range m).flatMap (fun i => (List.range n).map (fun j => i * 32 + j))

/-- The position of a two-bit error that the operation reads. -/
def twoBitAt (e : BankErr) (ps : List Nat) : Option Nat :=
  match e with
  | .twoBit p => if p.toNat ∈ ps then some p.toNat else none
  | _ => none

/-- What the codes of a bank report: a corrected error once in a step; a two-bit error by bank and position. -/
def Tile.bankNotes (x : Tile) (e : BankErr) (o : Op) (w0 : W64) (bank : Nat) (ps : List Nat) : Tile × List Note :=
  match e with
  | .none => (x, [])
  | .oneBit p => if p.toNat ∈ ps then x.correctedNote .bank 3 (bank * 1024 + p.toNat) else (x, [])
  | .twoBit p =>
    (x, if p.toNat ∈ ps then [.err 0x1012 false 1 bank o.opid (data2 w0.toNat (bank + p.toNat * 2 ^ 8))] else [])

/-- The uninitialised-bank error (R166, R175). -/
def uninitNote (k : Bank) (reads : Bool) (o : Op) (w0 : W64) (bank : Nat) : List Note :=
  if reads && !k.init then [.err 0x1010 false 0 bank o.opid (data2 w0.toNat bank)] else []

/-! ## MMA, RAWACC and CLEAR (R161, R173, R174) -/

/-- Whether an MMA is checked in the array (R173): `before` counts the MMAs with CHK = 1 issued earlier in the step. -/
def checkedMma (chk before : Nat) : Bool := chk == 2 || (chk == 1 && before % 16 == 0)

/-- A row or column passes (R174): the exact sum and the added sum differ by less than the count of truncated products. A
row that holds a special product is not compared. -/
def linePasses (a : Int) (es : List Eff) (delta : Int) : Bool :=
  if es.any (fun e => e.nan || e.pinf || e.ninf || e.oor) then true
  else
    let exact := es.foldl (fun v e => v + e.exact) 0
    let d := es.foldl (fun v e => v + e.sum) 0 + delta
    let t := es.foldl (fun v e => v + e.truncs) 0
    let diff := exact / (2 ^ (a + 512).toNat : Nat) - d
    decide (0 ≤ diff ∧ diff ≤ (t - 1 : Nat))

/-- The first index of a line that does not pass; 63 for none (R175). -/
def firstBad (a : Int) (ls : List (List Eff × Int)) : Nat :=
  ((List.range ls.length).find? (fun i => match ls[i]? with
    | some (es, d) => !linePasses a es d
    | none => false)).getD 63

/-- An MMA issues (R161). -/
def Tile.doMma (x : Tile) (o : Op) (w0 : W64) (f : IbexF) (e : BankErr) (cell : Option CellFault) : Tile × List Note :=
  let k0 := x.bank f.bank
  let k := if f.clr then k0.cleared f.anchor else k0
  let a := k.anchor.toInt
  let rows := (List.range f.m).map (aRow x f)
  let colsB := (List.range f.n).map (bCol x f)
  let effs := rows.map (fun r => colsB.map (fun c => Eff.dot a r c Eff.zero))
  let ps := if f.clr then [] else positions f.m f.n
  let two := twoBitAt e ps
  let rowBad (i : Nat) := badIn x.bufA.bad (rowBytes f.aseg f.fa f.m f.akb i f.ab0 (f.k / 32))
  let colBad (j : Nat) := badIn x.bufB.bad (colBytes f j)
  let badA := (List.range f.m).map rowBad
  let badB := (List.range f.n).map colBad
  let delta (i j : Nat) : Int := match cell with
    | some c => if c.i.toNat = i ∧ c.j.toNat = j then c.delta else 0
    | none => 0
  let cells := (List.range f.m).foldl (fun m i => (List.range f.n).foldl (fun m j =>
    let p := i * 32 + j
    let ef := ((effs[i]?).getD [])[j]?.getD Eff.zero
    let nan := ef.nan || ((badA[i]?).getD none).isSome || ((badB[j]?).getD none).isSome || two == some p
    let d : Cell := ⟨0, nan, ef.pinf, ef.ninf, ef.oor, ef.truncs != 0, f.k / 32⟩
    mapIns p ((k.cell p).add (ef.sum + delta i j) d) m) m) k.cells
  let checked := checkedMma f.chk x.chk1
  let lineR := (List.range f.m).map (fun i => ((effs[i]?).getD [], (List.range f.n).foldl (fun v j => v + delta i j) 0))
  let lineC := (List.range f.n).map (fun j => (effs.map (fun r => (r[j]?).getD Eff.zero),
    (List.range f.m).foldl (fun v i => v + delta i j) 0))
  let r := firstBad a lineR
  let c := firstBad a lineC
  let y := { (x.setBank f.bank { k with cells := cells }) with
    chk1 := if f.chk = 1 then x.chk1 + 1 else x.chk1
    sums := if checked ∧ (r ≠ 63 ∨ c ≠ 63) then x.sums ++ [(o.n, r, c)] else x.sums }
  let (z, ns) := y.bankNotes e o w0 f.bank ps
  (z, uninitNote k0 (!f.clr) o w0 f.bank ++ parityNote o w0 0 (badA.foldl minOpt none)
    ++ parityNote o w0 1 (badB.foldl minOpt none) ++ ns)

/-- A RAWACC issues (R138, R161): the value for output (i, j) stands at byte (i × 32 + j) × 16 of the image. -/
def Tile.doRawacc (x : Tile) (o : Op) (w0 : W64) (f : IbexF) (e : BankErr) : Tile × List Note :=
  let k0 := x.bank f.bank
  let k := if f.clr then k0.cleared f.anchor else k0
  let ps := if f.clr then [] else positions f.m f.n
  let two := twoBitAt e ps
  let at_ (i j : Nat) := f.aseg * 1024 + (i * 32 + j) * 16
  let rowBad (i : Nat) := badIn x.bufA.bad [(at_ i 0, f.n * 16)]
  let cells := (List.range f.m).foldl (fun m i => (List.range f.n).foldl (fun m j =>
    let p := i * 32 + j
    let d := Cell.ofRaw (ofBytes (x.bufA.bytes (at_ i j) 16))
    let d := { d with nan := d.nan || (rowBad i).isSome || two == some p }
    mapIns p ((k.cell p).add d.value.toInt d) m) m) k.cells
  let y := x.setBank f.bank { k with cells := cells }
  let (z, ns) := y.bankNotes e o w0 f.bank ps
  (z, uninitNote k0 (!f.clr) o w0 f.bank
    ++ parityNote o w0 0 (((List.range f.m).map rowBad).foldl minOpt none) ++ ns)

/-- A CLEAR issues (R161). -/
def Tile.doClear (x : Tile) (f : IbexF) : Tile := x.setBank f.bank ((x.bank f.bank).cleared f.anchor)

/-- An IBEX operation completes (R163, R166, R174): a bank it cleared is initialised, and a checksum mismatch is reported
with the first failing row and column. -/
def Tile.ibexDone (x : Tile) (o : Op) (w0 w1 : W64) : Tile × List Note :=
  let f := ibexF w0 w1
  let k := x.bank f.bank
  let y := if f.opc = 3 || f.clr then x.setBank f.bank { k with init := true } else x
  let bad := x.sums.filter (fun p => p.1 == o.n)
  ({ y with sums := x.sums.filter (fun p => p.1 != o.n) }.complete o,
    bad.map (fun p => .err 0x1013 false 1 2 o.opid (data2 w0.toNat (p.2.1 + p.2.2 * 2 ^ 8))))

/-! ## Drains (R139, R140, R168 to R173) -/

/-- The format a drain writes (R168). -/
def drainFmt (c : Nat) : Fmt := match c with | 0 => fp32 | 1 => bf16 | _ => fp16

/-- Whether an output takes the OOR path (R139, item 4). -/
def Cell.oorPath (c : Cell) : Bool := !c.nan && !c.pinf && !c.ninf && c.oor

/-- The drained value of one output (R138, R139). -/
def Cell.drain (c : Cell) (anchor : BitVec 10) (fmt : Nat) (r : Rnd) : Nat :=
  if fmt = 0xA then c.raw else
  let g := drainFmt fmt
  if c.nan || (c.pinf && c.ninf) then g.nanBits
  else if c.pinf then g.infBits
  else if c.ninf then g.signBit true + g.infBits
  else if c.oor then g.nanBits
  else drainRound g r c.value.toInt anchor.toInt

/-- The sum record of the drained outputs (R172). -/
def sumRecord (anchor : BitVec 10) (cs : List Cell) : BitVec 256 :=
  let total := cs.foldl (fun v c => v + c.value.toInt) 0
  let top := cs.foldl (fun g c => max g c.groups) 0
  let fl (b : Bool) (n : Nat) : Nat := if b then 2 ^ n else 0
  let hi := anchor.toNat * 2 ^ 118 + cs.length % 2 ^ 11 * 2 ^ 107 + top % 2 ^ 11 * 2 ^ 96
    + fl (cs.any Cell.trunc) 95 + fl (cs.any Cell.oor) 94 + fl (cs.any Cell.ninf) 93 + fl (cs.any Cell.pinf) 92
    + fl (cs.any Cell.nan) 91
  BitVec.ofNat 256 ((BitVec.ofInt 128 total).toNat + hi * 2 ^ 128)

/-- The rounding of element index `i` of an operation with STREAM and EBASE (R142, R169, R182). -/
def rndOf (seed step : Nat) (purpose rm : Nat) (sat : Bool) (stream e : Nat) : Rnd :=
  let m := (RM.ofCode rm).getD .rne
  ⟨m, sat, if m = .sr then genWord seed purpose stream (e % 2 ^ 46) step else 0⟩

def VFile.lane (v : VFile) (r n : Nat) : W32 := (mapFind v.lanes (r * 64 + n)).getD (Config.freeLane v.seed (r * 64 + n))
def VFile.set (v : VFile) (r n : Nat) (w : W32) : VFile := { v with lanes := mapIns (r * 64 + n) w v.lanes }

/-- A DRAIN issues (R169, R170, R172): to tile memory or to vector registers. -/
def Tile.doDrain (x : Tile) (seed step : Nat) (o : Op) (w0 : W64) (f : DrainF) (e : BankErr) : Tile × List Note :=
  let k := x.bank f.bank
  let ps := positions f.m f.n
  let two := twoBitAt e ps
  let cell (i j : Nat) : Cell :=
    let c := k.cell (i * 32 + j)
    if two = some (i * 32 + j) then { c with nan := true } else c
  let val (i j : Nat) : Nat := (cell i j).drain k.anchor f.fmt (rndOf seed step 0 f.rm f.sat f.stream (f.ebase + i * 32 + j))
  let cs := (List.range f.m).flatMap (fun i => (List.range f.n).map (cell i))
  let rec_ := sumRecord k.anchor cs
  let y := if f.opc = 6 then
      { x with vec := (List.range f.m).foldl (fun v i => (List.range f.n).foldl (fun v j =>
          v.set (f.vbase + i / 2) (i % 2 * 32 + j) (BitVec.ofNat 32 (val i j))) v) x.vec }
    else
      let z := (List.range f.m).foldl (fun z i =>
        z.writeMem (f.dst + i * f.stride * 64) ((List.range f.n).flatMap (fun j => toBytes f.w (val i j)))) x
      if f.sum then z.writeMem (f.dst + f.m * f.stride * 64) (toBytes 32 rec_.toNat) else z
  let y := if f.dup && x.img.dup.isSome then { y with dupOwn := y.dupOwn ++ [⟨o.n, o.pc, w0, rec_⟩] } else y
  let (due, y) := if f.fmt ≠ 0xA && cs.any Cell.oorPath then y.oncePer .oorDrain else (false, y)
  let (z, ns) := y.bankNotes e o w0 f.bank ps
  (z, uninitNote k true o w0 f.bank ++ ns ++ (if due then [.event 0x9020 0 o.opid (data2 w0.toNat 0)] else []))

/-- The oldest own record whose drain has completed. -/
def Tile.oldestDup (x : Tile) : Option Dup := x.dupOwn.find? (fun p => x.exec.all (fun o => o.n != p.n))

/-- The report of a duplicate mismatch (R175, R430): the drain's number, PC and word 0. -/
def dupNote (p : Dup) : Note := .err 0x1014 false 1 3 (opid p.n p.pc) p.word.toNat

/-- Compare the oldest own record whose drain has completed with the oldest partner's record (R173). -/
def Tile.dupCompare (x : Tile) : Tile × List Note :=
  match x.oldestDup, x.dupPeer with
  | some p, r :: rs => ({ x with dupOwn := dropOne p x.dupOwn, dupPeer := rs }, if p.sum = r then [] else [dupNote p])
  | _, _ => (x, [])

/-- A DRAIN completes (R171, R173): with DUP its record leaves for the partner, and a comparison may run. -/
def Tile.drainDone (x : Tile) (o : Op) : Tile × List Note :=
  let y := x.complete o
  let sent := match x.img.dup, x.dupOwn.find? (fun p => p.n == o.n) with
    | some p, some r => [.out (.dupRecord p r.sum)]
    | _, _ => []
  let (z, ns) := y.dupCompare
  (z, sent ++ ns)

/-! ## The commands -/

/-- Issue the head of port `p` when it may issue and `is` tells that it is the command's operation. -/
def issueHead (t : TileId) (p : Nat) (is : Op → Bool) (f : Tile → Op → Tile × List Note) (s : State) : State :=
  let x := s.tile t
  match x.issuable p with
  | none => s
  | some o => if is o then s.putTile t (f (x.toExec o) o) else s

/-- Complete the operation that executes on port `p`. Engines keep running while a tile rolls back (R121). -/
def finishPort (t : TileId) (p : Nat) (f : Tile → Op → Tile × List Note) (s : State) : State :=
  let x := s.tile t
  match x.executing p with
  | none => s
  | some o => s.putTile t (f x o)

def twoOpc (c : Nat) (o : Op) : Bool := match o.kind with | .two w0 _ _ => bits w0.toNat 63 60 == c | _ => false

def execFill (t : TileId) (b : Bool) (m : WordErr) (s : State) : Outcome :=
  .next (issueHead t (if b then 1 else 0) (fun _ => true) (fun x o =>
    match o.kind with | .fill w => x.doFill o w m | _ => (x, [])) s)

def execFillComplete (t : TileId) (b : Bool) (s : State) : Outcome :=
  .next (finishPort t (if b then 1 else 0) (fun x o => (x.complete o, [])) s)

def execMma (t : TileId) (e : BankErr) (cell : Option CellFault) (par : List (Bool × Nat)) (s : State) : Outcome :=
  .next (issueHead t 2 (twoOpc 1) (fun x o =>
    match o.kind with | .two w0 w1 _ => (x.parityMet par).doMma o w0 (ibexF w0 w1) e cell | _ => (x, [])) s)

def execRawacc (t : TileId) (e : BankErr) (par : List (Bool × Nat)) (s : State) : Outcome :=
  .next (issueHead t 2 (twoOpc 2) (fun x o =>
    match o.kind with | .two w0 w1 _ => (x.parityMet par).doRawacc o w0 (ibexF w0 w1) e | _ => (x, [])) s)

def execClear (t : TileId) (s : State) : Outcome :=
  .next (issueHead t 2 (twoOpc 3) (fun x o =>
    match o.kind with | .two w0 w1 _ => (x.doClear (ibexF w0 w1), []) | _ => (x, [])) s)

def execIbexOpComplete (t : TileId) (s : State) : Outcome :=
  .next (finishPort t 2 (fun x o =>
    match o.kind with | .two w0 w1 _ => x.ibexDone o w0 w1 | _ => (x, [])) s)

/-- SEED and the running step's number, for the generator (R142). -/
def State.gen (s : State) : Nat × Nat := (s.seed.toNat, s.fget F.STEP_CURRENT.STEP)

def execDrainToTileMemory (t : TileId) (e : BankErr) (s : State) : Outcome :=
  .next (issueHead t 3 (twoOpc 5) (fun x o =>
    match o.kind with | .two w0 w1 _ => x.doDrain s.gen.1 s.gen.2 o w0 (drainF w0 w1) e | _ => (x, [])) s)

def execDrainToVector (t : TileId) (e : BankErr) (s : State) : Outcome :=
  .next (issueHead t 3 (twoOpc 6) (fun x o =>
    match o.kind with | .two w0 w1 _ => x.doDrain s.gen.1 s.gen.2 o w0 (drainF w0 w1) e | _ => (x, [])) s)

def execDrainComplete (t : TileId) (s : State) : Outcome :=
  .next (finishPort t 3 (fun x o => x.drainDone o) s)

def execDupRecordArrival (t : TileId) (r : BitVec 256) (s : State) : Outcome :=
  let x := s.tile t
  if x.img.dup.isSome then .next (s.putTile t ({ x with dupPeer := x.dupPeer ++ [r] }.dupCompare)) else .next s

/-- No partner record within 10 µs: a duplicate mismatch on both tiles (R173). The partner's report names its own oldest drain that
awaits a record, else the one that has waited here (log 32). -/
def execDupCompareTimeout (t : TileId) (s : State) : Outcome :=
  let x := s.tile t
  match x.oldestDup, x.img.dup with
  | some p, some q =>
    let s := s.putTile t ({ x with dupOwn := dropOne p x.dupOwn }, [dupNote p])
    .next (s.note q (dupNote ((s.tile q).oldestDup.getD p)))
  | _, _ => .next s

end Sys2Proof.Machine
end

