-- ==== Sys2Proof/Machine/Flags.lean ====
section
/-! DEFINITION. Muntjac's predicates (R199, R211): the comparisons that write them and the operations between them. -/

namespace Sys2Proof.Machine

/-- p0 always reads 1 (R199). -/
def predRead (p : BitVec 8) (i : Nat) : Bool := i == 0 || p.getLsbD i

/-- Writes to p0 are ignored (R199). -/
def predWrite (p : BitVec 8) (i : Nat) (v : Bool) : BitVec 8 :=
  if i = 0 then p
  else if v then p ||| BitVec.ofNat 8 (2 ^ i) else p &&& ~~~(BitVec.ofNat 8 (2 ^ i))

/-- The comparison that CMP and CMPI select: 0 EQ, 1 NE, 2 signed LT, 3 signed LE, 4 unsigned LT, 5 unsigned LE, 6 TST.
Code 7 is undefined, and the loader refuses it (R203, R211). -/
def cmpHolds (cond : Nat) (a b : W64) : Bool :=
  match cond with
  | 0 => a == b
  | 1 => a != b
  | 2 => a.slt b
  | 3 => a.sle b
  | 4 => a.ult b
  | 5 => a.ule b
  | 6 => (a &&& b) != 0
  | _ => false

/-- PLOG's operations: 0 AND, 1 OR, 2 XOR, 3 ANDN (R211). -/
def plogOp (op : Nat) (a b : Bool) : Bool :=
  match op with
  | 0 => a && b
  | 1 => a || b
  | 2 => a ^^ b
  | _ => a && !b

/-- PRD: p7 to p0 in [7:0], zeros above (R211). -/
def predWord (p : BitVec 8) : W64 := (p ||| 1#8).setWidth 64

end Sys2Proof.Machine
end

