-- ==== Sys2Proof/Machine/Muntjac.lean ====
section
/-! DEFINITION. Muntjac (R199 to R228): one definition per instruction, over one runner that fetches the word at the PC,
tests the guard, waits for pending registers and takes the faults of R227. A command runs when the tile's context is at
that instruction and may start it; otherwise it changes nothing. -/

namespace Sys2Proof.Machine

/-! ## Registers -/

def Core.s (c : Core) (i : Nat) : W64 := mapGet 0 c.sreg i
def Core.a (c : Core) (i : Nat) : W64 := mapGet 0 c.areg (i % 16)
def Tile.setS (x : Tile) (i : Nat) (v : W64) : Tile :=
  { x with core := { x.core with sreg := mapPut 0 i v x.core.sreg } }
def Tile.setA (x : Tile) (i : Nat) (v : W64) : Tile :=
  { x with core := { x.core with areg := mapPut 0 (i % 16) v x.core.areg } }
def Tile.setP (x : Tile) (i : Nat) (v : Bool) : Tile :=
  { x with core := { x.core with preds := predWrite x.core.preds i v } }
def Tile.setWait (x : Tile) (w : Wait) : Tile := { x with core := { x.core with wait := w } }
def Tile.setPc (x : Tile) (pc : Nat) : Tile := { x with core := { x.core with pc := BitVec.ofNat 12 pc } }

/-- The word at the PC: a word the image does not fill is 0 (R201). -/
def Tile.word (x : Tile) : W32 := mapGet 0 x.imem x.core.pc.toNat

/-! ## Faults (R227, R228) -/

/-- A Muntjac fault: the context stops, the step is dirty, and the report carries FCODE, the loop depth, the handler flag,
CODE or the register, the instruction word, and word 0 of a refused operation. -/
def Tile.fault (x : Tile) (fcode extra : Nat) (word0 : Nat) : Tile × List Note :=
  let d := fcode % 16 + x.core.loops.length * 16 + (if x.core.handler.isSome then 128 else 0) + extra % 1024 * 256
  ({ x with dirty := true, core := { x.core with stopped := true, wait := .none } },
    [.err 0x1001 true 0 0 (opid x.enq x.core.pc) (d + x.word.toNat * 2 ^ 32 + word0 % 2 ^ 64 * 2 ^ 64)])

/-! ## Control (R207 to R209) -/

/-- The test at the end of a body, made on the top entry and repeated outward (R208): the PC it returns to, if any, and the
loop stack after it. -/
def loopEnd (e : Nat) : List Loop → Option Nat × List Loop
  | [] => (none, [])
  | l :: ls =>
    if l.last = e then
      if l.left > 0 then (some l.first, { l with index := l.index + 1, left := l.left - 1 } :: ls) else loopEnd e ls
    else (none, l :: ls)

/-- The instruction at `e` has completed and was not a taken branch: the back-edge, or the next address; execution that
falls through from 4,095 raises the illegal-target fault (R207). -/
def Tile.afterAt (x : Tile) (e : Nat) : Tile × List Note :=
  let (t, ls) := loopEnd e x.core.loops
  let y := { x with core := { x.core with loops := ls, wait := .none } }
  match t with
  | some p => (y.setPc p, [])
  | none => if e + 1 > 4095 then y.fault 0x2 0 0 else (y.setPc (e + 1), [])

/-- The instruction at the PC completes. -/
def Tile.finish (x : Tile) : Tile × List Note := x.afterAt x.core.pc.toNat

/-- The entries whose body a taken branch leaves are popped (R209). -/
def popLeft (target : Nat) : List Loop → List Loop
  | [] => []
  | l :: ls => if l.first ≤ target ∧ target ≤ l.last then l :: ls else popLeft target ls

/-! ## The runner -/

/-- What an instruction does: complete, go to an address, wait, fault (FCODE, detail, word 0), or not start yet. -/
inductive Act where
  | done (x : Tile) (ns : List Note)
  | jump (x : Tile) (pc : Nat)
  | wait (x : Tile) (w : Wait)
  | fault (x : Tile) (fcode extra : Nat) (word0 : Nat)
  | stall
  deriving DecidableEq, Repr

/-- Muntjac can start an instruction: a step runs, the context is not stopped and nothing is waited for. -/
def Tile.coreReady (x : Tile) : Bool := x.phase == phRunning && !x.core.stopped && x.core.wait == .none

/-- A context that waits can go on: a step runs and the context is not stopped (R227). -/
def Tile.goes (x : Tile) : Bool := x.phase == phRunning && !x.core.stopped

/-- A scalar register (below 32) has its pending mark set (R199). -/
def Core.isPending (c : Core) (rs : List Nat) : Bool := c.pend.any (fun p => p.1.toNat ∈ rs)

/-- Carry out what an instruction does. -/
def Tile.act (x : Tile) : Act → Tile × List Note
  | .done y ns => let (z, ms) := y.finish; (z, ns ++ ms)
  | .jump y pc => ((y.setWait .none).setPc pc, [])
  | .wait y w => (y.setWait w, [])
  | .fault y f e w0 => y.fault f e w0
  | .stall => (x, [])

/-- How an instruction uses registers (s0 to s31 as 0 to 31, a0 to a15 as 32 to 47). -/
structure Uses where
  reads : W32 → List Nat
  writes : W32 → List Nat
  guarded : Bool

/-- A corrected error in the fetched word, noted once in a step (R200), and then what the instruction does. -/
def Tile.fetched (x : Tile) (e : CoreErr) (f : Tile → Tile × List Note) : Tile × List Note :=
  match e with
  | .corrected =>
    let (y, ns) := x.correctedNote .core 0 x.core.pc.toNat
    let (z, ms) := f y
    (z, ns ++ ms)
  | _ => f x

/-- Run the instruction at the PC of tile `t` when it is the one `is` tells, under the errors the codes find (R200, R202,
R205, R227). -/
def runCore (t : TileId) (e : CoreErr) (is : W32 → Bool) (u : Uses) (body : State → W32 → Tile → Act) (s : State) : State :=
  let x := s.tile t
  let w := x.word
  if !x.coreReady || !is w then s else
  match e with
  | .storeTwoBit => s.putTile t (x.fault 0xA 0 0)
  | _ =>
    let (pn, pg) := wGuard w
    if u.guarded && (predRead x.core.preds pg == pn) then s.putTile t (x.fetched e Tile.finish)
    else if x.core.isPending (u.reads w ++ u.writes w) then s
    else
      match e with
      | .regTwoBit n =>
        if n.toNat ∈ u.reads w then s.putTile t (x.fault 0x9 n.toNat 0) else s.putTile t (x.act (body s w x))
      | .regOneBit n =>
        let (y, ns) := if n.toNat ∈ u.reads w then x.correctedNote .core 2 n.toNat else (x, [])
        let (z, ms) := y.act (body s w y)
        s.putTile t (z, ns ++ ms)
      | _ => s.putTile t (x.fetched e (fun y => y.act (body s w y)))

def noRegs : W32 → List Nat := fun _ => []
def rD (w : W32) : List Nat := [wD w]
def rA (w : W32) : List Nat := [wA w]
def rAB (w : W32) : List Nat := [wA w, wB w]
def aA (w : W32) : List Nat := [32 + wA w % 16]
def aD (w : W32) : List Nat := [32 + wD w % 16]

def isOpc (o : Nat) (w : W32) : Bool := wOpc w == o

/-! ## Branches and loops (R204, R207 to R209) -/

def branchTo (x : Tile) (pc : Nat) : Act :=
  .jump { x with core := { x.core with loops := popLeft pc x.core.loops } } pc

def relTarget (x : Tile) (w : W32) : Nat := (((x.core.pc.toNat : Int) + wOff22 w) % 4096).toNat

def execBr (t : TileId) (e : CoreErr) (s : State) : Outcome :=
  .next (runCore t e (isOpc 0x01) ⟨noRegs, noRegs, true⟩ (fun _ w x => branchTo x (relTarget x w)) s)

def execCall (t : TileId) (e : CoreErr) (s : State) : Outcome :=
  .next (runCore t e (isOpc 0x02) ⟨noRegs, fun _ => [31], true⟩
    (fun _ w x => .jump (x.setS 31 (BitVec.ofNat 64 (x.core.pc.toNat + 1))) (relTarget x w)) s)

def execJr (t : TileId) (e : CoreErr) (s : State) : Outcome :=
  .next (runCore t e (isOpc 0x03) ⟨rA, noRegs, true⟩
    (fun _ w x => let v := (x.core.s (wA w)).toNat; if v ≥ 4096 then .fault x 0x2 0 0 else .jump x v) s)

/-- Start a loop over the BODY + 1 instructions after the PC (R208). A count of 0 skips the body, which then ends as its
last instruction would. -/
def startLoop (x : Tile) (body count : Nat) : Act :=
  let pc := x.core.pc.toNat
  if count = 0 then .done (x.setPc (pc + body + 1)) []
  else if x.core.loops.length ≥ 4 then .fault x 0x4 0 0
  else .done { x with core := { x.core with
      loops := ⟨pc + 1, pc + 1 + body, 0, count - 1⟩ :: x.core.loops } } []

/-- A loop instruction whose guard is false skips its body (R208). -/
def skipBody (t : TileId) (e : CoreErr) (x : Tile) (body : Nat) (s : State) : State :=
  s.putTile t (x.fetched e (fun x => (x.setPc (x.core.pc.toNat + body + 1)).finish))

/-- The runner of the loop instructions: a false guard skips the body. -/
def runLoop (t : TileId) (e : CoreErr) (opc : Nat) (reads : W32 → List Nat) (body : W32 → Nat)
    (count : W32 → Tile → Nat) (s : State) : State :=
  let x := s.tile t
  let w := x.word
  let (pn, pg) := wGuard w
  if x.coreReady && wOpc w == opc && (predRead x.core.preds pg == pn) && e != .storeTwoBit then skipBody t e x (body w) s
  else runCore t e (isOpc opc) ⟨reads, noRegs, false⟩ (fun _ w x => startLoop x (body w) (count w x)) s

def execLoopi (t : TileId) (e : CoreErr) (s : State) : Outcome :=
  .next (runLoop t e 0x04 noRegs (fun w => wField w 21 12) (fun w _ => wField w 11 0) s)

def execLoopr (t : TileId) (e : CoreErr) (s : State) : Outcome :=
  .next (runLoop t e 0x05 rD (fun w => wField w 16 7) (fun w x => (x.core.s (wD w)).toNat % 2 ^ 32) s)

def execLidx (t : TileId) (e : CoreErr) (s : State) : Outcome :=
  .next (runCore t e (isOpc 0x06) ⟨noRegs, rD, true⟩ (fun _ w x =>
    .done (x.setS (wD w) ((x.core.loops[wField w 16 15]?).elim (BitVec.allOnes 64) Loop.index)) []) s)

/-! ## Predicates (R211) -/

def execCmp (t : TileId) (e : CoreErr) (s : State) : Outcome :=
  .next (runCore t e (isOpc 0x08) ⟨rAB, noRegs, true⟩ (fun _ w x =>
    .done (x.setP (wField w 19 17) (cmpHolds (wField w 2 0) (x.core.s (wA w)) (x.core.s (wB w)))) []) s)

def execCmpi (t : TileId) (e : CoreErr) (s : State) : Outcome :=
  .next (runCore t e (isOpc 0x09) ⟨fun w => [wField w 15 11], noRegs, true⟩ (fun _ w x =>
    .done (x.setP (wField w 21 19) (cmpHolds (wField w 18 16) (x.core.s (wField w 15 11))
      (BitVec.ofInt 64 (sext 11 (wField w 10 0))))) []) s)

def execPlog (t : TileId) (e : CoreErr) (s : State) : Outcome :=
  .next (runCore t e (isOpc 0x0A) ⟨noRegs, noRegs, true⟩ (fun _ w x =>
    .done (x.setP (wField w 21 19)
      (plogOp (wField w 12 11) (predRead x.core.preds (wField w 18 16)) (predRead x.core.preds (wField w 15 13)))) []) s)

def execPrd (t : TileId) (e : CoreErr) (s : State) : Outcome :=
  .next (runCore t e (isOpc 0x0B) ⟨noRegs, rD, true⟩ (fun _ w x => .done (x.setS (wD w) (predWord x.core.preds)) []) s)

/-! ## Scalar arithmetic (R204, R212, R213) -/

/-- An instruction of OPC 0x10, selected by FN[3:0] (R212). -/
def runAlu (t : TileId) (e : CoreErr) (fn : Nat) (f : W64 → W64 → W64) (s : State) : State :=
  runCore t e (fun w => wOpc w == 0x10 && wField w 3 0 == fn) ⟨rAB, rD, true⟩ (fun _ w x =>
    .done (x.setS (wD w) (f (x.core.s (wA w)) (x.core.s (wB w)))) []) s

def shAmt (b : W64) : Nat := b.toNat % 64

def execAdd (t : TileId) (e : CoreErr) (s : State) : Outcome := .next (runAlu t e 0 (fun a b => a + b) s)
def execSub (t : TileId) (e : CoreErr) (s : State) : Outcome := .next (runAlu t e 1 (fun a b => a - b) s)
def execMul (t : TileId) (e : CoreErr) (s : State) : Outcome := .next (runAlu t e 2 (fun a b => a * b) s)
def execAndS (t : TileId) (e : CoreErr) (s : State) : Outcome := .next (runAlu t e 3 (fun a b => a &&& b) s)
def execOrS (t : TileId) (e : CoreErr) (s : State) : Outcome := .next (runAlu t e 4 (fun a b => a ||| b) s)
def execXorS (t : TileId) (e : CoreErr) (s : State) : Outcome := .next (runAlu t e 5 (fun a b => a ^^^ b) s)
def execShl (t : TileId) (e : CoreErr) (s : State) : Outcome := .next (runAlu t e 6 (fun a b => a <<< shAmt b) s)
def execShr (t : TileId) (e : CoreErr) (s : State) : Outcome := .next (runAlu t e 7 (fun a b => a >>> shAmt b) s)
def execSar (t : TileId) (e : CoreErr) (s : State) : Outcome :=
  .next (runAlu t e 8 (fun a b => a.sshiftRight (shAmt b)) s)

/-- An I-format instruction on scalar registers (R204). -/
def runImm (t : TileId) (e : CoreErr) (opc : Nat) (f : W64 → W32 → W64) (s : State) : State :=
  runCore t e (isOpc opc) ⟨rA, rD, true⟩ (fun _ w x => .done (x.setS (wD w) (f (x.core.s (wA w)) w)) []) s

def execAddi (t : TileId) (e : CoreErr) (s : State) : Outcome := .next (runImm t e 0x11 (fun a w => a + wImm12 w) s)
def execAndi (t : TileId) (e : CoreErr) (s : State) : Outcome := .next (runImm t e 0x12 (fun a w => a &&& wImm12 w) s)
def execOri (t : TileId) (e : CoreErr) (s : State) : Outcome := .next (runImm t e 0x13 (fun a w => a ||| wImm12 w) s)
def execShli (t : TileId) (e : CoreErr) (s : State) : Outcome :=
  .next (runImm t e 0x14 (fun a w => a <<< wField w 5 0) s)
def execShri (t : TileId) (e : CoreErr) (s : State) : Outcome :=
  .next (runImm t e 0x15 (fun a w => a >>> wField w 5 0) s)

def rHi (w : W32) : List Nat := [wField w 25 21]

/-- Replace bits [pos + n − 1:pos] of `d` by the low `n` bits of `v` (R213). -/
def insField (d : W64) (pos n v : Nat) : W64 :=
  let m : Nat := (2 ^ n - 1) * 2 ^ pos
  BitVec.ofNat 64 (d.toNat - (d.toNat &&& m) + v % 2 ^ n * 2 ^ pos)

def execLi (t : TileId) (e : CoreErr) (s : State) : Outcome :=
  .next (runCore t e (isOpc 0x18) ⟨noRegs, rHi, false⟩ (fun _ w x =>
    .done (x.setS (wField w 25 21) (BitVec.ofInt 64 (sext 16 (wField w 15 0)) <<< (16 * wField w 20 19))) []) s)

def execLik (t : TileId) (e : CoreErr) (s : State) : Outcome :=
  .next (runCore t e (isOpc 0x19) ⟨rHi, rHi, false⟩ (fun _ w x =>
    let d := wField w 25 21
    .done (x.setS d (insField (x.core.s d) (16 * wField w 20 19) 16 (wField w 15 0))) []) s)

def execIns (t : TileId) (e : CoreErr) (s : State) : Outcome :=
  .next (runCore t e (isOpc 0x1A) ⟨fun w => rHi w ++ [wField w 20 16], rHi, false⟩ (fun _ w x =>
    let d := wField w 25 21
    .done (x.setS d (insField (x.core.s d) (wField w 15 10) (wField w 9 4 + 1) (x.core.s (wField w 20 16)).toNat)) []) s)

def execExtS (t : TileId) (e : CoreErr) (s : State) : Outcome :=
  .next (runCore t e (isOpc 0x1B) ⟨fun w => [wField w 20 16], rHi, false⟩ (fun _ w x =>
    let pos := wField w 15 10
    .done (x.setS (wField w 25 21) (BitVec.ofNat 64 (bits (x.core.s (wField w 20 16)).toNat (pos + wField w 9 4) pos))) []) s)

/-! ## Addresses and tile memory (R215) -/

def execAdda (t : TileId) (e : CoreErr) (s : State) : Outcome :=
  .next (runCore t e (isOpc 0x1C) ⟨aA, aD, true⟩ (fun _ w x => .done (x.setA (wD w) (x.core.a (wA w) + wImm12 w)) []) s)

def execAddas (t : TileId) (e : CoreErr) (s : State) : Outcome :=
  .next (runCore t e (isOpc 0x1D) ⟨fun w => aA w ++ [wB w], aD, true⟩ (fun _ w x =>
    .done (x.setA (wD w) (x.core.a (wA w) + (x.core.s (wB w) <<< wField w 2 0))) []) s)

def execMovsa (t : TileId) (e : CoreErr) (s : State) : Outcome :=
  .next (runCore t e (isOpc 0x1E) ⟨rA, aD, true⟩ (fun _ w x => .done (x.setA (wD w) (x.core.s (wA w))) []) s)

def execMovas (t : TileId) (e : CoreErr) (s : State) : Outcome :=
  .next (runCore t e (isOpc 0x1F) ⟨aA, rD, true⟩ (fun _ w x => .done (x.setS (wD w) (x.core.a (wA w))) []) s)

/-- The address of LDS and STS, and whether it is one they may use. -/
def ldsAddr (x : Tile) (w : W32) : Nat := (x.core.a (wA w) + wImm12 w).toNat
def ldsOk (a : Nat) : Bool := a % 8 == 0 && a < Config.tileMem

def outstanding (x : Tile) : List Op := x.exec ++ x.fifo

def execLds (t : TileId) (e : CoreErr) (m : WordErr) (s : State) : Outcome :=
  .next (runCore t e (isOpc 0x20) ⟨aA, rD, true⟩ (fun _ w x =>
    let a := ldsAddr x w
    if !ldsOk a then .fault x 0x8 0 0
    else if (outstanding x).any (fun o => anyOverlap (o.res x).2 (lines a 8)) then .stall
    else
      let (x, ns) := x.meet m a 8
      if (badWords x.bad a 8).isEmpty then .done (x.setS (wD w) (BitVec.ofNat 64 (ofBytes (x.readMem a 8)))) ns
      else .done (x.setS (wD w) 0) (ns ++ x.wordErrs a 8 4 (opid 0 x.core.pc))) s)

def execSts (t : TileId) (e : CoreErr) (s : State) : Outcome :=
  .next (runCore t e (isOpc 0x21) ⟨fun w => aA w ++ rD w, noRegs, true⟩ (fun _ w x =>
    let a := ldsAddr x w
    if !ldsOk a then .fault x 0x8 0 0
    else if (outstanding x).any (fun o => anyOverlap ((o.res x).1 ++ (o.res x).2) (lines a 8)) then .stall
    else .done (x.writeMem a (toBytes 8 (x.core.s (wD w)).toNat)) []) s)

/-! ## Building and enqueuing operations (R111, R206, R214) -/

/-- Enqueue an operation that the instruction at the PC built, or stall on the full FIFO (R111). -/
def enqueueOr (x : Tile) (port : Nat) (kind : OpKind) (after : Tile → Op → Act) : Act :=
  if x.hasRoom port then let (y, o) := x.enqueue port x.core.pc kind; after y o
  else .wait x (.enqueue ⟨0, port, x.core.pc, kind⟩)

/-- An STMX with SEL = 2 takes X from SREG as it is enqueued (R192). -/
def TahrF.takesX (f : TahrF) : Bool := f.opc == 4 && f.sel == 2

/-- Registers that an ISSUE on port `p` reads: its words, and the SREG that its operation names (R192, R205, R214). -/
def issueReads (x : Tile) (p : Nat) (w : W32) : List Nat :=
  let n := wField w 18 14
  if p ≤ 1 ∨ n = 31 then [n] else
  let f := tahrF (x.core.s n) (x.core.s (n + 1))
  [n, n + 1] ++ (if p = 4 ∧ f.takesX then [f.sreg] else [])

/-- ISSUE on port `p` (R214). -/
def runIssue (t : TileId) (e : CoreErr) (p : Nat) (s : State) : State :=
  let reads (w : W32) : List Nat := issueReads (s.tile t) p w
  runCore t e (fun w => wOpc w == 0x24 && wField w 21 19 == p) ⟨reads, noRegs, true⟩ (fun s w x =>
    let n := wField w 18 14
    let w0 := x.core.s n
    let w1 := if p ≤ 1 then 0 else x.core.s (n + 1)
    if (p ≥ 2 && n == 31) || !issueLegal t p x.img s.member w0 w1 then .fault x 0x3 0 w0.toNat
    else
      let f := tahrF w0 w1
      let kind : OpKind :=
        if p ≤ 1 then .fill w0
        else if p = 5 then .net w0 w1
        else .two w0 w1 (if p = 4 && f.takesX then (x.core.s f.sreg).setWidth 8 else 0)
      enqueueOr x p kind (fun y _ => .done y [])) s

def execIssueFillA (t : TileId) (e : CoreErr) (s : State) : Outcome := .next (runIssue t e 0 s)
def execIssueFillB (t : TileId) (e : CoreErr) (s : State) : Outcome := .next (runIssue t e 1 s)
def execIssueIbex (t : TileId) (e : CoreErr) (s : State) : Outcome := .next (runIssue t e 2 s)
def execIssueDrain (t : TileId) (e : CoreErr) (s : State) : Outcome := .next (runIssue t e 3 s)
def execIssueTahr (t : TileId) (e : CoreErr) (s : State) : Outcome := .next (runIssue t e 4 s)
def execIssueNet (t : TileId) (e : CoreErr) (s : State) : Outcome := .next (runIssue t e 5 s)

/-! ## Channels and handlers (R216 to R219) -/

def execSend (t : TileId) (e : CoreErr) (s : State) : Outcome :=
  .next (runCore t e (isOpc 0x28) ⟨fun w => [32 + wField w 15 12, wField w 11 7], noRegs, true⟩ (fun _ w x =>
    let ch := BitVec.ofNat 6 (wField w 21 16)
    let a := (x.core.a (wField w 15 12)).toNat
    let n := (x.core.s (wField w 11 7)).toNat
    if n = 0 || n > 16384 || n > (x.ep ch).maxMsg || a % 64 != 0 || a + n > Config.tileMem then .fault x 0x3 0 0
    else enqueueOr x 5 (.send ch (BitVec.ofNat 21 a) n (BitVec.ofNat 6 (wField w 6 1))) (fun y _ => .done y [])) s)

/-- A release of the endpoint's message that has been enqueued and has not issued (R218). -/
def Tile.releasePending (x : Tile) (ch : BitVec 6) : Bool :=
  x.fifo.any (fun o => match o.kind with | .release c => c == ch | _ => false)

/-- The message at the read position, when it is complete and no release of this endpoint still has to issue (R217, R218,
R279). -/
def Tile.headMsg (x : Tile) (ch : BitVec 6) : Option Rec :=
  if x.releasePending ch then none else
  match (x.ep ch).recs with
  | r :: _ => if r.left = 0 then some r else none
  | [] => none

/-- The address of the record's second unit: tile memory, or the Commons linear view (R279). -/
def Endpoint.payload (e : Endpoint) (r : Rec) : W64 := BitVec.ofNat 64 (e.unitAddr (r.start + 1))

/-- Bytes of a ring, in tile memory or in the Commons (R273). -/
def Tile.ringBytes (x : Tile) (commons : SMap Byte) (e : Endpoint) (a n : Nat) : List Byte :=
  if e.inCommons then readBytes 0 commons a n else x.readMem a n

/-- The header word of a record, as it stands in the ring (R275). -/
def Tile.header (x : Tile) (commons : SMap Byte) (ch : BitVec 6) (r : Rec) : W64 :=
  let e := x.ep ch
  BitVec.ofNat 64 (ofBytes (x.ringBytes commons e (e.unitAddr r.start) 8))

/-- RECV's effect on registers and the held flag (R217, R275). -/
def Tile.take (x : Tile) (commons : SMap Byte) (ch : BitVec 6) (r : Rec) (ad sd : Nat) : Tile :=
  let y := (x.setA ad ((x.ep ch).payload r)).setS sd (x.header commons ch r)
  { y with core := { y.core with held := y.core.held ||| BitVec.ofNat 64 (2 ^ ch.toNat) } }

/-- Enter the handler that the header word names (R219), or raise the handler fault where the entry is invalid. -/
def enterHandler (x : Tile) (ch : BitVec 6) (hdr : W64) : Act :=
  match mapFind x.img.handlers (bits hdr.toNat 59 54) with
  | some h => .jump { x with core := { x.core with handler := some (x.core.pc + 1, ch) } } h.toNat
  | none => .fault x 0x5 0 0

def chOf (w : W32) : BitVec 6 := BitVec.ofNat 6 (wField w 21 16)
def recvAd (w : W32) : Nat := wField w 15 12
def recvSd (w : W32) : Nat := wField w 11 7

def execRecv (t : TileId) (e : CoreErr) (s : State) : Outcome :=
  .next (runCore t e (isOpc 0x29) ⟨noRegs, fun w => [32 + recvAd w, recvSd w], true⟩ (fun s w x =>
    let ch := chOf w
    match x.headMsg ch with
    | some r =>
      let y := x.take s.commons ch r (recvAd w) (recvSd w)
      .done (if bit w.toNat 6 then y.setP (wField w 5 3) true else y) []
    | none =>
      if bit w.toNat 6 then .done (x.setP (wField w 5 3) false) []
      else .wait x (.message ch (BitVec.ofNat 4 (recvAd w)) (BitVec.ofNat 5 (recvSd w)) false)) s)

def execDispatch (t : TileId) (e : CoreErr) (s : State) : Outcome :=
  .next (runCore t e (isOpc 0x2B) ⟨noRegs, fun w => [32 + recvAd w, recvSd w], true⟩ (fun s w x =>
    let ch := chOf w
    if x.core.handler.isSome then .fault x 0x5 0 0 else
    match x.headMsg ch with
    | some r => enterHandler (x.take s.commons ch r (recvAd w) (recvSd w)) ch (x.header s.commons ch r)
    | none => .wait x (.message ch (BitVec.ofNat 4 (recvAd w)) (BitVec.ofNat 5 (recvSd w)) true)) s)

def Tile.isHeld (x : Tile) (ch : BitVec 6) : Bool := x.core.held.getLsbD ch.toNat
def Tile.unhold (x : Tile) (ch : BitVec 6) : Tile :=
  { x with core := { x.core with held := x.core.held &&& ~~~(BitVec.ofNat 64 (2 ^ ch.toNat)) } }

/-- RELEASE's effect (R218): the held flag clears and the release is enqueued. -/
def releaseMsg (x : Tile) (ch : BitVec 6) (after : Tile → Act) : Act :=
  if !x.isHeld ch then .fault x 0x6 0 0
  else enqueueOr (x.unhold ch) 5 (.release ch) (fun y _ => after y)

def execRelease (t : TileId) (e : CoreErr) (s : State) : Outcome :=
  .next (runCore t e (isOpc 0x2A) ⟨noRegs, noRegs, true⟩ (fun _ w x => releaseMsg x (chOf w) (fun y => .done y [])) s)

/-- HRET's return (R219). -/
def leaveHandler (x : Tile) (link : BitVec 12) : Act :=
  .jump { x with core := { x.core with handler := none } } link.toNat

def execHret (t : TileId) (e : CoreErr) (s : State) : Outcome :=
  .next (runCore t e (isOpc 0x2C) ⟨noRegs, noRegs, true⟩ (fun _ w x =>
    match x.core.handler with
    | none => .fault x 0x5 0 0
    | some (link, ch) =>
      if bit w.toNat 21 then releaseMsg x ch (fun y => leaveHandler y link) else leaveHandler x link) s)

/-! ## Atomics (R220) -/

/-- The operation an ATOM word builds. -/
def atomKind (x : Tile) (w : W32) : OpKind :=
  .atom (x.core.a (wField w 16 13)) (BitVec.ofNat 4 (wField w 7 4)) (bit w.toNat 1) (x.core.s (wField w 12 8))
    (x.core.s (wD w)) (BitVec.ofNat 5 (wD w))

/-- After the enqueue: sD is pending unless the atomic is a STORE, and an acquire fence follows where ORD asks (R220). -/
def afterAtom (w : W32) (y : Tile) (o : Op) : Act :=
  let z := if wField w 7 4 = 1 then y
    else { y with core := { y.core with pend := y.core.pend ++ [(BitVec.ofNat 5 (wD w), o.n)] } }
  if wField w 3 2 ≥ 2 then .wait z (.fence false true) else .done z []

def atomReads (w : W32) : List Nat :=
  let aop := wField w 7 4
  [32 + wField w 16 13] ++ (if aop = 0 then [] else [wField w 12 8]) ++ (if aop = 3 then [wD w] else [])

/-- ATOM with an AOP of `ops` (R220): a release qualifier waits for the release fence before the enqueue. -/
def runAtom (t : TileId) (e : CoreErr) (ops : List Nat) (s : State) : State :=
  runCore t e (fun w => wOpc w == 0x2E && wField w 7 4 ∈ ops)
    ⟨atomReads, fun w => if wField w 7 4 = 1 then [] else rD w, true⟩ (fun _ w x =>
      let o := wField w 3 2
      if o = 1 ∨ o = 3 then .wait x (.atomic ⟨0, 5, x.core.pc, atomKind x w⟩ (o == 3))
      else enqueueOr x 5 (atomKind x w) (afterAtom w)) s

def execAtomLoad (t : TileId) (e : CoreErr) (s : State) : Outcome := .next (runAtom t e [0] s)
def execAtomStore (t : TileId) (e : CoreErr) (s : State) : Outcome := .next (runAtom t e [1] s)
def execAtomSwap (t : TileId) (e : CoreErr) (s : State) : Outcome := .next (runAtom t e [2] s)
def execAtomCas (t : TileId) (e : CoreErr) (s : State) : Outcome := .next (runAtom t e [3] s)
def execAtomAdd (t : TileId) (e : CoreErr) (s : State) : Outcome := .next (runAtom t e [4] s)
def execAtomMin (t : TileId) (e : CoreErr) (s : State) : Outcome := .next (runAtom t e [5, 7] s)
def execAtomMax (t : TileId) (e : CoreErr) (s : State) : Outcome := .next (runAtom t e [6, 8] s)
def execAtomAnd (t : TileId) (e : CoreErr) (s : State) : Outcome := .next (runAtom t e [9] s)
def execAtomOr (t : TileId) (e : CoreErr) (s : State) : Outcome := .next (runAtom t e [10] s)
def execAtomXor (t : TileId) (e : CoreErr) (s : State) : Outcome := .next (runAtom t e [11] s)

/-! ## Stalled enqueues (R111) -/

/-- The instruction goes on once its operation has been enqueued: an ATOM sets its mark and its acquire fence, an HRET
returns, and every other instruction completes. -/
def afterStall (w : W32) (y : Tile) (o : Op) : Act :=
  if wOpc w = 0x2E then afterAtom w y o
  else if wOpc w = 0x2C then
    match y.core.handler with
    | some (link, _) => leaveHandler y link
    | none => .done y []
  else .done y []

def execStalledEnqueue (t : TileId) (s : State) : Outcome :=
  let x := s.tile t
  match x.core.wait with
  | .enqueue o =>
    if x.goes && x.hasRoom o.port then
      let (y, o') := (x.setWait .none).enqueue o.port o.pc o.kind
      .next (s.putTile t (y.act (afterStall x.word y o')))
    else .next s
  | _ => .next s

/-! ## Counters, barriers, flags and fences (R221 to R223) -/

def ctrVal (w : W32) (x : Tile) : W64 :=
  if bit w.toNat 16 then BitVec.ofNat 64 (wField w 10 0) else x.core.s (wField w 15 11)
def ctrReads (w : W32) : List Nat := if bit w.toNat 16 then [] else [wField w 15 11]

def execWaitc (t : TileId) (e : CoreErr) (s : State) : Outcome :=
  .next (runCore t e (isOpc 0x30) ⟨ctrReads, noRegs, true⟩ (fun _ w x =>
    if (ctrVal w x).toNat ≤ mapGet 0 x.arr (wD w) then .done x []
    else .wait x (.counter (BitVec.ofNat 5 (wD w)) (ctrVal w x))) s)

def execWaitcResume (t : TileId) (s : State) : Outcome :=
  let x := s.tile t
  match x.core.wait with
  | .counter c v =>
    if x.goes && decide (v.toNat ≤ mapGet 0 x.arr c.toNat) then .next (s.putTile t x.finish) else .next s
  | _ => .next s

def execCsub (t : TileId) (e : CoreErr) (s : State) : Outcome :=
  .next (runCore t e (isOpc 0x31) ⟨ctrReads, noRegs, true⟩ (fun _ w x =>
    let v := (ctrVal w x).toNat
    let c := mapGet 0 x.arr (wD w)
    if v > c then .fault x 0x7 0 0 else .done { x with arr := mapPut 0 (wD w) (c - v) x.arr } []) s)

def execBar (t : TileId) (e : CoreErr) (s : State) : Outcome :=
  .next (runCore t e (isOpc 0x34) ⟨noRegs, noRegs, true⟩ (fun _ w x =>
    .wait x (.barrier (BitVec.ofNat 4 (wField w 21 18)) 0)) s)

def execFlagset (t : TileId) (e : CoreErr) (s : State) : Outcome :=
  .next (runCore t e (isOpc 0x35) ⟨noRegs, noRegs, true⟩ (fun _ w x =>
    .done x [.flag (chOf w) (bit w.toNat 15)]) s)

def execFlagwait (t : TileId) (e : CoreErr) (s : State) : Outcome :=
  .next (runCore t e (isOpc 0x36) ⟨noRegs, noRegs, true⟩ (fun _ w x =>
    let f := chOf w
    let v := bit w.toNat 15
    if x.flags.getLsbD f.toNat == v then .done x [] else .wait x (.flag f v)) s)

def execFlagwaitResume (t : TileId) (s : State) : Outcome :=
  let x := s.tile t
  match x.core.wait with
  | .flag f v => if x.goes && x.flags.getLsbD f.toNat == v then .next (s.putTile t x.finish) else .next s
  | _ => .next s

/-- FENCE with the KIND `k` (R223): Muntjac waits in it until FENCE_COMPLETE. -/
def runFence (t : TileId) (e : CoreErr) (k : Nat) (rel acq : Bool) (s : State) : State :=
  runCore t e (fun w => wOpc w == 0x38 && wField w 21 20 == k) ⟨noRegs, noRegs, true⟩
    (fun _ _ x => .wait x (.fence rel acq)) s

def execFenceRelease (t : TileId) (e : CoreErr) (s : State) : Outcome := .next (runFence t e 1 true false s)
def execFenceAcquire (t : TileId) (e : CoreErr) (s : State) : Outcome := .next (runFence t e 2 false true s)
def execFenceFull (t : TileId) (e : CoreErr) (s : State) : Outcome := .next (runFence t e 3 true true s)

/-- The barrier, atomic or FENCE that waits in a fence goes on once its conditions hold (R45 to R47, R49, R117). -/
def fenceGoes (x : Tile) : Act :=
  match x.core.wait with
  | .fence rel acq => if (!rel || x.releaseDone) && (!acq || x.acquireDone) then .done (x.setWait .none) [] else .stall
  | .atomic o _ =>
    if x.releaseDone then
      if x.hasRoom o.port then
        let (y, o') := (x.setWait .none).enqueue o.port o.pc o.kind
        afterAtom x.word y o'
      else .wait x (.enqueue o)
    else .stall
  | .barrier _ stage =>
    if stage = 2 && x.acquireDone then .done (x.setWait .none) [] else .stall
  | _ => .stall

def execFenceComplete (t : TileId) (s : State) : Outcome :=
  let x := s.tile t
  if !x.goes then .next s else
  match x.core.wait with
  | .barrier b 0 =>
    -- the arrival is counted after the release fence (R268)
    if x.releaseDone then .next ((s.setTile t (x.setWait (.barrier b 1))).emit (.barArrive t b)) else .next s
  | _ => .next (s.putTile t (x.act (fenceGoes x)))

/-! ## End of step, system values, faults (R224 to R227) -/

def execStepend (t : TileId) (e : CoreErr) (s : State) : Outcome :=
  .next (runCore t e (isOpc 0x3C) ⟨noRegs, noRegs, true⟩ (fun _ _ x =>
    if x.core.handler.isSome then .fault x 0x5 0 0 else .wait { x with phase := phEnding, resume := .next } .stepEnd) s)

/-- The value of a counter of R124 that counts cycles: the model does not time them, so while it counts each read is a
free value, and it holds the last while it does not. -/
def Tile.cycleCount (x : Tile) (i : Nat) : W64 := if x.cntSeed = 0 then 0 else Config.freeCount x.cntSeed i

/-- RDSYS's values (R225); a SEL that the spec leaves undefined reads the free value of `seed`. -/
def sysValue (t : TileId) (s : State) (x : Tile) (sel seed : Nat) : W64 :=
  match sel with
  | 0 => BitVec.ofNat 64 (s.fget F.STEP_CURRENT.STEP)
  | 1 => BitVec.ofNat 64 (tileX t + tileY t * 2 ^ 8 + clusterOf t * 2 ^ 16)
  | 2 => BitVec.ofNat 64 (coordK s.herdN s.pos + coordJ s.herdN s.pos * 4 + coordI s.herdN s.pos * 16
      + s.fget F.HQ_HERD.H % 256 * 2 ^ 8)
  | 3 => x.cycleCount 0
  | _ => Config.freeCount seed 1

/-- RDSYS: a reading of TIL_CNT_CYCLES draws a fresh value while the counter counts, and so does an undefined SEL. -/
def execRdsys (t : TileId) (e : CoreErr) (s : State) : Outcome :=
  let (n, s') := s.draw
  let x := s.tile t
  let sel := wField x.word 16 11
  let s := if x.coreReady && wOpc x.word == 0x3D && sel ≥ 3 then
      (if sel = 3 && x.counting then s'.setTile t { x with cntSeed := n } else s') else s
  .next (runCore t e (isOpc 0x3D) ⟨noRegs, rD, true⟩
    (fun s w x => .done (x.setS (wD w) (sysValue t s x (wField w 16 11) n)) []) s)

def execTrap (t : TileId) (e : CoreErr) (s : State) : Outcome :=
  .next (runCore t e (isOpc 0x3E) ⟨noRegs, noRegs, true⟩ (fun _ w x => .fault x 0xB (wField w 21 12) 0) s)

def execIllegalInstruction (t : TileId) (e : CoreErr) (s : State) : Outcome :=
  .next (runCore t e (fun w => !opcListed (wOpc w)) ⟨noRegs, noRegs, false⟩ (fun _ _ x => .fault x 0x1 0 0) s)

/-! ## Channel waits (R217, R279) and the atomic's reply (R220) -/

def execRecvResume (t : TileId) (s : State) : Outcome :=
  let x := s.tile t
  match x.core.wait with
  | .message ch ad sd disp =>
    if !x.goes then .next s else
    match x.headMsg ch with
    | none => .next s
    | some r =>
      let s := if x.counting then s.moreStalls t else s
      let y := ((s.tile t).setWait .none).take s.commons ch r ad.toNat sd.toNat
      .next (s.putTile t (y.act (if disp then enterHandler y ch (x.header s.commons ch r) else .done y [])))
  | _ => .next s

end Sys2Proof.Machine
end

