-- ==== Sys2Proof/Machine/Net.lean ====
section
/-! DEFINITION. The NET port (R234 to R249, R554): moves, region releases, atomics, remote writes, the gather buffer, the
Commons slices, and the replies that reach a tile (R45, R220, R442, R443). -/

namespace Sys2Proof.Machine

/-! ## Job addresses (R75 to R82) -/

/-- The range that holds a job page (R81). -/
def State.rangeOf (s : State) (page : Nat) : Option (Nat × Range) :=
  s.ranges.find? (fun p => decide (p.2.base.toNat ≤ page ∧ page < p.2.base.toNat + p.2.pages.toNat))

/-- Home ordinal and local page number of a job page (R81). -/
def Range.homeOf (r : Range) (page : Nat) : Nat × Nat :=
  let q := page - r.base.toNat
  let g := 2 ^ r.gran.toNat
  let run := q / g
  (r.first.toNat + run % r.count.toNat, r.lbase.toNat + run / r.count.toNat * g + q % g)

def State.homeOf (s : State) (page : Nat) : Option (Nat × Nat) := (s.rangeOf page).map (fun p => p.2.homeOf page)

/-- An access that the requesting device can send on: bits [63:57] clear and its page declared (R37, R75, R82). -/
def State.jobOk (s : State) (a : Nat) : Bool := a < 2 ^ 57 && (s.rangeOf (a / Config.pageBytes)).isSome

/-- What the gateway slice finds for an access that lies in one page (R82). -/
def State.homeRef (s : State) (a : Nat) : HomeRef :=
  let h := (s.homeOf (a / Config.pageBytes)).getD (0, 0)
  ⟨a / Config.pageBytes % 64, h.1, h.2, h.1 == s.ord.toNat⟩

/-- The parts of an access, one per 2 MiB page (R76): address and length. -/
def pageParts : Nat → Nat → Nat → List (Nat × Nat)
  | 0, _, _ => []
  | k + 1, a, n =>
    if n = 0 then []
    else
      let m := min n (Config.pageBytes - a % Config.pageBytes)
      (a, m) :: pageParts k (a + m) (n - m)

/-- The access fault of R37, R51 and R75: DATA holds the address, and the page's LPN and SUB where it has one. -/
def State.accessFault (s : State) (t : TileId) (o : Op) (a : Nat) : State :=
  let lpn := ((s.homeOf (a / Config.pageBytes)).map Prod.snd).getD 0
  s.tileErr t 0x2010 false 0 5 o.opid (data2 a (lpn + bits a 20 16 * 2 ^ 32))

/-! ## Uncorrectable units (R233) -/

/-- The 64-byte units of a range that hold an uncorrectable word, counted from its start. -/
def badUnits (bad : List Nat) (a n : Nat) : List Nat :=
  (List.range (cdiv n 64)).filter (fun u => !(badWords bad (a + 64 * u) (min 64 (n - 64 * u))).isEmpty)

/-- Mark the words of units of a range as uncorrectable. -/
def markUnits (bad : List Nat) (a : Nat) (units : List Nat) : List Nat :=
  units.foldl (fun bad u => (List.range 8).foldl (fun bad k => addTo ((a + 64 * u) / 8 + k) bad) bad) bad

/-- Bytes arrive in tile memory, some units uncorrectable (R233). -/
def Tile.arrive (x : Tile) (a : Nat) (bs : List Byte) (bad : List Nat) : Tile :=
  let y := x.writeMem a bs
  { y with bad := markUnits y.bad a bad }

/-! ## Commons addresses (R247) -/

/-- Slice and byte within the slice. -/
def commonsAt (a : Nat) : Nat × Nat :=
  if bit a 31 then (bits a 13 8, bits a 30 14 * 256 + bits a 7 0) else (bits a 30 25, bits a 24 0)

/-- The parts of a Commons range: split at 256 bytes in the interleaved view, at slice boundaries in the linear one. -/
def commonsParts : Nat → Nat → Nat → List (Nat × Nat)
  | 0, _, _ => []
  | k + 1, a, n =>
    if n = 0 then []
    else
      let g := if bit a 31 then 256 else 2 ^ 25
      let m := min n (g - a % g)
      (a, m) :: commonsParts k (a + m) (n - m)

/-! ## Moves (R242, R244, R246) -/

def netOpc (c : Nat) (dir : Option Nat) (o : Op) : Bool :=
  match o.kind with
  | .net w0 w1 => bits w0.toNat 63 60 == c && (match dir with | none => true | some d => (moveF w0 w1).dir == d)
  | _ => false

/-- The move issues, taking its record when it fills a region (R242): the tile, the operation as it executes, with the
address of its first byte in TADDR. -/
def Tile.startMove (x : Tile) (o : Op) (w0 w1 : W64) : Tile × Op × MoveF :=
  let f := moveF w0 w1
  if f.rgn then
    let c := mapGet 0 x.img.regions f.rid
    let tail := mapGet 0 x.tails f.rid
    let a := rgnBase c + tail % rgnSlots c * rgnRec c
    let o' := { o with kind := .net (w0 ||| BitVec.ofNat 64 a) w1 }
    ({ x with tails := mapPut 0 f.rid ((tail + 1) % 65536) x.tails, fifo := dropOne o x.fifo, exec := x.exec ++ [o'] },
      o', { f with taddr := a })
  else (x.toExec o, o, f)

/-- A counter increment that waits for the acknowledgement of the whole write (R554). -/
def MoveF.inc (f : MoveF) : Option (BitVec 5) := if f.cen && f.dir != 4 then some f.ctr else none

def Tile.await (x : Tile) (o : Op) (parts : Nat) (inc : Option (BitVec 5)) : Tile :=
  if parts = 0 then x else { x with unacked := x.unacked ++ [⟨o.n, parts, inc, o⟩] }

/-! ## Replies and error responses (R220, R442, R443) -/

/-- The reply of the atomic `o`: the old value goes to sD, zero-extended for 4 bytes, unless it is a STORE (R220). -/
def Tile.atomDone (x : Tile) (o : Op) (old : W64) : Tile :=
  let y := x.complete o
  let c := { y.core with pend := y.core.pend.filter (fun p => p.2 != o.n) }
  let y := { y with core := c }
  match o.kind with
  | .atom _ aop wide _ _ rd => if aop = 1 then y else y.setS rd.toNat (if wide then old else BitVec.ofNat 64 (old.toNat % 2 ^ 32))
  | _ => y

/-- A reply with a stale generation, or for no outstanding request, is dropped and counted (R443). -/
def State.dropReply (s : State) : State := s.fadd F.FLT_GEN_DROPS.COUNT 1

def isAtom (o : Op) : Bool := match o.kind with | .atom .. => true | _ => false

/-- The operation, or the write, that a request of the tile belongs to ends with an error response; none where the reply is dropped (R443). -/
def State.endRequest (s : State) (t : TileId) (gen : Byte) (seq : W16) : Option (Op × State) :=
  let x := s.tile t
  if gen ≠ x.gen then none else
  match x.execBySeq seq, x.unacked.find? (fun u => BitVec.ofNat 16 u.n == seq) with
  | some o, u =>
    let y := if isAtom o then x.atomDone o 0 else x.complete o
    let y := match u with
      | some _ => { y with unacked := y.unacked.filter (fun v => v.n != o.n) }
      | none => y
    if o.port = 5 then some (o, s.setTile t y) else none
  | none, some u => some (u.op, s.setTile t { x with unacked := x.unacked.filter (fun v => v.n != u.n) })
  | none, none => none

/-- A request of the tile ends with an error response (R348, R350, R442): the report 0x4002 carries the first unit of the packet. -/
def State.requestFailed (s : State) (t : TileId) (gen : Byte) (seq : W16) (head : Nat) : State :=
  match s.endRequest t gen seq with
  | some (o, s) => s.tileErr t 0x4002 false 0 5 o.opid (data2 0 head)
  | none => s.dropReply

/-! ## Commons moves (R244 to R246, R252) -/

/-- The port of a slice to which a tile's requests go: 2 × slice for the low one, taken from rows 0 to 15, and 1 more for the high one (R252). -/
def commonsPort (slice : Nat) (t : TileId) : Nat := 2 * slice + tileY t / 16

/-- Queue the parts of a Commons move at their slices. -/
def State.queueSlices (s : State) (t : TileId) (gen : Byte) (o : Op) (f : MoveF) (data : Option (List Byte)) (bad : List Nat) :
    State :=
  (commonsParts 257 f.far f.len).foldl (fun s (a, n) =>
    let (sl, off) := commonsAt a
    let d := a - f.far
    let r : SliceReq :=
      { t := t, gen := gen, seq := o.seq, off := off, len := n, taddr := f.taddr + d
        data := data.map (fun bs => ((bs.drop d).take n,
          (bad.filter (fun u => decide (d ≤ 64 * u ∧ 64 * u < d + n))).map (fun u => u - d / 64))) }
    let k := commonsPort sl t
    { s with sliceQ := mapIns k ((mapGet [] s.sliceQ k) ++ [r]) s.sliceQ }) s

/-- A move has a part at a slice of the other half, whose mesh is stopped: it ends with an error response (R260). -/
def State.slicesStopped (s : State) (t : TileId) (f : MoveF) : Bool :=
  (commonsParts 257 f.far f.len).any (fun (a, _) =>
    let east := decide (32 ≤ (commonsAt a).1)
    east != isEast t && s.meshStopped east)

/-- A MOVE with DIR 0 or 1 issues. -/
def runCommonsMove (t : TileId) (dir : Nat) (m : WordErr) (s : State) : State :=
  let x := s.tile t
  match x.issuable 5 with
  | none => s
  | some o =>
    if !netOpc 7 (some dir) o then s else
    match o.kind with
    | .net w0 w1 =>
      let (y, o', f) := x.startMove o w0 w1
      let stopped := s.slicesStopped t f
      if dir = 0 then
        let s := s.setTile t y
        if stopped then s.requestFailed t x.gen o'.seq 0 else s.queueSlices t x.gen o' f none []
      else
        let (y, ns) := y.meet m f.taddr f.len
        let x := { x with bad := y.bad }
        let errs := ns ++ x.wordErrs f.taddr f.len 6 o.opid
        let z := y.await o' (commonsParts 257 f.far f.len).length f.inc
        let s := s.putTile t (z, errs)
        if stopped then s.requestFailed t x.gen o'.seq 0
        else s.queueSlices t x.gen o' f (some (x.readMem f.taddr f.len)) (badUnits x.bad f.taddr f.len)
    | _ => s

def execMoveCommonsToTile (t : TileId) (s : State) : Outcome := .next (runCommonsMove t 0 .none s)
def execMoveTileToCommons (t : TileId) (m : WordErr) (s : State) : Outcome := .next (runCommonsMove t 1 m s)

/-- A MOVE with DIR 2 issues (R76, R82): its parts leave for their homes; a part outside the job is an access fault. -/
def execMoveJobToTile (t : TileId) (s : State) : Outcome :=
  let x := s.tile t
  match x.issuable 5 with
  | none => .next s
  | some o =>
    if !netOpc 7 (some 2) o then .next s else
    match o.kind with
    | .net w0 w1 =>
      let (y, o', f) := x.startMove o w0 w1
      .next ((pageParts 2 f.far f.len).foldl (fun s (a, n) =>
        if s.jobOk a then s.emit (.jobRead t x.gen o'.seq (BitVec.ofNat 64 a) n (s.homeRef a)) else s.accessFault t o' a) (s.setTile t y))
    | _ => .next s

/-- A MOVE with DIR 3 issues: the parts leave, to be acknowledged by their homes (R45). -/
def execMoveTileToJob (t : TileId) (m : WordErr) (s : State) : Outcome :=
  let x := s.tile t
  match x.issuable 5 with
  | none => .next s
  | some o =>
    if !netOpc 7 (some 3) o then .next s else
    match o.kind with
    | .net w0 w1 =>
      let (y, o', f) := x.startMove o w0 w1
      let parts := pageParts 2 f.far f.len
      let (y, ns) := y.meet m f.taddr f.len
      let x := { x with bad := y.bad }
      let sent := (parts.filter (fun p => s.jobOk p.1)).length
      let s := s.putTile t (y.await o' sent (if sent = parts.length then f.inc else none), ns ++ x.wordErrs f.taddr f.len 6 o.opid)
      .next (parts.foldl (fun s (a, n) =>
        let b := f.taddr + (a - f.far)
        if s.jobOk a then
          s.emit (.jobWrite t x.gen o'.seq (BitVec.ofNat 64 a) (x.readMem b n) (badUnits x.bad b n) (s.homeRef a))
        else s.accessFault t o' a) s)
    | _ => .next s

/-- A MOVE with DIR 4 issues (R237, R238). -/
def execMoveRemoteWrite (t : TileId) (m : WordErr) (s : State) : Outcome :=
  .next (issueHead t 5 (netOpc 7 (some 4)) (fun x o =>
    match o.kind with
    | .net w0 w1 =>
      let f := moveF w0 w1
      let (x, ns) := x.meet m f.taddr f.len
      (x.await o 1 none, ns ++ x.wordErrs f.taddr f.len 6 o.opid ++
        [.out (.remoteWrite t x.gen o.seq (mkTile f.rx f.ry) (s.tileCode (mkTile f.rx f.ry)) (BitVec.ofNat 21 f.raddr) (x.readMem f.taddr f.len)
          (badUnits x.bad f.taddr f.len) (if f.cen then some f.ctr else none))])
    | _ => (x, [])) s)

/-- An RREL issues (R243): HEAD moves on, or the release past TAIL is discarded and reported. It moves no data, so it is
complete. -/
def execRrel (t : TileId) (s : State) : Outcome :=
  .next (issueHead t 5 (netOpc 8 none) (fun x o =>
    match o.kind with
    | .net w0 _ =>
      let f := rrelF w0
      let y := x.complete o
      let head := mapGet 0 x.heads f.rid
      let used := (mapGet 0 x.tails f.rid + 65536 - head) % 65536
      if f.count > used then ({ y with dirty := true }, [.err 0x1034 false 0 f.rid o.opid (data2 f.rid 0)])
      else ({ y with heads := mapPut 0 f.rid ((head + f.count) % 65536) y.heads }, [])
    | _ => (x, [])) s)

/-! ## Atomics (R51, R220, R246) -/

/-- An atomic leaves the NET port (R246). One that R51 or R75 refuses at once returns 0 and makes the step dirty. -/
def execAtomicIssue (t : TileId) (s : State) : Outcome :=
  let x := s.tile t
  match x.issuable 5 with
  | none => .next s
  | some o =>
    match o.kind with
    | .atom a aop wide v expect _ =>
      let y := x.toExec o
      if a.toNat % (if wide then 8 else 4) = 0 ∧ s.jobOk a.toNat then
        .next ((s.setTile t y).emit (.atomic t x.gen o.seq a aop wide v expect (s.homeRef a.toNat)))
      else .next ((s.setTile t (y.atomDone o 0)).accessFault t o a.toNat)
    | _ => .next s

def execAtomicReply (t : TileId) (gen : Byte) (seq : W16) (old : W64) (err : Bool) (s : State) : Outcome :=
  let x := s.tile t
  match x.execBySeq seq with
  | none => .next s.dropReply
  | some o =>
    if gen ≠ x.gen || !isAtom o then .next s.dropReply
    else if err then
      let s' := s.setTile t (x.atomDone o 0)
      .next (match o.kind with | .atom a .. => s'.accessFault t o a.toNat | _ => s')
    else .next (s.setTile t (x.atomDone o old))

/-! ## Completion and acknowledgement (R45, R114, R443, R554) -/

/-- Accesses of an operation that still wait at a slice. -/
def State.atSlices (s : State) (t : TileId) (seq : W16) : Bool :=
  s.sliceQ.any (fun p => p.2.any (fun r => r.t == t && r.seq == seq && r.data.isNone))

/-- A NET operation completes (R114): a move into tile memory when its last byte is written, with its increment (R238,
R554); an outbound one when its last byte has left. A read of job memory brings its bytes, or an error response. -/
def execNetOpComplete (t : TileId) (gen : Byte) (seq : W16) (data : List Byte) (bad : List Nat) (err : Bool) (s : State) :
    Outcome :=
  let x := s.tile t
  match x.execBySeq seq with
  | none => .next s.dropReply
  | some o =>
    if gen ≠ x.gen || o.port ≠ 5 then .next s.dropReply else
    match o.kind with
    | .net w0 w1 =>
      let f := moveF w0 w1
      if f.opc ≠ 7 then .next s
      else if f.dir = 0 then
        if s.atSlices t seq then .next s
        else .next (s.putTile t ((x.complete o).incrementOpt f.inc))
      else if f.dir = 2 then
        if err then .next ((s.setTile t (x.complete o)).accessFault t o f.far)
        else if data.length ≠ f.len then .next s
        else .next (s.putTile t (((x.arrive f.taddr data bad).complete o).incrementOpt f.inc))
      else .next (s.setTile t (x.complete o))
    | .send .. => .next (s.setTile t (x.complete o))
    | _ => .next s

/-- A remote write or channel block refused, in the sender's report (R237, R284, R430): the address or the peer's endpoint,
the peer's ordinal and LOC; SUB is the reporting tile's endpoint. -/
def State.refusedSend (s : State) (t : TileId) (o : Op) (addr : Nat) (peerOrd : Nat) (peer : TileId) (sub : Nat) : State :=
  s.tileErr t 0x1033 false 0 sub o.opid (data2 addr (peerOrd + (s.tileLoc peer).toNat * 2 ^ 32))

/-- The error response to a write, charged to the tile that issued it (R36, R237, R284). -/
def State.writeRefused (s : State) (t : TileId) (o : Op) : State :=
  match o.kind with
  | .net w0 w1 =>
    let f := moveF w0 w1
    if f.dir = 4 then s.refusedSend t o f.raddr s.ord.toNat (mkTile f.rx f.ry) 0
    else s.accessFault t o f.far
  | .send ch _ _ _ =>
    let e := (s.tile t).ep ch
    s.refusedSend t o e.peerId.ep.toNat e.peerId.ord.toNat e.peerId.tile ch.toNat
  | .atom a .. => s.accessFault t o a.toNat
  | _ => s

def execWriteAcknowledge (t : TileId) (gen : Byte) (seq : W16) (err : Bool) (s : State) : Outcome :=
  let x := s.tile t
  match x.unacked.find? (fun u => BitVec.ofNat 16 u.n == seq) with
  | none => .next s.dropReply
  | some u =>
    if gen ≠ x.gen then .next s.dropReply
    else
      -- a write that a destination refused increments nothing
      let y := if err then { x with unacked := x.unacked.map (fun v => if v.n = u.n then { v with inc := none } else v) } else x
      let s := s.putTile t (y.acknowledge u.n)
      .next (if err then s.writeRefused t u.op else s)

def execFabricErrorResponse (t : TileId) (gen : Byte) (seq : W16) (head : W64) (s : State) : Outcome :=
  .next (s.requestFailed t gen seq head.toNat)

def execRequestTimeout (t : TileId) (gen : Byte) (seq : W16) (s : State) : Outcome := .next (s.requestFailed t gen seq 0)

/-! ## Remote writes and the gather buffer (R234 to R239) -/

/-- A tile that runs a context answers requests from outside; one in reset, fenced or unpowered, idle or without a context gives an error
response (R237, R266, R284). -/
def State.answersAt (s : State) (t : TileId) : Bool :=
  let p := (s.tile t).phase
  p != phReset && p != phIdle && p != phNoContext && !s.isFenced t && decide (s.fget (F.PWR_STATE.STATE.ix (clusterOf t)) < 4)

/-- A request of a unit of this device whose GEN its issuer has left belongs to a step that a rollback or a reset has ended (R240, R287,
R443). -/
def State.staleGen (s : State) (src : TileId) (gen : Byte) : Bool := (s.tile src).gen != gen

/-- All bytes lie in one window (R237). -/
def Tile.inWindow (x : Tile) (a n : Nat) : Bool := x.img.windows.any (fun w => decide (w.1 ≤ a ∧ a + n ≤ w.2))

/-- Runs of written bytes of an entry: each byte by itself, in order of address. -/
def Gather.bytesOf (g : Gather) : List (Nat × Byte) := g.data.map (fun p => (g.line * 256 + p.1, p.2))

/-- Flush one entry (R230, R233, R235, R236): its bytes are merged, its writes acknowledged, its increments applied. A word
that is written in full loses its mark; a part-written uncorrectable word keeps it, and is reported on slot 7; words that came
uncorrectable are marked. -/
def Tile.flushOne (x : Tile) (g : Gather) : Tile × List Note :=
  let words := (List.range 32).map (fun i => (g.line * 32 + i, g.data.filter (fun p => p.1 / 8 == i)))
  let full := words.filter (fun w => w.2.length == 8)
  let part := words.filter (fun w => decide (0 < w.2.length ∧ w.2.length < 8) && decide (w.1 ∈ x.bad))
  let mem := g.bytesOf.foldl (fun m p => mapPut 0 p.1 p.2 m) x.mem
  let kept := x.bad.filter (fun w => full.all (fun f => f.1 != w))
  let y := { x with mem := mem, bad := g.bad.foldl (fun l i => addTo (g.line * 32 + i) l) kept, gather := dropOne g x.gather }
  let errs := part.map (fun w => Note.err 0x2001 false 0 7 0 (data2 (w.1 * 8) 7))
  g.acks.foldl (fun (y, ns) (src, gen, seq, c) =>
    let (z, ms) := y.incrementOpt c
    (z, ns ++ [.out (.writeAck src gen seq false)] ++ ms)) (y, errs)

/-- Flush the first `k` entries, oldest first. -/
def Tile.flushFirst : Nat → Tile → Tile × List Note
  | 0, x => (x, [])
  | k + 1, x =>
    match x.gather with
    | [] => (x, [])
    | g :: _ =>
      let (y, ns) := x.flushOne g
      let (z, ms) := Tile.flushFirst k y
      (z, ns ++ ms)

/-- Entries to flush when the entry of a line is flushed: it and every older one (R235). -/
def Tile.flushLine (x : Tile) (line : Nat) : Tile × List Note :=
  match x.gather.findIdx? (fun g => g.line == line) with
  | some i => Tile.flushFirst (i + 1) x
  | none => (x, [])

/-- A remote write that the receiving tile refuses: dropped whole, with an error response (R237). -/
def State.refuseRemote (s : State) (src : TileId) (gen : Byte) (seq : W16) : State := s.emit (.writeAck src gen seq true)

def execRemoteWriteArrival (t : TileId) (src : TileId) (gen : Byte) (seq : W16) (a : BitVec 21) (data : List Byte)
    (ctr : Option (BitVec 5)) (bad : List Nat) (s : State) : Outcome :=
  let x := s.tile t
  let n := data.length
  if s.staleGen src gen then .next s
  else if !s.answersAt t || !x.inWindow a.toNat n then .next (s.refuseRemote src gen seq)
  else
    -- gather entries of its lines are flushed before a whole-unit write (R235)
    let (y, ns) := (List.range ((a.toNat + n - 1) / 256 - a.toNat / 256 + 1)).foldl (fun (y, ns) i =>
      let (z, ms) := y.flushLine (a.toNat / 256 + i)
      (z, ns ++ ms)) (x, [])
    let (z, ms) := (y.arrive a.toNat data bad).incrementOpt ctr
    .next (s.putTile t (z, ns ++ ms ++ [.out (.writeAck src gen seq false)]))

/-- A narrow write merges into an entry: a word of the line that it writes in full loses an earlier mark, and every word that it touches
takes one when its bytes came uncorrectable (R233, R234). -/
def Gather.put (g : Gather) (a : Nat) (data : List Byte) (ack : TileId × Byte × W16 × Option (BitVec 5)) (bad : Bool) : Gather :=
  let o := a % 256
  let kept := g.bad.filter (fun i => !decide (o ≤ i * 8 ∧ i * 8 + 8 ≤ o + data.length))
  let hit := (List.range 32).filter (fun i => decide (o < i * 8 + 8 ∧ i * 8 < o + data.length))
  { g with data := insBytes o data g.data, acks := g.acks ++ [ack], counted := g.counted || ack.2.2.2.isSome
           bad := if bad then hit.foldl (fun l i => addTo i l) kept else kept }

/-- A narrow write enters the gather buffer. One that reaches a tile that rolls back is discarded with an error response (R236, R240). -/
def execGatherWrite (t : TileId) (src : TileId) (gen : Byte) (seq : W16) (a : BitVec 21) (data : List Byte) (ctr : Option (BitVec 5))
    (bad : Bool) (s : State) : Outcome :=
  let x := s.tile t
  if s.staleGen src gen then .next s
  else if !s.answersAt t || x.phase == phRolling || !x.inWindow a.toNat data.length then .next (s.refuseRemote src gen seq)
  else
    let line := a.toNat / 256
    let put (g : Gather) : Gather := g.put a.toNat data (src, gen, seq, ctr) bad
    if x.gather.any (fun g => g.line == line) then
      .next (s.setTile t { x with gather := x.gather.map (fun g => if g.line = line then put g else g) })
    else
      -- with no entry free the oldest is flushed first (R234)
      let (y, ns) := if x.gather.length ≥ 8 then Tile.flushFirst 1 x else (x, [])
      .next (s.putTile t ({ y with gather := y.gather ++ [put ⟨line, [], [], false, []⟩] }, ns))

/-- The youngest triggered entry and all older ones are flushed; with none triggered, the oldest, whose time has run out
(R235). -/
def execGatherFlush (t : TileId) (m : WordErr) (s : State) : Outcome :=
  let x := s.tile t
  let hit (g : Gather) : Bool := g.counted || g.data.length == 256
  let k := (List.range x.gather.length).foldl (fun k i => if (x.gather[i]?).any hit then i + 1 else k) 1
  -- what the code finds in a word that a merge reads
  let (x, ns) := match x.gather with | [] => (x, []) | g :: _ => x.meet m (g.line * 256) 256
  let (y, ms) := Tile.flushFirst k x
  .next (s.putTile t (y, ns ++ ms))

/-! ## Commons slices (R246 to R249) -/

/-- The request that a slice serves next: round-robin by requesting tile (R248), in order for one tile. -/
def nextSlice (last : Nat) : List SliceReq → Option SliceReq
  | [] => none
  | r :: rs => some (rs.foldl (fun b q =>
      if (q.t.toNat + 2047 - last) % 2048 < (b.t.toNat + 2047 - last) % 2048 then q else b) r)

/-- The offset within its slice of a word of the Commons that a read has found uncorrectable, as its report names it (R249, R430). -/
def State.sliceErr (s : State) (k : Nat) (t : TileId) (o : Op) (w : Nat) : State :=
  s.emit (.report (s.mkReport 0x2002 (errFlags false 0) 1 (unitLoc k) 0 o.opid
    (data2 (w * 8 - k * Config.sliceBytes) (s.ord.toNat + (s.tileLoc t).toNat * 2 ^ 32))) false)

/-- What the code of a slice finds as it reads `n` bytes at `a` (R249): one event of a slice and step, or a word's mark. -/
def State.sliceMeet (s : State) (k : Nat) (e : WordErr) (a n : Nat) : State :=
  let base := k * Config.sliceBytes
  let here (p : Nat) : Bool := decide (a < base + p / 8 * 8 + 8 ∧ base + p / 8 * 8 < a + n)
  match e with
  | .none => s
  | .corrected p =>
    if here p && !(k ∈ s.sliceOnce) then
      { s with sliceOnce := k :: s.sliceOnce }.record (s.mkReport 0x9010 0 1 (unitLoc k) 0 0 (data2 5 (p / 8 * 8)))
    else s
  | .uncorrectable p => if here p then { s with commonsBad := addTo ((base + p) / 8) s.commonsBad } else s

/-- Serve one access at a slice, whose two ports take turns by requesting tile (R248); `e` names a word by its offset within the slice. -/
def execCommonsSliceAccess (slice : BitVec 6) (e : WordErr) (s : State) : Outcome :=
  let k := slice.toNat
  match nextSlice (mapGet 2047 s.sliceTurn k) (mapGet [] s.sliceQ (2 * k) ++ mapGet [] s.sliceQ (2 * k + 1)) with
  | none => .next s
  | some r =>
    if s.meshStopped (decide (32 ≤ k)) then .next s else
    let p := commonsPort k r.t
    let s := { s with sliceQ := mapPut [] p (dropOne r (mapGet [] s.sliceQ p)) s.sliceQ, sliceTurn := mapIns k r.t.toNat s.sliceTurn }
    let base := k * Config.sliceBytes + r.off
    let x := s.tile r.t
    match r.data with
    | some (bs, bad) =>
      -- a write is acknowledged when it has been written to its slice
      let cleared := s.commonsBad.filter (fun w => !decide (base ≤ w * 8 ∧ w * 8 + 8 ≤ base + bs.length))
      let s := { s with commons := writeBytes 0 base bs s.commons, commonsBad := markUnits cleared base bad }
      match x.unackedBySeq r.seq with
      | some n => if r.gen = x.gen then .next (s.putTile r.t (x.acknowledge n)) else .next s.dropReply
      | none => .next s.dropReply
    | none =>
      let s := s.sliceMeet k e base r.len
      let units := badUnits s.commonsBad base r.len
      match x.execBySeq r.seq with
      | some o =>
        if r.gen ≠ x.gen then .next s.dropReply else
        let y := x.arrive r.taddr (readBytes 0 s.commons base r.len) units
        let s := s.setTile r.t { y with dirty := y.dirty || !units.isEmpty }
        .next ((badWords s.commonsBad base r.len).foldl (fun s w => s.sliceErr k r.t o w) s)
      | none => .next s.dropReply

end Sys2Proof.Machine
end

