-- ==== Sys2Proof/Machine/TileStep.lean ====
section
/-! DEFINITION. A tile's step (R118 to R121, R124, R125, R201): the start mark, the end-of-step report, the rollback, and
the counters' control. -/

namespace Sys2Proof.Machine

/-! ## Load values (R166, R176, R201) -/

/-- Muntjac as a load leaves it: the image's initial values, at the entry point (R201). -/
def Core.load (i : Image) : Core := { Core.start with pc := i.entry, sreg := i.sreg, areg := i.areg, preds := i.preds }

/-- An endpoint emptied (R63, R287): the ring empty, CREDIT at CREDIT_MAX, SEQ 0. -/
def Endpoint.emptied (e : Endpoint) : Endpoint := { e with wr := e.rd, recs := [], credit := e.creditMax, seq := 0 }

def Skew.cleared (k : Skew) : Skew := { k with short := 0, long := 0 }

/-- What a load, a rollback or a reset with a weave in force gives every tile: Muntjac, FIFOs, counters, regions and flags at
their load values, rings empty, buffers, banks and vector file undefined under fresh seeds (R63, R121, R166, R176, R201,
R271, R287, R329). -/
def Tile.atLoad (x : Tile) (seed : Nat) (r : Resume) : Tile :=
  { x with
    resume := r, core := Core.load x.img, fifo := [], exec := [], enq := 0, unacked := []
    bufA := ⟨2 * seed, [], []⟩, bufB := ⟨2 * seed + 1, [], []⟩, banks := [], bankSeed := seed, vec := ⟨seed, []⟩
    arr := [], heads := [], tails := [], eps := x.eps.map (fun p => (p.1, p.2.emptied)), skews := x.skews.map Skew.cleared
    gather := [], flags := 0, stats := [], once := [], chk1 := 0, dupOwn := [], dupPeer := [], sums := [], departs := 0 }

/-! ## Counters that count cycles (R124) -/

/-- The cycle counters take fresh values, and the stalls of endpoints that wait go on: they have counted since they were last fixed. -/
def State.recount (s : State) (t : TileId) : State :=
  let (n, s) := (s.moreStalls t).draw
  s.setTile t { s.tile t with cntSeed := n }

/-- The counters of a tile that counts stop where they stand. -/
def State.stopCounting (s : State) (t : TileId) : State := if (s.tile t).counting then s.recount t else s

/-! ## Step start and end (R118, R119) -/

/-- STEP_STATUS.PHASE. -/
def phStepIdle : Nat := 0
def phStepRunning : Nat := 1
def phStepVoting : Nat := 2
def phStepFlipping : Nat := 3
def phStepMirroring : Nat := 4
def phStepRolling : Nat := 5

def State.stepPhase (s : State) : Nat := s.fget F.STEP_STATUS.PHASE

/-- The start mark reaches a tile at the step gate (R118): TIL_STEP takes the step's number, DIRTY and the records of the last
step clear, and Muntjac resumes. -/
def Tile.startStep (x : Tile) (step : W32) : Tile × List Note :=
  let y := { x with phase := phRunning, dirty := false, step := step, once := [], chk1 := 0, stats := []
                    skews := x.skews.map Skew.cleared, resume := .next }
  match x.resume with
  | .entry => (y.setPc x.img.entry.toNat, [])
  | .resume => (y.setPc x.img.resume.toNat, [])
  | .next => ({ y with core := { y.core with wait := .none } }).finish

/-- A mark of the running step has not reached this tile yet: it waits at the gate, and its last step is another one. -/
def State.markDue (s : State) (x : Tile) : Bool :=
  x.img.ctx && x.phase == phGate && s.stepPhase == phStepRunning
    && (x.resume != .next || x.step != BitVec.ofNat 32 (s.fget F.STEP_CURRENT.STEP))

def execStepStartMark (t : TileId) (s : State) : Outcome :=
  let x := s.tile t
  if s.markDue x then
    let s := s.putTile t (x.startStep (BitVec.ofNat 32 (s.fget F.STEP_CURRENT.STEP)))
    .next (if (s.tile t).counting then s.recount t else s)
  else .next s

def execEndOfStepReport (t : TileId) (s : State) : Outcome :=
  let x := s.tile t
  if x.phase == phEnding && x.drained && x.dupOwn.isEmpty then
    let s := s.stopCounting t
    let y := s.tile t
    .next ((s.setTile t { y with phase := if x.dirty then phDirty else phClean }).emit (.tileReport t x.dirty))
  else .next s

/-! ## Rollback (R121, R240, R443) -/

/-- Whether a tile is in a step that a rollback can end, or holds the gate of one. -/
def Tile.inStep (x : Tile) : Bool :=
  x.img.ctx && (x.phase == phGate || x.phase == phRunning || x.phase == phEnding || x.phase == phClean || x.phase == phDirty)

/-! ### The coordinators (R388) -/

/-- The aggregator of this device's herd: the device whose i, j and k are those of the primary. -/
def State.aggOrd (s : State) : Nat := s.ordAt (s.fget F.HQ_HERD.H) (s.fget F.STEP_COORD.PRIMARY % s.herdN)

/-- A vote-traffic packet to the aggregator, or to the standby once the primary is lost (R392). -/
def State.toCoord (s : State) (typ : Byte) (step : Nat) (code : Byte) : State :=
  s.emit (.ctrl typ (some (if s.needPrimary then s.fget F.STEP_COORD.STANDBY else s.aggOrd)) (BitVec.ofNat 64 step) code)

/-- The rollback of this device is over once every tile has left the step, the resets asked for have run, and no far port
retrains: PHASE reads idle, so that the host may rewrite a poisoned page (R65, R104), and the ACK leaves unless a constant page
is poisoned (R104, R107, R394). -/
def State.ackIfRolled (s : State) : State :=
  match s.ackStep with
  | none => s
  | some n =>
    if s.rolling.isEmpty && s.resetAsk.isEmpty && s.resetRun.isEmpty && s.home.farLost.isEmpty then
      let s := s.fset F.STEP_STATUS.PHASE phStepIdle
      if s.fbit F.HOME_STATUS.POISON_HOLD then s else { s with ackStep := none }.toCoord 0x0D n 2
    else s

/-- A tile has no part, or no further part, in the rollback. -/
def State.rolledBack (s : State) (t : TileId) : State :=
  { s with rolling := s.rolling.filter (fun u => u != t) }.ackIfRolled

/-- The rollback command reaches a tile (R121): waits are abandoned, operations that have not issued are discarded, issued NET
operations end with error responses, the gather buffer is discarded (R236), and GEN moves on (R443). -/
def execTileRollback (t : TileId) (s : State) : Outcome :=
  let x := s.tile t
  if x.inStep && t ∈ s.rolling then
    let s := s.stopCounting t
    let y := s.tile t
    .next (s.setTile t { y with phase := phRolling, fifo := [], exec := y.exec.filter (fun o => o.port != 5), unacked := []
                                gather := [], gen := y.gen + 1, core := { y.core with wait := .none } })
  else .next s

/-- The rollback of a tile ends once its operations have ended and no tile of the device is still in the step: a write or message of the
step that is on its way then carries a GEN that its issuer has left (R240, R287, R443). -/
def execTileRollbackDone (t : TileId) (s : State) : Outcome :=
  let x := s.tile t
  if x.phase == phRolling && x.exec.isEmpty && s.rolling.all (fun u => !(s.tile u).inStep) then
    let (n, s) := s.draw
    .next ((s.setTile t { x.atLoad n .resume with phase := phGate }).rolledBack t)
  else .next s

/-! ## TIL_CTRL (R123, R125) -/

/-- The tile's own registers are served unless it is in reset, or its cluster in DEEP or powered down (R123). -/
def State.tileServes (s : State) (t : TileId) : Bool :=
  (s.tile t).phase != phReset && decide (s.fget (F.PWR_STATE.STATE.ix (clusterOf t)) < 4)

/-- BAR0 offset of a register of a logical tile (R122, R403). -/
def tilBase : Nat := 0x400000
def tilOffset (t : TileId) (off : Nat) : Nat := tilBase + t.toNat * 0x1000 + off

/-- CLEAR sets every counter of R124 and R288 to 0; with FREEZE they hold it, otherwise a running tile counts on. -/
def execTilCtrlClear (t : TileId) (freeze : Bool) (s : State) : Outcome :=
  let x := s.tile t
  if s.tileServes t then
    let y := { x with freeze := freeze, opsDone := 0, cntSeed := 0, eps := x.eps.map (fun p => (p.1, { p.2 with msgs := 0, stalls := 0 })) }
    let s := s.setTile t y
    .next (if y.counting then s.recount t else s)
  else .next (s.refuseWrite (tilOffset t 0x080) (if freeze then 3 else 1))

def execTilCtrlFreeze (t : TileId) (freeze : Bool) (s : State) : Outcome :=
  if s.tileServes t then
    let s := s.stopCounting t
    let y := { s.tile t with freeze := freeze }
    let s := s.setTile t y
    .next (if y.counting then s.recount t else s)
  else .next (s.refuseWrite (tilOffset t 0x080) (if freeze then 2 else 0))

end Sys2Proof.Machine
end

