-- ==== Sys2Proof/Machine/Channels.lean ====
section
/-! DEFINITION. Channels (R272 to R288, R317, R322 to R324, R329 to R336): sends, placement, releases, credit, probes, skew
pairs, and queue-depth sampling. -/

namespace Sys2Proof.Machine

/-! ## Header words (R275, R276) -/

def headerWord (who : EndpointId) (hidx : BitVec 6) (len : Nat) : W64 :=
  BitVec.ofNat 64 (2 ^ 60 + hidx.toNat * 2 ^ 54 + (len - 1) % 2 ^ 14 * 2 ^ 40 + who.ep.toNat * 2 ^ 34 + who.ord.toNat * 2 ^ 20
    + tileX who.tile * 2 ^ 14 + tileY who.tile * 2 ^ 9)

/-- The header unit of a message: the header word, SEQ, the step, and zeros (R275). -/
def headerUnit (m : MsgIn) : List Byte :=
  toBytes 8 (headerWord m.who m.hidx m.len).toNat ++ toBytes 4 m.seq.toNat ++ toBytes 4 m.step.toNat ++ toBytes 48 0

/-- The header unit of a wrap record (R276). -/
def wrapUnit : List Byte := toBytes 8 0x2000000000000000 ++ toBytes 56 0

/-- The epoch in force (WV_STATUS.EPOCH). -/
def State.epochNow (s : State) : BitVec 4 := BitVec.ofNat 4 (s.fget F.WV_STATUS.EPOCH)

/-! ## Sending (R250, R281, R283, R288, R324) -/

/-- Blocks of a message: 256 payload bytes each, the last one shorter, the header fields beside the first (R250; log 32). -/
def msgBlocks (len : Nat) : Nat := cdiv len 256

/-- Blocks of a message of `len` bytes whose last byte is among payload bytes `lo` to `hi` − 1. -/
def blocksEnding (lo hi len : Nat) : Nat :=
  ((List.range (msgBlocks len)).filter (fun i => let e := min (256 * (i + 1)) len; decide (lo < e ∧ e ≤ hi))).length

/-- Each block that has been written into its record is acknowledged (R324). -/
def State.ackBlocks (s : State) (who : EndpointId) (gen : Byte) (seq : W32) (k : Nat) : State :=
  s.emits (List.replicate k (.messageAck who gen seq false))

/-- A send at the NET head issues: the credit of its whole record is taken, the message leaves, and its acknowledgement is
awaited. -/
def execSendIssue (t : TileId) (w : WordErr) (s : State) : Outcome :=
  let x := s.tile t
  match x.issuable 5 with
  | none => .next s
  | some o =>
    match o.kind with
    | .send ch a len hidx =>
      let e := x.ep ch
      let (y, ns) := x.meet w a.toNat len
      let bad := y.bad
      let m : MsgIn := { who := ⟨s.ord, t, ch⟩, gen := x.gen, hidx := hidx, len := len, seq := e.seq
                         step := BitVec.ofNat 32 (s.fget F.STEP_CURRENT.STEP), epoch := s.epochNow
                         data := x.readMem a.toNat len, bad := badUnits bad a.toNat len }
      let e' := { e with credit := e.credit - recUnits len, seq := e.seq + 1
                         msgs := if x.counting then min (e.msgs + 1) (2 ^ 32 - 1) else e.msgs }
      let z := ((y.toExec o).setEp ch e').await o (msgBlocks len) none
      .next (s.putTile t (z, ns ++ y.wordErrs a.toNat len 6 o.opid ++ [.out (.message e.peerId m)]))
    | _ => .next s

/-- Returned credit reaches the sending tile (R281); an affected endpoint accepts the current epoch only (R317). -/
def execCreditReturnArrival (t : TileId) (ep : BitVec 6) (units : W16) (epoch : BitVec 4) (s : State) : Outcome :=
  let x := s.tile t
  let e := x.ep ep
  if !e.valid || e.isRecv || (e.affected && epoch != s.epochNow) then .next s
  else
    let s := if x.counting then s.moreStalls t else s
    .next (s.setTile t ((s.tile t).setEp ep { (s.tile t).ep ep with credit := e.credit + units.toNat }))

/-! ## Placement (R277, R278, R284) -/

/-- Units between RD and WR. -/
def Endpoint.used (e : Endpoint) : Nat := (e.wr + 2 * e.units - e.rd) % (2 * e.units)

/-- Write bytes of a ring, in tile memory or in the Commons. -/
def State.writeRing (s : State) (t : TileId) (inCommons : Bool) (a : Nat) (bs : List Byte) (bad : List Nat) : State :=
  if inCommons then
    let clear := s.commonsBad.filter (fun w => !decide (a ≤ w * 8 ∧ w * 8 + 8 ≤ a + bs.length))
    { s with commons := writeBytes 0 a bs s.commons, commonsBad := markUnits clear a bad }
  else s.setTile t ((s.tile t).arrive a bs bad)

/-- A block refused by the receiving endpoint: both tiles' steps are dirty (R284, R430). -/
def State.refuseBlock (s : State) (t : TileId) (ep : BitVec 6) (who : EndpointId) (gen : Byte) (seq : W32) : State :=
  (s.tileErr t 0x1033 false 0 ep.toNat 0 (data2 who.ep.toNat (who.ord.toNat + (s.tileLoc who.tile).toNat * 2 ^ 32))).emit
    (.messageAck who gen seq true)

/-- A block of a step that a rollback has ended (R287, R443): its sender on this device has left its GEN, or, from another device, this
device has rolled back since it heard that GEN (log 32). -/
def State.staleBlock (s : State) (who : EndpointId) (gen : Byte) : Bool :=
  if who.ord = s.ord then s.staleGen who.tile gen else decide ((who, gen, true) ∈ s.heardGen)

/-- The device hears the GEN of a sender on another device. -/
def State.hear (s : State) (who : EndpointId) (gen : Byte) : State :=
  if who.ord = s.ord then s else { s with heardGen := (who, gen, false) :: s.heardGen.filter (fun g => g.1 != who) }

/-- The report of a skew overrun (R330, R430). -/
def skewData (k : Skew) (ahead : Int) : Nat :=
  data2 (k.pair.toNat + (BitVec.ofInt 16 ahead).toNat * 2 ^ 16 + k.bound % 2 ^ 16 * 2 ^ 32)
    (k.fork.ord.toNat + tileX k.fork.tile * 2 ^ 14 + tileY k.fork.tile * 2 ^ 20)

/-- AHEAD of a pair, held as a signed 16-bit value (R329). -/
def Skew.ahead (k : Skew) : Int := (BitVec.ofInt 16 ((k.short : Int) - k.long)).toInt

/-- Count a placement for one skew pair: the pair after it, and whether it has made AHEAD greater than D (R329, R330). -/
def Skew.place (k : Skew) (ep : BitVec 6) (who : EndpointId) : Skew × Bool :=
  let short := if k.shortEp = ep ∧ k.shortSrc = who then k.short + 1 else k.short
  let long := if k.longEp = ep ∧ k.longSrc = who then k.long + 1 else k.long
  let j := { k with short := short, long := long }
  let moved := short != k.short || long != k.long
  ({ j with peak := if moved then max k.peak j.ahead else k.peak }, decide (k.ahead ≤ (k.bound : Int) ∧ (k.bound : Int) < j.ahead))

/-- Count a placement at the join tile; an overrun stops its context (R330). -/
def State.skewCount (s : State) (t : TileId) (ep : BitVec 6) (who : EndpointId) : State :=
  let x := s.tile t
  let placed := x.skews.map (fun k => k.place ep who)
  placed.foldl (fun s p => if p.2 then s.tileErr t 0x1031 true 0 0 0 (skewData p.1 p.1.ahead) else s)
    (s.setTile t { x with skews := placed.map Prod.fst })

/-- Place one message (R277, R284). A ring byte after the last payload byte is undefined: a free byte (R274). -/
def State.placeOne (s : State) (t : TileId) (ep : BitVec 6) (m : MsgIn) : State :=
  let x := s.tile t
  let e := x.ep ep
  let r := recUnits m.len
  if s.staleBlock m.who m.gen then s
  else if !s.answersAt t then s.emit (.messageAck m.who m.gen m.seq true)
  else if e.valid && e.isRecv && e.affected && m.epoch != s.epochNow then
    s.fadd F.WV_FLUSH_CNT.COUNT 1
  else
    let free := e.units - e.wr % e.units
    let wrap := if r ≤ free then 0 else free
    if !e.valid || !e.isRecv || !(m.who ∈ e.senders) || m.len = 0 || m.len > e.maxMsg || m.data.length > m.len
        || e.used + wrap + r > e.units then s.refuseBlock t ep m.who m.gen m.seq
    else
      let start := (e.wr + wrap) % (2 * e.units)
      let rc : Rec := { start := start, units := r, wrap := wrap, who := m.who, hdr := headerWord m.who m.hidx m.len
                        len := m.len, left := m.len - m.data.length, epoch := m.epoch }
      let (n, s) := s.draw
      let pad := (List.range (cdiv m.len 64 * 64 - m.len)).map (Config.freeByte n)
      let s := if wrap = 0 then s else s.writeRing t e.inCommons (e.unitAddr e.wr) wrapUnit []
      let a := e.unitAddr start
      let s := s.writeRing t e.inCommons a (headerUnit m) []
      let s := s.writeRing t e.inCommons (a + 64) m.data m.bad
      let s := s.writeRing t e.inCommons (a + 64 + m.len) pad []
      let x := s.tile t
      let s := s.setTile t (x.setEp ep { e with wr := (start + r) % (2 * e.units), recs := e.recs ++ [rc] })
      ((s.hear m.who m.gen).ackBlocks m.who m.gen m.seq (blocksEnding 0 m.data.length m.len)).skewCount t ep m.who

/-- The order of first blocks that arrive in one cycle: sender's ordinal, then tile, then endpoint (R278). -/
def senderRank (w : EndpointId) : Nat := w.ord.toNat * 2 ^ 17 + w.tile.toNat * 2 ^ 6 + w.ep.toNat

def insMsg (m : MsgIn) : List MsgIn → List MsgIn
  | [] => [m]
  | k :: ks => if senderRank m.who < senderRank k.who then m :: k :: ks else k :: insMsg m ks

def sortMsgs (ms : List MsgIn) : List MsgIn := ms.foldl (fun acc m => insMsg m acc) []

def execMessagePlacement (t : TileId) (ep : BitVec 6) (ms : List MsgIn) (s : State) : Outcome :=
  .next ((sortMsgs ms).foldl (fun s m => s.placeOne t ep m) s)

/-- The first record of a sender that is not complete. -/
def Endpoint.partOf (e : Endpoint) (who : EndpointId) : Option Rec := e.recs.find? (fun r => r.who == who && r.left != 0)

/-- A later block of a message (R277, R284, R317, R324): `at` is the payload byte at which it begins. -/
def execMessageBlockArrival (t : TileId) (ep : BitVec 6) (who : EndpointId) (gen : Byte) (epoch : BitVec 4) (seq : W32) (at_ : Nat)
    (data : List Byte) (bad : List Nat) (s : State) : Outcome :=
  let x := s.tile t
  let e := x.ep ep
  if s.staleBlock who gen then .next s
  else if !s.answersAt t then .next (s.emit (.messageAck who gen seq true))
  else if e.valid && e.isRecv && e.affected && epoch != s.epochNow then .next s
  else
    match e.partOf who with
    | none => .next (s.refuseBlock t ep who gen seq)
    | some r =>
      if at_ + data.length > r.len || data.length > r.left then .next (s.refuseBlock t ep who gen seq)
      else
        let a := e.unitAddr r.start
        let s := s.writeRing t e.inCommons (a + 64 + at_) data bad
        let left := r.left - data.length
        let x := s.tile t
        let recs := e.recs.map (fun q => if q = r then { q with left := left } else q)
        let s := s.setTile t (x.setEp ep { e with recs := recs })
        .next (s.ackBlocks who gen seq (blocksEnding at_ (at_ + data.length) r.len))

/-! ## Release (R280, R288) -/

/-- The send endpoint that a header word names: SORD, SX, SY and SCH (R275). -/
def headerSender (h : W64) : EndpointId :=
  ⟨BitVec.ofNat 14 (bits h.toNat 33 20), mkTile (bits h.toNat 19 14) (bits h.toNat 13 9), BitVec.ofNat 6 (bits h.toNat 39 34)⟩

/-- A release issues: RD passes the record and any wrap record before it, and the units return as credit to the endpoint that the header
in the ring names. It moves no data, so it is complete. -/
def execReleaseIssue (t : TileId) (s : State) : Outcome :=
  let x := s.tile t
  match x.issuable 5 with
  | none => .next s
  | some o =>
    match o.kind with
    | .release ch =>
      let e := x.ep ch
      let y := (x.toExec o).complete o
      match e.recs with
      | [] => .next (s.setTile t y)
      | r :: rs =>
        let e' := { e with rd := (r.start + r.units) % (2 * e.units), recs := rs
                           msgs := if x.counting then min (e.msgs + 1) (2 ^ 32 - 1) else e.msgs }
        .next ((s.setTile t (y.setEp ch e')).emit (.credit (headerSender (x.header s.commons ch r)) r.units r.epoch))
    | _ => .next s

/-! ## The stalled-send detector (R285, R286) -/

def execStallDetect (t : TileId) (s : State) : Outcome :=
  let x := s.tile t
  match x.stalledSend with
  | none => .next s
  | some (o, ch) =>
    let me : ProbeId := ⟨⟨s.ord, t, ch⟩, o.pc⟩
    .next (s.emit (.probe (x.ep ch).peerId ⟨me, me, 1⟩))

/-- An identity in a report of a stalled send (R430). -/
def probeWord (p : ProbeId) (hops : Nat) : Nat :=
  p.ep.ord.toNat + tileX p.ep.tile * 2 ^ 14 + tileY p.ep.tile * 2 ^ 20 + p.ep.ep.toNat * 2 ^ 25 + p.pc.toNat * 2 ^ 31
    + hops % 2 ^ 5 * 2 ^ 43

/-- A probe reaches a tile (R285, R286): its originator, whose send still waits, raises the fault; a tile whose NET head waits on
condition 5 forwards it; any other discards it. -/
def execProbeArrival (t : TileId) (p : Probe) (s : State) : Outcome :=
  let x := s.tile t
  match x.blockedSend with
  | none => .next s
  | some (o, ch) =>
    let me : ProbeId := ⟨⟨s.ord, t, ch⟩, o.pc⟩
    if p.origin = me then
      .next (s.tileErr t 0x1030 true 0 ch.toNat o.opid (data2 (probeWord p.origin 0) (probeWord p.forwarder p.hops)))
    else if p.hops ≥ 16 then .next s
    else .next (s.emit (.probe (x.ep ch).peerId ⟨p.origin, me, p.hops + 1⟩))

/-! ## Queue-depth sampling (R334 to R336) -/

/-- Occupancy and capacity of a configured endpoint (R334). -/
def Endpoint.occupancy (e : Endpoint) : Nat × Nat :=
  if e.isRecv then (e.used, e.units) else (e.creditMax - e.credit, e.creditMax)

/-- A sample adds 1 to bin min(15, ⌊16 × occupancy / capacity⌋). -/
def Endpoint.sample (e : Endpoint) : Endpoint :=
  let (o, c) := e.occupancy
  let b := min 15 (16 * o / c)
  if e.valid then { e with hist := mapPut 0 b (min 0xFFFF (mapGet 0 e.hist b + 1)) e.hist } else e

def execQueueDepthSample (t : TileId) (s : State) : Outcome :=
  let x := s.tile t
  if s.fbit F.WV_QS_CTRL.EN && (x.phase == phRunning || x.phase == phEnding) then
    .next (s.setTile t { x with eps := x.eps.map (fun p => (p.1, p.2.sample)) })
  else .next s

/-- WV_QS_CTRL (R335): EN and PERIOD_LOG2 are set, and CLEAR clears every histogram and PEAK. -/
def execQsClear (v : W32) (s : State) : Outcome :=
  let p := bits v.toNat 4 0
  let s := s.fset F.WV_QS_CTRL.EN (bits v.toNat 31 31)
  let s := if p < 8 ∨ p > 24 then s.refuseWrite 0xF0040 v.toNat else s.fset F.WV_QS_CTRL.PERIOD_LOG2 p
  if bit v.toNat 30 then
    .next { s with tiles := s.tiles.map (fun q => (q.1, { q.2 with
      eps := q.2.eps.map (fun p => (p.1, { p.2 with hist := [] }))
      skews := q.2.skews.map (fun k => { k with peak := 0 }) })) }
  else .next s

/-- The snapshot of a histogram or a skew pair: WV_QS_DATA_0 to 7, EMPTY, SAT. -/
def snapshotOf (x : Tile) (kind sub : Nat) : List W32 × Bool × Bool :=
  let none_ : List W32 × Bool × Bool := (List.replicate 8 0, true, false)
  if kind = 0 then
    match mapFind x.eps sub with
    | none => none_
    | some e =>
      if !e.valid then none_ else
      let bin (i : Nat) : Nat := mapGet 0 e.hist i
      ((List.range 8).map (fun n => BitVec.ofNat 32 (bin (2 * n) + bin (2 * n + 1) * 2 ^ 16)), false,
        (List.range 16).any (fun i => bin i == 0xFFFF))
  else
    match x.skews[sub]? with
    | none => none_
    | some k =>
      let i16 (v : Int) : Nat := (BitVec.ofInt 16 v).toNat
      ([BitVec.ofNat 32 (i16 k.ahead + k.bound % 2 ^ 16 * 2 ^ 16), BitVec.ofNat 32 (i16 k.peak), BitVec.ofNat 32 k.short,
        BitVec.ofNat 32 k.long, 0, 0, 0, 0], false, false)

/-- A write of WV_QS_SEL starts a snapshot, or is refused (R336). -/
def execQsSnapshot (v : W32) (s : State) : Outcome :=
  let k := bits v.toNat 31 30
  let sub := bits v.toNat 5 0
  if k > 1 ∨ (k = 1 ∧ sub ≥ 8) ∨ s.fbit F.WV_QS_STATUS.BUSY then .next (s.refuseWrite 0xF0044 v.toNat)
  else
    let s := (((s.fset F.WV_QS_SEL.KIND k).fset F.WV_QS_SEL.X (bits v.toNat 29 24)).fset F.WV_QS_SEL.Y (bits v.toNat 23 19)).fset
      F.WV_QS_SEL.SUB sub
    let s := (s.fsetb F.WV_QS_STATUS.BUSY true).fsetb F.WV_QS_STATUS.VALID false
    let x := s.tile (mkTile (bits v.toNat 29 24) (bits v.toNat 23 19))
    .next { s with snapshot := some (snapshotOf x k sub) }

def execQsSnapshotDone (s : State) : Outcome :=
  match s.snapshot with
  | none => .next s
  | some (ws, empty, sat) =>
    let s := (List.range 8).foldl (fun s n =>
      let w := ((ws[n]?).getD 0).toNat
      (s.fset (F.WV_QS_DATA.HI.ix n) (w / 2 ^ 16)).fset (F.WV_QS_DATA.LO.ix n) (w % 2 ^ 16)) s
    let s := ((s.fsetb F.WV_QS_STATUS.BUSY false).fsetb F.WV_QS_STATUS.VALID true).fsetb F.WV_QS_STATUS.EMPTY empty
    .next { s.fsetb F.WV_QS_STATUS.SAT sat with snapshot := none }

end Sys2Proof.Machine
end

