-- ==== Sys2Proof/Machine/Mesh.lean ====
section
/-! DEFINITION. The three meshes (R250 to R271, R449): acknowledgement and re-send of blocks, router checks, path faults,
sync repeats, barriers, flags, and the combined end-of-step result. -/

namespace Sys2Proof.Machine

/-! ## Endpoint codes and routes (R251, R252, R480, R481, FLT_MESH_PATH) -/

def epKind (c : W16) : Nat := bits c.toNat 15 14
def epCol (c : W16) : Nat := bits c.toNat 13 7
def epRow (c : W16) : Nat := bits c.toNat 4 0

/-- Code of a side. -/
def sideCode : Side → Nat
  | .north => 0
  | .east => 1
  | .south => 2
  | .west => 3
  | .own => 4

/-- The logical tile that a physical tile serves (R480). -/
def State.logicalAt (s : State) (px py : Nat) : Option TileId :=
  if px < Config.physCols && s.fget (F.MAP_COL.STATE.ix px) == 0 then some (mkTile (s.fget (F.MAP_COL.LOGICAL.ix px)) py)
  else none

/-- A column cut out of all three meshes (R477, R481). -/
def State.bypassed (s : State) (px : Nat) : Bool := s.fget (F.MAP_COL.STATE.ix px) == 3

/-- Where an endpoint attaches: physical column and row, and the side of the router there (R251). A slice port stands at the low or high
edge of the column that serves the slice's logical column (R480), a link-block port at the outer edge of its row, and the STAG beside
p(33, 15). -/
def State.attach (s : State) (c : W16) : Nat × Nat × Side :=
  match epKind c with
  | 0 => (epCol c, epRow c, .own)
  | 1 => if epRow c = 0 then (s.physCol (epCol c), 0, .south) else (s.physCol (epCol c), 31, .north)
  | 2 => if epCol c = 0 then (0, epRow c, .west) else (67, epRow c, .east)
  | _ => (33, 15, .own)

def State.epPlace (s : State) (c : W16) : Nat × Nat := let (x, y, _) := s.attach c; (x, y)

/-- The column that a row's link leads to: the next one that is not bypassed (R481). -/
def State.nextCol (s : State) (px : Nat) (east : Bool) : Nat :=
  if east then ((List.range Config.physCols).find? (fun c => decide (px < c) && !s.bypassed c)).getD px
  else ((List.range Config.physCols).reverse.find? (fun c => decide (c < px) && !s.bypassed c)).getD px

/-- The routers of a route: along the source's row to the destination's column, then along that column (R252). -/
def State.routeOf (s : State) (src dst : W16) : List (Nat × Nat) :=
  let (x0, y0) := s.epPlace src
  let (x1, y1) := s.epPlace dst
  (((List.range (max x0 x1 - min x0 x1 + 1)).map (fun i => (min x0 x1 + i, y0))).filter (fun r => !s.bypassed r.1))
    ++ ((List.range (max y0 y1 - min y0 y1 + 1)).map (fun i => (x1, min y0 y1 + i)))

/-- The side by which a block leaves the router p(px, py) toward `dst`; at the last router, the side of the endpoint itself (R252). -/
def State.sideTo (s : State) (px py : Nat) (dst : W16) : Side :=
  let (x, y, e) := s.attach dst
  if px < x then .east else if x < px then .west else if py < y then .north else if y < py then .south else e

/-- A broadcast spreads from the STAG along row 15 and from there along every column (log 33). -/
def castSides (px py : Nat) : List Side :=
  (if py = 15 then (if px ≤ 33 && 0 < px then [.west] else []) ++ (if 33 ≤ px && px < 67 then [.east] else []) else [])
    ++ (if 15 ≤ py && py < 31 then [.north] else []) ++ (if py ≤ 15 && 0 < py then [.south] else []) ++ [.own]

/-- The sides by which a block leaves a router. -/
def State.sidesOf (s : State) (px py : Nat) (b : MeshBlock) : List Side :=
  if b.bcast then castSides px py else [s.sideTo px py b.dst]

/-- LOC of a router: its physical coordinate. -/
def routerLoc (px py : Nat) : W32 := BitVec.ofNat 32 (px * 2 ^ 13 + py * 2 ^ 8)

/-- The half of an endpoint or column. -/
def eastCol (px : Nat) : Bool := decide (34 ≤ px)
def State.eastEnd (s : State) (c : W16) : Bool := eastCol (s.epPlace c).1

/-! ## Blocks (R250, R261, R264) -/

/-- The 16-byte header of a block, in the order of fields that log 33 gives. -/
def blockHeader (b : MeshBlock) : List Byte :=
  toBytes 2 b.src.toNat ++ toBytes 2 b.dst.toNat ++ toBytes 1 (b.vc.toNat + if b.bcast then 8 else 0) ++ toBytes 1 b.gen.toNat
    ++ toBytes 2 b.data.length ++ toBytes 2 b.seq.toNat ++ List.replicate 6 0

/-- The CRC-32C over header and payload. -/
def blockSum (b : MeshBlock) : W32 := crc32c (blockHeader b ++ b.data)
def blockGood (b : MeshBlock) : Bool := b.crc == blockSum b

/-- Flits of a block: two on the bulk mesh, one for each 16 bytes of a packet on the control mesh (R250). -/
def blockFlits (b : MeshBlock) : Nat := if b.ctrl then max 1 (min 4 (cdiv b.data.length 16)) else 2

/-- Rank of a block's virtual channel at an output: RSP before REQ, C0 before C1 before C2 (R253, R254). -/
def blockRank (b : MeshBlock) : Nat := if b.ctrl then b.vc.toNat else 1 - b.vc.toNat

/-- The lowest rank of a mesh, and the refusals in a row after which it is served (R253, R254). -/
def lowRank (ctrl : Bool) : Nat := if ctrl then 2 else 1
def patience (ctrl : Bool) : Nat := if ctrl then 15 else 7

/-! ## Path faults (R263, R264, R449) -/

/-- FLT_MESH_PATH latches when no path or sync fault stands (FLT_MESH_PATH). -/
def State.latchPath (s : State) (mesh vc resends : Nat) (src dst : W16) : State :=
  if s.fbit F.FLT_MESH_STATUS.BULK_PATH || s.fbit F.FLT_MESH_STATUS.CTRL_PATH || s.fbit F.FLT_MESH_STATUS.SYNC_FAULT then s
  else
    ((((s.fset F.FLT_MESH_PATH.MESH mesh).fset F.FLT_MESH_PATH.VC vc).fset F.FLT_MESH_PATH.RESENDS resends).fset
      F.FLT_MESH_PATH.SRC src.toNat).fset F.FLT_MESH_PATH.DST dst.toNat

/-- FLT_MESH_PATH as a report carries it (R430). -/
def pathData (mesh vc resends : Nat) (src dst : W16) : Nat :=
  data2 (mesh * 2 ^ 62 + vc * 2 ^ 60 + resends * 2 ^ 57 + src.toNat * 2 ^ 16 + dst.toNat) 0

/-- The reports of a mesh unit: UNIT 7, with the destination's coordinate. -/
def State.meshErr (s : State) (code ask : Nat) (loc : W32) (data : Nat) : State :=
  s.emit (.report (s.mkReport code (errFlags false ask) 7 loc 0 0 data) false)

/-- A router marked suspect asks for a half reset (R424, R449). -/
def State.suspectRouter (s : State) (px py : Nat) : State :=
  s.meshErr 0x3004 3 (routerLoc px py) (data2 (px * 2 ^ 13 + py * 2 ^ 8) 0)

/-- Two path faults within 10 s mark every router that the routes of both pass (R449). -/
def State.pathSuspects (s : State) (src dst : W16) : State :=
  let late := s.mesh.faults.filter (fun f => decide (s.now ≤ f.1 + 10000000000))
  let hits := (s.routeOf src dst).filter (fun r => late.any (fun f => decide (r ∈ s.routeOf f.2.1 f.2.2)))
  let s := { s with mesh := { s.mesh with faults := late ++ [(s.now, src, dst)] } }
  hits.foldl (fun s r => s.suspectRouter r.1 r.2) s

/-- The operation that owns a block ends with an error response, and its tile's step is dirty (R263); a block whose owner is not known
makes its requester dirty: the source on REQ, the destination on RSP. -/
def State.ownerFails (s : State) (b : MeshBlock) (owner : Option Owner) : State :=
  match owner with
  | some o =>
    let s := match s.endRequest o.tile o.gen o.seq with | some (_, t) => t | none => s.dropReply
    s.setTile o.tile { s.tile o.tile with dirty := true }
  | none =>
    let who := if b.ctrl || b.vc == 0 then b.src else b.dst
    match (if epKind who = 0 then s.logicalAt (epCol who) (epRow who) else none) with
    | some t => s.setTile t { s.tile t with dirty := true }
    | none => s

/-- A path fault (R263, R264): the owner's operation ends with an error response, the tile that asked is dirty, the status
bit is set and the path latched, and an error report names both endpoints. -/
def State.pathFault (s : State) (b : MeshBlock) (owner : Option Owner) : State :=
  let m := if b.ctrl then 1 else 0
  let s := s.latchPath m b.vc.toNat 4 b.src b.dst
  let s := if b.ctrl then s.fsetb F.FLT_MESH_STATUS.CTRL_PATH true else s.fsetb F.FLT_MESH_STATUS.BULK_PATH true
  let s := s.ownerFails b owner
  let (px, py) := s.epPlace b.dst
  let s := s.meshErr (if b.ctrl then 0x3002 else 0x3001) 0 (routerLoc px py) (pathData m b.vc.toNat 4 b.src b.dst)
  (s.pathSuspects b.src b.dst).emit (.pathFault b owner)

/-! ## Router outputs (R253, R254, R267) -/

def MeshOut.empty : MeshOut := { wait := [], hold := none, late := 0, turns := [] }

/-- Key of a router's output. -/
def outKey (ctrl : Bool) (px py side : Nat) : Nat := (((if ctrl then 1 else 0) * 32 + py) * 68 + px) * 8 + side

def State.setOut (s : State) (k : Nat) (o : MeshOut) : State :=
  { s with mesh := { s.mesh with outs := mapPut MeshOut.empty k o s.mesh.outs } }

/-- A block that has entered p(px, py) by the side `from_` waits for its outputs there. -/
def State.forward (s : State) (px py from_ : Nat) (b : MeshBlock) : State :=
  (s.sidesOf px py b).foldl (fun s side =>
    let k := outKey b.ctrl px py (sideCode side)
    let o := mapGet MeshOut.empty s.mesh.outs k
    s.setOut k { o with wait := o.wait ++ [(from_, b)] }) s

/-- A block stands at its source's router again, to be sent (R262). -/
def State.sendAgain (s : State) (b : MeshBlock) : State :=
  let (px, py, side) := s.attach b.src
  (s.emit (.meshResend b)).forward px py (sideCode side) b

/-! ## Injection (R254, R260 to R262, R264) -/

/-- Blocks that an endpoint may hold unacknowledged. -/
def retention (ctrl : Bool) : Nat := if ctrl then 16 else 128

/-- Blocks that an endpoint holds on one mesh. -/
def Mesh.heldBy (m : Mesh) (src : W16) (ctrl : Bool) : List Kept :=
  m.kept.filter (fun k => k.block.src == src && k.block.ctrl == ctrl)

/-- A source injects the block now: a full retention buffer takes nothing on REQ nor on the control mesh, and at most four C1 packets of
an endpoint are outstanding. -/
def Mesh.takes (m : Mesh) (src : W16) (vc : BitVec 2) (ctrl bcast : Bool) : Bool :=
  let held := m.heldBy src ctrl
  bcast || ((decide (held.length < retention ctrl) || (!ctrl && vc == 1))
    && !(ctrl && vc == 1 && decide (4 ≤ (held.filter (fun k => k.block.vc == 1)).length)))

def pairKey (src dst : W16) (ctrl : Bool) : Nat := (src.toNat * 2 ^ 16 + dst.toNat) * 2 + if ctrl then 1 else 0

/-- A network interface injects a block, with the next number of its pair (R261): it stays in the retention buffer, unless it is a
broadcast, until it is acknowledged. A block toward a half whose mesh is stopped ends with an error response instead (R260). -/
def State.inject (s : State) (px py : Nat) (side : Side) (src dst : W16) (vc : BitVec 2) (ctrl bcast : Bool) (gen : Byte)
    (data : List Byte) (owner : Option Owner) : State :=
  if s.attach src != (px, py, side) || !s.mesh.takes src vc ctrl bcast then s
  else
    let k := pairKey src dst ctrl
    let n := mapGet 0 s.mesh.seqs k
    let b : MeshBlock := { src := src, dst := dst, vc := vc, gen := gen, seq := BitVec.ofNat 16 n, ctrl := ctrl, bcast := bcast, data := data, crc := 0 }
    let b := { b with crc := blockSum b }
    if !bcast && s.eastEnd dst != s.eastEnd src && s.meshStopped (s.eastEnd dst) then s.ownerFails b owner
    else
      let s := { s with mesh := { s.mesh with seqs := mapPut 0 k ((n + 1) % 2 ^ 16) s.mesh.seqs
                                              kept := s.mesh.kept ++ (if bcast then [] else ([⟨b, 0, owner⟩] : List Kept)) } }
      s.forward px py (sideCode side) b

/-! ## Acknowledgement and re-send (R262, R264) -/

def samePair (a b : MeshBlock) : Bool := a.src == b.src && a.dst == b.dst && a.ctrl == b.ctrl

/-- The same block, as its header names it. -/
def sameBlock (a b : MeshBlock) : Bool := samePair a b && a.seq == b.seq

/-- A sequence number of the pair that its source may still re-send beside `b`: the distance either way is within the retention. -/
def nearSeq (a b : MeshBlock) : Bool := decide (min (a.seq - b.seq).toNat (b.seq - a.seq).toNat ≤ retention false)

/-- The destination has accepted the block's number. -/
def Mesh.hasSeen (m : Mesh) (b : MeshBlock) : Bool := m.seen.any (sameBlock b)

/-- Accept a sequence number; those of the pair that can no longer be re-sent are forgotten. -/
def Mesh.accept (m : Mesh) (b : MeshBlock) : Mesh :=
  { m with seen := b :: m.seen.filter (fun k => !samePair k b || nearSeq k b) }

/-- A block reaches its destination: acknowledged, and it takes effect; refused with a NAK; or acknowledged again and discarded. -/
def State.blockArrival (s : State) (b : MeshBlock) : State :=
  if !blockGood b then s.emit (.meshAck b false)
  else if s.mesh.hasSeen b then s.emit (.meshAck b true)
  else ({ s with mesh := s.mesh.accept b }.emit (.meshAck b true)).emit (.accepted b)

def execBulkBlockArrival (b : MeshBlock) (s : State) : Outcome := .next (s.blockArrival { b with ctrl := false, bcast := false })

/-- An acknowledgement frees the block. -/
def execBulkAckArrival (b : MeshBlock) (s : State) : Outcome :=
  .next { s with mesh := { s.mesh with kept := s.mesh.kept.filter (fun k => !sameBlock k.block b) } }

/-- A transfer of a block has failed: as long as the source holds it, it is re-sent, or its path has failed when the fourth re-send has
(R262, R263). -/
def State.blockFailed (s : State) (b : MeshBlock) : State :=
  match s.mesh.kept.find? (fun k => sameBlock k.block b) with
  | none => s
  | some k =>
    let rest := s.mesh.kept.filter (fun q => !sameBlock q.block b)
    if k.fails ≥ 4 then { s with mesh := { s.mesh with kept := rest } }.pathFault k.block k.owner
    else { s with mesh := { s.mesh with
        kept := s.mesh.kept.map (fun (q : Kept) => if sameBlock q.block b then { q with fails := q.fails + 1 } else q) } }.sendAgain k.block

def execBulkNakArrival (b : MeshBlock) (s : State) : Outcome := .next (s.blockFailed b)
def execResendTimeout (b : MeshBlock) (s : State) : Outcome := .next (s.blockFailed b)

/-- A broadcast reaches the endpoint `at_` (R264): it is not acknowledged; a bad one is discarded and asked for again on C1, and the
fourth failed repeat is a path fault of the tile. -/
def State.castArrival (s : State) (at_ : W16) (b : MeshBlock) : State :=
  let here (q : W16 × MeshBlock × Nat) : Bool := q.1 == at_ && sameBlock q.2.1 b
  let n : Nat := ((s.mesh.asks.find? here).map (fun q => q.2.2)).getD 0
  let s := { s with mesh := { s.mesh with asks := s.mesh.asks.filter (fun q => !here q) } }
  if blockGood b then s.emit (.accepted b)
  else if n ≥ 4 then s.pathFault { b with dst := at_ } none
  else { s with mesh := { s.mesh with asks := s.mesh.asks ++ [(at_, b, n + 1)] } }.emit (.bcastAgain at_ b)

/-- A control packet reaches the endpoint `at_` (R264): as a bulk block, or a broadcast. -/
def execControlPacketArrival (at_ : W16) (b : MeshBlock) (s : State) : Outcome :=
  let b := { b with ctrl := true }
  .next (if b.bcast then s.castArrival at_ b else s.blockArrival b)

/-! ## Router counters (R261, FLT_MESH_CNT) -/

/-- Lowest bits of the counters of FLT_MESH_CNT: of a bulk input by its side, and of the others. -/
def bulkLsb (i : Side) : Nat := 56 - 8 * (sideCode i)
def ctrlLsb : Nat := 16
def syncLsb : Nat := 8
def seamLsb : Nat := 0

def cntKey (px py lsb : Nat) : Nat := (py * 68 + px) * 64 + lsb

/-- Count a mismatch at a router; a counter that reaches 64 makes it suspect. -/
def State.countRouter (s : State) (px py lsb : Nat) : State :=
  let k := cntKey px py lsb
  let n := mapGet 0 s.mesh.cnt k
  let s := { s with mesh := { s.mesh with cnt := mapPut 0 k (min 0xFF (n + 1)) s.mesh.cnt } }
  if n + 1 = 64 then
    let s := s.fsetb F.FLT_MESH_STATUS.ROUTER_SUSPECT true
    let s := s.event 0x9040 7 (routerLoc px py) 0 (data2 (px * 2 ^ 13 + py * 2 ^ 8) 64)
    s.suspectRouter px py
  else s

/-- The input by which entries leave a seam queue. -/
def seamInput (px : Nat) (i : Side) : Bool := (px == 33 && i == .east) || (px == 34 && i == .west)

/-- A block with a bad CRC enters: its input's counter goes up, and SEAM where it leaves a seam queue (R261, FLT_MESH_CNT). -/
def State.countBlock (s : State) (px py : Nat) (i : Side) (b : MeshBlock) : State :=
  if blockGood b then s
  else
    let s := s.countRouter px py (if b.ctrl then ctrlLsb else bulkLsb i)
    if seamInput px i then s.countRouter px py seamLsb else s

/-! ## The sync mesh (R255, R259, R265, R268 to R270) -/

/-- A hop of the combining tree, either way: along a row to the half's seam column, along that column to the root on row 15, and between
the roots (R250, R268). A bypassed column is passed over (R481). -/
def State.treeHop (s : State) (src dst : W16) : Bool :=
  let one (a b : W16) : Bool :=
    let (x, y) := (epCol a, epRow a)
    let (u, v) := (epCol b, epRow b)
    (y == v && u == s.nextCol x (decide (x < 33)) && ((x < 33 && u ≤ 33) || (34 < x && 34 ≤ u && u < 68)))
      || (x == u && (x == 33 || x == 34) && ((y < 15 && v == y + 1) || (15 < y && v + 1 == y)))
      || (x == 33 && u == 34 && y == 15 && v == 15)
  epKind src == 0 && epKind dst == 0 && (one src dst || one dst src)

/-- Even parity of a message and its bit (the sense of the bit is the model's choice, log 33). -/
def parityHolds (msg : Byte) (parity : Bool) : Bool := ((List.range 8).countP (fun i => msg.getLsbD i) + (if parity then 1 else 0)) % 2 == 0

/-- Key of a sync queue at the seam, by direction and class, and the messages that it holds at most (R259). -/
def syncKey (east : Bool) (cls : BitVec 2) : Nat := cls.toNat * 2 + if east then 1 else 0
def syncRoom : Nat := 4

/-- A sync message crosses a hop (R259, R265): between the roots it goes through a queue that may be full, and then the sender holds it;
bad parity is counted by the receiving router and the message repeated; the fourth failure in a row is a sync fault, which asks for a
reset of the half. -/
def State.syncHop (s : State) (src dst : W16) (cls : BitVec 2) (msg : Byte) (parity : Bool) : State :=
  let here (h : W16 × W16 × BitVec 2 × Nat) : Bool := h.1 == src && h.2.1 == dst && h.2.2.1 == cls
  let n := ((s.mesh.hops.find? here).map (fun h => h.2.2.2)).getD 0
  let rest := s.mesh.hops.filter (fun h => !here h)
  let east := eastCol (epCol dst)
  let across := eastCol (epCol src) != east
  let k := syncKey east cls
  let q := mapGet [] s.mesh.syncSeam k
  if !s.treeHop src dst || (across && (s.meshStopped east || decide (syncRoom ≤ q.length))) then s
  else if parityHolds msg parity then
    { s with mesh := { s.mesh with hops := rest, syncSeam := if across then mapPut [] k (q ++ [(cls, msg)]) s.mesh.syncSeam else s.mesh.syncSeam } }
  else
    let (px, py) := s.epPlace dst
    let s := s.countRouter px py syncLsb
    if n + 1 ≥ 4 then
      let s := { s with mesh := { s.mesh with hops := rest } }
      let s := (s.latchPath 2 cls.toNat 4 src dst).fsetb F.FLT_MESH_STATUS.SYNC_FAULT true
      s.meshErr 0x3003 3 (routerLoc px py) (pathData 2 cls.toNat 4 src dst)
    else { s with mesh := { s.mesh with hops := rest ++ [(src, dst, cls, n + 1)] } }.emit (.syncRepeat src dst cls msg)

def execSyncMessageHop (src dst : W16) (cls : BitVec 2) (msg : Byte) (parity : Bool) (s : State) : Outcome :=
  .next (s.syncHop src dst cls msg parity)

/-- Something enters a router (R261, R266): the router forwards whatever its tile's state, unless its half's mesh is stopped or its column
is bypassed; it counts a CRC mismatch and forwards the block unchanged. A router that the device does not have forwards nothing. -/
def execRouterInputCheck (px : BitVec 7) (py : BitVec 5) (i : Side) (item : MeshItem) (s : State) : Outcome :=
  let (x, y) := (px.toNat, py.toNat)
  if x ≥ Config.physCols || s.meshStopped (eastCol x) || s.bypassed x then .next s
  else match item with
    | .inject src dst vc ctrl bcast gen data owner => .next (s.inject x y i src dst vc ctrl bcast gen data owner)
    | .block b => .next ((s.countBlock x y i b).forward x y (sideCode i) b)
    | .sync src dst cls msg parity => .next (s.syncHop src dst cls msg parity)

/-! ## A cycle of the routers and of the seam (R253, R254, R259) -/

/-- Key of a seam queue, by direction, row, mesh and virtual channel, and the flits that it holds at most. -/
def seamKey (east : Bool) (py : Nat) (b : MeshBlock) : Nat := ((py * 2 + if east then 1 else 0) * 2 + if b.ctrl then 1 else 0) * 4 + b.vc.toNat
def seamRoom : Nat := 8

/-- Column, row and side of an output, from its key. -/
def keyCol (k : Nat) : Nat := k / 8 % 68
def keyRow (k : Nat) : Nat := k / (8 * 68) % 32
def keySide (k : Nat) : Nat := k % 8
def keyCtrl (k : Nat) : Bool := decide (8 * 68 * 32 ≤ k)

/-- The output leads to a seam queue: eastward from p(33, y), westward from p(34, y). -/
def seamOut (k : Nat) : Bool := (keyCol k == 33 && keySide k == 1) || (keyCol k == 34 && keySide k == 3)

/-- A flit of the block can leave by the output. A seam queue toward a stopped half takes nothing (R260). -/
def State.canSend (s : State) (k : Nat) (b : MeshBlock) : Bool :=
  let east := keySide k == 1
  !seamOut k || (!s.meshStopped east && decide ((mapGet [] s.mesh.seam (seamKey east (keyRow k) b)).length < seamRoom))

/-- A flit leaves by the output: into the seam queue, or with its block's last flit to the next router or to the destination. -/
def State.sendFlit (s : State) (k : Nat) (b : MeshBlock) (last : Bool) : State :=
  let (x, y) := (keyCol k, keyRow k)
  if seamOut k then
    let q := seamKey (keySide k == 1) y b
    { s with mesh := { s.mesh with seam := mapPut [] q (mapGet [] s.mesh.seam q ++ [(b, last)]) s.mesh.seam } }
  else if !last then s
  else
    if !b.bcast && s.epPlace b.dst == (x, y) then s.emit (.meshAt b.dst b)
    else match keySide k with
      | 0 => s.emit (.meshHop x (y + 1) .south b)
      | 1 => s.emit (.meshHop (s.nextCol x true) y .west b)
      | 2 => s.emit (.meshHop x (y - 1) .north b)
      | 3 => s.emit (.meshHop (s.nextCol x false) y .east b)
      | _ => s.emit (.meshAt (BitVec.ofNat 16 (x * 2 ^ 7 + y)) b)

/-- The block that an output takes next, with its input: the highest channel, but the lowest one once it has been refused long enough;
within a channel the inputs take turns, and one input's blocks keep their order (R253, R254). -/
def MeshOut.pick (o : MeshOut) (ctrl : Bool) (ok : MeshBlock → Bool) : Option (Nat × MeshBlock) :=
  let ready := o.wait.filter (fun p => ok p.2)
  let low := ready.any (fun p => blockRank p.2 == lowRank ctrl)
  let r := if low && decide (patience ctrl ≤ o.late) then lowRank ctrl else (ready.map (fun p => blockRank p.2)).foldl min 3
  let turn (p : Nat × MeshBlock) : Nat := (p.1 + 4 - mapGet 4 o.turns p.2.vc.toNat) % 5
  match ready.filter (fun p => blockRank p.2 == r) with
  | [] => none
  | p :: ps => some (ps.foldl (fun b q => if turn q < turn b then q else b) p)

/-- One cycle of an output: it sends a flit of the block that holds it, or takes the next block. -/
def State.serveOut (s : State) (k : Nat) : State :=
  let o := mapGet MeshOut.empty s.mesh.outs k
  let waits := o.wait.any (fun p => blockRank p.2 == lowRank (keyCtrl k))
  if s.meshStopped (eastCol (keyCol k)) then s
  else match o.hold with
    | some (b, n) =>
      let o := { o with late := if waits then o.late + 1 else 0 }
      if s.canSend k b then (s.setOut k { o with hold := if n ≤ 1 then none else some (b, n - 1) }).sendFlit k b (decide (n ≤ 1))
      else s.setOut k o
    | none =>
      match o.pick (keyCtrl k) (s.canSend k) with
      | none => s.setOut k { o with late := if waits then o.late + 1 else 0 }
      | some (i, b) =>
        let o := { o with wait := dropOne (i, b) o.wait, turns := mapIns b.vc.toNat i o.turns
                          hold := if blockFlits b ≤ 1 then none else some (b, blockFlits b - 1)
                          late := if waits && blockRank b != lowRank (keyCtrl k) then o.late + 1 else 0 }
        (s.setOut k o).sendFlit k b (decide (blockFlits b ≤ 1))

/-- One cycle of a seam queue: while both halves' meshes run, a flit leaves it in order, and its block with the last. -/
def State.drainSeam (s : State) (q : Nat) : State :=
  let (east, py) := (q / 8 % 2 == 1, q / 16)
  match mapGet [] s.mesh.seam q with
  | [] => s
  | (b, last) :: rest =>
    let s := { s with mesh := { s.mesh with seam := mapPut [] q rest s.mesh.seam } }
    if last then s.emit (if east then .meshHop 34 py .west b else .meshHop 33 py .east b) else s

def State.drainSync (s : State) (k : Nat) : State :=
  match mapGet [] s.mesh.syncSeam k with
  | [] => s
  | (cls, msg) :: rest =>
    { s with mesh := { s.mesh with syncSeam := mapPut [] k rest s.mesh.syncSeam } }.emit (.syncAcross (k % 2 == 1) cls msg)

/-- One cycle of the meshes: every seam queue drains, and then every router output sends. -/
def State.meshCycle (s : State) : State :=
  let s := if s.meshStopped false || s.meshStopped true then s
    else (s.mesh.syncSeam.map Prod.fst).foldl State.drainSync ((s.mesh.seam.map Prod.fst).foldl State.drainSeam s)
  (s.mesh.outs.map Prod.fst).foldl State.serveOut s

/-! ## Barriers, flags and the vote -/

/-- The mapped tiles whose image declares barrier `b` (R268). -/
def State.members (s : State) (b : BitVec 4) : List TileId :=
  (s.tiles.filter (fun p => p.2.img.ctx && p.2.img.barmask.getLsbD b.toNat)).map (fun p => BitVec.ofNat 11 p.1)

/-- An arrival is counted at its root; when every member has arrived the departure goes to each (R268). -/
def execBarrierArrival (t : TileId) (b : BitVec 4) (s : State) : Outcome :=
  let x := s.tile t
  let got := mapGet [] s.barriers b.toNat
  if x.core.wait == .barrier b 1 && x.img.barmask.getLsbD b.toNat && !(t ∈ got) && !x.departs.getLsbD b.toNat then
    let got := t :: got
    let ms := s.members b
    if ms.all (fun m => decide (m ∈ got)) then
      let s := { s with barriers := mapDel b.toNat s.barriers }
      .next (ms.foldl (fun s m =>
        let y := s.tile m
        (s.setTile m { y with departs := y.departs ||| BitVec.ofNat 16 (2 ^ b.toNat) }).emit (.barDepart m b)) s)
    else .next { s with barriers := mapIns b.toNat got s.barriers }
  else .next s

/-- The departure reaches a member, which completes its acquire fence and continues (R49, R268). -/
def execBarDeparture (t : TileId) (b : BitVec 4) (s : State) : Outcome :=
  let x := s.tile t
  if x.core.wait == .barrier b 1 && x.departs.getLsbD b.toNat && x.goes then
    let y := { x.setWait (.barrier b 2) with departs := x.departs &&& ~~~(BitVec.ofNat 16 (2 ^ b.toNat)) }
    .next (s.putTile t (y.act (fenceGoes y)))
  else .next s

def insFlag (u : FlagUpdate) : List FlagUpdate → List FlagUpdate
  | [] => [u]
  | k :: ks => if u.tile.toNat < k.tile.toNat then u :: k :: ks else k :: insFlag u ks

/-- Flag updates that reach the West root in one cycle are applied in order of tile number, and each is broadcast (R269). One that left
before a weave load or a rollback is discarded (R271). -/
def execFlagUpdateAtRoot (ups : List FlagUpdate) (s : State) : Outcome :=
  .next (((ups.filter (fun u => u.era == s.mesh.era)).foldl (fun acc u => insFlag u acc) []).foldl (fun s u =>
    let m := BitVec.ofNat 64 (2 ^ u.flag.toNat)
    { s with rootFlags := if u.val then s.rootFlags ||| m else s.rootFlags &&& ~~~m }.emit (.flagCast u.flag u.val s.mesh.era)) s)

/-- A broadcast reaches a tile's copy (R269), unless a weave load or a rollback has discarded it on its way (R271). -/
def execFlagCopyUpdate (t : TileId) (f : BitVec 6) (v : Bool) (era : Nat) (s : State) : Outcome :=
  let x := s.tile t
  let m := BitVec.ofNat 64 (2 ^ f.toNat)
  if era ≠ s.mesh.era then .next s
  else .next (s.setTile t { x with flags := if v then x.flags ||| m else x.flags &&& ~~~m })

/-- The mapped tiles whose image holds a context (R270). -/
def State.contexts (s : State) : List (TileId × Tile) :=
  (s.tiles.filter (fun p => p.2.img.ctx)).map (fun p => (BitVec.ofNat 11 p.1, p.2))

/-- The combined result reaches the STAG (R119, R270): every context has reported, or one has reported dirty. The tiles that
have reported stand at the step gate (DESIGN CHOICE, log 32: R119 does not say when PHASE leaves 0x5 or 0x6). -/
def execDeviceVoteResult (s : State) : Outcome :=
  let cs := s.contexts
  let dirty := cs.any (fun p => p.2.phase == phDirty)
  let all := cs.all (fun p => p.2.phase == phDirty || p.2.phase == phClean)
  if s.stepPhase == phStepRunning && s.result.isNone && (dirty || all) then
    .next { s with result := some dirty, tiles := s.tiles.map (fun p =>
      (p.1, if p.2.phase == phDirty || p.2.phase == phClean then { p.2 with phase := phGate } else p.2)) }
  else .next s

end Sys2Proof.Machine
end

