-- ==== Sys2Proof/Machine/HomeMem.lean ====
section
/-! DEFINITION. Job memory at its home (R32 to R74, R83 to R107, R551): near and far memory, the Home Table, interval serials,
copy-on-write, atomics, host access, migration, the sweeper, scrubbing and far ports. -/

namespace Sys2Proof.Machine

/-! ## Memory (R85, R94, R103) -/

/-- The canonical form: addresses strictly rising, and no listed byte equal to what an unlisted one reads as. -/
def Memory.wf : List Host.Cell → Bool
  | [] => true
  | [c] => c.2 != 0
  | c :: d :: m => c.2 != 0 && decide (c.1 < d.1) && Memory.wf (d :: m)

def State.memRead (s : State) (a n : Nat) : List Byte := readBytes 0 s.mem a n

/-- Write bytes: a 64-byte unit written whole is no longer uncorrectable (R104, R551). -/
def State.memWrite (s : State) (a : Nat) (bs : List Byte) : State :=
  { s with mem := writeBytes 0 a bs s.mem
           memBad := s.memBad.filter (fun u => !decide (a ≤ u * 64 ∧ u * 64 + 64 ≤ a + bs.length)) }

/-- Copy a range of memory over another, with its uncorrectable units: bytes listed in the source are listed in the
destination and every other byte there is 0. -/
def copyCells (src dst n : Nat) (m : List Host.Cell) : List Host.Cell :=
  (m.filter (fun c => decide (src ≤ c.1 ∧ c.1 < src + n))).foldl (fun acc c => mapPut 0 (dst + (c.1 - src)) c.2 acc)
    (m.filter (fun c => !decide (dst ≤ c.1 ∧ c.1 < dst + n)))

def State.memCopy (s : State) (src dst n : Nat) : State :=
  { s with mem := copyCells src dst n s.mem
           memBad := s.memBad.filter (fun u => !decide (dst ≤ u * 64 ∧ u * 64 < dst + n))
             ++ (s.memBad.filter (fun u => decide (src ≤ u * 64 ∧ u * 64 < src + n))).map (fun u => u + dst / 64 - src / 64) }

/-- Uncorrectable units of a range. -/
def State.memBadIn (s : State) (a n : Nat) : List Nat :=
  s.memBad.filter (fun u => decide (a < u * 64 + 64 ∧ u * 64 < a + n))

/-! ## Entries (R84 to R91) -/

def Entry.none : Entry :=
  { frame0 := 0, frame1 := 0, kind := 0, stale := false, migrating := false, cursor := 0, poison := false, sel := 0, mask := 0
    tag := 0, range := 0, new0 := 0, new1 := 0 }

def State.entry (s : State) (lpn : Nat) : Entry := mapGet Entry.none s.home.table lpn
def State.setEntry (s : State) (lpn : Nat) (e : Entry) : State :=
  { s with home := { s.home with table := mapPut Entry.none lpn e s.home.table } }

def Entry.versioned (e : Entry) : Bool := e.kind == 1
def Entry.unversioned (e : Entry) : Bool := e.kind == 2
def Entry.constant (e : Entry) : Bool := e.kind == 3

def State.serial (s : State) : W16 := BitVec.ofNat 16 (s.fget F.HOME_SERIAL.CURRENT)
def State.lastRollback (s : State) : W16 := BitVec.ofNat 16 (s.fget F.HOME_SERIAL.LAST_ROLLBACK)

/-- The last commit is durable (R72). -/
def State.durable (s : State) : Bool := s.fget F.STEP_DURABLE.STEP == s.fget F.STEP_COMMITTED.STEP

/-- The buddy holds a durable copy of what this device has committed (R72, R104): mirroring is on, its first stream has been accepted, and
the last commit is durable. -/
def State.buddyHolds (s : State) : Bool := s.fbit F.STEP_BUDDY.EN && s.durable && !s.mirror.first

/-- The interval to which a mark made now belongs (R91): the open one, or, once the outcome of CURRENT is recorded, the next. -/
def State.markSerial (s : State) : W16 := if s.home.closing then s.serial + 1 else s.serial

/-- Serial order in a window of 32,768 (R92): `a` lies at or before `b`. -/
def serialLe (a b : W16) : Bool := (b - a).toNat < 32768

/-- Resolution at a touch (R88, R91): the entry that the touch uses. -/
def State.resolve (s : State) (e : Entry) : Entry :=
  let old := e.tag != s.serial || s.home.closing
  if e.versioned then
    if old && e.mask != 0 then
      { e with sel := if mapGet 0 s.home.outcomes e.tag.toNat = 1 then e.sel ^^^ e.mask else e.sel, mask := 0, tag := s.serial }
    else e
  else if e.unversioned && e.tag != s.markSerial && serialLe e.tag s.lastRollback then
    { e with stale := true, mask := 0, tag := s.markSerial }
  else e

/-- A resolved entry is written back unless it folds a commit that is not durable yet (R89). -/
def State.mayWriteBack (s : State) (e : Entry) : Bool :=
  !(e.versioned && e.mask != 0 && mapGet 0 s.home.outcomes e.tag.toNat == 1 && e.tag == s.home.lastCommit && !s.durable)

/-- A page is poisoned (R104): the mark goes into the entry as it stands, so that no fold of R89 is written back with it. -/
def State.setPoison (s : State) (lpn : Nat) : State := s.setEntry lpn { s.entry lpn with poison := true }

/-! ### Where an entry lies (R84) -/

/-- Stack, frame and offset of the entry of page `l`. -/
def entryPlace (l : Nat) : Nat × Nat × Nat :=
  let w := l % 64 / 32
  let st := 4 * w + l % 4
  let e := l / 64 * 8 + l % 32 / 4
  (st, st + 8 * (e / 65536), e % 65536 * 32)

/-- The 64-byte unit of near memory that holds the entry of page `l`, and the two pages whose entries a unit of frames 0 to 63 holds. -/
def entryUnit (l : Nat) : Nat := ((entryPlace l).2.1 * Config.pageBytes + (entryPlace l).2.2) / 64
def unitEntries (u : Nat) : List Nat :=
  let f := u * 64 / Config.pageBytes
  let e0 := f / 8 * 65536 + u * 64 % Config.pageBytes / 32
  [e0, e0 + 1].map (fun e => e / 8 * 64 + f % 8 / 4 * 32 + e % 8 * 4 + f % 4)

/-- The job address at which page `l` of this home begins (R81). -/
def State.addrOf (s : State) (l : Nat) : Nat :=
  match mapFind s.ranges (s.entry l).range.toNat with
  | some r =>
    let g := 2 ^ r.gran.toNat
    let d := l - r.lbase.toNat
    (r.base.toNat + (d / g * r.count.toNat + (s.ord.toNat - r.first.toNat)) * g + d % g) * Config.pageBytes
  | none => 0

/-! ### What a loss of data does (R68, R73, R104, R551) -/

/-- A step runs. -/
def State.stepRunning (s : State) : Bool := s.stepPhase == phStepRunning || s.stepPhase == phStepVoting

/-- The report of an uncorrectable unit or a poisoned response (R430): unit 3 is a stack, 4 a far port. -/
def State.unitLost (s : State) (at_ lpn sub : Nat) (a : Nat) : State :=
  let far := at_ / Config.pageBytes ≥ 2 ^ 23
  let s := if far then s else s.fadd (F.NM_ERR.UE.ix (at_ / Config.pageBytes % 8)) 1
  let s := if s.stepRunning then { s with endDirty := true } else s
  s.emit (.report (s.mkReport 0x2011 (errFlags false 0) (if far then 4 else 3)
    (unitLoc (if far then 0 else at_ / Config.pageBytes % 8)) 0 0 (data2 a (lpn + sub * 2 ^ 32))) false)

/-- A committed copy that no durable buddy copy replaces (R68, R104): the job cannot resume. The lead, and the coordinators, learn of it
from a FAULT notice with CODE 0x2011; the lead reports it to the host (R416). -/
def State.unrecoverable (s : State) : State :=
  if s.fbit F.HQ_STATUS.JOB_UNREC then s else (s.setUnrec true).notify 0x10 0x2011 0 8 (unitLoc 0) s.ord.toNat

/-- A committed copy is lost between the decision of a commit and its durability (R73): the coordinator is told, and the job returns to
the commit before, of which the other frame or the buddy holds the copy. -/
def State.lostUndurable (s : State) : State := s.notify 0x10 0x2011 0 2 (unitLoc 0) s.ord.toNat

/-- A commit is decided and not durable, and what was committed before it is still held: by the buddy, or in the other frame of a
sub-block that the commit replaced (R71, R89). -/
def State.mayReturn (s : State) (lpn sub : Nat) : Bool :=
  let e := s.entry lpn
  s.fbit F.STEP_STATUS.MIRROR_PENDING
    && ((s.fbit F.STEP_BUDDY.EN && !s.mirror.first) || (!s.mayWriteBack e && e.mask.getLsbD sub))

/-- A unit of the Home Table is lost (R104): every page whose entry lies in it is a committed copy without a durable buddy copy, unless
every such page has one; then the entries are written again as they stood. -/
def State.entryLost (s : State) (u : Nat) : State :=
  let pages := (unitEntries u).filter (fun l => (s.entry l).kind != 0)
  let s := { s with memBad := s.memBad.filter (fun v => v != u) }
  if pages.all (fun l => (s.entry l).versioned && s.buddyHolds) then
    pages.foldl (fun s l => s.event 0x9032 2 (unitLoc (l % 64)) 0 (data2 l 0)) s
  else
    let s := pages.foldl (fun s l => { s.setPoison l with home := { (s.setPoison l).home with gone := addTo l s.home.gone } }) s
    s.unrecoverable.unitLost (u * 64) (pages.headD 0) 0 (s.addrOf (pages.headD 0))

/-- The home agent's cache holds up to 8,192 entries of its slice; the one used longest ago makes room (R83). -/
def State.cacheTouch (s : State) (lpn : Nat) : State :=
  let k := lpn % 64
  let kept := (lpn :: (mapGet [] s.home.cache k).filter (fun l => l != lpn)).take 8192
  { s with home := { s.home with cache := mapIns k kept s.home.cache } }

/-- The entry is not in the cache and is read from near memory: its unit may be lost. -/
def State.readEntry (s : State) (lpn : Nat) : State :=
  if entryUnit lpn ∈ s.memBad && !(lpn ∈ mapGet [] s.home.cache (lpn % 64)) then s.entryLost (entryUnit lpn) else s

/-- Touch an entry: the entry to use, and the state with it written back where it may be. -/
def State.touch (s : State) (lpn : Nat) : Entry × State :=
  let s := s.readEntry lpn
  let e := s.entry lpn
  let r := s.resolve e
  let s := if s.mayWriteBack e && r != e then s.setEntry lpn r else s
  (r, s.cacheTouch lpn)

/-- Frame of the first or second copy of a sub-block: below CURSOR a migrating page has moved (R100). -/
def Entry.frame (e : Entry) (sub : Nat) (second : Bool) : Nat :=
  let moved := e.migrating && decide (sub < e.cursor)
  if second then (if moved then e.new1 else e.frame1).toNat else (if moved then e.new0 else e.frame0).toNat

/-- Where the committed copy, and the working copy, of a sub-block begin (R86). -/
def Entry.committedAt (e : Entry) (sub : Nat) : Nat :=
  e.frame sub (e.versioned && e.sel.getLsbD sub) * Config.pageBytes + sub * Config.subBytes
def Entry.workingAt (e : Entry) (sub : Nat) : Nat :=
  e.frame sub (!e.sel.getLsbD sub) * Config.pageBytes + sub * Config.subBytes

/-- The copy that a context's access uses now (R55). -/
def Entry.currentAt (e : Entry) (sub : Nat) : Nat :=
  if e.versioned && e.mask.getLsbD sub then e.workingAt sub else e.committedAt sub

/-- The effects on a page of data lost at `at_`, for an access to `a` in sub-block `sub` (R104, R551): whether the buddy's copy, `buddy`,
has restored the sub-block, and the state. A host's read leaves an unversioned page as it is. -/
def State.lostPage (s : State) (lpn sub at_ a : Nat) (host : Bool) (buddy : Option (List Byte)) : Bool × State :=
  let e := s.resolve (s.entry lpn)
  if e.versioned && e.mask.getLsbD sub && decide (at_ < e.committedAt sub ∨ e.committedAt sub + Config.subBytes ≤ at_) then
    (false, s.unitLost at_ lpn sub a)
  else if e.versioned then
    match (if s.buddyHolds then buddy else none) with
    | some bs =>
      -- the home fetches the buddy's copy and rewrites the sub-block
      (true, (s.memWrite (e.committedAt sub) (bs.take Config.subBytes)).event 0x9032 2 (unitLoc (lpn % 64)) 0 (data2 lpn sub))
    | none =>
      if s.mayReturn lpn sub then (false, s.lostUndurable.unitLost at_ lpn sub a)
      else (false, (s.setPoison lpn).unrecoverable.unitLost at_ lpn sub a)
  else if e.unversioned then (false, if host then s else s.unitLost at_ lpn sub a)
  else (false, ((s.setPoison lpn).fsetb F.HOME_STATUS.POISON_HOLD true).unitLost at_ lpn sub a)

/-- An access to `n` bytes at `at_` finds no data: a unit of them is uncorrectable, or the page is gone. -/
def State.lostHere (s : State) (lpn at_ n : Nat) : Bool := !(s.memBadIn at_ n).isEmpty || decide (lpn ∈ s.home.gone)

/-- What the host sees of bytes among which some are lost (R551): every lost 64-byte unit reads as ones. -/
def State.maskLost (s : State) (lpn at_ : Nat) (bs : List Byte) : List Byte :=
  bs.zipIdx.map (fun b => if (at_ + b.2) / 64 ∈ s.memBad || lpn ∈ s.home.gone then 0xFF else b.1)

/-! ## Frames (R94 to R97) -/

/-- Frames that the Home Table's pages hold. -/
def Entry.frames (e : Entry) : List Nat :=
  if e.kind = 0 then []
  else e.frame0.toNat :: (if e.versioned then [e.frame1.toNat] else [])
    ++ (if e.migrating then e.new0.toNat :: (if e.versioned then [e.new1.toNat] else []) else [])

def State.usedFrames (s : State) : List Nat := s.home.table.flatMap (fun p => p.2.frames) ++ s.mirrorFrames

/-- The lowest k from `lo` on, below `hi`, that is not among `used`; `fuel` bounds the search. -/
def firstFree (used : List Nat) : Nat → Nat → Nat → Option Nat
  | 0, _, _ => none
  | f + 1, lo, hi => if lo ≥ hi then none else if lo ∈ used then firstFree used f (lo + 1) hi else some lo

/-- Frames 64 and up of the pool; the weave store holds the 256 highest from the first full load on (R94). -/
def State.nearTop (s : State) : Nat := if s.fget F.WV_STORE.FRAMES = 256 then 294656 / 8 else 294912 / 8

/-- The lowest free near frame of a stack. -/
def State.freeNear (s : State) (used : List Nat) (stack : Nat) : Option Nat :=
  let mine := (used.filter (fun f => decide (f < 2 ^ 23 ∧ f % 8 = stack))).map (fun f => f / 8)
  (firstFree mine (mine.length + 1) 8 s.nearTop).map (fun k => k * 8 + stack)

/-- First far frame index of a port, and its count (R95). -/
def State.farBase (s : State) (p : Nat) : Nat := (List.range p).foldl (fun n i => n + mapGet 0 s.home.farCap i) 0
def State.farCount (s : State) (p : Nat) : Nat := min (mapGet 0 s.home.farCap p) (2097152 - min 2097152 (s.farBase p))

def State.freeFar (s : State) (used : List Nat) (port : Nat) : Option Nat :=
  let b := 2 ^ 23 + s.farBase port
  let mine := used.filter (fun f => decide (b ≤ f ∧ f < b + s.farCount port))
  firstFree mine (mine.length + 1) b (b + s.farCount port)

/-- The far port of a frame. -/
def State.portOf (s : State) (frame : Nat) : Option Nat :=
  (List.range Config.farPorts).find? (fun p =>
    decide (2 ^ 23 + s.farBase p ≤ frame ∧ frame < 2 ^ 23 + s.farBase p + s.farCount p))

/-- An access that a home makes ends badly (R104, R106): whether it has found its unit lost, and the state with the unit marked. Only a
request to far memory can go unanswered; the port's REASON then reads 8. -/
def State.memErr (s : State) (err : MemErr) (at_ : Nat) : Bool × State :=
  match err with
  | .good => (false, s)
  | .bad => (true, { s with memBad := addTo (at_ / 64) s.memBad })
  | .timeout =>
    match s.portOf (at_ / Config.pageBytes) with
    | some p => (true, { s.fset (F.CXL_PORT_STATUS.REASON.ix p) 8 with memBad := addTo (at_ / 64) s.memBad })
    | none => (false, s)

/-- The first of several places that has a free frame. -/
def firstSome {α β : Type} (f : α → Option β) : List α → Option β
  | [] => none
  | x :: xs => match f x with | some y => some y | none => firstSome f xs

/-- Stacks of the half of a page, from `s` on in rising order, wrapping (R96). -/
def stacksFrom (w s : Nat) : List Nat := (List.range 4).map (fun i => 4 * w + (s + i) % 4)

/-- Far ports in the order R96 prefers for page `l`. -/
def farOrder (l : Nat) : List Nat :=
  let w := l % 64 / 32
  let p (h : Nat) : List Nat := [2 * h + l % 2, 2 * h + (l + 1) % 2]
  p w ++ p (1 - w)

/-- Two near frames, or one, for page `l` (R96). -/
def State.allocNear (s : State) (used : List Nat) (l : Nat) (two : Bool) : Option (Nat × Nat) :=
  let w := l % 64 / 32
  match firstSome (fun st => (s.freeNear used st).map (fun f => (st, f))) (stacksFrom w (l % 4)) with
  | none => none
  | some (st, f) =>
    if !two then some (f, 0)
    else (firstSome (s.freeNear (f :: used)) ((stacksFrom w (st ^^^ 1)).filter (fun q => q != st))).map (fun g => (f, g))

/-- Far frames for page `l`, on any port but `skip`: both on one port (R96). A used port that is full is passed over for the next used one
of R96's order, the other half's included (DESIGN CHOICE, log 31: R96 speaks of used ports only). -/
def State.allocFarBut (s : State) (skip : Option Nat) (used : List Nat) (l : Nat) (two : Bool) : Option (Nat × Nat) :=
  firstSome (fun p => (s.freeFar used p).bind (fun f =>
    if !two then some (f, 0) else (s.freeFar (f :: used) p).map (fun g => (f, g))))
    ((farOrder l).filter (fun p => some p != skip))

def State.allocFar (s : State) (used : List Nat) (l : Nat) (two : Bool) : Option (Nat × Nat) := s.allocFarBut none used l two

/-- Frames of a page of a tier: 0 near only, 1 far only, 2 near preferred (R96). -/
def State.allocPage (s : State) (used : List Nat) (l : Nat) (two : Bool) (tier : Nat) : Option (Nat × Nat) :=
  match tier with
  | 0 => s.allocNear used l two
  | 1 => s.allocFar used l two
  | _ => match s.allocNear used l two with | some p => some p | none => s.allocFar used l two

/-! ## Requests at the home -/

/-- A request's place: range, home ordinal, LPN, sub-block. -/
def State.place (s : State) (a : Nat) : Option (Range × Nat × Nat × Nat) :=
  (s.rangeOf (a / Config.pageBytes)).map (fun p =>
    let h := p.2.homeOf (a / Config.pageBytes)
    (p.2, h.1, h.2, a / Config.subBytes % 32))

/-- The home agents of a half's slices answer nothing but errors: its mesh is stopped (R260, R442). -/
def State.halfClosed (s : State) (east : Bool) : Bool := s.meshStopped east

/-- The slice through which the home slice of page `lpn` reaches its frame, where that lies on a far port of the other half (R98). -/
def State.relayOf (s : State) (lpn at_ : Nat) : Option Nat :=
  match s.portOf (at_ / Config.pageBytes) with
  | some p => if p / 2 = lpn % 64 / 32 then none else some ((lpn + 32) % 64)
  | none => none

/-- The frame is reached: it needs no relay, or the relaying half is not in reset. -/
def State.reaches (s : State) (lpn at_ : Nat) : Bool :=
  match s.relayOf lpn at_ with
  | some k => !s.halfClosed (decide (32 ≤ k))
  | none => true

/-- An access leaves the home agent for memory, by relay where R98 asks for it. -/
def State.relayed (s : State) (lpn at_ a len : Nat) (write : Bool) : State :=
  match s.relayOf lpn at_ with
  | some k => s.emit (.relay (lpn % 64) k a len write)
  | none => s

/-- An access that memory has still to complete. -/
def State.queueAcc (s : State) (lpn : Nat) (c : HomeAcc) : State :=
  let s := s.relayed lpn c.at_ c.a c.len (!c.read)
  { s with home := { s.home with accs := s.home.accs ++ [{ c with via := s.relayOf lpn c.at_ }] } }

def Home.cowOf (h : Home) (lpn sub : Nat) : Option Cow := h.cows.find? (fun c => c.lpn == lpn && c.sub == sub)

/-- Hold a request behind a copy-on-write. -/
def State.holdReq (s : State) (lpn sub : Nat) (r : HomeReq) : State :=
  { s with home := { s.home with cows := s.home.cows.map (fun c =>
      if c.lpn = lpn ∧ c.sub = sub then { c with held := c.held ++ [r] } else c) } }

/-- Start a copy-on-write for its first request (R54). -/
def State.startCow (s : State) (lpn sub : Nat) (r : HomeReq) : State :=
  { s with home := { s.home with cows := s.home.cows ++ [⟨lpn, sub, [r]⟩] } }

def isHostReq : Requester → Bool
  | .host _ => true
  | _ => false

def bit32 (n : Nat) : W32 := BitVec.ofNat 32 (2 ^ n)

/-- Write bytes that lie in one sub-block of page `lpn`, at the copy that begins at `base`; the acknowledgement waits for memory. -/
def State.applyWrite (s : State) (req : Requester) (lpn a : Nat) (data : List Byte) (base : Nat) : State :=
  let at_ := base + a % Config.subBytes
  if s.reaches lpn at_ then (s.memWrite at_ data).queueAcc lpn ⟨req, a, data.length, at_, false, data, none⟩
  else s.emit (.homeErr req a)

/-- An unversioned write marks its sub-block written (R60, R91). -/
def Entry.markWritten (e : Entry) (sub : Nat) (serial : W16) : Entry :=
  let m := e.mask ||| bit32 sub
  { e with mask := m, tag := serial, stale := e.stale && m != BitVec.allOnes 32 }

/-- The host has rewritten units of a poisoned constant page: when all are, POISON and POISON_HOLD clear (R104). -/
def State.rewrite (s : State) (lpn : Nat) (off n : Nat) : State :=
  let e := s.entry lpn
  if !e.poison then s else
  let mine := (List.range (off / 64 + n / 64 + 2)).filter (fun u => decide (off ≤ u * 64 ∧ u * 64 + 64 ≤ off + n))
  let got := mine.foldl (fun l u => addTo u l) (mapGet [] s.home.rewritten lpn)
  if got.length ≥ 32768 then
    let s := s.setEntry lpn { e with poison := false }
    let s := { s with home := { s.home with rewritten := mapDel lpn s.home.rewritten } }
    if s.home.table.any (fun p => p.2.constant && p.2.poison) then s else (s.fsetb F.HOME_STATUS.POISON_HOLD false).ackIfRolled
  else { s with home := { s.home with rewritten := mapIns lpn got s.home.rewritten } }

/-- A host write of a versioned page joins the next mirror stream (R395). -/
def State.noteHostWrite (s : State) (e : Entry) (lpn sub : Nat) : State :=
  if e.versioned && (s.fbit F.STEP_BUDDY.EN || s.mirror.former.isSome) then
    { s with mirror := { s.mirror with hostWrote := addTo (lpn * 32 + sub) s.mirror.hostWrote } }
  else s

/-- The host may write versioned and constant pages: no step is in progress, and no weave is being applied (R65, R311). -/
def State.hostMayWrite (s : State) : Bool := s.stepPhase == phStepIdle && s.fget F.WV_STATUS.PHASE != 5

/-- A write that lies in one sub-block reaches its home (R36, R54, R65, R66). -/
def State.writePart (s : State) (req : Requester) (a : Nat) (data : List Byte) : State :=
  match s.place a with
  | none => s.emit (.homeErr req a)
  | some (_, ord, lpn, sub) =>
    if ord ≠ s.ord.toNat then s
    else if s.halfClosed (decide (32 ≤ lpn % 64)) then s.emit (.homeErr req a)
    else
    let (e, s) := s.touch lpn
    if e.kind = 0 then s.emit (.homeErr req a)
    else if isHostReq req then
      -- the host writes committed frames while no step runs, and unversioned pages at any time
      if e.unversioned then (s.setEntry lpn (e.markWritten sub s.markSerial)).applyWrite req lpn a data (e.committedAt sub)
      else if !s.hostMayWrite then (s.barEvent 2 a).emit (.homeAck req a data.length)
      else ((s.noteHostWrite e lpn sub).applyWrite req lpn a data (e.committedAt sub)).rewrite lpn (a % Config.pageBytes) data.length
    else if e.constant then s.emit (.homeErr req a)
    else if e.unversioned then (s.setEntry lpn (e.markWritten sub s.markSerial)).applyWrite req lpn a data (e.committedAt sub)
    else if (s.home.cowOf lpn sub).isSome then s.holdReq lpn sub (.write req a data)
    else if e.mask.getLsbD sub then s.applyWrite req lpn a data (e.workingAt sub)
    else s.startCow lpn sub (.write req a data)

/-- The parts of an access, one per sub-block. -/
def subParts : Nat → Nat → Nat → List (Nat × Nat)
  | 0, _, _ => []
  | k + 1, a, n =>
    if n = 0 then []
    else
      let m := min n (Config.subBytes - a % Config.subBytes)
      (a, m) :: subParts k (a + m) (n - m)

def partsOf (a n : Nat) : List (Nat × Nat) := subParts (n / Config.subBytes + 2) a n

/-- The device is in reset: its wrapper answers requests from outside with error responses (R442). -/
def State.homeClosed (s : State) : Bool := Domain.device ∈ s.resetRun

def execJobMemoryWriteAtHome (req : Requester) (a : W64) (data : List Byte) (s : State) : Outcome :=
  if s.homeClosed then .next (s.emit (.homeErr req a.toNat)) else
  .next ((partsOf a.toNat data.length).foldl (fun s (p, n) => s.writePart req p ((data.drop (p - a.toNat)).take n)) s)

/-- A stale read by a context (R61): it is counted, the first one names its address, and its data are undefined. A collective engine's read,
which it makes on behalf of a plan, counts as a context's (DESIGN CHOICE, log 31: R61 names reads by a context). -/
def State.staleRead (s : State) (a n : Nat) : List Byte × State :=
  let first := s.fget F.STEP_STALE.COUNT == 0
  let s := s.fadd F.STEP_STALE.COUNT 1
  let s := if first then (s.fset F.STEP_STALE_ADDR.ADDR a).event 0x9022 2 (unitLoc 0) 0 (data2 a 0) else s
  let (k, s) := s.draw
  ((List.range n).map (Config.freeByte k), s)

/-- A host never sees stale data: every byte reads 0xFF (R62). -/
def ones (n : Nat) : List Byte := List.replicate n 0xFF#8

/-- A versioned page's read by a host waits while the vote runs (R57). -/
def State.holdsHostRead (s : State) (req : Requester) (e : Entry) : Bool :=
  isHostReq req && e.versioned && s.fbit F.STEP_STATUS.COMMIT_BUSY

/-- A read that lies in one sub-block reaches its home (R55, R57, R60 to R64); a collective engine's stale read counts as a context's
(log 31). -/
def State.readPart (s : State) (req : Requester) (a n : Nat) : State :=
  match s.place a with
  | none => s.emit (.homeErr req a)
  | some (_, ord, lpn, sub) =>
    if ord ≠ s.ord.toNat then s
    else if s.halfClosed (decide (32 ≤ lpn % 64)) then s.emit (.homeErr req a)
    else
    let (e, s) := s.touch lpn
    if e.kind = 0 then s.emit (.homeErr req a)
    else if s.holdsHostRead req e then { s with home := { s.home with hostReads := s.home.hostReads ++ [(req, a, n)] } }
    else
      let stale := e.unversioned && e.stale && !e.mask.getLsbD sub
      let at_ := (if isHostReq req then e.committedAt sub else e.currentAt sub) + a % Config.subBytes
      if !isHostReq req && (s.home.cowOf lpn sub).isSome then s.holdReq lpn sub (.read req a n)
      else if !s.reaches lpn at_ then s.emit (.homeErr req a)
      else if stale && !isHostReq req then
        let (bs, s) := s.staleRead a n
        s.queueAcc lpn ⟨req, a, n, at_, true, bs, none⟩
      else s.queueAcc lpn ⟨req, a, n, at_, true, if stale then ones n else s.memRead at_ n, none⟩

def execJobMemoryReadAtHome (req : Requester) (a : W64) (len : Nat) (s : State) : Outcome :=
  if s.homeClosed then .next (s.emit (.homeErr req a.toNat)) else
  .next ((partsOf a.toNat len).foldl (fun s (p, n) => s.readPart req p n) s)

/-! ## Atomics (R51 to R53, R220) -/

/-- The new value of an atomic; none where it writes nothing (LOAD, or a failed CAS). -/
def atomNew (aop : Nat) (w : Nat) (old x expect : Nat) : Option Nat :=
  let sg (v : Nat) : Int := sext w v
  match aop with
  | 0 => none
  | 1 => some x
  | 2 => some x
  | 3 => if old = expect then some x else none
  | 4 => some ((old + x) % 2 ^ w)
  | 5 => some (if sg old ≤ sg x then old else x)
  | 6 => some (if sg old ≥ sg x then old else x)
  | 7 => some (min old x)
  | 8 => some (max old x)
  | 9 => some (old &&& x)
  | 10 => some (old ||| x)
  | _ => some (old ^^^ x)

/-- The home executes an atomic as one indivisible read-modify-write (R52, R53). A STORE returns no old value (R220) and reads nothing,
so it is no stale read (R61); in near memory it leaves an uncorrectable unit as it is (R551), in far memory it is a narrow write, a
read-modify-write (R106). An atomic that meets a lost unit has the effects of R104, and goes on where the buddy restores it. -/
def State.atomicAt (s : State) (req : Requester) (a : Nat) (aop : BitVec 4) (wide : Bool) (x expect : W64) (err : MemErr)
    (buddy : Option (List Byte)) : State :=
  let n := if wide then 8 else 4
  match s.place a with
  | none => s.emit (.homeErr req a)
  | some (_, ord, lpn, sub) =>
    if ord ≠ s.ord.toNat then s
    else if s.halfClosed (decide (32 ≤ lpn % 64)) then s.emit (.homeErr req a)
    else
    let (e, s) := s.touch lpn
    if e.kind = 0 || a % n ≠ 0 || (e.constant && aop != 0) || aop.toNat > 11 then s.emit (.homeErr req a)
    else if (s.home.cowOf lpn sub).isSome then s.holdReq lpn sub (.atomic req a aop wide x expect)
    else
      let at_ := e.currentAt sub + a % Config.subBytes
      if !s.reaches lpn at_ then s.emit (.homeErr req a) else
      let stale := e.unversioned && e.stale && !e.mask.getLsbD sub
      let reads := aop != 1 || decide (2 ^ 23 ≤ at_ / Config.pageBytes)
      let (_, s) := if reads then (s.relayed lpn at_ a n true).memErr err at_ else (false, s)
      let (goes, s) := if reads && !stale && s.lostHere lpn at_ n then s.lostPage lpn sub at_ a false buddy else (true, s)
      if !goes then s.emit (.homeErr req a) else
      let (bs, s') := if stale && aop != 1 then s.staleRead a n else (s.memRead at_ n, s)
      let old := ofBytes bs
      match atomNew aop.toNat (8 * n) old (x.toNat % 2 ^ (8 * n)) (expect.toNat % 2 ^ (8 * n)) with
      | none => s'.emit (.homeOld req (BitVec.ofNat 64 old))
      | some v =>
        if e.versioned && !e.mask.getLsbD sub then s.startCow lpn sub (.atomic req a aop wide x expect)
        else
          let s := if e.unversioned then s'.setEntry lpn (e.markWritten sub s'.markSerial) else s'
          (s.memWrite at_ (toBytes n v)).emit (.homeOld req (BitVec.ofNat 64 old))

def execAtomicExecute (req : Requester) (a : W64) (aop : BitVec 4) (wide : Bool) (x expect : W64) (err : MemErr)
    (buddy : Option (List Byte)) (s : State) : Outcome :=
  if s.homeClosed then .next (s.emit (.homeErr req a.toNat)) else .next (s.atomicAt req a.toNat aop wide x expect err buddy)

def HomeReq.refused (s : State) : HomeReq → State
  | .write q a _ => s.emit (.homeErr q a)
  | .read q a _ => s.emit (.homeErr q a)
  | .atomic q a .. => s.emit (.homeErr q a)

/-- A held request goes on. -/
def State.proceed (s : State) : HomeReq → State
  | .write req a data => s.writePart req a data
  | .read req a n => s.readPart req a n
  | .atomic req a aop wide x ex => s.atomicAt req a aop wide x ex .good none

/-- A copy-on-write completes (R54, R55): the sub-block is copied from the selected frame to the other, its mask bit is set,
and the held requests go on in order of arrival. A copy that meets a lost unit has the effects of R104; unless the buddy restores the
sub-block, it ends and its requests with error responses. -/
def execCopyOnWriteComplete (lpn : Lpn) (sub : BitVec 5) (err : MemErr) (buddy : Option (List Byte)) (s : State) : Outcome :=
  match s.home.cowOf lpn.toNat sub.toNat with
  | none => .next s
  | some c =>
    let (e, s) := s.touch c.lpn
    let at_ := e.committedAt c.sub
    let (_, s) := s.memErr err at_
    let (goes, s) := if s.lostHere c.lpn at_ Config.subBytes then
        s.lostPage c.lpn c.sub at_ (s.addrOf c.lpn + c.sub * Config.subBytes) false buddy
      else (true, s)
    let s := { s with home := { s.home with cows := dropOne c s.home.cows } }
    if !goes then .next (c.held.foldl HomeReq.refused s)
    else
      let s := s.memCopy at_ (e.workingAt c.sub) Config.subBytes
      let s := s.setEntry c.lpn { e with mask := e.mask ||| bit32 c.sub, tag := s.serial }
      .next (c.held.foldl State.proceed s)

/-! ## Completion (R82, R104, R106, R551) -/

/-- An access has met lost data (R104, R551): the page's effects, and what the requester gets. A host's read of units that stay lost
returns ones for them, with one event; its write is acknowledged. -/
def State.lost (s : State) (c : HomeAcc) (buddy : Option (List Byte)) : State :=
  match s.place c.a with
  | none => s.emit (.homeErr c.req c.a)
  | some (_, _, lpn, sub) =>
    let s := (s.touch lpn).2
    let host := isHostReq c.req
    let (back, s) := s.lostPage lpn sub c.at_ c.a host buddy
    if c.read then
      if back then s.emit (.homeData c.req c.a (s.memRead c.at_ c.len))
      else if host then (s.event 0x9003 2 (unitLoc (lpn % 64)) 0 (data2 c.a 0)).emit (.homeData c.req c.a (s.maskLost lpn c.at_ c.data))
      else s.emit (.homeErr c.req c.a)
    else if back then (s.memWrite c.at_ c.data).emit (.homeAck c.req c.a c.len)
    else if host then s.emit (.homeAck c.req c.a c.len)
    else s.emit (.homeErr c.req c.a)

/-- The oldest access of a requester at an address. -/
def Home.accOf (h : Home) (req : Requester) (a len : Nat) : Option HomeAcc :=
  h.accs.find? (fun c => c.req == req && c.a == a && c.len == len)

/-- The 64-byte units that a write covers in part: far memory reads them first (R106). -/
def partUnits (at_ n : Nat) : List Nat :=
  ((if at_ % 64 ≠ 0 ∨ n < 64 then [at_ / 64] else [])
    ++ (if (at_ + n) % 64 ≠ 0 then [(at_ + n) / 64] else []))

/-- A corrected error of a stack (R103): it is counted, and the third one of a row within a scrub pass remaps the row. -/
def State.countCorrected (s : State) (k bank row : Nat) : State :=
  let s := s.fadd (F.NM_ERR.CE.ix k) 1
  let errs := s.home.rowErrs
  let n : Nat := ((errs.find? (fun r => r.1 == k && r.2.1 == bank && r.2.2.1 == row)).map (fun r => r.2.2.2)).getD 0
  let rest := errs.filter (fun r => !(r.1 == k && r.2.1 == bank && r.2.2.1 == row))
  if n + 1 ≥ 3 then
    let s := { s with home := { s.home with rowErrs := rest, remapped := s.home.remapped ++ [(k, bank, row)] } }
    s.event 0x9011 3 (unitLoc k) 0 (data2 (k + bank * 2 ^ 32) row)
  else { s with home := { s.home with rowErrs := rest ++ [(k, bank, row, n + 1)] } }

/-- Home's committed copy and the buddy's, where an access brings both (R74): a difference is an event, and the sub-block joins the next
stream. -/
def State.compareBuddy (s : State) (c : HomeAcc) (buddy : Option (List Byte)) : State :=
  match buddy, s.place c.a with
  | some bs, some (_, _, lpn, sub) =>
    let e := s.resolve (s.entry lpn)
    let mine := s.memRead (e.committedAt sub) Config.subBytes
    if e.versioned && s.buddyHolds && bs.take Config.subBytes != mine then
      { s with mirror := { s.mirror with hostWrote := addTo (lpn * 32 + sub) s.mirror.hostWrote } }.event 0x9031 2 (unitLoc (lpn % 64)) 0
        (data2 lpn sub)
    else s
  | _, _ => s

/-- What an access has found lost: for a read any unit of it, for a write a unit that far memory reads to merge it. -/
def State.accLost (s : State) (c : HomeAcc) : Bool :=
  match s.place c.a with
  | some (_, _, lpn, _) =>
    if c.read then s.lostHere lpn c.at_ c.len
    else decide (2 ^ 23 ≤ c.at_ / Config.pageBytes) && (partUnits c.at_ c.len).any (fun u => decide (u ∈ s.memBad))
  | none => !(s.memBadIn c.at_ c.len).isEmpty

/-- A near or far access completes (R82): its data or acknowledgement returns. An access that met an uncorrectable unit, found
now or before, has the effects of R104 and R551; a corrected one is counted for its bank and row. -/
def execMemoryAccessComplete (req : Requester) (a : W64) (len : Nat) (e : Ecc) (bank row : Nat) (buddy : Option (List Byte)) (s : State) :
    Outcome :=
  match s.home.accOf req a.toNat len with
  | none => .next s
  | some c =>
    let s := { s with home := { s.home with accs := dropOne c s.home.accs } }
    let frame := c.at_ / Config.pageBytes
    let s := match e with
      | .clean => s
      | .corrected => if frame < 2 ^ 23 then s.countCorrected (frame % 8) bank row else s
      | .uncorrectable =>
        match (if c.read then some (c.at_ / 64) else (partUnits c.at_ c.len).head?) with
        | some u => { s with memBad := addTo u s.memBad }
        | none => s
    if s.accLost c then .next (s.lost c buddy)
    else if c.read then .next ((s.compareBuddy c buddy).emit (.homeData c.req c.a c.data))
    else .next (s.emit (.homeAck c.req c.a c.len))

/-- A far request unanswered in time is an uncorrectable error, and REASON reads 8 (R106). -/
def execFarRequestTimeout (port : BitVec 2) (req : Requester) (a : W64) (buddy : Option (List Byte)) (s : State) : Outcome :=
  match s.home.accs.find? (fun c => c.req == req && c.a == a.toNat) with
  | none => .next s
  | some c =>
    if s.portOf (c.at_ / Config.pageBytes) ≠ some port.toNat then .next s
    else
      let s := { s with home := { s.home with accs := dropOne c s.home.accs } }
      .next ((s.memErr .timeout c.at_).2.lost c buddy)

/-! ## Host access through BAR2 (R57, R62 to R66, R405 to R407) -/

/-- The job address of a BAR2 offset (R405). -/
def State.bar2Addr (s : State) (off : Nat) : Nat := s.fget F.HQ_BAR2_BASE.BASE * 2 ^ 36 + off

/-- The host reads a part that is homed here (R62, R64, R551), `found` naming by their job address the 64-byte units that the read itself
finds lost, and `copies` the buddy's sub-blocks by LPN × 32 + SUB: its bytes, and the state after it. -/
def State.hostPart (s : State) (found : List Nat) (copies : List (Nat × List Byte)) (a n : Nat) : List Byte × State :=
  match s.place a with
  | none => (ones n, s)
  | some (_, _, lpn, sub) =>
    let (e, s) := s.touch lpn
    let at_ := e.committedAt sub + a % Config.subBytes
    if s.halfClosed (decide (32 ≤ lpn % 64)) || !s.reaches lpn at_ then (ones n, s.barEvent 2 a)
    else if e.kind = 0 || (e.unversioned && e.stale && !e.mask.getLsbD sub) then (ones n, s)
    else
      let s := s.relayed lpn at_ a n false
      let now := found.filter (fun u => decide (a < u * 64 + 64 ∧ u * 64 < a + n))
      let s := { s with memBad := now.foldl (fun l u => addTo ((at_ + u * 64 - a) / 64) l) s.memBad }
      if !s.lostHere lpn at_ n then (s.memRead at_ n, s)
      else
        let (back, s) := s.lostPage lpn sub at_ a true ((copies.find? (fun c => c.1 == lpn * 32 + sub)).map Prod.snd)
        if back then (s.memRead at_ n, s)
        else (s.maskLost lpn at_ (s.memRead at_ n), s.event 0x9003 2 (unitLoc (lpn % 64)) 0 (data2 a 0))

/-- BAR2 shows job memory: a weave is loaded, and bring-up is over (R406, R469). -/
def State.hostServes (s : State) : Bool := s.fbit F.WV_STATUS.LOADED && s.fbit F.HQ_STATUS.READY

/-- A BAR2 read that the lead serves now: each part comes from its home. A local part is read here; a remote one brings its reply, or all
ones when none came within REQ_TIMEOUT (R406). -/
def State.bar2Serve (s : State) (off len : Nat) (reply : Option (List Byte)) (found : List Nat) (copies : List (Nat × List Byte)) : State :=
  let a := s.bar2Addr off
  if (partsOf a len).any (fun p => (s.place p.1).isNone) || !s.hostServes then
    (s.barEvent 2 off).emit (.bar2Data off (ones len))
  else
    let local_ := (partsOf a len).all (fun p => match s.place p.1 with | some (_, o, _, _) => o == s.ord.toNat | none => false)
    if local_ then
      let (bs, s) := (partsOf a len).foldl (fun (acc : List Byte × State) p =>
        let (b, t) := acc.2.hostPart found copies p.1 p.2
        (acc.1 ++ b, t)) ([], s)
      s.emit (.bar2Data off bs)
    else
      let s := s.emit (.bar2Read a len)
      match reply with
      | some bs => s.emit (.bar2Data off bs)
      | none => (s.barEvent 2 off).emit (.bar2Data off (ones len))

/-- A page of a range is versioned. -/
def State.versionedAt (s : State) (a : Nat) : Bool :=
  match s.place a with | some (r, _, _, _) => r.kind == 1 | none => false

/-- A BAR2 read. One of a versioned page is held while the vote runs, with the reply of its home (R57). -/
def execBar2Read (off : BitVec 36) (len : Nat) (reply : Option (List Byte)) (found : List Nat) (copies : List (Nat × List Byte)) (s : State) :
    Outcome :=
  let o := off.toNat
  if s.hostSilent then .next s
  else if s.deviceAsleep then .next (s.keepReq (.bar2Read off len reply found copies))
  else if !s.isLead then .next (s.emit (.bar2Data o (ones len)))
  else if s.fbit F.STEP_STATUS.COMMIT_BUSY && s.versionedAt (s.bar2Addr o) then
    .next { s with home := { s.home with hostHeld := s.home.hostHeld ++ [(o, len, reply)] } }
  else .next (s.bar2Serve o len reply found copies)

def execBar2Write (off : BitVec 36) (data : List Byte) (s : State) : Outcome :=
  let o := off.toNat
  let a := s.bar2Addr o
  if s.hostSilent then .next s
  else if s.deviceAsleep then .next (s.keepReq (.bar2Write off data))
  else if !s.isLead then .next s
  else if !s.hostServes || (partsOf a data.length).any (fun p => (s.place p.1).isNone) then .next (s.barEvent 2 o)
  else
    .next ((partsOf a data.length).foldl (fun s (p, n) =>
      let bs := (data.drop (p - a)).take n
      match s.place p with
      | none => s
      | some (r, ord, _, _) =>
        if r.kind ≠ 2 ∧ s.hostMayWrite = false then s.barEvent 2 o
        else if ord = s.ord.toNat then s.writePart (.host o) p bs
        else s.emit (.bar2Write p bs)) s)

/-! ## Intervals (R87 to R92) -/

/-- Record the outcome of the open interval (R87, R90). -/
def State.recordOutcome (s : State) (code : Nat) : State :=
  let k := s.serial
  let s := { s with home := { s.home with outcomes := mapPut 0 k.toNat code s.home.outcomes, closing := true, stalled := false } }
  if code = 1 then { s with home := { s.home with lastCommit := k } }
  else s.fset F.HOME_SERIAL.LAST_ROLLBACK k.toNat

/-- Every unversioned page is stale, its written mask clear (R60). -/
def State.staleAll (s : State) : State :=
  { s with home := { s.home with table := s.home.table.map (fun p =>
      (p.1, if p.2.unversioned then { p.2 with stale := true, mask := 0, tag := s.markSerial } else p.2)) } }

/-- The outcome of a rollback is recorded. Once the outcome of CURRENT stands already and the next interval is not open, none is ended:
the pages are marked at once (R60). -/
def State.recordRollback (s : State) : State := if s.home.closing then s.staleAll else s.recordOutcome 2

/-- A revert records the serial of the last commit as reverted (R90); where the next interval is open it ends as rolled back, its
pages marked at once (R60), since LAST_ROLLBACK holds the serial of the commit. -/
def State.recordRevert (s : State) : State :=
  let k := s.home.lastCommit
  let s := { s with home := { s.home with outcomes := mapPut 0 k.toNat 3 s.home.outcomes } }
  let s := s.fset F.HOME_SERIAL.LAST_ROLLBACK k.toNat
  if s.home.closing then s
  else { s with home := { s.home with outcomes := mapPut 0 s.serial.toNat 2 s.home.outcomes, closing := true, stalled := false } }.staleAll

/-- The sweeps that the next interval needs have completed (R92): from serial 0x8000 on, one that began after the interval 32,768 before
had ended. -/
def State.sweptFor (s : State) : Bool :=
  let n := s.home.intervals + 1
  n < 32767 || (List.range Config.slices).all (fun k => match mapFind s.home.sweepLast k with
    | some b => decide (b + 32768 > n)
    | none => false)

def execIntervalOpen (s : State) : Outcome :=
  if !s.home.closing then .next s
  else if s.sweptFor then
    let n := (s.fget F.HOME_SERIAL.CURRENT + 1) % 65536
    let s := s.fset F.HOME_SERIAL.CURRENT n
    .next { s with home := { s.home with outcomes := mapDel n s.home.outcomes, closing := false, stalled := false
                                         intervals := s.home.intervals + 1 } }
  else if s.home.stalled then .next s
  else .next ({ s with home := { s.home with stalled := true } }.fadd F.HOME_STATUS.SWEEP_STALLS 1)

/-- The sweeper of a home agent touches its next entry, resolving it or bringing its TAG up to CURRENT (R92); at the end of a
pass SWEEP_PASS_US holds the pass's duration. -/
def execSweeperTouch (slice : BitVec 6) (us : W16) (s : State) : Outcome :=
  let k := slice.toNat
  let pos := mapGet 0 s.home.sweepPos k
  let lpn := pos * 64 + k
  let began := if pos = 0 then s.home.intervals + (if s.home.closing then 1 else 0) else mapGet 0 s.home.sweepFrom k
  let (e, s) := s.touch lpn
  let s := if e.kind = 0 || !s.mayWriteBack (s.entry lpn) || (e.versioned && e.mask != 0) then s
    else s.setEntry lpn { e with tag := s.markSerial }
  let h := s.home
  if pos + 1 < 65536 then
    .next { s with home := { h with sweepPos := mapIns k (pos + 1) h.sweepPos, sweepFrom := mapIns k began h.sweepFrom } }
  else
    let s := { s with home := { h with sweepPos := mapIns k 0 h.sweepPos, sweepLast := mapIns k began h.sweepLast } }
    .next (s.fset F.HOME_STATUS.SWEEP_PASS_US us.toNat)

/-! ## Migration (R99 to R101) -/

/-- The code with which a migration request is refused; 0 when it is queued (R99). Where several cases hold, the lowest code is shown
(DESIGN CHOICE, log 31: R99 gives no order). -/
def State.migrateCode (s : State) (lpn : Nat) (far : Bool) : Nat :=
  let e := s.entry lpn
  let pref := match mapFind s.ranges e.range.toNat with | some r => r.tier == 2 | none => false
  let inFar := e.frame0.toNat ≥ 2 ^ 23
  if e.kind = 0 then 2
  else if e.migrating || s.home.migQ.any (fun p => p.1 == lpn) then 3
  else if s.home.migQ.length ≥ 16 then 4
  else if (s.allocPage s.usedFrames lpn e.versioned (if far then 1 else 0)).isNone then 5
  else if inFar == far || !pref then 6
  else 0

def execMigrateRequest (v : W64) (s : State) : Outcome :=
  let tier := bits v.toNat 57 56
  let lpn := bits v.toNat 21 0
  if tier ≥ 2 then .next (s.refuseWrite 0xA0010 v.toNat)
  else if !bit v.toNat 63 then .next s
  else
    match s.migrateCode lpn (tier == 1) with
    | 0 =>
      let s := { s with home := { s.home with migQ := s.home.migQ ++ [(lpn, tier == 1)] } }
      .next (s.fset F.HOME_MIGRATE_STATUS.QUEUED s.home.migQ.length)
    | c => .next (s.fset F.HOME_MIGRATE_STATUS.LAST_RESULT c)

/-- A queued migration starts (R100). One that finds no free frames now is dropped with LAST_RESULT 5 (DESIGN CHOICE, log 31). -/
def execMigrationStart (s : State) : Outcome :=
  match s.home.migNow, s.home.migQ with
  | none, (lpn, far) :: q =>
    let e := s.entry lpn
    let s := ({ s with home := { s.home with migQ := q } }).fset F.HOME_MIGRATE_STATUS.QUEUED q.length
    match s.allocPage s.usedFrames lpn e.versioned (if far then 1 else 0) with
    | none => .next (s.fset F.HOME_MIGRATE_STATUS.LAST_RESULT 5)
    | some (f, g) =>
      let s := s.setEntry lpn { e with new0 := BitVec.ofNat 24 f, new1 := BitVec.ofNat 24 g, migrating := true, cursor := 0 }
      .next ({ s with home := { s.home with migNow := some lpn } }.fsetb F.HOME_MIGRATE_STATUS.BUSY true)
  | _, _ => .next s

/-- The migration has ended with a result. -/
def State.migrated (s : State) (lpn : Nat) (e : Entry) (result : Nat) : State :=
  let s := s.setEntry lpn { e with migrating := false, cursor := 0, new0 := 0, new1 := 0 }
  ({ s with home := { s.home with migNow := none } }.fsetb F.HOME_MIGRATE_STATUS.BUSY false).fset
    F.HOME_MIGRATE_STATUS.LAST_RESULT result

/-- What a copy of sub-block `sub` of a migrating page finds lost, in the first or the second frame. -/
def State.migrationLost (s : State) (e : Entry) (sub : Nat) : Option Bool :=
  let bad (f : BitVec 24) : Bool := !(s.memBadIn (f.toNat * Config.pageBytes + sub * Config.subBytes) Config.subBytes).isEmpty
  if bad e.frame0 then some false else if e.versioned && bad e.frame1 then some true else none

/-- One sub-block is copied from both frames; after the last one the new frames replace the old (R100). An uncorrectable
error, found by this copy in the first or the second frame or before it, abandons the migration and is handled under R104, where the
frame holds the committed or the working copy (R101). -/
def execMigrationSubblockCopy (err : MemErr) (second : Bool) (buddy : Option (List Byte)) (s : State) : Outcome :=
  match s.home.migNow with
  | none => .next s
  | some lpn =>
    let (r, s) := s.touch lpn
    let e := s.entry lpn
    if (s.home.cowOf lpn e.cursor).isSome then .next s
    else
      let off := e.cursor * Config.subBytes
      let from_ (b : Bool) : Nat := (if b then e.frame1 else e.frame0).toNat * Config.pageBytes + off
      let (_, s) := s.memErr err (from_ (second && e.versioned))
      match s.migrationLost e e.cursor with
      | some b =>
        let s := s.migrated lpn e 7
        let holds := from_ b == r.committedAt e.cursor || (r.versioned && r.mask.getLsbD e.cursor)
        .next (if holds then (s.lostPage lpn e.cursor (from_ b) (s.addrOf lpn + off) false buddy).2 else s)
      | none =>
        let s := (s.relayed lpn (from_ false) (s.addrOf lpn + off) Config.subBytes false).relayed lpn (e.new0.toNat * Config.pageBytes + off)
          (s.addrOf lpn + off) Config.subBytes true
        let cp (s : State) (a b : BitVec 24) : State :=
          s.memCopy (a.toNat * Config.pageBytes + off) (b.toNat * Config.pageBytes + off) Config.subBytes
        let s := cp s e.frame0 e.new0
        let s := if e.versioned then cp s e.frame1 e.new1 else s
        if e.cursor + 1 < 32 then .next (s.setEntry lpn { e with cursor := e.cursor + 1 })
        else .next (s.migrated lpn { e with frame0 := e.new0, frame1 := e.new1 } 1)

/-! ## Scrubbing and far ports (R103, R105 to R107, R453) -/

/-- The page that holds a frame, with the sub-block of the byte at `at_`. -/
def State.holderOf (s : State) (at_ : Nat) : Option (Nat × Nat) :=
  (s.home.table.find? (fun p => decide (at_ / Config.pageBytes ∈ p.2.frames))).map (fun p =>
    (p.1, at_ % Config.pageBytes / Config.subBytes))

/-- An uncorrectable unit that the patrol scrub finds (R103, R104): a Home Table entry, or a copy that a page holds, has the effects of
R104; a unit that holds nothing of a page is counted and reported. -/
def State.scrubLost (s : State) (k at_ : Nat) (buddy : Option (List Byte)) : State :=
  let s := { s with memBad := addTo (at_ / 64) s.memBad }
  if at_ / Config.pageBytes < 64 then s.entryLost (at_ / 64)
  else
    let nothing (s : State) : State := (s.fadd (F.NM_ERR.UE.ix k) 1).emit (.report (s.mkReport 0x2011 (errFlags false 0) 3 (unitLoc k) 0 0 0) false)
    match s.holderOf at_ with
    | none => nothing s
    | some (lpn, sub) =>
      let (e, s) := s.touch lpn
      let within (b : Nat) : Bool := decide (b ≤ at_ ∧ at_ < b + Config.subBytes)
      if within (e.committedAt sub) || within (e.currentAt sub) then
        (s.lostPage lpn sub at_ (s.addrOf lpn + at_ % Config.pageBytes) false buddy).2
      else nothing s

/-- The patrol scrubber reads the next location of a stack (R103), which holds near-memory unit `unit`: a location below the last one
begins a new pass. -/
def execPatrolScrubRead (stack : BitVec 3) (bank row : Nat) (e : Ecc) (unit : Nat) (buddy : Option (List Byte)) (s : State) : Outcome :=
  let k := stack.toNat
  let last := mapGet (0, 0) s.home.scrubAt k
  let fresh := bank < last.1 ∨ (bank = last.1 ∧ row < last.2)
  let errs := if fresh then s.home.rowErrs.filter (fun r => r.1 != k) else s.home.rowErrs
  let s := { s with home := { s.home with rowErrs := errs, scrubAt := mapIns k (bank, row) s.home.scrubAt } }
  match e with
  | .clean => .next s
  | .uncorrectable => .next (s.scrubLost k (unit * 64) buddy)
  | .corrected => .next (s.countCorrected k bank row)

/-- Event records of an expander are copied to the recorder (R106). -/
def execExpanderEventFetch (port : BitVec 2) (recs : List (BitVec 96)) (s : State) : Outcome :=
  .next (recs.foldl (fun s r => s.event 0x9012 4 (unitLoc port.toNat) 0 (port.toNat + r.toNat * 2 ^ 32)) s)

/-- A far port is lost to the job (R107, R468): a fault is raised and the step is dirty. -/
def State.farLose (s : State) (p : Nat) : State :=
  let s := { s with endDirty := true, home := { s.home with farLost := addTo p s.home.farLost } }
  s.emit (.report (s.mkReport 0x2012 (errFlags false 0) 4 (unitLoc p) 0 0 (data2 0 s.ord.toNat)) true)

/-- A used far port's link goes down (R107). -/
def State.farDown (s : State) (p : Nat) : State :=
  if !s.fbit (F.CXL_PORT_STATUS.LINK_UP.ix p) then s
  else
    let s := s.fsetb (F.CXL_PORT_STATUS.LINK_UP.ix p) false
    if !s.fbit (F.CXL_PORT_STATUS.USED.ix p) || !s.fbit F.WV_STATUS.LOADED then s else s.farLose p

def execCxlLinkDown (port : BitVec 2) (s : State) : Outcome := .next (s.farDown port.toNat)

/-- The link is up again; a port that is used carries the job's pages again (R105, R107). -/
def execCxlLinkRetrained (port : BitVec 2) (s : State) : Outcome :=
  let p := port.toNat
  let s := s.fsetb (F.CXL_PORT_STATUS.LINK_UP.ix p) true
  if !s.fbit (F.CXL_PORT_STATUS.USED.ix p) then .next s
  else .next { s with home := { s.home with farLost := s.home.farLost.filter (fun q => q != p) } }.ackIfRolled

/-- A page has a frame on the port. -/
def State.onPort (s : State) (e : Entry) (p : Nat) : Bool := e.frames.any (fun f => s.portOf f == some p)

/-- Restore one page of a lost port or device from its buddy (R453): new frames, versioned sub-blocks as the buddy holds them,
unversioned pages stale, constant pages poisoned. `copies` gives sub-blocks by LPN × 32 + SUB; one that the buddy lacks is lost. -/
def State.restorePage (s : State) (copies : List (Nat × List Byte)) (lpn : Nat) (frames : Option (Nat × Nat)) : State :=
  let e := s.entry lpn
  match frames with
  | none => s.unrecoverable
  | some (f, g) =>
    let e := { e with frame0 := BitVec.ofNat 24 f, frame1 := BitVec.ofNat 24 g, sel := 0, mask := 0, tag := s.markSerial
                      migrating := false, cursor := 0, new0 := 0, new1 := 0 }
    if e.versioned then
      (List.range 32).foldl (fun s b =>
        match copies.find? (fun c => c.1 == lpn * 32 + b) with
        | some c => (s.memWrite (f * Config.pageBytes + b * Config.subBytes) (c.2.take Config.subBytes)).event 0x9032 2
            (unitLoc (lpn % 64)) 0 (data2 lpn b)
        | none => (s.setPoison lpn).unrecoverable) (s.setEntry lpn e)
    else if e.unversioned then s.setEntry lpn { e with stale := true }
    else (s.setEntry lpn { e with poison := true }).fsetb F.HOME_STATUS.POISON_HOLD true

/-- Every page of a list has a durable buddy copy (R107): it is versioned, and the buddy gives every sub-block of it. -/
def State.allMirrored (s : State) (copies : List (Nat × List Byte)) (pages : List Nat) : Bool :=
  s.buddyHolds && pages.all (fun l => (s.entry l).versioned
    && (List.range 32).all (fun b => copies.any (fun c => c.1 == l * 32 + b)))

/-- A lost far port has not retrained within 2 s (R107): its pages come back from the buddy when every one of them has a durable copy
there, and are lost otherwise. -/
def execCxlRetrainTimeout (port : BitVec 2) (copies : List (Nat × List Byte)) (s : State) : Outcome :=
  let p := port.toNat
  if !(p ∈ s.home.farLost) then .next s
  else
    let pages := (s.home.table.filter (fun q => s.onPort q.2 p)).map Prod.fst
    let s := { s with home := { s.home with farLost := s.home.farLost.filter (fun q => q != p) } }
    if pages.isEmpty then .next s.ackIfRolled
    else if s.allMirrored copies pages then
      .next (pages.foldl (fun s l =>
        -- first the other far ports, then the near frames of the page's half
        let fr := match s.allocFarBut (some p) s.usedFrames l true with
          | some f => some f
          | none => s.allocNear s.usedFrames l true
        s.restorePage copies l fr) s).ackIfRolled
    else
      .next (pages.foldl (fun s l => { s.setPoison l with home := { (s.setPoison l).home with gone := addTo l s.home.gone } })
        s).unrecoverable.ackIfRolled

end Sys2Proof.Machine
end

