-- ==== Sys2Proof/Machine/Queue.lean ====
section
/-! DEFINITION. The host queues and interrupts (R399, R407, R410 to R414, R420, R421): entries fetched, commands started and
completed, completion entries and MSI-X messages. -/

namespace Sys2Proof.Machine

/-! ## Commands (R412) -/

/-- A command of an SQ entry. -/
inductive HostCmd where
  | loadWeave (addr len : Nat) (clear : Bool)
  | runSteps (first count : Nat)
  | commitCtrl (action : Nat)
  | copy (host job len : Nat) (toHost : Bool)
  | readEvents (buf from_ bytes pos : Nat)
  | setTolerance (us : Nat) (mask : Nat)
  deriving DecidableEq, Repr

/-- The command that eight words spell; none when a field is invalid (status 0x01, R412, R414). -/
def spell (ws : List W64) : Option HostCmd :=
  match ws.map BitVec.toNat with
  | [w0, w1, w2, w3, w4, w5, w6, w7] =>
    let unused (l : List Nat) : Bool := (l ++ [w4, w5, w6, w7]).all (fun w => w == 0)
    if bits w0 15 8 ≠ 0 ∨ bits w0 63 32 ≠ 0 then none
    else
      match bits w0 7 0 with
      | 1 => if unused [] && w1 % 8 == 0 && w3 ≤ 1 then some (.loadWeave w1 w2 (w3 == 1)) else none
      | 2 => if unused [w3] && w2 < 2 ^ 32 && w2 ≥ 1 then some (.runSteps w1 w2) else none
      | 3 => if unused [w2, w3] && 1 ≤ w1 && w1 ≤ 3 then some (.commitCtrl w1) else none
      | 4 =>
        let len := bits w3 31 0
        if unused [] && w1 % 64 == 0 && w2 % 64 == 0 && len % 64 == 0 && len ≥ 64 && w3 < 2 ^ 33 && w2 < 2 ^ 57 then
          some (.copy w1 w2 len (bit w3 32)) else none
      | 5 =>
        let n := bits w3 22 0
        if unused [] && w1 % 64 == 0 && w2 < 2 ^ 48 && n % 64 == 0 && 64 ≤ n && n ≤ 2 ^ 22 && bits w3 31 23 == 0
            && w3 < 2 ^ 38 then some (.readEvents w1 w2 n (bits w3 37 32)) else none
      | 6 => if unused [w3] && w1 < 2 ^ 32 then some (.setTolerance w1 w2) else none
      | _ => none
  | _ => none

/-- CID of an entry (R412). -/
def Fetched.cid (f : Fetched) : W16 := BitVec.ofNat 16 (bits (f.words.headD 0).toNat 31 16)

/-! ## Queue pairs (R410, R413) -/

def Queue.empty : Queue := { fetched := [], busy := none, tail := 0, lap := true, held := [] }

def State.queue (s : State) (q : Nat) : Queue := mapGet Queue.empty s.queues q
def State.setQueue (s : State) (q : Nat) (x : Queue) : State := { s with queues := mapIns q x s.queues }

def State.sqSize (s : State) (q : Nat) : Nat := 2 ^ s.fget (F.HQ_Q_CFG.SQ_LOG2.ix q)
def State.cqSize (s : State) (q : Nat) : Nat := 2 ^ s.fget (F.HQ_Q_CFG.CQ_LOG2.ix q)

/-- A queue stops on an error, and the FAULT cause is raised (R420). -/
def State.stopQueue (s : State) (q code : Nat) : State :=
  ((s.fsetb (F.HQ_Q_STATUS.ERR.ix q) true).fset (F.HQ_Q_STATUS.ERRCODE.ix q) code).faultCause

/-- The CQ is full when the next slot is the one before HQ_CQ_HEAD (R410). -/
def State.cqFull (s : State) (q : Nat) : Bool :=
  ((s.queue q).tail + 1) % s.cqSize q == s.fget (F.HQ_CQ_HEAD.INDEX.ix q) % s.cqSize q

/-- Write a completion entry at the next slot, with its PHASE, and then send the CQ's message (R410, R413, R420). -/
def State.cqPut (s : State) (q : Nat) (entry : List Byte) : State :=
  let x := s.queue q
  let last := entry.getLastD 0
  let e := entry.dropLast ++ [if x.lap then last ||| 0x80#8 else last]
  let n := (x.tail + 1) % s.cqSize q
  let s := s.setQueue q { x with tail := n, lap := if n = 0 then !x.lap else x.lap }
  (s.emit (.cqWrite (s.fget (F.HQ_CQ_BASE.ADDR.ix q) * 4096 + x.tail * 16) e)).signal (s.fget (F.HQ_Q_CFG.VECTOR.ix q))

/-- The host port is out of L0 for want of its reference: a write to the host's memory fails (R420, R537). -/
def State.hostCut (s : State) : Bool := s.fbit F.CLK_REF_LOSS.PCIE && !s.fbit F.CLK_REF_STATUS.PCIE_OK

/-- Completions that wait for room are written while there is room; `fuel` bounds the count. One that cannot be written is lost, and stops
its queue (R420). -/
def State.cqDrain (s : State) (q : Nat) : Nat → State
  | 0 => s
  | fuel + 1 =>
    match (s.queue q).held with
    | [] => s
    | e :: es =>
      if s.cqFull q then s
      else
        let s := s.setQueue q { s.queue q with held := es }
        (if s.hostCut then s.stopQueue q 3 else s.cqPut q e).cqDrain q fuel

/-- A completion entry without its PHASE (R413). -/
def cqEntry (q : Nat) (f : Fetched) (result status detail : Nat) : List Byte :=
  toBytes 8 result ++ toBytes 2 f.cid.toNat ++ toBytes 1 (q % 16) ++ toBytes 1 status ++ toBytes 2 detail
    ++ toBytes 2 (f.head % 2 ^ 15)

/-- A completion joins those of its CQ, in order (R410); that of a command fetched before a reset of the HQ block is discarded (R401). -/
def State.post (s : State) (q : Nat) (f : Fetched) (result status detail : Nat) : State :=
  if !f.live then s
  else
    let x := s.queue q
    let s := s.setQueue q { x with held := x.held ++ [cqEntry q f result status detail] }
    s.cqDrain q (x.held.length + 1)

/-- A commit vote is in progress (R25): as this device's PHASE shows it, and at the coordinator from the PREPARE that it has sent. -/
def State.voteOn (s : State) : Bool :=
  s.stepPhase == phStepVoting || s.stepPhase == phStepFlipping
    || (match s.coord.stage with | .voting => true | .standby => true | .flipping => true | _ => false)

/-- The next command of a queue: an entry with an invalid field completes at once with status 0x01, as it starts (R411, R414), which no
command does while a vote is in progress (R25), nor before the completions ahead of it are written (log 21); `fuel` bounds the count of
such entries. -/
def State.settle (s : State) (q : Nat) : Nat → State
  | 0 => s
  | fuel + 1 =>
    let x := s.queue q
    match x.busy, x.fetched with
    | none, f :: fs =>
      if (spell f.words).isNone && !s.voteOn && x.held.isEmpty then ((s.setQueue q { x with fetched := fs }).post q f 0 1 0).settle q fuel else s
    | _, _ => s

/-- IDLE is 1 while no command of the SQ is in execution. -/
def State.setIdle (s : State) (q : Nat) : State := s.fsetb (F.HQ_Q_STATUS.IDLE.ix q) (s.queue q).busy.isNone

/-- The command in execution on a queue completes (R411, R413). A command whose queue has been reset writes nothing (R401). -/
def State.complete (s : State) (q : Option (BitVec 4)) (result status detail : Nat) : State :=
  match q with
  | none => s
  | some b =>
    let q := b.toNat
    let x := s.queue q
    match x.busy with
    | none => s
    | some f =>
      let s := ((s.setQueue q { x with busy := none }).post q f result status detail)
      (s.settle q (s.queue q).fetched.length).setIdle q

/-- A vote is over: entries with an invalid field that it held complete (R25). -/
def State.settleAll (s : State) : State :=
  (List.range 16).foldl (fun s q => s.settle q (s.queue q).fetched.length) s

/-- The command at the front of a queue may start (R25, R411): it is the one named, nothing of the queue executes, every completion ahead
of it is written, and no vote is in progress. -/
def State.mayStart (s : State) (q : BitVec 4) (cid : W16) (c : HostCmd) : Bool :=
  let x := s.queue q.toNat
  match x.busy, x.fetched with
  | none, f :: _ => f.cid == cid && spell f.words == some c && x.held.isEmpty && !s.voteOn
  | _, _ => false

/-- The front command of a queue enters execution. -/
def State.begin (s : State) (q : BitVec 4) : State :=
  let x := s.queue q.toNat
  match x.fetched with
  | f :: fs => ((s.setQueue q.toNat { x with busy := some f, fetched := fs }).setIdle q.toNat).emit (.cmdStart q f.words)
  | [] => s

/-! ## Doorbells and fetches (R410, R420) -/

/-- An SQ may be fetched from: enabled, not stopped, and its head is not its tail. -/
def State.sqReady (s : State) (q : Nat) : Bool :=
  s.fbit (F.HQ_Q_CFG.EN.ix q) && !s.fbit (F.HQ_Q_STATUS.ERR.ix q)
    && s.fget (F.HQ_Q_STATUS.SQ_HEAD.ix q) != s.fget (F.HQ_DOORBELL.INDEX.ix q)

/-- The queue whose turn it is: the first ready one from the round-robin position on. -/
def State.fetchTurn (s : State) : Option Nat :=
  ((List.range 16).map (fun i => (s.nextQ + i) % 16)).find? s.sqReady

/-- BAR0 offset of a field's register. -/
def Fld.at (f : Fld) (q : Nat) : Nat := (f.ix q).off

def execDoorbellWrite (q : BitVec 4) (v : W32) (s : State) : Outcome :=
  let n := q.toNat
  if !s.fbit (F.HQ_Q_CFG.EN.ix n) || v.toNat ≥ 4096 then .next (s.refuseWrite (F.HQ_DOORBELL.INDEX.at n) v.toNat)
  else if v.toNat ≥ s.sqSize n then .next (s.stopQueue n 1)
  else .next (s.fset (F.HQ_DOORBELL.INDEX.ix n) v.toNat)

def execCqHeadWrite (q : BitVec 4) (v : W32) (s : State) : Outcome :=
  let n := q.toNat
  if !s.fbit (F.HQ_Q_CFG.EN.ix n) || v.toNat ≥ 4096 then .next (s.refuseWrite (F.HQ_CQ_HEAD.INDEX.at n) v.toNat)
  else if v.toNat ≥ s.cqSize n then .next (s.stopQueue n 1)
  else
    let s := s.fset (F.HQ_CQ_HEAD.INDEX.ix n) v.toNat
    let s := s.cqDrain n (s.queue n).held.length
    .next (s.settle n (s.queue n).fetched.length)

/-- The next entry is fetched, round-robin over the enabled SQs, and waits for its turn to start; a failed fetch stops the
queue (R410, R411, R420). -/
def execSqEntryFetch (entry : Option (List W64)) (s : State) : Outcome :=
  match s.fetchTurn with
  | none => .next s
  | some q =>
    match entry with
    | none => .next (({ s with nextQ := (q + 1) % 16 }).stopQueue q 2)
    | some ws =>
      let head := (s.fget (F.HQ_Q_STATUS.SQ_HEAD.ix q) + 1) % s.sqSize q
      let s := ({ s with nextQ := (q + 1) % 16, fetches := s.fetches + 1 }).fset (F.HQ_Q_STATUS.SQ_HEAD.ix q) head
      let x := s.queue q
      let s := s.setQueue q { x with fetched := x.fetched ++ [⟨(ws ++ List.replicate 8 0).take 8, head, s.fetches, true⟩] }
      .next (s.settle q (s.queue q).fetched.length)

/-- A write of EN = 0: fetching stops and ERR clears; commands already fetched run to their completions (R420). -/
def execQueueDisable (q : BitVec 4) (s : State) : Outcome :=
  let n := q.toNat
  .next (((s.fsetb (F.HQ_Q_CFG.EN.ix n) false).fsetb (F.HQ_Q_STATUS.ERR.ix n) false).fset (F.HQ_Q_STATUS.ERRCODE.ix n) 0)

end Sys2Proof.Machine
end

