-- ==== Sys2Proof/Machine/WeaveParse.lean ====
section
/-! DEFINITION. The weave bitstream (R289 to R307): its layout, its records, and every check the loader makes of it. -/

namespace Sys2Proof.Machine

open Sys2Proof.Num

/-! ## Findings (R306, R307) -/

/-- A reason to refuse: `pos` orders the header (0), the directory (1) and the sections in directory order (2 + index); `recNo`
is the record within the section, none for the header, the directory, the signature and what concerns a whole section. -/
structure Finding where
  pos : Nat
  recNo : Option Nat
  code : Nat
  sect : Nat
  deriving DecidableEq, Repr

/-- Weave order: position, record, code (R307). -/
def Finding.before (a b : Finding) : Bool :=
  let k (f : Finding) : Nat := f.recNo.elim 0 (fun n => n + 1)
  a.pos < b.pos || (a.pos == b.pos && (k a < k b || (k a == k b && a.code < b.code)))

/-- The finding that is reported. -/
def firstFinding : List Finding → Option Finding
  | [] => none
  | f :: fs => match firstFinding fs with
    | none => some f
    | some g => if g.before f then some g else some f

/-- The refusal of R307 as WV_REFUSE shows it. -/
def Finding.refusal (f : Finding) (ord : DevOrd) : WeaveRefusal :=
  ⟨BitVec.ofNat 8 f.code, BitVec.ofNat 8 f.sect, ord, BitVec.ofNat 32 (f.recNo.getD 0xFFFFFFFF)⟩

/-- Findings of one record: the codes whose condition holds. -/
def findings (pos : Nat) (recNo : Option Nat) (sect : Nat) (cs : List (Nat × Bool)) : List Finding :=
  (cs.filter (fun c => c.2)).map (fun c => ⟨pos, recNo, c.1, sect⟩)

/-! ## Header and directory (R290 to R292) -/

/-- Field of `n` bytes at an offset. -/
def le (bs : List Byte) (at_ n : Nat) : Nat := ofBytes ((bs.drop at_).take n)

def allZero (bs : List Byte) : Bool := bs.all (fun b => b == 0)

/-- A directory entry (R291). -/
structure Sect where
  pos : Nat
  typ : Nat
  resv : Nat
  crc : Nat
  off : Nat
  len : Nat
  deriving DecidableEq, Repr

def parseHeader (bs : List Byte) : Header :=
  { kind := le bs 0x06 1, mode := le bs 0x07 1, id := BitVec.ofNat 64 (le bs 0x08 8), base := BitVec.ofNat 64 (le bs 0x10 8)
    geom := [BitVec.ofNat 32 (le bs 0x18 4), BitVec.ofNat 32 (le bs 0x1C 4), BitVec.ofNat 32 (le bs 0x20 4),
      BitVec.ofNat 32 (le bs 0x24 4)]
    herdN := le bs 0x28 2, herds := le bs 0x2A 2, k := le bs 0x2C 2, epoch := le bs 0x2E 1
    seed := BitVec.ofNat 64 (le bs 0x30 8), near := le bs 0x38 4, far := le bs 0x3C 4, drain := le bs 0x40 2
    nsect := le bs 0x42 2, total := le bs 0x48 8 }

def parseDir (bs : List Byte) (n : Nat) : List Sect :=
  (List.range n).map (fun i =>
    let e := bs.drop (0x80 + 24 * i)
    ⟨i + 2, le e 0 1, le e 1 3, le e 4 4, le e 8 8, le e 16 8⟩)

def Header.full (h : Header) : Bool := h.kind == 1

/-- Devices of the job that a header names (R77). -/
def Header.devices (h : Header) : Nat := h.herdN * h.herds

/-- Header checks that depend on the header alone: codes 0x01 to 0x03, 0x1A, 0x22. `len` is the command's Length. -/
def headerAlone (bs : List Byte) (h : Header) (len : Nat) (dir : List Sect) : List (Nat × Bool) :=
  let part := h.kind == 2
  [(0x01, bs.take 4 != [0x57#8, 0x45#8, 0x41#8, 0x56#8]),
   (0x02, le bs 4 2 != 1),
   (0x03, !(h.full || part) || (if part then h.mode > 1 else h.mode != 0) || h.id == 0 || (h.full && h.base != 0)
      || !(h.herdN == 16 || h.herdN == 32 || h.herdN == 64) || h.herds == 0 || h.herds > 256
      || (if part then h.epoch > 15 else h.epoch != 0) || le bs 0x2F 1 != 0 || le bs 0x44 4 != 0
      || !allZero ((bs.drop 0x50).take 48)
      || (if part && h.mode == 0 then h.drain == 0 else h.drain != 0)
      || h.nsect == 0 || h.nsect > 7 || h.total != len),
   (0x1A, h.k == 0),
   (0x22, part && (h.near != 0 || h.far != 0 || dir.any (fun d => d.typ == 5)))]

/-- Where the bytes before each section end, and the sections that break R289: alignment, order, the end of the weave. -/
def layoutBad (bs : List Byte) (total : Nat) : Nat → List Sect → Bool
  | prev, [] => !allZero ((bs.drop prev).take (total - prev))
  | prev, d :: ds =>
    d.off % 8 != 0 || d.len % 8 != 0 || d.off < prev || d.off + d.len > total || !allZero ((bs.drop prev).take (d.off - prev))
      || layoutBad bs total (d.off + d.len) ds

def hasSect (dir : List Sect) (t : Nat) : Bool := dir.any (fun d => d.typ == t)

/-- Directory checks: codes 0x03, 0x04, 0x06, 0x07 (R289, R291, R292, R305). -/
def dirChecks (bs : List Byte) (h : Header) (dir : List Sect) : List (Nat × Bool) :=
  let sigEnd := (dir.getLast?).elim false (fun d => d.typ == 7 && d.off + d.len == h.total)
  [(0x03, dir.any (fun d => d.resv != 0)),
   (0x04, 0x80 + 24 * h.nsect > h.total || layoutBad bs h.total (0x80 + 24 * h.nsect) dir),
   (0x06, (dir.map Sect.typ).eraseDups.length != dir.length || !sigEnd
      || (h.full && !(hasSect dir 1 && hasSect dir 2 && hasSect dir 5))
      || (!h.full && hasSect dir 1 != hasSect dir 2)),
   (0x07, dir.any (fun d => d.typ == 0 || d.typ > 7))]

/-! ## Records (R293 to R303) -/

/-- Walk a section's records: the records with their numbers, and the number of one that overruns the section (R309). `size`
gives a record's length from its first bytes. -/
def walkRecs (size : List Byte → Option Nat) : Nat → Nat → List Byte → List (Nat × List Byte) × Option Nat
  | 0, i, bs => if bs.isEmpty then ([], none) else ([], some i)
  | fuel + 1, i, bs =>
    if bs.isEmpty then ([], none)
    else
      match size bs with
      | none => ([], some i)
      | some n =>
        if n = 0 ∨ n > bs.length then ([], some i)
        else
          let (rs, e) := walkRecs size fuel (i + 1) (bs.drop n)
          ((i, bs.take n) :: rs, e)

def round8 (n : Nat) : Nat := (n + 7) / 8 * 8

/-- The length of a record of each section type (R294, R297, R300 to R303). -/
def recSize (typ : Nat) (bs : List Byte) : Option Nat :=
  match typ with
  | 1 => if bs.length < 16 then none
    else some (round8 (640 + 32 * bits (le bs 8 8) 11 5 + 4 * bits (le bs 0 8) 24 12))
  | 2 => if bs.length < 16 then none else some (32 + (if bit (le bs 0 4) 30 then 8 * le bs 15 1 else 0))
  | 3 => if bs.length < 8 then none else some (16 + 8 * le bs 0 4)
  | 4 => if bs.length < 8 then none else some (8 + 8 * (le bs 0 2 + le bs 2 2))
  | 5 => some 32
  | _ => some 64

def sectRecs (typ first : Nat) (bs : List Byte) : List (Nat × List Byte) × Option Nat :=
  walkRecs (recSize typ) (bs.length + 1) first bs

/-- Consecutive words of `n` bytes. -/
def words (bs : List Byte) (n : Nat) : Nat → List Nat
  | 0 => []
  | k + 1 => le bs 0 n :: words (bs.drop n) n k

/-- Words keyed from 0, zero not listed. -/
def wordMap (w : Nat) (ws : List Nat) : SMap (BitVec w) :=
  (ws.zipIdx).foldl (fun m (v, i) => mapPut 0 i (BitVec.ofNat w v) m) []

/-- A TILE record (R294 to R296); the image has no partner yet, which depends on the tile. -/
def parseTile (idx : Nat) (bs : List Byte) : TileRec :=
  let t0 := le bs 0 8
  let t1 := le bs 8 8
  let hv := le bs 0x10 8
  let nchk := bits t1 11 5
  let ninst := bits t0 24 12
  let hs := words (bs.drop 0x18) 2 64
  let ws := words (bs.drop 0x98) 8 4
  let rg := words (bs.drop 0xB8) 4 16
  let cs := words (bs.drop 0x280) 32 nchk
  let code := words (bs.drop (0x280 + 32 * nchk)) 4 ninst
  let preds := le bs 0x278 8
  { idx := idx, ord := bits t0 63 50, x := bits t0 49 44, y := bits t0 43 39, w := bits t0 38 33 + 1, h := bits t0 32 28 + 1
    dupv := bit t1 23, dupx := bits t1 22 17, dupy := bits t1 16 12, nchk := nchk
    entry := bits t1 63 52, resume := bits t1 51 40
    handlers := (hs.zipIdx.filter (fun (_, i) => bit hv i)).map (fun (v, _) => bits v 11 0)
    code := code.map (BitVec.ofNat 32), windows := ws.map (BitVec.ofNat 64), regions := rg.map (BitVec.ofNat 32)
    checks := cs.map (BitVec.ofNat 256)
    dirty := bits t0 11 0 != 0 || bits t1 4 0 != 0 || hs.any (fun v => v / 4096 != 0)
      || ws.any (fun v => bits v 62 47 != 0 || bits v 31 15 != 0) || rg.any (fun v => bits v 21 15 != 0)
      || preds % 2 != 0 || preds ≥ 256
      || cs.any (fun v => bits v 255 192 != 0 || bits v 175 174 != 0 || bits v 170 160 != 0)
      || !allZero (bs.drop (0x280 + 32 * nchk + 4 * ninst))
    img :=
      { ctx := bit t0 27, level := BitVec.ofNat 2 (bits t0 26 25), entry := BitVec.ofNat 12 (bits t1 63 52)
        resume := BitVec.ofNat 12 (bits t1 51 40), barmask := BitVec.ofNat 16 (bits t1 39 24), dup := Option.none
        handlers := (hs.zipIdx.filter (fun (_, i) => bit hv i)).map (fun (v, i) => (i, BitVec.ofNat 12 v))
        windows := (ws.filter (fun v => bit v 63)).map (fun v =>
          (bits v 46 32 * 64, bits v 46 32 * 64 + (bits v 14 0 + 1) * 64))
        regions := wordMap 32 rg
        sreg := wordMap 64 (words (bs.drop 0xF8) 8 32), areg := wordMap 64 (words (bs.drop 0x1F8) 8 16)
        preds := BitVec.ofNat 8 preds
        checks := cs.zipIdx.map (fun (v, i) => (i, BitVec.ofNat 256 v))
        code := wordMap 32 code } }

/-- An identity in the send layout of TIL_CH_PEER with two values (R297, R300). -/
def parseEntry (v : Nat) : ChEntry := ⟨bits v 63 32, bits v 31 16, bits v 15 0⟩

/-- A CHANNEL record (R297). -/
def parseChan (idx : Nat) (bs : List Byte) : ChanRec :=
  let c0 := le bs 0 8
  let c1 := le bs 8 8
  let c3 := le bs 24 8
  let cfg := bits c0 31 0
  let peer := bits c1 63 32
  let recv := bit cfg 30
  let sl := words (bs.drop 32) 8 (if recv then bits peer 31 24 else 0)
  { idx := idx, ord := bits c0 63 50, tile := mkTile (bits c0 49 44) (bits c0 43 39), ep := bits c0 38 33
    cfg := BitVec.ofNat 32 cfg, peer := BitVec.ofNat 32 peer, creditMax := bits c1 31 16
    dep := BitVec.ofNat 64 (le bs 16 8), loop := bits c3 63 48, rank := bits c3 47 32, slist := sl.map parseEntry
    dirty := bit c0 32 || bits c1 15 0 != 0 || bits cfg 9 0 != 0 || bits c3 31 0 != 0
      || (if recv then bits peer 23 19 != 0 else bit peer 31) || sl.any (fun v => bit v 63) }

/-- A CH entry of a LOOP or SKEW record: identity, CREDIT_MAX, MAXMSG_U (R300). -/
def parseCh (v : Nat) : ChEntry := ⟨bits v 63 32, bits v 31 16, bits v 15 8⟩
def chDirty (v : Nat) : Bool := bit v 63 || bits v 7 0 != 0

def parseLoop (idx : Nat) (bs : List Byte) : LoopRec :=
  let l0 := le bs 0 8
  let l1 := le bs 8 8
  let es := words (bs.drop 16) 8 (bits l0 31 0)
  ⟨idx, bits l0 63 48, bits l0 47 32, bits l1 63 32, es.map parseCh, bits l1 31 0 != 0 || es.any chDirty⟩

def parseSkew (idx : Nat) (bs : List Byte) : SkewRec :=
  let k0 := le bs 0 8
  let ns := bits k0 31 16
  let es := words (bs.drop 8) 8 (ns + bits k0 15 0)
  ⟨idx, bits k0 63 48, bits k0 47 32, (es.take ns).map parseCh, (es.drop ns).map parseCh, es.any chDirty⟩

def parsePlan (idx : Nat) (bs : List Byte) : Plan :=
  let w (i : Nat) : Nat := le bs (8 * i) 8
  { idx := idx, plan := bits (w 0) 63 48, op := bits (w 0) 47 44, rop := bits (w 0) 43 42, fmt := bits (w 0) 41 38
    rm := bits (w 0) 37 35, sat := bit (w 0) 34, elems := bits (w 1) 39 0, src := bits (w 2) 56 0, dst := bits (w 3) 56 0
    first := bits (w 4) 63 50, count := bits (w 4) 49 35, stride := bits (w 4) 34 21
    sigKind := bits (w 5) 63 62, sig := bits (w 5) 61 56, x := bits (w 5) 55 50, y := bits (w 5) 49 45
    stream := BitVec.ofNat 16 (bits (w 6) 63 48)
    dirty := bits (w 0) 33 0 != 0 || bits (w 1) 63 40 != 0 || bits (w 2) 63 57 != 0 || bits (w 3) 63 57 != 0
      || bits (w 4) 20 0 != 0 || bits (w 5) 44 0 != 0 || bits (w 6) 47 0 != 0 || w 7 != 0 }

/-- A range entry (R79), none when VALID is 0. -/
def parseRange (bs : List Byte) : Option Range :=
  let w0 := le bs 0 8
  let w2 := le bs 16 8
  if bit w0 63 then
    some { kind := BitVec.ofNat 2 (bits w0 62 61), tier := BitVec.ofNat 2 (bits w0 60 59), gran := BitVec.ofNat 4 (bits w0 58 55)
           base := BitVec.ofNat 36 w0, pages := BitVec.ofNat 36 (le bs 8 8), count := BitVec.ofNat 15 (bits w2 46 32)
           first := BitVec.ofNat 14 (bits w2 29 16), lbase := BitVec.ofNat 22 (le bs 24 8) }
  else none

def rangeDirty (bs : List Byte) : Bool :=
  let w2 := le bs 16 8
  bits (le bs 0 8) 54 36 != 0 || bits (le bs 8 8) 63 36 != 0 || bits w2 63 47 != 0 || bits w2 31 30 != 0 || bits w2 15 0 != 0
    || bits (le bs 24 8) 63 22 != 0

/-! ## Instruction words (R202, R203, R210, R222) -/

/-- A word breaks an encoding rule: a reserved bit, a field value that is not defined, or a BAR outside BARMASK. -/
def wordBad (barmask : W16) (w : W32) : Bool :=
  let f (hi lo : Nat) : Nat := wField w hi lo
  match wOpc w with
  | 0x03 => f 21 17 != 0 || f 11 7 != 0 || f 6 0 != 0
  | 0x05 => f 6 0 != 0
  | 0x06 => f 14 0 != 0
  | 0x08 => f 21 20 != 0 || f 2 0 == 7 || f 6 3 != 0
  | 0x09 => f 18 16 == 7
  | 0x0A => f 10 0 != 0
  | 0x0B => f 16 0 != 0
  | 0x10 => f 6 0 > 8
  | 0x14 => f 11 6 != 0
  | 0x15 => f 11 6 != 0
  | 0x18 => f 18 16 != 0
  | 0x19 => f 18 16 != 0
  | 0x1A => f 3 0 != 0 || f 15 10 + f 9 4 + 1 > 64
  | 0x1B => f 3 0 != 0 || f 15 10 + f 9 4 + 1 > 64
  | 0x1C => f 21 21 != 0 || f 16 16 != 0
  | 0x1D => f 21 21 != 0 || f 16 16 != 0 || f 6 3 != 0
  | 0x1E => f 21 21 != 0 || f 11 0 != 0
  | 0x1F => f 16 16 != 0 || f 11 0 != 0
  | 0x20 => f 16 16 != 0
  | 0x21 => f 16 16 != 0
  | 0x24 => f 21 19 > 5 || f 13 0 != 0
  | 0x28 => f 0 0 != 0
  | 0x29 => f 2 0 != 0
  | 0x2A => f 15 0 != 0
  | 0x2B => f 6 0 != 0
  | 0x2C => f 20 0 != 0
  | 0x2E => f 7 4 > 11 || f 0 0 != 0
  | 0x34 => f 17 0 != 0 || !barmask.getLsbD (f 21 18)
  | 0x35 => f 14 0 != 0
  | 0x36 => f 14 0 != 0
  | 0x38 => f 21 20 == 0 || f 19 0 != 0
  | 0x3C => f 21 0 != 0
  | 0x3D => f 16 11 > 3 || f 10 0 != 0
  | 0x3E => f 11 0 != 0
  | _ => false

/-- The last address of the body of the loop at an address (R208). -/
def bodyEnd (pc : Nat) (w : W32) : Option Nat :=
  match wOpc w with
  | 0x04 => some (pc + 1 + wField w 21 12)
  | 0x05 => some (pc + 1 + wField w 16 7)
  | _ => none

/-- Instructions that may not end a body (R210). -/
def badLast (o : Nat) : Bool := o ∈ [0x01, 0x02, 0x03, 0x04, 0x05, 0x2B, 0x2C, 0x3C]

/-- Checks of an image's code: codes 0x41 to 0x45 (R203, R210). -/
def codeChecks (barmask : W16) (code : List W32) : List (Nat × Bool) :=
  let ps := code.zipIdx
  let loops := ps.filterMap (fun (w, pc) => (bodyEnd pc w).map (fun e => (pc, e)))
  [(0x41, code.any (wordBad barmask)),
   (0x42, ps.any (fun (w, pc) => (wOpc w == 1 || wOpc w == 2) && (decide ((pc : Int) + wOff22 w < 0 ∨ (pc : Int) + wOff22 w > 4095)))),
   (0x43, loops.any (fun (_, e) => e > 4095)),
   (0x44, loops.any (fun (p, e) => loops.any (fun (q, g) => q < p && p ≤ g && e > g))),
   (0x45, loops.any (fun (_, e) => (code[e]?).elim false (fun w => badLast (wOpc w))))]

/-! ## Images (R194, R241, R295, R296) -/

def spanOverlap (a b : Nat × Nat) : Bool := a.1 < b.2 && b.1 < a.2

/-- Some two spans of a list overlap. -/
def anyPair : List (Nat × Nat) → Bool
  | [] => false
  | a :: as => as.any (spanOverlap a) || anyPair as

def rgnSpan (c : W32) : Nat × Nat := (rgnBase c, rgnBase c + rgnSize c)

/-- A valid region breaks R241. -/
def rgnBad (c : W32) : Bool :=
  let sl := bits c.toNat 30 26
  let rl := bits c.toNat 25 22
  rgnValid c && (sl < 10 || sl > 20 || rl < 6 || rl > 14 || rgnRec c * 2 > rgnSize c || rgnBase c % rgnSize c != 0
    || rgnBase c + rgnSize c > Config.tileMem)

/-- FP32 order on numbers that are not NaN, with −0 = +0. -/
def fpKey (w : Nat) : Int := if bit w 31 then -((w % 2 ^ 31 : Nat) : Int) else (w : Int)

/-- A check entry breaks R194. -/
def checkBad (c : BitVec 256) : Bool :=
  let f (hi lo : Nat) : Nat := bits c.toNat hi lo
  bit c.toNat 171 && ([f 127 96, f 95 64, f 63 32, f 31 0].any (fun b => isNan (BitVec.ofNat 32 b))
    || fpKey (f 31 0) > fpKey (f 63 32) || fpKey (f 95 64) < 0 || fpKey (f 95 64) > fpKey (f 127 96))

def TileRec.ctx (r : TileRec) : Bool := r.img.ctx

/-- Cells of a record that lie in the array. -/
def TileRec.cells (r : TileRec) : List (Nat × Nat) :=
  (List.range r.h).flatMap (fun j => (List.range r.w).filterMap (fun i =>
    if r.x + i < 64 ∧ r.y + j < 32 then some (r.x + i, r.y + j) else none))

def TileRec.covers (r : TileRec) (x y : Nat) : Bool := r.x ≤ x && x < r.x + r.w && r.y ≤ y && y < r.y + r.h

/-- Partner cell (R295). -/
def TileRec.partner (r : TileRec) (x y : Nat) : Nat × Nat := (x + r.dupx - r.x, y + r.dupy - r.y)

/-- Checks of a record by itself: codes 0x04, 0x40 to 0x45, 0x47 to 0x4A, 0x4C, 0x4D. -/
def tileAlone (r : TileRec) : List (Nat × Bool) :=
  let regions := (r.regions.filter rgnValid).map rgnSpan
  [(0x04, r.dirty), (0x40, r.x + r.w > 64 || r.y + r.h > 32)] ++ codeChecks r.img.barmask r.code ++
  [(0x47, r.ctx && (r.entry ≥ r.code.length || r.resume ≥ r.code.length || r.handlers.any (fun p => p ≥ r.code.length))),
   (0x48, r.regions.any rgnBad || anyPair regions),
   (0x49, r.img.windows.any (fun w => w.2 > Config.tileMem) || anyPair r.img.windows),
   (0x4A, r.checks.any checkBad),
   (0x4C, r.code.length > 4096 || r.nchk > 64),
   (0x4D, !r.ctx && (r.code != [] || r.nchk != 0 || r.img.barmask != 0 || r.dupv || r.img.windows != []
      || r.regions.any rgnValid || r.handlers != []))]

/-! ## The configuration of a device (R295, R298 to R301) -/

/-- The record that configures a cell: records of the weave itself come before those kept (R314). -/
def Weave.tileAt (w : Weave) (x y : Nat) : Option TileRec := w.tiles.find? (fun r => r.covers x y)

/-- The image of a tile under a configuration. -/
def Weave.imageAt (w : Weave) (t : TileId) : Image :=
  match w.tileAt (tileX t) (tileY t) with
  | none => Image.none
  | some r =>
    let p := r.partner (tileX t) (tileY t)
    { r.img with dup := if r.dupv then some (mkTile p.1 p.2) else none }

def ChanRec.recv (c : ChanRec) : Bool := bit c.cfg.toNat 30
def ChanRec.active (c : ChanRec) : Bool := bit c.cfg.toNat 29
def ChanRec.maxU (c : ChanRec) : Nat := bits c.cfg.toNat 22 15
/-- Identity number of an endpoint in the send layout of TIL_CH_PEER. -/
def epNo (ord : Nat) (t : TileId) (ep : Nat) : Nat := ord * 2 ^ 17 + tileX t * 2 ^ 11 + tileY t * 2 ^ 6 + ep
def ChanRec.no (c : ChanRec) : Nat := epNo c.ord c.tile c.ep
def endpointNo (e : EndpointId) : Nat := epNo e.ord.toNat e.tile e.ep.toNat
/-- The endpoint a send endpoint names. -/
def ChanRec.peerNo (c : ChanRec) : Nat := c.peer.toNat % 2 ^ 31
def ordOfNo (n : Nat) : Nat := bits n 30 17
def tileOfNo (n : Nat) : TileId := mkTile (bits n 16 11) (bits n 10 6)

def Weave.chanNo (w : Weave) (n : Nat) : Option ChanRec := w.chans.find? (fun c => c.no == n)
def Weave.chanAt (w : Weave) (t : TileId) (ep : Nat) : Option ChanRec := w.chans.find? (fun c => c.tile == t && c.ep == ep)

/-- The ring of a receive endpoint: whether it lies in the Commons, and its span (R273). -/
def ChanRec.ring (c : ChanRec) : Bool × Nat × Nat :=
  let b := bits c.peer.toNat 18 0 * 4096
  (bit c.cfg.toNat 28, b, b + 2 ^ bits c.cfg.toNat 27 23)

/-- An instruction misuses an endpoint of tile `t` (R298). -/
def endpointMisuse (w : Weave) (t : TileId) (i : W32) : Bool :=
  let ep := w.chanAt t (wField i 21 16)
  match wOpc i with
  | 0x28 => ep.elim true (fun c => c.recv || (!c.active && wField i 6 1 != 0))
  | 0x29 => ep.elim true (fun c => !c.recv)
  | 0x2A => ep.elim true (fun c => !c.recv)
  | 0x2B => ep.elim true (fun c => !c.recv || !c.active)
  | _ => false

/-- Checks of a TILE record against the rest of the device's configuration: codes 0x40, 0x46, 0x4B, 0x4D. -/
def tileJoint (w : Weave) (r : TileRec) : List (Nat × Bool) :=
  let mine := r.cells.filter (fun p => w.tileAt p.1 p.2 == some r)
  [(0x40, r.idx != 0xFFFFFFFF && w.tiles.any (fun q => q.idx < r.idx && q.cells.any (fun p => r.covers p.1 p.2))),
   (0x46, mine.any (fun p => r.code.any (endpointMisuse w (mkTile p.1 p.2)))),
   (0x4B, r.img.level == 3 && mine.any (fun p =>
      let q := r.partner p.1 p.2
      !r.dupv || decide (q.1 ≥ 64 ∨ q.2 ≥ 32)
        || (w.tileAt q.1 q.2).elim true (fun o => !(o.img.level == 3 && o.dupv && o.partner q.1 q.2 == p)))),
   (0x4D, !r.ctx && mine.any (fun p => w.chans.any (fun c => c.tile == mkTile p.1 p.2)))]

/-- What the device knows of a send endpoint that a receive endpoint lists: from its own record, or from the sender's
confirmation. -/
def confirmOf (c : ChanRec) : Confirm :=
  { who := endpointOf c.no, peer := endpointOf c.peerNo, active := c.active, maxU := BitVec.ofNat 8 c.maxU
    creditMax := BitVec.ofNat 16 c.creditMax, loop := BitVec.ofNat 16 c.loop, rank := BitVec.ofNat 16 c.rank }

/-- The answer a receiving device gives to a confirmation: 0, or the code that refuses (R298). -/
def answerTo (w : Weave) (k : Confirm) : Nat :=
  match w.chanNo (endpointNo k.peer) with
  | none => 0x51
  | some c =>
    if !c.recv || !c.slist.any (fun e => e.id == endpointNo k.who) then 0x51
    else if c.active != k.active || c.maxU != k.maxU.toNat then 0x52
    else 0

/-- Fields of an endpoint lie in range (R273, TIL_CH_CFG_c). -/
def chanRange (c : ChanRec) : Bool :=
  let rl := bits c.cfg.toNat 27 23
  let st := bits c.cfg.toNat 14 10
  bit c.cfg.toNat 31 &&
    (if c.recv then
       let (com, lo, hi) := c.ring
       12 ≤ rl && rl ≤ 20 && st == 0 && c.creditMax == 0 && c.dep == 0 && c.loop == 0 && c.rank == 0 && c.slist != []
         && lo % (hi - lo) == 0 && (com || hi ≤ Config.tileMem)
     else !bit c.cfg.toNat 28 && rl == 0 && 10 ≤ st && st ≤ 24)

/-- The rings, regions and windows that a ring of tile `t` must not overlap (R273). -/
def ringClash (w : Weave) (c : ChanRec) : Bool :=
  let (com, lo, hi) := c.ring
  w.chans.any (fun d => d.recv && d.no != c.no && d.ring.1 == com && (com || d.tile == c.tile) && spanOverlap d.ring.2 (lo, hi))
    || (!com && (w.tileAt (tileX c.tile) (tileY c.tile)).elim false (fun r =>
          (r.regions.filter rgnValid).any (fun g => spanOverlap (rgnSpan g) (lo, hi))
            || r.img.windows.any (fun v => spanOverlap v (lo, hi))))

/-- Checks of a CHANNEL record on its device: codes 0x04, 0x4D, 0x50 to 0x57, 0x60, 0x61. `known` lists what is known of send
endpoints; `answer` is the receiving device's answer for a send endpoint. -/
def chanChecks (w : Weave) (known : List Confirm) (c : ChanRec) (answer : Nat) : List (Nat × Bool) :=
  let m := c.maxU + 1
  let mine := known.filter (fun k => endpointNo k.peer == c.no)
  let copy (e : ChEntry) : Option Confirm := mine.find? (fun k => endpointNo k.who == e.id)
  let u := 2 ^ bits c.cfg.toNat 27 23 / 64
  let loop := w.loops.find? (fun l => l.loop == c.loop)
  [(0x04, c.dirty),
   (0x4D, (w.tileAt (tileX c.tile) (tileY c.tile)).isNone),
   (0x50, !chanRange c),
   (0x51, if c.recv then
        c.slist.any (fun e => (copy e).isNone || decide ((c.slist.filter (fun f => f.id == e.id)).length > 1)
          || w.chans.any (fun d => d.recv && d.no != c.no && d.slist.any (fun f => f.id == e.id)))
      else answer == 0x51),
   (0x52, if c.recv then mine.any (fun k => k.active != c.active || k.maxU.toNat != c.maxU) else answer == 0x52),
   (0x53, c.recv && ringClash w c),
   (0x54, c.recv && u < 2 * (m + 1)),
   (0x55, c.recv && mine.any (fun k => k.creditMax.toNat < m + 1)),
   (0x56, c.recv && (mine.map (fun k => k.creditMax.toNat)).sum + m > u),
   (0x57, if c.recv then
        c.slist.any (fun e => (copy e).elim false (fun k => k.loop.toNat != e.a || k.rank.toNat != e.b))
      else (List.range 64).any (fun n => c.dep.getLsbD n && (w.chanAt c.tile n).elim true (fun d => !d.recv))),
   (0x60, !c.recv && ((List.range 64).any (fun n => c.dep.getLsbD n && (w.chanAt c.tile n).elim false (fun d =>
        d.slist.any (fun e => !((e.a == c.loop && c.loop != 0) || e.b < c.rank))))
      || (c.loop != 0 && loop.elim false (fun l => l.rank != c.rank)))),
   (0x61, !c.recv && c.loop != 0 && loop.elim true (fun l => !l.chs.any (fun e => e.id == c.no)))]

/-- A CH entry that names an endpoint of this device differs from its record (R300). -/
def chDiffers (w : Weave) (ord : Nat) (e : ChEntry) : Bool :=
  ordOfNo e.id == ord && (w.chanNo e.id).elim true (fun c => c.recv || c.creditMax != e.a || c.maxU != e.b)

/-! ## Loops and skew pairs, as the lead checks them (R300, R301) -/

def loopChecks (ls : List LoopRec) (l : LoopRec) : List (Nat × Bool) :=
  let sum : Int := (l.chs.map (fun e => (e.a : Int) - ((e.b : Int) + 1))).sum
  [(0x04, l.dirty),
   (0x61, l.loop == 0 || l.chs.length < 2 || ls.any (fun q => q.idx < l.idx && q.loop == l.loop)),
   (0x62, decide (sum < (l.bound : Int) + 1))]

/-- Steps of a path whose records are known: each is sent from the tile that receives the one before, which its DEPMASK names;
`strict` refuses an unknown record. -/
def pathBad (find : Nat → Option ChanRec) (strict : Bool) : List ChEntry → Bool
  | [] => false
  | [e] => strict && (find e.id).elim true ChanRec.recv
  | e :: f :: es =>
    (match find e.id, find f.id with
     | some c, some d => c.recv || d.recv || ordOfNo c.peerNo != d.ord || tileOfNo c.peerNo != d.tile
         || !d.dep.getLsbD (c.peerNo % 64)
     | some c, none => strict || ordOfNo c.peerNo != ordOfNo f.id || tileOfNo c.peerNo != tileOfNo f.id
     | none, _ => strict)
      || pathBad find strict (f :: es)

/-- The join that a path ends at, where its last record is known. -/
def pathEnd (find : Nat → Option ChanRec) (p : List ChEntry) : Option Nat :=
  (p.getLast?).bind (fun e => (find e.id).map ChanRec.peerNo)

/-- Paths break R301. -/
def skewBad (find : Nat → Option ChanRec) (strict : Bool) (k : SkewRec) : Bool :=
  let fork (p : List ChEntry) : Option Nat := (p.head?).map (fun e => e.id / 64)
  k.short == [] || k.long == [] || fork k.short != fork k.long || pathBad find strict k.short || pathBad find strict k.long
    || (match pathEnd find k.short, pathEnd find k.long with
        | some a, some b => a / 64 != b / 64 || a == b
        | _, _ => strict)

/-- A step of a path, as the device that holds either record finds it: the first entry is sent to the second one's tile, and the
receive endpoint there that lists it is in the second one's DEPMASK. -/
def hopBad (w : Weave) (o : Nat) (e f : ChEntry) : Bool :=
  (ordOfNo e.id == o && (w.chanNo e.id).elim true (fun c =>
      c.recv || ordOfNo c.peerNo != ordOfNo f.id || tileOfNo c.peerNo != tileOfNo f.id))
    || (ordOfNo f.id == o && (w.chanNo f.id).elim true (fun d =>
      d.recv || !w.chans.any (fun c => c.recv && c.tile == d.tile && c.slist.any (fun g => g.id == e.id) && d.dep.getLsbD c.ep)))

/-- The steps of a path that concern a device. -/
def pathHere (w : Weave) (o : Nat) : List ChEntry → Bool
  | [] => false
  | [e] => ordOfNo e.id == o && (w.chanNo e.id).elim true ChanRec.recv
  | e :: f :: es => hopBad w o e f || pathHere w o (f :: es)

/-- The receive endpoint of this device at which a path ends. -/
def joinHere (w : Weave) (p : List ChEntry) : Option ChanRec :=
  (p.getLast?).bind (fun e => w.chans.find? (fun c => c.recv && c.slist.any (fun f => f.id == e.id)))

/-- Paths break R301, as far as a device of the job sees: every step, and the join, is judged by a device that holds the records it
needs. -/
def skewHere (w : Weave) (o : Nat) (k : SkewRec) : Bool :=
  let fork (p : List ChEntry) : Option Nat := (p.head?).map (fun e => e.id / 64)
  k.short == [] || k.long == [] || fork k.short != fork k.long || pathHere w o k.short || pathHere w o k.long
    || (match joinHere w k.short, joinHere w k.long with
        | some a, some b => a.tile != b.tile || a.no == b.no
        | none, none => false
        | _, _ => true)

/-- The join here has eight pairs before this one (R301). -/
def joinFull (w : Weave) (k : SkewRec) : Bool :=
  let join (q : SkewRec) : Option TileId := (joinHere w q.long).map ChanRec.tile
  (join k).isSome && decide (((w.skews.takeWhile (fun q => q != k)).filter (fun q => join q == join k)).length ≥ 8)

def skewChecks (find : Nat → Option ChanRec) (strict : Bool) (ks : List SkewRec) (k : SkewRec) : List (Nat × Bool) :=
  let room := (k.short.map (fun e => e.a / (e.b + 2))).sum
  let join (q : SkewRec) : Option Nat := (pathEnd find q.long).map (fun n => n / 64)
  [(0x04, k.dirty), (0x68, skewBad find strict k), (0x69, room < k.d + 1),
   (0x6A, (join k).isSome && decide ((ks.filter (fun q => q.idx < k.idx && join q == join k)).length ≥ 8))]

/-! ## Collective plans (R303, R304) -/

def fmtBytes (fmt : Nat) : Nat := match fmt with | 0 => 4 | 0xA => 16 | _ => 2
/-- Bytes of a member's source and destination ranges (R304). -/
def Plan.srcLen (p : Plan) : Nat := p.elems * fmtBytes p.fmt
def Plan.dstLen (p : Plan) : Nat :=
  match p.op with
  | 2 => p.elems * fmtBytes p.fmt / p.count
  | 3 => p.elems * fmtBytes p.fmt * p.count
  | _ => p.elems * fmtBytes p.fmt

/-- The pages of a byte range, tested one by one. -/
def pagesAll (f : Nat → Bool) (a n : Nat) : Bool :=
  n == 0 || (List.range ((a + n - 1) / Config.pageBytes - a / Config.pageBytes + 1)).all (fun i => f (a / Config.pageBytes + i))

def pageRange (rs : SMap Range) (page : Nat) : Option Range :=
  (rs.map Prod.snd).find? (fun r => decide (r.base.toNat ≤ page ∧ page < r.base.toNat + r.pages.toNat))

def planChecks (rs : SMap Range) (devices : Nat) (ps : List Plan) (p : Plan) : List (Nat × Bool) :=
  let declared (q : Nat) : Bool := (pageRange rs q).isSome
  let writable (q : Nat) : Bool := (pageRange rs q).elim false (fun r => r.kind != 3)
  [(0x04, p.dirty),
   (0x70, ps.any (fun q => q.idx < p.idx && q.plan == p.plan) || p.op == 0 || p.op > 4 || (p.op ≤ 2 && p.rop == 3)
      || !(p.fmt ≤ 2 || p.fmt == 0xA) || (p.op ≤ 2 && p.fmt == 0xA && p.rop != 0) || p.rm > 4
      || (p.op == 2 && p.elems % p.count != 0) || p.count < 2 || p.count > 16384 || p.stride == 0 || p.sigKind > 1
      || (p.sigKind == 1 && p.sig > 31)),
   (0x71, !pagesAll declared p.src (p.srcLen * p.count) || !pagesAll writable p.dst (p.dstLen * p.count)
      || p.src + p.srcLen * p.count > 2 ^ 57 || p.dst + p.dstLen * p.count > 2 ^ 57),
   (0x72, p.first + (p.count - 1) * p.stride ≥ devices)]

/-! ## Ranges (R80) -/

/-- Pages a home holds of a range, as a span of local pages (R80). -/
def Range.localSpan (r : Range) : Nat :=
  cdiv (cdiv r.pages.toNat (2 ^ r.gran.toNat)) (max 1 r.count.toNat) * 2 ^ r.gran.toNat

def rangeChecks (rs : SMap Range) (devices : Nat) (i : Nat) (bs : List Byte) : List (Nat × Bool) :=
  let r := (parseRange bs).getD ⟨1, 0, 0, 0, 1, 1, 0, 0⟩
  let valid := (parseRange bs).isSome
  let span (q : Range) : Nat × Nat := (q.base.toNat, q.base.toNat + q.pages.toNat)
  let loc (q : Range) : Nat × Nat := (q.lbase.toNat, q.lbase.toNat + q.localSpan)
  let homes (q : Range) : Nat × Nat := (q.first.toNat, q.first.toNat + q.count.toNat)
  let earlier := (rs.filter (fun p => p.1 < i)).map Prod.snd
  (0x04, rangeDirty bs) :: ([
   (0x30, earlier.any (fun q => spanOverlap (span q) (span r))),
   (0x31, r.pages == 0 || r.base.toNat + r.pages.toNat > 2 ^ 36),
   (0x32, r.kind == 0 || r.tier == 3),
   (0x33, r.count == 0 || r.first.toNat + r.count.toNat > devices),
   (0x34, r.localSpan > 4194304 - r.lbase.toNat),
   (0x35, earlier.any (fun q => spanOverlap (homes q) (homes r) && spanOverlap (loc q) (loc r)))]).map (fun c => (c.1, c.2 && valid))

/-! ## Frames (R96, R97, R302) -/

/-- Insert a page in LPN order. -/
def insPage (p : Nat × Nat × Bool × Nat) : List (Nat × Nat × Bool × Nat) → List (Nat × Nat × Bool × Nat)
  | [] => [p]
  | q :: qs => if p.1 < q.1 then p :: q :: qs else q :: insPage p qs

/-- Local pages that a device homes, in LPN order: LPN, tier, whether versioned, range. -/
def homedPages (rs : SMap Range) (ord : Nat) : List (Nat × Nat × Bool × Nat) :=
  let pages := rs.flatMap (fun (i, r) =>
    (List.range r.pages.toNat).filterMap (fun q =>
      let h := r.homeOf (r.base.toNat + q)
      if h.1 = ord then some (h.2, r.tier.toNat, r.kind == 1, i) else none))
  pages.foldl (fun acc p => insPage p acc) []

/-- Frames needed of a list of pages. -/
def framesOf (ps : List (Nat × Nat × Bool × Nat)) : Nat := (ps.map (fun p => if p.2.2.1 then 2 else 1)).sum

def halfOf (l : Nat) : Nat := l % 64 / 32

/-- Pages in the order in which they are placed: near-only and far-only pages first, then near-preferred ones (R96). -/
def placeOrder (ps : List (Nat × Nat × Bool × Nat)) : List (Nat × Nat × Bool × Nat) :=
  ps.filter (fun p => p.2.1 < 2) ++ ps.filter (fun p => p.2.1 ≥ 2)

/-- Place pages on the free frames: the frames of each page, in placement order; a page that finds none has none. -/
def State.placePages (s : State) : List Nat → List (Nat × Nat × Bool × Nat) → List (Nat × Option (Nat × Nat))
  | _, [] => []
  | used, (l, tier, two, _) :: ps =>
    match s.allocPage used l two tier with
    | none => (l, none) :: s.placePages used ps
    | some (f, g) => (l, some (f, g)) :: s.placePages (f :: (if two then [g] else []) ++ used) ps

/-- Near and far frames that a device needs (R96): a page that finds no frame counts in its own tier, a near-preferred one as
far. -/
def State.frameNeed (s : State) (rs : SMap Range) (ord : Nat) : Nat × Nat :=
  let ps := placeOrder (homedPages rs ord)
  let placed := s.placePages [] ps
  (placed.zip ps).foldl (fun acc (pl, p) =>
    let n := if p.2.2.1 then 2 else 1
    let near := match pl.2 with | some (f, _) => decide (f < 2 ^ 23) | none => p.2.1 == 0
    if near then (acc.1 + n, acc.2) else (acc.1, acc.2 + n)) (0, 0)

/-- Near frames of one half's four stacks, and the far frames of the device, that a load may use. -/
def State.nearPerHalf (s : State) : Nat :=
  4 * (s.nearTop - 8)
def State.farFrames (s : State) : Nat := ((List.range 4).map s.farCount).sum

/-- R97's checks of a half: the lowest range that homes a page of it here, and the codes that hold. -/
def State.capacityChecks (s : State) (rs : SMap Range) (pos : Nat) (w : Nat) : List Finding :=
  let ps := (homedPages rs s.ord.toNat).filter (fun p => halfOf p.1 == w)
  let low := ps.foldl (fun acc p => match acc with | none => some p.2.2.2 | some a => some (min a p.2.2.2)) none
  let used := (s.mirrorFrames.filter (fun f => decide (f < 2 ^ 23) && f % 8 / 4 == w)).length
  let far := s.farFrames - (s.mirrorFrames.filter (fun f => decide (2 ^ 23 ≤ f))).length
  findings pos low 5
    [(0x36, framesOf (ps.filter (fun p => p.2.1 == 0)) + used > s.nearPerHalf),
     (0x37, framesOf ps + used > s.nearPerHalf + far)]

end Sys2Proof.Machine
end

