-- ==== Sys2Proof/Machine/Weave.lean ====
section
/-! DEFINITION. Loading and changing the weave (R302, R308 to R321, R335): the passes, the vote, the apply, and what abandons
them. -/

namespace Sys2Proof.Machine

/-! ## Refusal and completion -/

/-- A load stops being in progress, with LAST (WV_STATUS). -/
def State.endLoad (s : State) (last : Nat) : State :=
  let t := { (((s.fsetb F.WV_STATUS.BUSY false).fset F.WV_STATUS.PHASE 0).fset F.WV_STATUS.LAST last) with load := none }
  -- STEP clears with the end of an apply (R498, R513)
  if s.fget F.WV_STATUS.PHASE = 5 && s.stepPhase == phStepIdle && s.startWait.isNone then t.endBurst 3 else t

/-- WV_REFUSE and the event record of a refusal (R307). -/
def State.showRefusal (s : State) (r : WeaveRefusal) : State :=
  let s := (((s.fset F.WV_REFUSE.REASON r.reason.toNat).fset F.WV_REFUSE.SECTION r.sect.toNat).fset F.WV_REFUSE.ORD
    r.ord.toNat).fset F.WV_REFUSE.RECORD r.recNo.toNat
  s.event 0xA003 8 0 0 (data2 (r.recNo.toNat + r.ord.toNat * 2 ^ 34 + r.sect.toNat * 2 ^ 48 + r.reason.toNat * 2 ^ 56) 0)

/-- A refused weave changes no state but the WV registers and one event record; the lead's command completes (R307, R414). -/
def State.weaveRefused (s : State) (last : Nat) (r : WeaveRefusal) : State :=
  let q := s.load.bind Load.queue
  ((s.endLoad last).showRefusal r).complete q 0 2 r.reason.toNat

/-- A refusal that names the header (R307). -/
def headRefusal (code : Nat) (ord : DevOrd) : WeaveRefusal := ⟨BitVec.ofNat 8 code, 0, ord, 0xFFFFFFFF⟩

/-! ## The job's shape (R19, R77, R366) -/

/-- Herds of the job, from the descriptor in force. -/
def State.herds (s : State) : Nat := le s.descr 0x0E 2
def State.herdSize (s : State) : Nat := s.fget F.HQ_HERD.N
def State.devices (s : State) : Nat := s.herdSize * s.herds

/-- Words of the ID block that a weave names (R30). -/
def State.geomWords (s : State) : List W32 :=
  let w (f3 f2 f1 f0 : Nat) : W32 := BitVec.ofNat 32 (f3 * 2 ^ 24 + f2 * 2 ^ 16 + f1 * 2 ^ 8 + f0)
  [w (s.fget F.ID_GEOM_ARRAY.SPARE_COLS) (s.fget F.ID_GEOM_ARRAY.PHYS_COLS) (s.fget F.ID_GEOM_ARRAY.ROWS)
     (s.fget F.ID_GEOM_ARRAY.COLS),
   w (s.fget F.ID_GEOM_BUF.TAHR_KIB) (s.fget F.ID_GEOM_BUF.ACC_KIB) (s.fget F.ID_GEOM_BUF.B_KIB) (s.fget F.ID_GEOM_BUF.A_KIB),
   w (s.fget F.ID_GEOM_SRAM.TILE_MEM_KIB / 256) (s.fget F.ID_GEOM_SRAM.TILE_MEM_KIB % 256) (s.fget F.ID_GEOM_SRAM.SLICES)
     (s.fget F.ID_GEOM_SRAM.SLICE_MIB),
   w 0 (s.fget F.ID_GEOM_ENDPT.REGIONS) (s.fget F.ID_GEOM_ENDPT.ARRIVAL) (s.fget F.ID_GEOM_ENDPT.CHANNELS)]

/-- The key in a slot, if it can verify (R305): slot 0 holds the key of manufacture. -/
def State.slotKey (s : State) (slot : Nat) : Option (BitVec 768) :=
  if slot = 0 then some Config.slot0Key
  else match mapGet KeySlot.empty s.keys slot with
    | .key k => some k
    | _ => none

/-! ## Portions (R308) -/

/-- A portion as this model lays it out: its length, the header and directory, then for each section its first record's number,
its length and its bytes. -/
structure PortionSect where
  d : Sect
  first : Nat
  bytes : List Byte
  deriving DecidableEq, Repr

def portionBytes (bs : List Byte) (h : Header) (secs : List PortionSect) : List Byte :=
  let body := bs.take (0x80 + 24 * h.nsect) ++ secs.flatMap (fun p => toBytes 4 p.first ++ toBytes 4 p.bytes.length ++ p.bytes)
  toBytes 8 body.length ++ body

/-- The sections of a portion's body. -/
def portionSects : List Sect → List Byte → List PortionSect
  | [], _ => []
  | d :: ds, bs =>
    let n := le bs 4 4
    ⟨d, le bs 0 4, (bs.drop 8).take n⟩ :: portionSects ds (bs.drop (8 + n))

/-- The bytes of a section. -/
def Sect.bytes (d : Sect) (bs : List Byte) : List Byte := (bs.drop d.off).take d.len

/-- Device ordinal of a TILE or CHANNEL record: [63:50] of its first word. -/
def recOrd (r : List Byte) : Nat := bits (le r 0 8) 63 50

/-- The portion of device `ord`: its own TILE and CHANNEL records, which form one run, and every other section (R293, R308). -/
def portionFor (bs : List Byte) (h : Header) (dir : List Sect) (ord : Nat) : List Byte :=
  portionBytes bs h (dir.map (fun d =>
    if d.typ ≤ 2 then
      let mine := (sectRecs d.typ 0 (d.bytes bs)).1.filter (fun r => recOrd r.2 == ord)
      ⟨d, (mine.head?).elim 0 Prod.fst, mine.flatMap Prod.snd⟩
    else ⟨d, 0, d.bytes bs⟩))

/-- Records of a type among a portion's sections. -/
def recsOf (secs : List PortionSect) (t : Nat) : List (Nat × List Byte) :=
  match secs.find? (fun p => p.d.typ == t) with
  | none => []
  | some p => (sectRecs t p.first p.bytes).1

def parseRanges (rs : List (Nat × List Byte)) : SMap Range :=
  rs.filterMap (fun (i, b) => (parseRange b).map (fun r => (i, r)))

/-- What a portion says, by itself. -/
def weaveOf (h : Header) (secs : List PortionSect) : Weave :=
  { hdr := h, tiles := (recsOf secs 1).map (fun r => parseTile r.1 r.2), chans := (recsOf secs 2).map (fun r => parseChan r.1 r.2)
    loops := (recsOf secs 3).map (fun r => parseLoop r.1 r.2), skews := (recsOf secs 4).map (fun r => parseSkew r.1 r.2)
    plans := (recsOf secs 6).map (fun r => parsePlan r.1 r.2), ranges := parseRanges (recsOf secs 5) }

/-- The portion that bytes begin with, and the bytes after it. -/
def parsePortion (bs : List Byte) : Header × List PortionSect × List Byte :=
  let body := (bs.drop 8).take (le bs 0 8)
  let h := parseHeader body
  (h, portionSects (parseDir body h.nsect) (body.drop (0x80 + 24 * h.nsect)), bs.drop (8 + le bs 0 8))

/-! ### The portion after a partial weave (R308, R314) -/

/-- A directory entry as R291 lays it out. -/
def Sect.entryBytes (d : Sect) : List Byte := toBytes 1 d.typ ++ toBytes 3 d.resv ++ toBytes 4 d.crc ++ toBytes 8 d.off ++ toBytes 8 d.len

/-- A section of the configuration that results: the partial weave's TILE and CHANNEL records before those it keeps, and for the others
the partial weave's section where it has one. -/
def mergedSect (old new : List PortionSect) (t : Nat) : Option PortionSect :=
  let has (l : List PortionSect) : Option PortionSect := l.find? (fun p => p.d.typ == t)
  let tiles := (recsOf new 1).map (fun r => parseTile r.1 r.2)
  let chans := (recsOf new 2).map (fun r => parseChan r.1 r.2)
  let covered (x y : Nat) : Bool := tiles.any (fun r => r.covers x y)
  let stays (r : List Byte) : Bool :=
    if t = 1 then (parseTile 0 r).cells.any (fun p => !covered p.1 p.2)
    else
      let c := parseChan 0 r
      !covered (tileX c.tile) (tileY c.tile) && !chans.any (fun d =>
        d.ord == c.ord && d.tile == c.tile && d.ep == c.ep)
  match has old, has new with
  | some _, some b =>
    if t ≤ 2 then some { b with first := 0, bytes := b.bytes ++ ((recsOf old t).filter (fun r => stays r.2)).flatMap Prod.snd } else some b
  | some a, none => some a
  | none, b => b

/-- The portion of the configuration that results: the partial weave's header over the sections. -/
def mergePortion (old new : List Byte) : List Byte :=
  let (_, so, _) := parsePortion old
  let (_, sn, _) := parsePortion new
  let secs := [1, 2, 3, 4, 5, 6, 7].filterMap (mergedSect so sn)
  let head := (new.drop 8).take 0x80
  let bs := head.take 0x42 ++ toBytes 2 secs.length ++ head.drop 0x44 ++ secs.flatMap (fun p => p.d.entryBytes)
  portionBytes bs { parseHeader bs with nsect := secs.length } secs

/-- The configuration that results when a partial weave is laid over one in force (R314): kept records lose their numbers. -/
def overlay (old new : Weave) (has : Nat → Bool) : Weave :=
  let kept := 0xFFFFFFFF
  let replaced (t : TileId) : Bool := new.tiles.any (fun r => r.covers (tileX t) (tileY t))
  { hdr := new.hdr
    tiles := new.tiles ++ old.tiles.map (fun r => { r with idx := kept })
    chans := new.chans ++ (old.chans.filter (fun c => !replaced c.tile && (new.chanNo c.no).isNone)).map
      (fun c => { c with idx := kept })
    loops := if has 3 then new.loops else old.loops
    skews := if has 4 then new.skews else old.skews
    plans := if has 6 then new.plans else old.plans
    ranges := old.ranges }

def secHas (secs : List PortionSect) (t : Nat) : Bool := secs.any (fun p => p.d.typ == t)

/-- The weave that a store's portions give: a full one, and partial ones laid over it; `fuel` bounds their number. -/
def storedWeave : Nat → Option Weave → List Byte → Option Weave
  | 0, w, _ => w
  | fuel + 1, w, bs =>
    if bs.isEmpty then w
    else
      let (h, secs, rest) := parsePortion bs
      let n := weaveOf h secs
      storedWeave fuel (some (match w with | some o => if h.full then n else overlay o n (secHas secs) | none => n)) rest

/-! ## The command and pass 1 (R309, R311) -/

def execLoadWeave (q : BitVec 4) (cid : W16) (addr len : W64) (clear : Bool) (s : State) : Outcome :=
  if !s.mayStart q cid (.loadWeave addr.toNat len.toNat clear) then .next s
  else
    let s := s.begin q
    if s.fbit F.HQ_STATUS.LINK_LOW then .next (s.complete (some q) 0 0xA 0)
    else if s.load.isSome then .next ((s.showRefusal (headRefusal 0x27 0)).complete (some q) 0 2 0x27)
    else
      .next { ((s.fsetb F.WV_STATUS.BUSY true).fset F.WV_STATUS.PHASE 1) with
        undo := none
        load := some { lead := true, queue := some q, len := len.toNat, clear := clear, inStep := s.stepPhase != phStepIdle
                       bytes := [], hash := 0, portion := [], next := none, refusal := none, waited := 0, told := [] } }

/-- TILE and CHANNEL records, as the lead walks them: order and ordinals (R309). -/
def walkChecks (typ pos devices : Nat) : Option Nat → List (Nat × List Byte) → List Finding
  | _, [] => []
  | prev, (i, b) :: rs =>
    let t0 := le b 0 8
    let place := bits t0 63 50 * 2 ^ 17 + (bits t0 43 39 * 64 + bits t0 49 44) * 64
    let key := if typ = 1 then place else place + bits t0 38 33
    let c := parseChan i b
    let outside := bits t0 63 50 ≥ devices
    findings pos (some i) typ
      [(0x0A, prev.elim false (fun p => if typ = 1 then key < p else key ≤ p)),
       (0x40, typ == 1 && outside),
       (0x50, typ == 2 && (outside || (if c.recv then c.slist.any (fun e => ordOfNo e.id ≥ devices) else ordOfNo c.peerNo ≥ devices)))]
      ++ walkChecks typ pos devices (some key) rs

/-- The signature section (R305). -/
def State.signChecks (s : State) (bs : List Byte) (d : Sect) : List (Nat × Bool) :=
  let g := d.bytes bs
  let key := s.slotKey (le g 0 1)
  let known := le g 0 1 ≤ 7 && le g 1 1 == 1
  [(0x04, d.len != 104 || le g 2 6 != 0),
   (0x10, !known || key.isNone),
   (0x11, d.len == 104 && known && key.elim false (fun k => !signatureOk k (bs.take d.off) (g.drop 8)))]

/-- NEAR_FRAMES or FAR_FRAMES is more than this device provides. -/
def State.framesShort (s : State) (h : Header) : Bool := h.full && (h.near > 2 * s.nearPerHalf || h.far > s.farFrames)

/-- Header checks against this device and the job (R30, R302, R314, R316): codes 0x18, 0x19, 0x1B, 0x1C, 0x20, 0x21, 0x23, 0x24. A table
that R80 refuses, or a directory that gives none (`sound` false), gives no count to compare (DEDUCED, log entry 15). -/
def State.headerJob (s : State) (h : Header) (inStep : Bool) (ranges : SMap Range) (sound : Bool) : List (Nat × Bool) :=
  let part := h.kind == 2
  let needs := (List.range s.devices).map (s.frameNeed ranges)
  [(0x18, h.geom != s.geomWords),
   (0x19, h.herdN != s.herdSize || h.herds != s.herds),
   (0x1B, s.framesShort h),
   (0x1C, h.full && sound && (h.near != (needs.map Prod.fst).foldl max 0 || h.far != (needs.map Prod.snd).foldl max 0)),
   (0x20, part && (!s.fbit F.WV_STATUS.LOADED || h.base.toNat != s.fget F.WV_WEAVE_ID.ID)),
   (0x21, part && h.seed != s.seed),
   (0x23, part && h.epoch != (s.fget F.WV_STATUS.EPOCH + 1) % 16),
   (0x24, h.full && inStep)]

/-- Every finding of pass 1 (R309). The header and the directory come first in weave order, so that a finding of theirs ends the walk
(R307). -/
def State.pass1 (s : State) (bs : List Byte) (len : Nat) (inStep : Bool) : List Finding :=
  let h := parseHeader bs
  let dir := parseDir bs (min h.nsect 7)
  let dirs := findings 1 none 0 (dirChecks bs h dir)
  let regions := (dir.find? (fun d => d.typ == 5)).elim [] (fun d => (sectRecs 5 0 (d.bytes bs)).1)
  let ranges := if h.full then parseRanges regions else s.ranges
  let sound := dirs.isEmpty && regions.all (fun (i, b) => (rangeChecks ranges h.devices i b).all (fun c => !c.2))
  let head := findings 0 none 0 (headerAlone bs h len dir ++ s.headerJob h inStep ranges sound)
  if (head ++ dirs).length > 0 then head ++ dirs
  else
    let recs (t : Nat) : List (Nat × List Byte) := (dir.find? (fun d => d.typ == t)).elim [] (fun d => (sectRecs t 0 (d.bytes bs)).1)
    let loops := (recs 3).map (fun r => parseLoop r.1 r.2)
    let skews := (recs 4).map (fun r => parseSkew r.1 r.2)
    let plans := (recs 6).map (fun r => parsePlan r.1 r.2)
    let chans := (recs 2).map (fun r => parseChan r.1 r.2)
    dir.flatMap (fun d =>
      let (rs, extra) := if d.typ = 7 then ([], none) else sectRecs d.typ 0 (d.bytes bs)
      findings d.pos none d.typ
        (if d.typ = 7 then s.signChecks bs d
         else [(0x05, (crc32c (d.bytes bs)).toNat != d.crc), (0x04, d.typ == 5 && d.len != 8192)])
      ++ (extra.elim [] (fun i => findings d.pos (some i) d.typ [(0x04, true)]))
      ++ (match d.typ with
          | 1 => walkChecks 1 d.pos h.devices none rs
          | 2 => walkChecks 2 d.pos h.devices none rs
          | 3 => loops.flatMap (fun l => findings d.pos (some l.idx) 3 (loopChecks loops l))
          | 4 => skews.flatMap (fun k => findings d.pos (some k.idx) 4
              (skewChecks (fun n => chans.find? (fun c => c.no == n)) h.full skews k))
          | 5 => rs.flatMap (fun (i, b) => findings d.pos (some i) 5 (rangeChecks ranges h.devices i b))
          | 6 => plans.flatMap (fun p => findings d.pos (some p.idx) 6 (planChecks ranges h.devices plans p))
          | _ => []))

/-- The lead reads the whole weave and checks it; the store is reserved at the first full load (R308, R309). -/
def execWeavePass1 (bytes : Option (List Byte)) (s : State) : Outcome :=
  match s.load with
  | none => .next s
  | some l =>
    if s.fget F.WV_STATUS.PHASE ≠ 1 then .next s
    else
      match bytes with
      | none => .next (s.weaveRefused 2 (headRefusal 0x09 0))
      | some bs =>
        if bs.length ≠ l.len then .next (s.weaveRefused 2 (headRefusal 0x09 0))
        else
          let h := parseHeader bs
          if h.kind == 2 && s.fbit F.HQ_STATUS.JOB_UNREC then .next ((s.endLoad 2).complete l.queue 0 6 0)
          else if h.kind == 2 && s.fbit F.HQ_STATUS.JOB_HELD then .next ((s.endLoad 2).complete l.queue 0 7 0)
          else
            let s := if h.full then s.fset F.WV_STORE.FRAMES 256 else s
            match firstFinding (s.pass1 bs l.len l.inStep) with
            | some f => .next (s.weaveRefused 2 (f.refusal 0))
            | none => .next { (s.fset F.WV_STATUS.PHASE 2) with load := some { l with bytes := bs } }

/-! ## Pass 2 (R298, R309) -/

/-- The lead reads the weave again, hashes it, and sends each device of its herd its portion. -/
def execWeavePass2 (bytes : Option (List Byte)) (s : State) : Outcome :=
  match s.load with
  | none => .next s
  | some l =>
    if !l.lead ∨ s.fget F.WV_STATUS.PHASE ≠ 2 ∨ l.hash ≠ 0 then .next s
    else
      match bytes with
      | none => .next (s.weaveRefused 2 (headRefusal 0x09 0))
      | some bs =>
        if bs ≠ l.bytes then .next (s.weaveRefused 2 (headRefusal 0x08 0))
        else
          let h := parseHeader bs
          let dir := parseDir bs h.nsect
          let base := s.fget F.HQ_HERD.H * s.herdSize
          let s := { s with load := some { l with hash := sha384 bs } }
          .next ((List.range s.herdSize).foldl (fun s i => s.emit (.weavePortion (base + i) (portionFor bs h dir (base + i)))) s)

/-- Tokens of an epoch that the device holds: records of its rings, and the current epoch while a send waits (WV_STATUS). -/
def State.epochUsed (s : State) (e : Nat) : Bool :=
  s.tiles.any (fun p => p.2.eps.any (fun q => q.2.recs.any (fun r => r.epoch.toNat == e)))
    || (e == s.fget F.WV_STATUS.EPOCH && s.tiles.any (fun p => (p.2.exec ++ p.2.fifo).any (fun o => match o.kind with
        | .send .. => true
        | _ => false)))

/-- Send endpoints of a configuration whose receiver is another device. -/
def remoteSends (w : Weave) (ord : Nat) : List ChanRec := w.chans.filter (fun c => !c.recv && ordOfNo c.peerNo != ord)

/-- What a device knows of the send endpoints that concern it. -/
def knownSends (w : Weave) (asks : List Confirm) : List Confirm := (w.chans.filter (fun c => !c.recv)).map confirmOf ++ asks

/-- The answer for a send endpoint: this device's own where it holds the receiver, else the one received, 0x51 when none came. -/
def answerOf (w : Weave) (ord : Nat) (answers : List Byte) (c : ChanRec) : Nat :=
  if ordOfNo c.peerNo = ord then answerTo w (confirmOf c)
  else
    match (remoteSends w ord).zipIdx.find? (fun p => p.1.no == c.no) with
    | some (_, i) => (answers[i]?).elim 0x51 BitVec.toNat
    | none => 0x51

/-- A packet that names a send endpoint here as the peer of the receive endpoint that the endpoint itself names: that receiver, on
another device, is affected (R315). -/
def tells (w : Weave) (k : Confirm) : Bool := w.chans.any (fun c => !c.recv && c.no == endpointNo k.peer && c.peerNo == endpointNo k.who)

def toldOf (w : Weave) (asks : List Confirm) : List (TileId × Nat) := (asks.filter (tells w)).map (fun k => (k.peer.tile, k.peer.ep.toNat))

/-- What the device sends the senders of a receive endpoint that a partial weave changes, where they are other devices' (R315). -/
def tellings (c : ChanRec) (ord : Nat) : List (Nat × Confirm) :=
  (c.slist.filter (fun e => ordOfNo e.id != ord)).map (fun e =>
    (ordOfNo e.id, { who := endpointOf c.no, peer := endpointOf e.id, active := c.active, maxU := BitVec.ofNat 8 c.maxU, creditMax := 0
                     loop := BitVec.ofNat 16 e.a, rank := BitVec.ofNat 16 e.b }))

/-- A record that the weave itself carries keeps its number (R314); the records of a replaced tile all count as carried. -/
def Weave.replaced (w : Weave) (t : TileId) : Bool :=
  (w.tileAt (tileX t) (tileY t)).elim false (fun r => r.idx != 0xFFFFFFFF)
def Weave.carried (w : Weave) (c : ChanRec) : Bool := c.idx != 0xFFFFFFFF || w.replaced c.tile

/-- Whether an ordinal is a member of a plan (R374). -/
def Plan.counts (p : Plan) (o : Nat) : Bool :=
  o ≥ p.first && (o - p.first) % p.stride == 0 && (o - p.first) / p.stride < p.count

/-- A device's own findings in pass 2 (R97, R298, R300, R301, R308, R317). -/
def State.pass2 (s : State) (h : Header) (secs : List PortionSect) (bytes : List Byte) (w : Weave) (asks : List Confirm)
    (answers : List Byte) : List Finding :=
  let o := s.ord.toNat
  -- a record that the weave keeps stands after every one that it carries
  let pos (t : Nat) : Nat := (secs.find? (fun p => p.d.typ == t)).elim 9 (fun p => p.d.pos)
  let no (t idx : Nat) : Option Nat := some (if secHas secs t then idx else 0xFFFFFFFF)
  let part := h.kind == 2
  let stored := bytes.length + (if part then s.portion.length else 0) + (s.sources.map (fun p => p.2.portion.length)).sum
  let known := knownSends w asks
  findings 0 none 0
    [(0x18, h.geom != s.geomWords), (0x1B, s.framesShort h),
     (0x1D, stored > 2 ^ 29), (0x23, part && s.epochUsed h.epoch)]
  ++ w.tiles.flatMap (fun r => findings (pos 1) (some r.idx) 1 (tileAlone r ++ tileJoint w r))
  ++ w.chans.flatMap (fun c => findings (pos 2) (some c.idx) 2
      (chanChecks w known c (if c.recv then 0 else answerOf w o answers c)))
  ++ w.loops.flatMap (fun l => findings (pos 3) (no 3 l.idx) 3 [(0x63, l.chs.any (chDiffers w o))])
  ++ w.skews.flatMap (fun k => findings (pos 4) (no 4 k.idx) 4
      [(0x63, (k.short ++ k.long).any (chDiffers w o)), (0x68, skewHere w o k), (0x6A, joinFull w k)])
  ++ w.plans.flatMap (fun p => findings (pos 6) (no 6 p.idx) 6
      [(0x73, p.counts o && p.sigKind == 1 && (w.tileAt p.x p.y).elim true (fun r => !r.ctx))])
  ++ (if part then [] else s.capacityChecks w.ranges (pos 5) 0 ++ s.capacityChecks w.ranges (pos 5) 1)

/-- A device stores its portion, checks it, confirms its send endpoints with their receivers, answers the senders that confirm theirs,
tells remote senders which receivers change, and votes (R298, R308, R309, R315). -/
def execWeavePortionArrival (bytes : List Byte) (asks : List Confirm) (answers : List Byte) (s : State) : Outcome :=
  let fresh : Load := { lead := false, queue := none, len := 0, clear := false, inStep := false, bytes := [], hash := 0
                        portion := [], next := none, refusal := none, waited := 0, told := [] }
  let l := s.load.getD fresh
  if s.load.isSome && !(l.lead && l.hash != 0 && l.portion == []) then .next s
  else
    let (h, secs, _) := parsePortion bytes
    let s := if h.full then s.fset F.WV_STORE.FRAMES 256 else s
    let n := weaveOf h secs
    let w := match s.weave with | some o => if h.full then n else overlay o n (secHas secs) | none => n
    let r := (firstFinding (s.pass2 h secs bytes w asks answers)).map (fun f => f.refusal s.ord)
    let s := { ((s.fsetb F.WV_STATUS.BUSY true).fset F.WV_STATUS.PHASE 3) with
      load := some { l with portion := bytes, next := some w, refusal := r, told := toldOf w asks } }
    let s := (remoteSends w s.ord.toNat).foldl (fun s c => s.emit (.weaveConfirm (ordOfNo c.peerNo) (confirmOf c))) s
    let changed := if h.full then [] else (w.chans.filter (fun c => c.recv && w.carried c)).flatMap (fun c => tellings c s.ord.toNat)
    let s := changed.foldl (fun s p => s.emit (.weaveConfirm p.1 p.2)) s
    let s := (asks.filter (fun k => !tells w k)).foldl (fun s k => s.emit (.weaveAnswer k.who.ord.toNat k.who (BitVec.ofNat 8 (answerTo w k)))) s
    .next (s.emit (.weaveVote ⟨s.ord, r, h.id, l.hash⟩))

/-! ## The vote (R309, R312) -/

/-- The refusal of lowest ordinal. -/
def lowestRefusal (vs : List WeaveVote) : Option WeaveRefusal :=
  vs.foldl (fun acc v => match v.refusal, acc with
    | none, a => a
    | some r, none => some r
    | some r, some a => if r.ord.toNat < a.ord.toNat then some r else some a) none

/-- Leads hold different weaves: identifiers or hashes differ among the votes that carry a hash (R312). -/
def weavesDiffer (vs : List WeaveVote) : Bool :=
  match vs.filter (fun v => v.hash != 0) with
  | [] => false
  | v :: rest => rest.any (fun w => w.weaveId != v.weaveId || w.hash != v.hash)

/-- Every device of the job has voted, this one as it found. -/
def State.votesIn (s : State) (vs : List WeaveVote) (l : Load) : Bool :=
  (List.range s.devices).all (fun o => vs.any (fun v => v.ord.toNat == o))
    && vs.any (fun v => v.ord == s.ord && v.refusal == l.refusal)

def execWeaveVote (votes : List WeaveVote) (s : State) : Outcome :=
  match s.load with
  | none => .next s
  | some l =>
    if s.fget F.WV_STATUS.PHASE ≠ 3 || !s.votesIn votes l then .next s
    else
      let r := match lowestRefusal votes with
        | some r => some r
        | none => if weavesDiffer votes then some (headRefusal 0x0B 0) else none
      let s := if l.lead then s.emit (.weaveResult r) else s
      match r with
      | some r => .next (s.weaveRefused 2 r)
      | none => .next (s.fset F.WV_STATUS.PHASE (if (l.next.elim true (fun w => w.hdr.full)) then 5 else 4))

/-! ## Applying a full weave (R32, R93, R96, R302, R309) -/

/-- An endpoint as a CHANNEL record configures it. Its MSGS starts at 0: so after a full load and on a replaced tile (DESIGN CHOICE,
log 32: R124 names TIL_CTRL.CLEAR and resets only). -/
def ChanRec.endpoint (c : ChanRec) : Endpoint :=
  { cfg := c.cfg, peer := c.peer, senders := c.slist.map (fun e => endpointOf e.id), depmask := c.dep
    loop := BitVec.ofNat 16 c.loop, rank := BitVec.ofNat 16 c.rank, rd := 0, wr := 0, credit := c.creditMax
    creditMax := c.creditMax, seq := 0, recs := [], affected := false, msgs := 0, stalls := 0, hist := [] }

/-- The skew pairs that end at a tile (R301): the receive endpoints are those whose senders the last entries name. -/
def Weave.skewsAt (w : Weave) (ord : Nat) (t : TileId) : List Skew :=
  w.skews.filterMap (fun k =>
    let at_ (p : List ChEntry) : Option (ChanRec × Nat) :=
      (p.getLast?).bind (fun e => (w.chans.find? (fun c => c.recv && c.tile == t && c.ord == ord && c.slist.any (fun f => f.id == e.id))).map
        (fun c => (c, e.id)))
    match k.short, at_ k.short, at_ k.long with
    | f :: _, some (a, i), some (b, j) =>
      some { pair := BitVec.ofNat 16 k.pair, bound := k.d, fork := endpointOf f.id, shortEp := BitVec.ofNat 6 a.ep
             shortSrc := endpointOf i, longEp := BitVec.ofNat 6 b.ep, longSrc := endpointOf j, short := 0, long := 0, peak := 0 }
    | _, _, _ => none)

/-- The endpoints of a tile. -/
def Weave.endpointsOf (w : Weave) (t : TileId) : SMap Endpoint :=
  (w.chans.filter (fun c => c.tile == t)).foldl (fun m c => mapIns c.ep c.endpoint m) []

/-- A tile takes its image (R201, R295): at the step gate when it runs a context, else as a tile without one; a tile in reset
stays there. -/
def Tile.imaged (x : Tile) (w : Weave) (ord : Nat) (t : TileId) (seed : Nat) : Tile :=
  let img := w.imageAt t
  let y : Tile := { x with img := img, imem := img.code, eps := w.endpointsOf t, skews := w.skewsAt ord t }
  { y.atLoad seed .entry with phase := if x.phase = phReset then phReset else if img.ctx then phGate else phNoContext }

/-- Messages in the rings of a tile's endpoints. -/
def messagesIn (eps : SMap Endpoint) : Nat := (eps.map (fun p => p.2.recs.length)).sum

/-- Every mapped tile takes its image. -/
def State.imageAll (s : State) (w : Weave) : State :=
  (List.range Config.tiles).foldl (fun s i =>
    let t := BitVec.ofNat 11 i
    let (n, s) := s.draw
    s.setTile t ((s.tile t).imaged w s.ord.toNat t n)) s

/-- Entries of the Home Table that a load builds (R93). -/
def builtTable (placed : List (Nat × Option (Nat × Nat))) (ps : List (Nat × Nat × Bool × Nat)) (rs : SMap Range) : SMap Entry :=
  (placed.zip ps).foldl (fun m (pl, p) => match pl.2 with
    | none => m
    | some (f, g) =>
      let kind := (mapFind rs p.2.2.2).elim 0 Range.kind
      mapIns pl.1 { Entry.none with frame0 := BitVec.ofNat 24 f, frame1 := BitVec.ofNat 24 g, kind := kind, stale := kind == 2
                                    range := BitVec.ofNat 8 p.2.2.2 } m) []

/-- Build the interleave table and the Home Table, allocating frames (R78, R96, R302), with the serials of R93. Migrations queued or
running end with the pages they moved (DESIGN CHOICE, log 31: the spec is silent). -/
def State.buildHome (s : State) (w : Weave) : State :=
  let ps := placeOrder (homedPages w.ranges s.ord.toNat)
  let table := builtTable (s.placePages s.mirrorFrames ps) ps w.ranges
  let s := ((s.fset F.HOME_SERIAL.CURRENT 1).fset F.HOME_SERIAL.LAST_ROLLBACK 0).fsetb F.HOME_STATUS.POISON_HOLD false
  let s := (s.fset F.HOME_MIGRATE_STATUS.QUEUED 0).fsetb F.HOME_MIGRATE_STATUS.BUSY false
  { s with ranges := w.ranges
           home := { s.home with table := table, outcomes := [(0, 1)], lastCommit := 0, closing := false, stalled := false
                                 intervals := 0, sweepPos := [], sweepFrom := [], sweepLast := [], cache := [], cows := []
                                 accs := [], hostReads := [], gone := [], migQ := [], migNow := none, rewritten := [] } }

/-- Clear the frames allocated, when the command asks for it (R302). -/
def State.clearFrames (s : State) : State :=
  let fs := s.usedFrames
  let mine (a : Nat) : Bool := (a / Config.pageBytes) ∈ fs && !((a / Config.pageBytes) ∈ s.mirrorFrames)
  { s with mem := s.mem.filter (fun c => !mine c.1), memBad := s.memBad.filter (fun u => !mine (u * 64)) }

/-- Step numbers and interval at a load (R32, R309). -/
def State.stepsAtLoad (s : State) (k : Nat) : State :=
  { ((((s.fset F.STEP_CURRENT.STEP 0).fset F.STEP_COMMITTED.STEP 0).fset F.STEP_DURABLE.STEP 0).fset F.STEP_INTERVAL.K k) with
    kNow := k, beforeCommit := 0, ended := false, prepared := none, result := none, endDirty := false, ackStep := none, afterRoll := false, startWait := none, undecided := none, runs := []
    runCount := [], rootFlags := 0, barriers := [], mesh := { s.mesh with hops := [], syncSeam := [], era := s.mesh.era + 1 } }

/-- The weave comes into force (WV_STATUS, WV_WEAVE_ID, WV_LOAD_US); the lead's command completes (R309, R417). -/
def State.inForce (s : State) (w : Weave) (portion : List Byte) (us : W32) : State :=
  let q := s.load.bind Load.queue
  let s := { (s.endLoad 1) with weave := some w, portion := portion
                                member := (w.plans.filter (fun (p : Plan) => p.counts s.ord.toNat)).map (fun (p : Plan) => BitVec.ofNat 16 p.plan) }
  let s := ((((s.fsetb F.WV_STATUS.LOADED true).fset F.WV_STATUS.EPOCH w.hdr.epoch).fset F.WV_WEAVE_ID.ID w.hdr.id.toNat).fset
    F.WV_LOAD_US.TIME us.toNat)
  s.complete q w.hdr.id.toNat 0 0

/-- A mirrored device streams everything again after a load, which makes every page new (R71). -/
def State.mirrorAfterLoad (s : State) : State :=
  if s.fbit F.STEP_BUDDY.EN then { s with mirror := { s.mirror with first := true, todo := [], hostWrote := [], sent := [], streaming := false } } else s

def execWeaveApply (us : W32) (s : State) : Outcome :=
  match s.load with
  | none => .next s
  | some l =>
    match l.next with
    | none => .next s
    | some w =>
      if s.fget F.WV_STATUS.PHASE ≠ 5 || !w.hdr.full then .next s
      else
        let s := s.fadd F.WV_FLUSH_CNT.COUNT ((s.tiles.map (fun p => messagesIn p.2.eps)).sum)
        let s := (s.buildHome w)
        let s := if l.clear then s.clearFrames else s
        let s := ((s.imageAll w).stepsAtLoad w.hdr.k).mirrorAfterLoad
        let s := { s with seed := w.hdr.seed, undo := none }
        .next (((s.inForce w l.portion us).setUnrec false).setHeld false)

/-! ## Partial reconfiguration (R314 to R321) -/

/-- A commit boundary (R316): no step running, and the current step committed and durable. A rollback is not one. -/
def State.atBoundary (s : State) : Bool :=
  s.stepPhase == phStepIdle && !s.afterRoll && s.fget F.STEP_CURRENT.STEP == s.fget F.STEP_COMMITTED.STEP
    && s.fget F.STEP_COMMITTED.STEP == s.fget F.STEP_DURABLE.STEP

/-- The endpoints of this device that a change affects (R315); `told` lists the send endpoints here whose receivers on other devices are
affected. -/
def Weave.affected (w : Weave) (ord : Nat) (told : List (TileId × Nat)) (c : ChanRec) : Bool :=
  w.carried c || (c.tile, c.ep) ∈ told
    || (!c.recv && ordOfNo c.peerNo == ord && (w.chanNo c.peerNo).elim false w.carried)

/-- Every affected ring is empty and every affected send endpoint holds all its credit (R318). -/
def State.drainedFor (s : State) (w : Weave) (told : List (TileId × Nat)) : Bool :=
  s.tiles.all (fun (i, x) => x.eps.all (fun (n, e) =>
    let t := BitVec.ofNat 11 i
    let hit := w.replaced t || w.chans.any (fun c => c.tile == t && c.ep == n && w.affected s.ord.toNat told c)
    !hit || (if e.isRecv then e.rd == e.wr && e.recs.isEmpty else e.credit == e.creditMax)))

/-- A tile under a partial weave: a replaced tile takes its new image; another one takes its affected endpoints, emptied. Also
the messages discarded. -/
def Tile.patched (x : Tile) (w : Weave) (told : List (TileId × Nat)) (ord : Nat) (t : TileId) (seed : Nat) : Tile × Nat :=
  if w.replaced t then
    let y := x.imaged w ord t seed
    ({ y with eps := y.eps.map (fun p => (p.1, { p.2 with affected := true })) }, messagesIn x.eps)
  else
    let hit := w.chans.filter (fun c => c.tile == t && w.affected ord told c)
    let lost := (hit.map (fun c => ((x.ep (BitVec.ofNat 6 c.ep)).recs.length))).sum
    let eps := hit.foldl (fun m c => mapIns c.ep
      (let old := x.ep (BitVec.ofNat 6 c.ep)
       { c.endpoint with affected := true, msgs := old.msgs, stalls := old.stalls, rd := old.rd, wr := old.rd }) m)
      (x.eps.map (fun p => (p.1, { p.2 with affected := false })))
    let peaks (k : Skew) : Skew :=
      match x.skews.find? (fun o => o.pair == k.pair) with
      | some o =>
        -- SHORT and LONG stay on a join tile that is not replaced (R329)
        let k := { k with short := o.short, long := o.long }
        if hit.any (fun c => c.ep == k.shortEp.toNat || c.ep == k.longEp.toNat) then k else { k with peak := o.peak }
      | none => k
    ({ x with eps := eps, skews := (w.skewsAt ord t).map peaks }, lost)

/-- The patched tiles, and the messages discarded. -/
def State.patchAll (s : State) (w : Weave) (told : List (TileId × Nat)) : State × Nat :=
  (List.range Config.tiles).foldl (fun (s, n) i =>
    let t := BitVec.ofNat 11 i
    let (seed, s) := s.draw
    let (y, k) := (s.tile t).patched w told s.ord.toNat t seed
    (s.setTile t y, n + k)) (s, 0)

/-- A partial weave can apply now (R316, R318, R319). -/
def State.partialReady (s : State) : Bool :=
  match s.load with
  | some l =>
    match l.next with
    | some w => s.fget F.WV_STATUS.PHASE == 4 && s.atBoundary && (w.hdr.mode == 1 || s.drainedFor w l.told)
    | none => false
  | none => false

def execPartialApply (us : W32) (s : State) : Outcome :=
  if !s.partialReady then .next s
  else
    match s.load with
    | none => .next s
    | some l =>
      match l.next with
      | none => .next s
      | some w =>
        let before : Undo :=
          { weave := s.weave, portion := s.portion, told := l.told, epoch := s.fget F.WV_STATUS.EPOCH
            id := s.fget F.WV_WEAVE_ID.ID, k := s.fget F.STEP_INTERVAL.K, member := s.member }
        let (s, lost) := s.patchAll w l.told
        let s := (s.fadd F.WV_FLUSH_CNT.COUNT lost).fset F.STEP_INTERVAL.K w.hdr.k
        .next { (s.inForce w (mergePortion s.portion l.portion) us) with undo := some before }

/-- DRAIN_LIMIT commits have passed without a boundary at which the drain held (R318). -/
def execDrainLimitExpired (s : State) : Outcome :=
  match s.load with
  | none => .next s
  | some l =>
    match l.next with
    | none => .next s
    | some w =>
      if s.fget F.WV_STATUS.PHASE == 4 && w.hdr.mode == 0 && decide (w.hdr.drain ≤ l.waited) && !s.partialReady then
        .next (s.weaveRefused 2 (headRefusal 0x25 s.ord))
      else .next s

/-- A tile of an abandoned apply (R320): a replaced one takes its old image again, another one its old endpoints in place of the affected
ones, emptied. -/
def Tile.restored (x : Tile) (old new : Weave) (told : List (TileId × Nat)) (ord : Nat) (t : TileId) (seed : Nat) : Tile :=
  if new.replaced t then x.imaged old ord t seed
  else
    let back (m : SMap Endpoint) (c : ChanRec) : SMap Endpoint :=
      match old.chanNo c.no with
      | some o =>
        let was := x.ep (BitVec.ofNat 6 c.ep)
        mapIns c.ep { o.endpoint with msgs := was.msgs, rd := was.rd, wr := was.rd } m
      | none => mapDel c.ep m
    { x with eps := (new.chans.filter (fun c => c.tile == t && new.affected ord told c)).foldl back x.eps, skews := old.skewsAt ord t }

/-- Every tile is restored. -/
def State.restoreAll (s : State) (old new : Weave) (told : List (TileId × Nat)) : State :=
  (List.range Config.tiles).foldl (fun s i =>
    let t := BitVec.ofNat 11 i
    let (seed, s) := s.draw
    s.setTile t ((s.tile t).restored old new told s.ord.toNat t seed)) s

/-- The configuration before the apply is in force again (R320). -/
def State.unapply (s : State) : State :=
  match s.undo with
  | none => s
  | some u =>
    let s := match u.weave, s.weave with
      | some old, some new => s.restoreAll old new u.told
      | _, _ => s
    let s := { s with weave := u.weave, portion := u.portion, member := u.member, undo := none }
    ((s.fset F.WV_STATUS.EPOCH u.epoch).fset F.WV_WEAVE_ID.ID u.id).fset F.STEP_INTERVAL.K u.k

/-- A reconfiguration applies here, or has applied and the step after it has not started. -/
def State.applying (s : State) : Bool := s.undo.isSome || s.partialReady

end Sys2Proof.Machine
end

