-- ==== Sys2Proof/Machine/Collective.lean ====
section
/-! DEFINITION. The collective engines (R373 to R387): a plan's run on this member, the reduction tree, the Velvet digests
and the checks. -/

namespace Sys2Proof.Machine

open Sys2Proof.Num

/-! ## Members (R374, R377) -/

def State.plan (s : State) (n : Nat) : Option Plan := s.weave.bind (fun w => w.plans.find? (fun p => p.plan == n))

/-- Member index of an ordinal, and ordinal of a member (R374). -/
def Plan.index (p : Plan) (o : Nat) : Nat := (o - p.first) / p.stride
def Plan.member (p : Plan) (m : Nat) : Nat := p.first + m * p.stride

/-- log2 of P, the largest power of two not greater than COUNT (R377). -/
def Plan.levels (p : Plan) : Nat := Nat.log2 p.count

/-- The plan reduces: OP 0x1 or 0x2. -/
def Plan.reduces (p : Plan) : Bool := p.op ≤ 2

/-- Format code in which partials travel (R378). -/
def Plan.partFmt (p : Plan) : Nat := if p.reduces && p.rop == 0 && p.fmt != 0xA then 0 else p.fmt

/-! ## Elements (R378, R381) -/

def elemFmt (fmt : Nat) : Fmt := match fmt with | 0 => fp32 | 1 => bf16 | _ => fp16

/-- The elements of a piece, as numbers. -/
def elems (w : Nat) : Nat → List Byte → List Nat
  | 0, _ => []
  | n + 1, bs => ofBytes (bs.take w) :: elems w n (bs.drop w)

def elemsOf (fmt : Nat) (bs : List Byte) : List Nat := elems (fmtBytes fmt) (bs.length / fmtBytes fmt) bs

def ofElems (w : Nat) (es : List Nat) : List Byte := es.flatMap (toBytes w)

/-- A contribution as its partial: widened exactly to FP32 for a sum in a floating-point format (R378). -/
def Plan.leaf (p : Plan) (bs : List Byte) : List Byte :=
  if p.partFmt = p.fmt then bs else ofElems 4 ((elemsOf p.fmt bs).map (fun v => (widen (elemFmt p.fmt) v).toNat))

/-- A finite FP32 value in units of 2^−149 (R381). -/
def vsumUnit : FVal → Option Int
  | .fin s m e => some (atExp s m e (-149))
  | _ => none

/-- One comb (R378), with the fault that its adder or comparator shows: the value sent on, whether the check of R383 counts
the pair, the exact sum of the inputs, and the unrounded output (for a comparison, the second path's output). -/
def Plan.comb (p : Plan) (a b : Nat) (delta : Int) : Nat × Int × Int :=
  if p.fmt = 0xA then
    let x := Cell.ofRaw a
    let y := Cell.ofRaw b
    ((x.add (y.value.toInt + delta) y).raw, x.value.toInt + y.value.toInt, x.value.toInt + y.value.toInt + delta)
  else if p.rop = 0 then
    match vsumUnit (dec (BitVec.ofNat 32 a)), vsumUnit (dec (BitVec.ofNat 32 b)) with
    | some x, some y =>
      if delta = 0 then ((fadd exactRnd (BitVec.ofNat 32 a) (BitVec.ofNat 32 b)).toNat, x + y, x + y)
      else ((roundInt exactRnd (x + y + delta) (-149) false).toNat, x + y, x + y + delta)
    | _, _ => ((fadd exactRnd (BitVec.ofNat 32 a) (BitVec.ofNat 32 b)).toNat, 0, 0)
  else
    let f := elemFmt p.fmt
    let g := if p.rop = 1 then fmax else fmin
    let v := narrow f exactRnd (g (widen f a) (widen f b))
    (v, v, v + delta)

/-- One node over whole partials: the result and whether its check holds (R383). -/
def Plan.node (p : Plan) (a b : List Byte) (fault : Option NodeFault) : List Byte × Bool :=
  let w := fmtBytes p.partFmt
  let es : List (Nat × Int × Int) := ((elemsOf p.partFmt a).zip (elemsOf p.partFmt b)).zipIdx.map (fun (ab, i) =>
    p.comb ab.1 ab.2 (match fault with | some f => if f.elem = i then f.delta else 0 | none => 0))
  let ok := if p.rop = 0 then decide ((es.map (fun e => e.2.1)).sum = (es.map (fun e => e.2.2)).sum)
    else es.all (fun e => decide (e.2.1 = e.2.2))
  (ofElems w (es.map Prod.fst), ok)

/-- The final operation (R378): a sum is rounded to FMT; element `e` of the whole vector takes generator word `e`. -/
def State.finalOf (s : State) (p : Plan) (bs : List Byte) : List Byte :=
  if p.fmt = 0xA || p.rop != 0 then bs
  else
    ofElems (fmtBytes p.fmt) ((elemsOf 0 bs).zipIdx.map (fun (v, i) =>
      let word := if p.rm = 4 then genWord s.seed.toNat 0 p.stream.toNat i (s.fget F.STEP_CURRENT.STEP) else 0
      narrow (elemFmt p.fmt) ⟨(RM.ofCode p.rm).getD .rne, p.sat, word⟩ (BitVec.ofNat 32 v)))

/-! ## The Velvet digest (R380, R381) -/

/-- VSUM, NF and FLAGS of a piece's bytes. -/
def digestSum (fmt : Nat) (bs : List Byte) : Int × Nat × Nat :=
  let fl (b : Bool) (n : Nat) : Nat := if b then 2 ^ n else 0
  if fmt = 0xA then
    let cs := (elemsOf fmt bs).map Cell.ofRaw
    ((cs.map (fun c => c.value.toInt)).sum, 0,
      fl (cs.any Cell.nan) 0 + fl (cs.any Cell.pinf) 1 + fl (cs.any Cell.ninf) 2 + fl (cs.any Cell.oor) 3
        + fl (cs.any Cell.trunc) 4 + (cs.map Cell.groups).foldl max 0 % 2 ^ 11 * 2 ^ 5)
  else
    let vs := (elemsOf fmt bs).map (elemFmt fmt).decode
    let us := vs.map vsumUnit
    ((us.map (fun u => u.getD 0)).sum, min (2 ^ 32 - 1) (us.filter Option.isNone).length,
      fl (vs.any (fun v => v == .nan)) 0 + fl (vs.any (fun v => v == .inf false)) 1 + fl (vs.any (fun v => v == .inf true)) 2)

/-- The 64 bytes of a piece's digest. -/
def digestOf (plan run level fmt step : Nat) (bs : List Byte) : List Byte :=
  let (v, nf, flags) := digestSum fmt bs
  toBytes 40 ((v % (2 ^ 320 : Nat)).toNat) ++ toBytes 4 (crc32c bs).toNat ++ toBytes 4 nf ++ toBytes 2 plan
    ++ toBytes 1 run ++ toBytes 1 (level % 16 * 16 + fmt % 16) ++ toBytes 2 flags ++ toBytes 2 0 ++ toBytes 8 step

/-- Kinds of failed check (R385). -/
inductive DigestKind where
  | crc | sum | node | result
  deriving DecidableEq, Repr

def DigestKind.field : DigestKind → Fld
  | .crc => F.STEP_DIGEST_ERR.CRC
  | .sum => F.STEP_DIGEST_ERR.SUM
  | .node => F.STEP_DIGEST_ERR.NODE
  | .result => F.STEP_DIGEST_ERR.RESULT

def DigestKind.code : DigestKind → Nat
  | .crc => 0x5001
  | .sum => 0x5002
  | .node => 0x5003
  | .result => 0x5004

/-- Bytes `n` from offset `a`. -/
def slice (a n : Nat) (bs : List Byte) : List Byte := (bs.drop a).take n

/-- What fails of a digest that arrived with a piece (R382): the CRC and the identity, or the sums. -/
def digestFails (mine got : List Byte) : List DigestKind :=
  (if slice 0x28 4 mine != slice 0x28 4 got || slice 0x30 4 mine != slice 0x30 4 got || slice 0x38 8 mine != slice 0x38 8 got
    then [.crc] else [])
  ++ (if slice 0 0x28 mine != slice 0 0x28 got || slice 0x2C 4 mine != slice 0x2C 4 got || slice 0x34 2 mine != slice 0x34 2 got
    then [.sum] else [])

/-- Result digests agree (R384): every field but PLAN, RUN and LF. -/
def resultAgrees (mine got : List Byte) : Bool := slice 0 0x30 mine == slice 0 0x30 got && slice 0x34 12 mine == slice 0x34 12 got

/-! ## Runs (R375, R376) -/

def State.putRun (s : State) (i : Nat) (r : Run) : State := { s with runs := s.runs.set i r }

/-- A failed check on a run (R385): the step is dirty, the kind is counted, and the run's first failure is reported. -/
def State.checkFailed (s : State) (i : Nat) (k : DigestKind) (level peer : Nat) : State :=
  let s := { s with endDirty := true }.fadd k.field 1
  match s.runs[i]? with
  | none => s
  | some r =>
    if r.reported then s
    else (s.putRun i { r with reported := true }).unitErr k.code 0 6 (unitLoc 0) 0
      (data2 (r.plan + r.run % 256 * 2 ^ 16 + level * 2 ^ 24 + peer * 2 ^ 32) 0)

/-- A new run, which has not started here. -/
def Run.new (plan run : Nat) : Run :=
  { plan := plan, run := run, started := false, pieces := [], part := [], have_ := false, level := 0, result := none
    written := false, reported := false, awaits := [], early := [] }

/-- A piece leaves for another member, its digest after it (R380). -/
def State.sendPiece (s : State) (p : Plan) (run level dst fmt : Nat) (bs : List Byte) : State :=
  s.emits [.piece dst p.plan run level bs,
           .digest dst p.plan run level (digestOf p.plan run level fmt (s.fget F.STEP_CURRENT.STEP) bs)]

/-- The result of member `m` within the whole final vector (R377). -/
def Plan.share (p : Plan) (m : Nat) (whole : List Byte) : List Byte :=
  if p.op = 2 then slice (m * p.dstLen) p.dstLen whole else whole

/-- Other members. -/
def Plan.others (p : Plan) (m : Nat) : List Nat := (List.range p.count).filter (fun j => j != m)

/-- The result is known: it is written to the member's result range (R374). -/
def State.writeResult (s : State) (i : Nat) (p : Plan) (bs : List Byte) : State :=
  match s.runs[i]? with
  | none => s
  | some r =>
    let s := s.putRun i { r with result := some bs }
    let a := p.dst + p.index s.ord.toNat * p.dstLen
    (partsOf a bs.length).foldl (fun s (q, n) =>
      let d := slice (q - a) n bs
      match s.place q with
      | some (_, o, _, _) => if o = s.ord.toNat then s.writePart (.engine (BitVec.ofNat 16 p.plan)) q d
                             else s.emit (.engineWrite p.plan q d)
      | none => s) s

/-- A level of the tree at which this member waits for a piece, sends, or has nothing to do (R377). -/
inductive Turn where
  | recv (from_ : Nat)
  | send (dst : Nat)
  | skip
  | final
  deriving DecidableEq, Repr

def Plan.turn (p : Plan) (m level : Nat) : Turn :=
  let n := 2 ^ p.levels
  if level = 0 then (if m ≥ n then .send (m - n) else if m + n < p.count then .recv (m + n) else .skip)
  else if level ≤ p.levels then (if m % 2 ^ level = 0 then .recv (m + 2 ^ (level - 1)) else .send (m - 2 ^ (level - 1)))
  else .final

def Run.piece (r : Run) (level who : Nat) : Option Piece := r.pieces.find? (fun q => q.level == level && q.who == who)

/-- A reducing run goes on as far as its pieces allow; `fuel` bounds the levels. -/
def State.reduceOn (s : State) (i : Nat) (p : Plan) : Nat → State
  | 0 => s
  | fuel + 1 =>
    match s.runs[i]? with
    | none => s
    | some r =>
      let m := p.index s.ord.toNat
      match p.turn m r.level with
      | .skip => (s.putRun i { r with level := r.level + 1 }).reduceOn i p fuel
      | .send dst => (s.putRun i { r with level := 16 }).sendPiece p r.run r.level (p.member dst) p.partFmt r.part
      | .recv j =>
        match r.piece r.level (p.member j) with
        | none => s
        | some q =>
          let (v, ok) := p.node r.part q.data q.fault
          let s := s.putRun i { r with part := v, level := r.level + 1 }
          let s := if ok then s else s.checkFailed i .node r.level (p.member j)
          s.reduceOn i p fuel
      | .final =>
        let whole := s.finalOf p r.part
        let s := s.putRun i { r with level := 16 }
        let s := (p.others m).foldl (fun s j => s.sendPiece p r.run 15 (p.member j) p.fmt (p.share j whole)) s
        s.writeResult i p (p.share m whole)

/-- A run that has its own contribution goes on: through the tree, or to the result that its pieces give (R377, R379). -/
def State.runOn (s : State) (i : Nat) (p : Plan) : State :=
  match s.runs[i]? with
  | none => s
  | some r =>
    let m := p.index s.ord.toNat
    let from_ (j : Nat) : Option Piece := r.piece 15 (p.member j)
    if !r.started || !r.have_ || r.result.isSome then s
    else if p.reduces then
      if r.level < 16 then s.reduceOn i p 17
      else match from_ 0 with | some q => s.writeResult i p q.data | none => s
    else if p.op = 3 then
      if (p.others m).all (fun j => (from_ j).isSome) then
        s.writeResult i p ((List.range p.count).flatMap (fun j =>
          if j = m then r.part else ((from_ j).map Piece.data).getD []))
      else s
    else if m = 0 then s.writeResult i p r.part
    else match from_ 0 with | some q => s.writeResult i p q.data | none => s

/-- The contribution has been read (R375): it enters the run, and OP 0x3 and 0x4 send it on (R379). -/
def State.contribute (s : State) (i : Nat) (p : Plan) (bs : List Byte) : State :=
  match s.runs[i]? with
  | none => s
  | some r =>
    let m := p.index s.ord.toNat
    let s := s.putRun i { r with part := p.leaf bs, have_ := true }
    let s := if p.op = 3 || (p.op = 4 && m == 0) then
        (p.others m).foldl (fun s j => s.sendPiece p r.run 15 (p.member j) p.fmt bs) s
      else s
    s.runOn i p

/-- Read a range of job memory for an engine: its bytes when this device homes all of it and can give them at once;
otherwise reads leave for the homes (R373). -/
def State.engineRead (s : State) (plan a n : Nat) : Option (List Byte) × State :=
  let parts := partsOf a n
  let here (q : Nat × Nat) : Bool :=
    match s.place q.1 with
    | some (_, o, lpn, sub) =>
      let e := s.resolve (s.entry lpn)
      let at_ := e.currentAt sub + q.1 % Config.subBytes
      o == s.ord.toNat && e.kind != 0 && (s.home.cowOf lpn sub).isNone && (s.memBadIn at_ q.2).isEmpty
        && !(e.unversioned && e.stale && !e.mask.getLsbD sub)
    | none => false
  if parts.all here then
    let r := parts.foldl (fun (acc : List Byte × State) q =>
      match acc.2.place q.1 with
      | some (_, _, lpn, sub) =>
        let (e, s) := acc.2.touch lpn
        (acc.1 ++ s.memRead (e.currentAt sub + q.1 % Config.subBytes) q.2, s)
      | none => acc) ([], s)
    (some r.1, r.2)
  else
    (none, parts.foldl (fun s q =>
      match s.place q.1 with
      | some (_, o, _, _) => if o = s.ord.toNat then s.readPart (.engine (BitVec.ofNat 16 plan)) q.1 q.2
                             else s.emit (.engineRead plan q.1 q.2)
      | none => s) s)

/-- The run that a packet of a plan belongs to: the one with its number that does not hold the piece yet. -/
def State.runFor (s : State) (plan run : Nat) (fits : Run → Bool) : Option Nat :=
  (List.range s.runs.length).find? (fun i => match s.runs[i]? with
    | some r => r.plan == plan && r.run % 256 == run && fits r
    | none => false)

/-- Start a run of a plan (R375). -/
def State.startRun (s : State) (p : Plan) : State :=
  let n := mapGet 0 s.runCount p.plan
  let s := { s with runCount := mapPut 0 p.plan (n + 1) s.runCount }
  let (i, s) : Nat × State :=
    match (List.range s.runs.length).find? (fun i => match s.runs[i]? with
      | some r => r.plan == p.plan && r.run == n && !r.started
      | none => false) with
    | some i => (i, s)
    | none => (s.runs.length, { s with runs := s.runs ++ [Run.new p.plan n] })
  match s.runs[i]? with
  | none => s
  | some r =>
    let s := s.putRun i { r with started := true }
    let m := p.index s.ord.toNat
    if p.op = 4 && m != 0 then (s.putRun i { r with started := true, have_ := true }).runOn i p
    else
      match s.engineRead p.plan (p.src + m * p.srcLen) p.srcLen with
      | (some bs, s) => s.contribute i p bs
      | (none, s) => s

/-- A CSTART issues and completes (R375): it starts a run, or is discarded while the plan runs here. -/
def execCstart (t : TileId) (s : State) : Outcome :=
  let x := s.tile t
  match x.issuable 5 with
  | none => .next s
  | some o =>
    if !netOpc 9 none o then .next s
    else
      let plan := match o.kind with | .net w0 _ => bits w0.toNat 59 44 | _ => 0
      let s := s.setTile t ((x.toExec o).complete o)
      if s.runs.any (fun r => r.plan == plan && r.started && !r.written) then
        .next (s.tileErr t 0x1035 false 0 plan o.opid 0)
      else
        match s.plan plan with
        | some p => .next (s.startRun p)
        | none => .next s

/-- A piece, whole, reaches this member (R377 to R379, R386); one whose run has not started here is kept. Bytes that come from
the member itself are its own contribution, read from other homes. -/
def execCollectivePayloadReceive (plan : W16) (run : Byte) (level : BitVec 4) (m : DevOrd) (data : List Byte)
    (fault : Option NodeFault) (s : State) : Outcome :=
  match s.plan plan.toNat with
  | none => .next s
  | some p =>
    if !(plan ∈ s.member) || s.stepPhase == phStepRolling then .next s
    else if m = s.ord then
      match s.runFor plan.toNat run.toNat (fun r => r.started && !r.have_) with
      | some i => if data.length = p.srcLen then .next (s.contribute i p data) else .next s
      | none => .next s
    else
      let q : Piece := ⟨level.toNat, m.toNat, data, false, fault⟩
      let (i, s) : Nat × State :=
        match s.runFor plan.toNat run.toNat (fun r => !r.written && (r.piece level.toNat m.toNat).isNone) with
        | some i => (i, s)
        | none =>
          let n := mapGet 0 s.runCount plan.toNat
          (s.runs.length, { s with runs := s.runs ++ [Run.new plan.toNat (n + (run.toNat + 256 - n % 256) % 256)] })
      match s.runs[i]? with
      | none => .next s
      | some r => .next ((s.putRun i { r with pieces := r.pieces ++ [q] }).runOn i p)

/-- The piece of a digest has been checked. -/
def State.checkedPiece (s : State) (i level who : Nat) : State :=
  match s.runs[i]? with
  | none => s
  | some r => s.putRun i { r with pieces := r.pieces.map (fun q =>
      if q.level = level ∧ q.who = who then { q with checked := true } else q) }

/-- The run that holds a piece not yet checked. -/
def State.unchecked (s : State) (plan run level who : Nat) : Option (Nat × Run × Piece) :=
  (s.runFor plan run (fun r => r.pieces.any (fun q => q.level == level && q.who == who && !q.checked))).bind (fun i =>
    (s.runs[i]?).bind (fun r => (r.piece level who).map (fun q => (i, r, q))))

/-- The digest of a piece reaches its receiver (R382). -/
def execCollectiveDigestReceive (plan : W16) (run : Byte) (level : BitVec 4) (m : DevOrd) (digest : List Byte) (s : State) :
    Outcome :=
  match s.plan plan.toNat, s.unchecked plan.toNat run.toNat level.toNat m.toNat with
  | some p, some (i, r, q) =>
    let fmt := if q.level = 15 then p.fmt else p.partFmt
    let mine := digestOf p.plan r.run q.level fmt (s.fget F.STEP_CURRENT.STEP) q.data
    .next ((digestFails mine digest).foldl (fun s k => s.checkFailed i k q.level q.who) (s.checkedPiece i q.level q.who))
  | _, _ => .next s

/-- A piece's digest has not arrived in time (R382). -/
def execDigestTimeout (plan : W16) (run : Byte) (level : BitVec 4) (m : DevOrd) (s : State) : Outcome :=
  match s.unchecked plan.toNat run.toNat level.toNat m.toNat with
  | some (i, _, q) => .next ((s.checkedPiece i q.level q.who).checkFailed i .crc q.level q.who)
  | none => .next s

/-- Member 0 compares a result digest with its own (R384). -/
def State.compareResult (s : State) (i : Nat) (p : Plan) (who : Nat) (got : List Byte) : State :=
  match s.runs[i]? with
  | none => s
  | some r =>
    let s := s.putRun i { r with awaits := r.awaits.filter (fun o => o != who) }
    let mine := digestOf p.plan r.run 15 p.fmt (s.fget F.STEP_CURRENT.STEP) (r.result.getD [])
    if resultAgrees mine got then s else s.checkFailed i .result 15 who

/-- The completion signal of a plan on this member (R303, R376). -/
def State.signalPlan (s : State) (p : Plan) : State :=
  if p.sigKind = 0 then
    { s with rootFlags := s.rootFlags ||| BitVec.ofNat 64 (2 ^ p.sig) }.emit (.flagCast (BitVec.ofNat 6 p.sig) true s.mesh.era)
  else
    let t := mkTile p.x p.y
    s.putTile t ((s.tile t).increment (BitVec.ofNat 5 p.sig))

/-- An engine's access of the plan has not completed at a home here. -/
def State.engineBusy (s : State) (plan : W16) : Bool :=
  s.home.accs.any (fun c => c.req == .engine plan)
    || s.home.cows.any (fun c => c.held.any (fun r => match r with
      | .write q _ _ => q == .engine plan
      | .read q _ _ => q == .engine plan
      | .atomic q .. => q == .engine plan))

/-- The result range of a member has been written (R376, R384): the signal is given, and the result digest goes to member 0,
which compares those it holds already when the results are to be equal. -/
def execCollectiveResultWritten (plan : W16) (s : State) : Outcome :=
  match s.plan plan.toNat, (List.range s.runs.length).find? (fun i => match s.runs[i]? with
      | some r => r.plan == plan.toNat && r.result.isSome && !r.written
      | none => false) with
  | some p, some i =>
    if s.engineBusy plan then .next s
    else
      match s.runs[i]? with
      | none => .next s
      | some r =>
        let m := p.index s.ord.toNat
        let mine := digestOf p.plan r.run 15 p.fmt (s.fget F.STEP_CURRENT.STEP) (r.result.getD [])
        let awaits := if m = 0 ∧ p.op ≠ 2 then (p.others 0).map p.member else []
        let s := (s.putRun i { r with written := true, awaits := awaits, early := [] }).signalPlan p
        if m ≠ 0 then .next (s.emit (.resultDigest (p.member 0) p.plan r.run mine))
        else if p.op = 2 then .next s
        else .next (r.early.foldl (fun s e => s.compareResult i p e.1 e.2) s)
  | _, _ => .next s

/-- A result digest reaches member 0 (R384). -/
def execResultDigestReceive (plan : W16) (run : Byte) (m : DevOrd) (digest : List Byte) (s : State) : Outcome :=
  match s.plan plan.toNat with
  | none => .next s
  | some p =>
    if p.index s.ord.toNat ≠ 0 || p.op = 2 then .next s
    else
      match s.runFor plan.toNat run.toNat (fun r => m.toNat ∈ r.awaits) with
      | some i => .next (s.compareResult i p m.toNat digest)
      | none =>
        match s.runFor plan.toNat run.toNat (fun r => !r.written) with
        | some i =>
          match s.runs[i]? with
          | some r => .next (s.putRun i { r with early := r.early ++ [(m.toNat, digest)] })
          | none => .next s
        | none => .next s

end Sys2Proof.Machine
end

