-- ==== Sys2Proof/Machine/Mirror.lean ====
section
/-! DEFINITION. Buddy mirroring (R69 to R74, R395 to R398, R454): the source's streams and the buddy's mirror copies. -/

namespace Sys2Proof.Machine

/-! ## The source -/

/-- DevOrd of the device that STEP_BUDDY names. -/
def State.buddyOrd (s : State) : Nat :=
  s.ordAt (s.fget F.STEP_BUDDY.BH)
    (posOf s.herdN (s.fget F.STEP_BUDDY.BI) (s.fget F.STEP_BUDDY.BJ) (s.fget F.STEP_BUDDY.BK))

/-- The device streams: EN is 1, or a disable has not taken effect yet (R70). -/
def State.mirrorOn (s : State) : Bool := s.fbit F.STEP_BUDDY.EN || s.mirror.former.isSome

/-- What the stream carries (R71, R395): every committed sub-block when its buddy has accepted none yet, else those of the commit and those
that the host has written. -/
def State.streamFirst (s : State) : Bool := if s.mirror.former.isSome then s.mirror.formerFirst else s.mirror.first

/-- Where a stream goes. -/
def State.mirrorDst (s : State) : Nat :=
  match s.mirror.former with
  | some (o, _) => o
  | none => s.buddyOrd

/-- MIRROR_ERR, and an event with a buddy's coordinate and the cause. -/
def State.mirrorErr (s : State) (o cause : Nat) : State :=
  (s.fsetb F.STEP_STATUS.MIRROR_ERR true).event 0x9030 8 0 0 (data2 (s.coordWord o).toNat cause)

/-- An enable refused, or a stream lost: MIRROR_ERR, EN 0, an event with the buddy's coordinate and the cause (R69, R397). -/
def State.mirrorLost (s : State) (cause : Nat) : State :=
  ((s.fsetb F.STEP_BUDDY.EN false).fsetb F.STEP_STATUS.MIRROR_ERR true).event 0x9030 8 0 0
    (data2 (s.fget F.STEP_BUDDY.BH * 2 ^ 24 + s.fget F.STEP_BUDDY.BI * 2 ^ 22 + s.fget F.STEP_BUDDY.BJ * 2 ^ 20
      + s.fget F.STEP_BUDDY.BK * 2 ^ 18) cause)

/-- The coordinate fields of a STEP_BUDDY write. -/
def State.setBuddy (s : State) (v : Nat) : State :=
  (((s.fset F.STEP_BUDDY.BH (bits v 13 6)).fset F.STEP_BUDDY.BI (bits v 5 4)).fset F.STEP_BUDDY.BJ (bits v 3 2)).fset
    F.STEP_BUDDY.BK (bits v 1 0)

/-- A write changes a coordinate field. -/
def State.buddyDiffers (s : State) (v : Nat) : Bool :=
  s.fget F.STEP_BUDDY.BH != bits v 13 6 || s.fget F.STEP_BUDDY.BI != bits v 5 4 || s.fget F.STEP_BUDDY.BJ != bits v 3 2
    || s.fget F.STEP_BUDDY.BK != bits v 1 0

/-- Why an enable is refused (R69, R396, R454): 1 the device itself, 2 no answer, 3 its own failure domain, 4 four sources
served already, 5 no room for the portion; 0 when it is not. -/
def State.enableCause (s : State) (answer : Option BuddyAnswer) : Nat :=
  if s.buddyOrd = s.ord.toNat then 1
  else match answer with
    | none => 2
    | some a =>
      if a.domain.toNat = s.fget F.STEP_DOMAIN.DOMAIN then 3
      else if a.sources.toNat ≥ 4 then 4
      else if a.storeFull then 5 else 0

/-- A write of STEP_BUDDY with EN = 1 (R69, R70). The coordinates written are taken before the enable is checked, and stay when it is refused
(DESIGN CHOICE, log 31: R69 says only that EN stays 0). A former buddy whose disable waits keeps its stream until it is released. -/
def execBuddyEnable (v : W32) (answer : Option BuddyAnswer) (s : State) : Outcome :=
  if !bit v.toNat 31 then .next s
  else if s.fbit F.STEP_BUDDY.EN then
    .next (if s.buddyDiffers v.toNat then s.refuseWrite 0xB0020 v.toNat else s)
  else
    let s := s.setBuddy v.toNat
    match s.enableCause answer with
    | 0 =>
      let former := match s.mirror.former with
        | some (o, c) => if o = s.buddyOrd then none else some (o, c)
        | none => none
      .next { (s.fsetb F.STEP_BUDDY.EN true) with mirror := { s.mirror with first := true, former := former } }
    | c => .next (s.mirrorLost c)

/-- A write that clears EN (R70): it reads 0 at once and takes effect at the next commit. -/
def execBuddyDisable (v : W32) (s : State) : Outcome :=
  if bit v.toNat 31 || !s.fbit F.STEP_BUDDY.EN then .next s
  else if s.buddyDiffers v.toNat then .next (s.refuseWrite 0xB0020 v.toNat)
  else .next { (s.fsetb F.STEP_BUDDY.EN false) with mirror := { s.mirror with former := some (s.buddyOrd, false), formerFirst := s.mirror.first } }

/-- Sub-blocks that the commit being recorded makes committed here (R395): those of the open interval's masks. -/
def State.committing (s : State) : List Nat :=
  s.home.table.flatMap (fun p =>
    if p.2.versioned && p.2.tag == s.serial then
      ((List.range 32).filter (fun b => p.2.mask.getLsbD b)).map (fun b => p.1 * 32 + b)
    else [])

/-- Every committed sub-block that the device homes. -/
def State.allCommitted (s : State) : List Nat :=
  s.home.table.flatMap (fun p => if p.2.versioned then (List.range 32).map (fun b => p.1 * 32 + b) else [])

/-- One sub-block in 32 packets (R395). -/
def State.mirrorPackets (s : State) (dst n : Nat) : List Output :=
  let lpn := n / 32
  let sub := n % 32
  let at_ := (s.resolve (s.entry lpn)).committedAt sub
  (List.range 32).map (fun c => .mirrorData dst s.home.lastCommit lpn sub c (s.memRead (at_ + c * 2048) 2048))

def execMirrorStream (s : State) : Outcome :=
  if !s.mirror.due || s.mirror.streaming || !s.mirrorOn then .next s
  else
    let news := s.mirror.hostWrote.foldl (fun l n => addTo n l) s.mirror.todo
    let subs := if s.streamFirst then s.allCommitted else news
    let dst := s.mirrorDst
    let s' := s.emits (subs.flatMap (s.mirrorPackets dst) ++ [.mirrorCtl dst 1 subs.length])
    .next { s' with mirror := { s.mirror with todo := [], hostWrote := [], sent := news, streaming := true, due := false } }

/-- A stream under way is given up: what it carried belongs to the next one (R71). -/
def Mirror.dropStream (m : Mirror) : Mirror :=
  { m with streaming := false, due := false, sent := [], hostWrote := m.sent.foldl (fun l n => addTo n l) m.hostWrote }

/-- A stream has been accepted or refused: a disable whose commit has come ends, and the new buddy's first stream follows at once where
mirroring has been enabled again (R70, R71); else the device answers for its durability (R398). -/
def State.streamEnded (s : State) : State :=
  let ack (s : State) : State := s.toCoord 0x0D (s.fget F.STEP_COMMITTED.STEP) 1
  match s.mirror.former with
  | some (o, true) =>
    let s := { s with mirror := { s.mirror with former := none, formerFirst := false } }.emit (.mirrorCtl o 4 0)
    if s.fbit F.STEP_BUDDY.EN then { s with mirror := { s.mirror with due := true } } else ack s
  | _ => ack s

/-- The stream's buddy has accepted its first stream, or has refused one. -/
def Mirror.ended (m : Mirror) (refused : Bool) : Mirror :=
  let m := { m with streaming := false, sent := [] }
  if m.former.isSome then { m with formerFirst := refused } else { m with first := refused }

def execMirrorAccepted (s : State) : Outcome :=
  if !s.mirror.streaming then .next s
  else .next { s with mirror := s.mirror.ended false }.streamEnded

/-- A stream is refused, or not accepted in time (R397): EN is cleared, unless the stream was a former buddy's. -/
def execMirrorRefused (s : State) : Outcome :=
  if !s.mirror.streaming then .next s
  else
    let t := { s with mirror := s.mirror.ended true }
    .next (match s.mirror.former with
      | some (o, _) => (t.mirrorErr o 6).streamEnded
      | none => (t.mirrorLost 6).streamEnded)

/-! ## The buddy (R396, R454) -/

def Source.empty : Source := { table := [], pages := [], got := [], portion := [], refused := false, accepted := false }

def State.setSource (s : State) (o : Nat) (x : Source) : State :=
  let s := { s with sources := mapIns o x s.sources }
  s.fset F.STEP_MIRROR.SOURCES (s.sources.filter (fun p => !p.2.table.isEmpty)).length

/-- Free near frames, the lowest first, any stack. -/
def State.nearFrames (s : State) : Nat → List Nat → List Nat
  | 0, _ => []
  | n + 1, used =>
    match firstFree used (used.length + 1) 64 (s.nearTop * 8) with
    | some f => f :: s.nearFrames n (f :: used)
    | none => []

/-- Two frames for a mirrored page: far first, then near. -/
def State.mirrorPair (s : State) (used : List Nat) : Option (Nat × Nat) :=
  let one (used : List Nat) : Option Nat :=
    match firstSome (s.freeFar used) (List.range Config.farPorts) with
    | some f => some f
    | none => (s.nearFrames 1 used).head?
  (one used).bind (fun f => (one (f :: used)).map (fun g => (f, g)))

/-- The source's record, made with its mirror table at the first stream. -/
def State.sourceFor (s : State) (o : Nat) : Source × State :=
  match mapFind s.sources o with
  | some x => (x, s)
  | none =>
    let fs := s.nearFrames 32 s.usedFrames
    if fs.length < 32 || s.sources.length ≥ 4 then ({ Source.empty with refused := true }, s)
    else ({ Source.empty with table := fs }, { s with mirrorFrames := s.mirrorFrames ++ fs })

/-- A chunk is written into the frame that the selection bit does not name, and its pending bit is set (R396). -/
def execMirrorData (o : DevOrd) (serial : W16) (lpn : Lpn) (sub chunk : BitVec 5) (data : List Byte) (s : State) : Outcome :=
  let _ := serial
  let (x, s) := s.sourceFor o.toNat
  if x.refused then .next (s.setSource o.toNat x)
  else
    let k := lpn.toNat
    let (e, s) : Option MirrorEntry × State :=
      match mapFind x.pages k with
      | some e => (some e, s)
      | none =>
        match s.mirrorPair s.usedFrames with
        | some (a, b) => (some ⟨a, b, 0, 0⟩, { s with mirrorFrames := s.mirrorFrames ++ [a, b] })
        | none => (none, s)
    match e with
    | none => .next (s.setSource o.toNat { x with refused := true })
    | some e =>
      let f := if e.sel.getLsbD sub.toNat then e.frameA else e.frameB
      let s := s.memWrite (f * Config.pageBytes + sub.toNat * Config.subBytes + chunk.toNat * 2048) (data.take 2048)
      .next (s.setSource o.toNat
        { x with pages := mapIns k { e with pend := e.pend ||| bit32 sub.toNat } x.pages
                 got := addTo (k * 1024 + sub.toNat * 32 + chunk.toNat) x.got })

/-- Frames that a source holds. -/
def Source.frames (x : Source) : List Nat := x.table ++ x.pages.flatMap (fun p => [p.2.frameA, p.2.frameB])

/-- Free what a source holds, and its record. -/
def State.dropSource (s : State) (o : Nat) : State :=
  match mapFind s.sources o with
  | none => s
  | some x =>
    let s := { s with mirrorFrames := s.mirrorFrames.filter (fun f => !(f ∈ x.frames)), sources := mapDel o s.sources }
    s.fset F.STEP_MIRROR.SOURCES (s.sources.filter (fun p => !p.2.table.isEmpty)).length

/-- MIRROR code 1 (R396, R397, R454): a stream whose count matches takes effect; one that found no space is refused; any other
ending discards the pending sub-blocks. -/
def execMirrorEndOfStream (o : DevOrd) (count : W32) (portion : Option (List Byte)) (s : State) : Outcome :=
  let (x, s) := s.sourceFor o.toNat
  let settle (f : MirrorEntry → MirrorEntry) : SMap MirrorEntry := x.pages.map (fun p => (p.1, f p.2))
  let discarded := { x with pages := settle (fun e => { e with pend := 0 }), got := [], refused := false }
  if x.refused then
    let s := s.setSource o.toNat discarded
    .next ((if x.accepted then s else s.dropSource o.toNat).emit (.mirrorCtl o.toNat 3 0))
  else if x.got.length = count.toNat * 32 then
    .next ((s.setSource o.toNat { x with pages := settle (fun e => { e with sel := e.sel ^^^ e.pend, pend := 0 }), got := []
                                         portion := portion.getD x.portion, accepted := true }).emit (.mirrorCtl o.toNat 2 0))
  else .next (s.setSource o.toNat discarded)

def execMirrorRelease (o : DevOrd) (s : State) : Outcome := .next (s.dropSource o.toNat)

end Sys2Proof.Machine
end

