-- ==== Sys2Proof/Machine/Commit.lean ====
section
/-! DEFINITION. Steps and the commit vote (R32 to R35, R57 to R59, R332, R376, R388 to R394, R408, R415): the start of a step, the
device's END, the boundary check, votes and decisions, rollbacks, and the standby. -/

namespace Sys2Proof.Machine

/-! ## Who coordinates (R388) -/

def State.primaryOrd (s : State) : Nat := s.fget F.STEP_COORD.PRIMARY
def State.standbyOrd (s : State) : Nat := s.fget F.STEP_COORD.STANDBY

/-- This device coordinates the job: it is the primary, or the standby that has taken over. -/
def State.coordinates (s : State) : Bool := s.coord.acting || (s.ord.toNat == s.primaryOrd && !s.needPrimary)

/-- This device combines its herd's packets. -/
def State.combines (s : State) : Bool := s.coordinates || s.ord.toNat == s.aggOrd

/-- The enabled standby. -/
def State.isStandby (s : State) : Bool := s.fbit F.STEP_COORD.SB_EN && s.ord.toNat == s.standbyOrd

/-- Devices of this herd; devices whose packets this one awaits, less those out of service (R388, R449). -/
def State.herdOrds (s : State) : List Nat := (List.range s.herdN).map (s.ordAt (s.fget F.HQ_HERD.H))
def State.outDevices (s : State) : List Nat := (s.outUnits.filter (fun u => u.2.1 == 8)).map (fun u => s.wordOrd u.1)
def State.expected (s : State) : List Nat :=
  let all :=
    if s.coord.acting then (List.range s.devices).filter (fun o => o != s.primaryOrd)
    else if s.coordinates then
      s.herdOrds ++ ((List.range s.herds).filter (fun h => h != s.fget F.HQ_HERD.H)).map (fun h => s.ordAt h (s.primaryOrd % s.herdN))
    else s.herdOrds
  all.filter (fun o => !(o ∈ s.outDevices))

/-- The coordinator, or the aggregator, enters a stage; one that it is in already goes on. -/
def State.enter (s : State) (g : Stage) : State :=
  if s.combines && s.coord.stage != g then { s with coord := { s.coord with stage := g, acks := [] } } else s

/-- A vote-traffic packet to every device. -/
def State.broadcast (s : State) (typ : Byte) (step : Nat) (code : Byte) : State :=
  s.emit (.ctrl typ none (BitVec.ofNat 64 step) code)

/-- Record a decision in STEP_LAST_VOTE. -/
def State.decision (s : State) (step outcome reason ord : Nat) : State :=
  (((s.fset F.STEP_LAST_VOTE.STEP (step % 2 ^ 32)).fset F.STEP_LAST_VOTE.OUTCOME outcome).fset F.STEP_LAST_VOTE.REASON
    reason).fset F.STEP_LAST_VOTE.ORD ord

/-! ## Commands in execution at the lead (R415) -/

def RunCmd.last (r : RunCmd) : Nat := r.first + r.count - 1

/-- The run-steps command ends with a status; RESULT holds STEP_COMMITTED. -/
def State.endRun (s : State) (status : Nat) : State :=
  match s.cmdRun with
  | none => s
  | some r => ({ s with cmdRun := none }).complete r.queue s.committed status 0

/-- Run-steps commands whose last step is committed are in execution no longer (R408). -/
def State.closeWindows (s : State) : State :=
  { s with coord := { s.coord with windows := s.coord.windows.filter (fun w => decide (s.committed < w.2.2)) } }

/-- It ends when its last step is committed. -/
def State.runDone (s : State) : State :=
  match s.cmdRun with
  | some r => if r.last ≤ s.committed then s.endRun (if r.stop then 8 else 0) else s
  | none => s

/-- Commit-control commands that a condition names end with a status. -/
def State.endCtrl (s : State) (p : CtrlCmd → Bool) (status : Nat) : State :=
  (s.cmdCtrl.filter p).foldl (fun s c => s.complete c.queue s.committed status 0)
    { s with cmdCtrl := s.cmdCtrl.filter (fun c => !p c) }

/-! ## START (R33, R34, R118, R389) -/

/-- The job lets a step start here: nothing holds it, and the last step has ended. -/
def State.stepFits (s : State) (step : Nat) : Bool :=
  s.fbit F.WV_STATUS.LOADED && step == s.current + 1
    && !s.fbit F.HQ_STATUS.JOB_UNREC && !s.fbit F.HQ_STATUS.JOB_HELD
    && ((s.stepPhase == phStepIdle && s.ackStep.isNone)
      || (s.stepPhase == phStepRunning && s.ended && s.prepared.isNone))

/-- A cluster holds a context tile. -/
def State.clusterWorks (s : State) (c : Nat) : Bool := s.contexts.any (fun p => clusterOf p.1 == c)

/-- A step uses the power domain (R498, client STEP). -/
def State.stepUses (s : State) (d : Nat) : Bool :=
  match domKind d with
  | .cluster => s.clusterWorks d
  | .port => s.portState (d - 130) == tsActive
  | .far => s.fbit (F.CXL_PORT_STATUS.USED.ix (d - 154))
  | .half | .stack | .device => true

/-- Every domain that a step uses is in RUN: a START that reaches a sleeping device waits for the wake (R501). -/
def State.stepAwake (s : State) : Bool := s.moves.all (fun p => p.2.point == 0 || !s.stepUses p.1)

/-- A step may start: its interval is open too (R92), no reconfiguration waits to apply (R316), and the domains that it uses are in RUN. -/
def State.mayStartStep (s : State) (step : Nat) : Bool := s.stepFits step && !s.home.closing && !s.partialReady && s.stepAwake

/-- The step starts: the mark goes to the tiles (R118), and the records of the last step clear. -/
def State.beginStep (s : State) (step : Nat) : State :=
  let s := s.endCtrl (fun c => c.action == 3 && s.afterRoll && !s.askRollback) 0
  let s := (s.fset F.STEP_CURRENT.STEP step).fset F.STEP_STATUS.PHASE phStepRunning
  { s with result := none, ended := false, prepared := none, endDirty := s.askRollback, runCount := [], sliceOnce := [], afterRoll := false
           startWait := none, undo := none, runs := s.runs.filter (fun r => !r.started)
           coord := if s.combines && s.coord.stage != .rolling && s.coord.stage != .reverting then
               { s.coord with stage := .running, step := step, ends := [], votes := [], acks := [] }
             else s.coord }

/-- START: the step starts, or waits for its interval to open, for a reconfiguration to apply, and for the device, which it wakes (R501). -/
def State.startStep (s : State) (step : Nat) : State :=
  if s.mayStartStep step then s.beginStep step
  else if s.stepFits step then
    { s with startWait := some step, access := if s.deviceAsleep then addTo 158 s.access else s.access }
  else s

/-- A START that waits. -/
def State.startWaiting (s : State) : State :=
  match s.startWait with
  | some n => if s.mayStartStep n then s.beginStep n else s
  | none => s

def execStart (step : W64) (s : State) : Outcome := .next (s.startStep step.toNat)

/-! ## END (R34, R270, R376) -/

/-- Every run on the device is complete, and so is every comparison it holds (R376). -/
def State.runsDone (s : State) : Bool :=
  s.runs.all (fun r => !r.started || (r.written && r.awaits.isEmpty && r.pieces.all (fun q => q.checked)))

/-- The STAG casts the device's END: a dirty result goes at once, and a clean one waits for the runs. -/
def execEndCast (s : State) : Outcome :=
  match s.result with
  | none => .next s
  | some dirty =>
    if s.stepPhase ≠ phStepRunning || s.ended || !(dirty || s.runsDone) then .next s
    else .next ({ s with ended := true }.toCoord 0x09 s.current (if dirty || s.endDirty then 1 else 0))

/-- Run-steps commands on every lead include step n (R408). -/
def State.stepWanted (s : State) (n : Nat) : Bool :=
  decide (max 1 s.herds ≤ (s.coord.windows.filter (fun w => decide (w.2.1 ≤ n ∧ n ≤ w.2.2))).length)

/-- The coordinator sends START for a step. -/
def State.starting (s : State) (n : Nat) : State := { s with coord := { s.coord with stage := .starting, step := n, acks := [] } }
def State.sendStart (s : State) (n : Nat) : State := (s.starting n).broadcast 0x08 n 0

/-- The coordinator aborts step n before its decision point (R391). -/
def State.abortAt (s : State) (n reason ord : Nat) : State :=
  { s.decision n 2 reason ord with coord := { s.coord with stage := .rolling, acks := [], rollAfter := 0 } }.broadcast 0x0C n 2
def State.abort (s : State) (reason ord : Nat) : State := s.abortAt s.current reason ord

/-- Step n is a commit step (R35): K steps have passed, a commit-control command has asked for it, or it is the last one of a run-steps
command, this lead's or one that another lead has told the coordinator. -/
def State.commitStep (s : State) : Bool :=
  s.current - s.committed == s.kNow || (match s.askCommit with | some n => n ≤ s.current | none => false)
    || (match s.cmdRun with | some r => r.last == s.current | none => false) || s.coord.windows.any (fun w => w.2.2 == s.current)

/-- An END reaches the aggregator or the primary: a dirty one goes on, or aborts, at once; when all are clean the herd's result
goes on, or PREPARE goes out. -/
def execEndMsg (o : DevOrd) (step : W64) (dirty : Bool) (s : State) : Outcome :=
  let n := step.toNat
  if !s.combines || s.coord.stage != .running || n ≠ s.current || !(o.toNat ∈ s.expected) then .next s
  else if dirty then
    if s.coordinates then .next (match s.coord.rollLead with | some l => s.abort 7 l | none => s.abort 1 o.toNat)
    else .next ({ s with coord := { s.coord with stage := .none } }.emit (.ctrl 0x09 (some s.primaryOrd) step 1))
  else
    let ends := addTo o.toNat s.coord.ends
    let s := { s with coord := { s.coord with ends := ends } }
    if !(s.expected.all (fun e => e ∈ ends)) then .next s
    else if s.coordinates then
      let code : Byte := if s.commitStep then 1 else 0
      .next ({ s with coord := { s.coord with stage := if code = 1 then .voting else .boundary, votes := [], t0 := s.now } }.broadcast 0x0A n code)
    else .next ({ s with coord := { s.coord with stage := .boundary, votes := [] } }.emit (.ctrl 0x09 (some s.primaryOrd) step 0))

/-! ## The boundary check (R331, R332) -/

/-- The first resource of a tile that holds residue: its kind, its number, the residue. -/
def Tile.residue (x : Tile) : Option (Nat × Nat × Nat) :=
  match x.eps.find? (fun p => p.2.isRecv && p.2.used != 0) with
  | some (n, e) => some (1, n, e.used)
  | none =>
    match x.arr.find? (fun p => p.2 != 0) with
    | some (n, v) => some (2, n, v)
    | none =>
      match (List.range 16).find? (fun r => mapGet 0 x.heads r != mapGet 0 x.tails r) with
      | some r => some (3, r, (mapGet 0 x.tails r + 65536 - mapGet 0 x.heads r) % 65536)
      | none => none

/-- Each tile with a context tests for residue. -/
def State.boundaryCheck (s : State) : Bool × State :=
  s.contexts.foldl (fun (acc : Bool × State) p =>
    match p.2.residue with
    | none => acc
    | some (k, n, v) => (true, acc.2.tileErr p.1 0x1032 false 0 n 0 (data2 (k + n * 2 ^ 32) v))) (false, s)

/-- The boundary check runs, and its answer waits for VOTE: 1 a boundary, 2 a commit step. -/
def State.prepare (s : State) (kind : Nat) : State :=
  let (found, s) := s.boundaryCheck
  { s with prepared := some (kind, found) }

/-- PREPARE finds the device at the end of the step it names. -/
def State.mayPrepare (s : State) (step : Nat) : Bool :=
  s.stepPhase == phStepRunning && s.ended && s.prepared.isNone && s.result.isSome && step == s.current

def execPrepareBoundary (step : W64) (s : State) : Outcome :=
  if s.mayPrepare step.toNat then .next ((s.prepare 1).enter .boundary) else .next s

/-- At a commit step the vote begins: host reads of versioned pages are held (R57). -/
def execPrepareCommit (step : W64) (s : State) : Outcome :=
  if s.mayPrepare step.toNat then
    .next (((((s.prepare 2).fset F.STEP_STATUS.PHASE phStepVoting).fsetb F.STEP_STATUS.COMMIT_BUSY true)).enter .voting)
  else .next s

/-! ## Votes (R389, R391) -/

def execVoteSend (s : State) : Outcome :=
  match s.prepared with
  | none => .next s
  | some (kind, residue) =>
    if kind = 2 && !s.home.cows.isEmpty then .next s
    else .next ({ s with prepared := none, result := none }.toCoord 0x0B s.current (if residue then 1 else if s.endDirty then 2 else 0))

/-- The decision point (R24, R389): the coordinator records the commit and sends it to every device. -/
def State.takeDecision (s : State) (reason ord : Nat) : State :=
  let n := s.current
  { s.decision n 1 reason ord with coord := { s.coord with stage := .flipping, acks := [] } }.broadcast 0x0C n 1

def execVote (o : DevOrd) (step : W64) (code : Byte) (s : State) : Outcome :=
  let g := s.coord.stage
  if !s.combines || step.toNat ≠ s.current || !(o.toNat ∈ s.expected) || !(g == .boundary || g == .voting) || code.toNat > 2 then .next s
  else if code ≠ 0 then
    if s.coordinates then .next (s.abort (code.toNat + 1) o.toNat)
    else .next ({ s with coord := { s.coord with stage := .none } }.emit (.ctrl 0x0B (some s.primaryOrd) step code))
  else
    let votes := addTo o.toNat s.coord.votes
    let s := { s with coord := { s.coord with votes := votes } }
    if !(s.expected.all (fun e => e ∈ votes)) then .next s
    else if !s.coordinates then .next ({ s with coord := { s.coord with stage := .none } }.emit (.ctrl 0x0B (some s.primaryOrd) step 0))
    else if g == .boundary then
      .next (s.sendStart (s.current + 1))
    else if s.fbit F.STEP_COORD.SB_EN && !s.coord.acting then
      .next ({ s with coord := { s.coord with stage := .standby } }.emit (.ctrl 0x0C (some s.standbyOrd) step 1))
    else .next (s.takeDecision 0 0)

/-- The standby records the decision and answers (R389). -/
def execDecideAtStandby (step : W64) (s : State) : Outcome :=
  if s.isStandby && s.stepPhase == phStepVoting && step.toNat == s.current then
    .next ({ s.decision step.toNat 1 0 0 with decided := some step.toNat }.emit (.ctrl 0x0D (some s.primaryOrd) step 3))
  else .next s

def execStandbyAck (step : W64) (s : State) : Outcome :=
  if s.coordinates && s.coord.stage == .standby && step.toNat == s.current then .next (s.takeDecision 0 0) else .next s

/-! ## Decisions (R57 to R63, R87 to R90, R389, R394) -/

/-- Host reads held during the vote are served (R57): those of other leads at this home, and those of this device's host. -/
def State.serveHeld (s : State) : State :=
  let held := s.home.hostHeld
  let reads := s.home.hostReads
  let s := reads.foldl (fun s r => s.readPart r.1 r.2.1 r.2.2) { s with home := { s.home with hostHeld := [], hostReads := [] } }
  held.foldl (fun s h => s.bar2Serve h.1 h.2.1 h.2.2 [] []) s

/-- A decision keeps the reason that this device has recorded for it already. -/
def State.recordDecision (s : State) (step outcome : Nat) : State :=
  if s.fget F.STEP_LAST_VOTE.STEP = step % 2 ^ 32 ∧ s.fget F.STEP_LAST_VOTE.OUTCOME = outcome then s
  else if s.needPrimary then s.decision step outcome 6 s.primaryOrd
  else if outcome = 2 ∧ s.askRollback then s.decision step outcome 7 s.ord.toNat
  else s.decision step outcome 0 0

/-- Readmitted ports enter DETECT at a rollback or a commit boundary (R451). -/
def State.returnPorts (s : State) : State :=
  s.portsBack.foldl (fun s p => s.fset (F.OL_PORT_STATUS.STATE.ix p) 1) { s with portsBack := [] }

/-- Commits passed in drain mode are counted while the reconfiguration waits for its boundary (R318). -/
def State.waitedCommit (s : State) : Option Load :=
  if s.fget F.WV_STATUS.PHASE = 4 then s.load.map (fun (l : Load) => { l with waited := l.waited + 1 }) else s.load

/-- DECIDE with code 1: every home records the outcome, and the step is committed. `mirror` says whether a device of the job
mirrors, which decides whether the commit is durable at once (R72). A device that a reset interrupted after its VOTE records it all the
same (R389). -/
def execDecideCommit (step : W64) (mirror : Bool) (s : State) : Outcome :=
  let n := step.toNat
  if !((s.stepPhase == phStepVoting && s.prepared.isNone) || s.undecided == some n) || n ≠ s.current then .next s
  else
    let mirror := mirror || s.mirrorOn
    let todo := s.committing
    let s := s.recordOutcome 1
    let s := { s with beforeCommit := s.committed, kNow := s.fget F.STEP_INTERVAL.K, decided := none, jobMirror := mirror
                      askCommit := none, undecided := none
                      mirror := { s.mirror with todo := if s.mirrorOn then todo else [], former := s.mirror.former.map (fun (f : Nat × Bool) => (f.1, true)) }
                      load := s.waitedCommit }
    let s := ((s.fset F.STEP_COMMITTED.STEP n).recordDecision n 1).fset F.STEP_STATUS.PHASE phStepFlipping
    let s := if mirror then s.fsetb F.STEP_STATUS.MIRROR_PENDING true else s.fset F.STEP_DURABLE.STEP n
    .next ((s.returnPorts.enter .flipping).toCoord 0x0D n 1)

/-- Every unit of the job takes the next GEN with a rollback (R443): a tile in the step as it leaves it, another context tile here. -/
def Tile.leftBehind (x : Tile) : Tile := if x.img.ctx && !x.inStep && x.phase != phReset then { x with gen := x.gen + 1 } else x

/-- The rollback of a device (R59, R63, R121, R271, R394): its tiles leave the step, and flags, barriers, runs and held requests
are dropped. -/
def State.rollBack (s : State) (step : Nat) : State :=
  let cows := s.home.cows
  let s := { s with tiles := s.tiles.map (fun (p : Nat × Tile) => (p.1, p.2.leftBehind)) }
  let s := { s with startWait := none, undecided := none, home := { s.home with cows := [] }, rootFlags := 0, barriers := [], runs := [], runCount := []
                    mesh := { s.mesh with kept := s.mesh.kept.filter (fun k => k.owner.isNone), hops := [], syncSeam := [], era := s.mesh.era + 1 }
                    result := none, ended := false, prepared := none, endDirty := false
                    askRollback := false, decided := none, heardGen := s.heardGen.map (fun g => (g.1, g.2.1, true))
                    mirror := { s.mirror.dropStream with todo := [] }
                    rolling := (s.tiles.filter (fun (p : Nat × Tile) => p.2.inStep)).map (fun (p : Nat × Tile) => BitVec.ofNat 11 p.1)
                    ackStep := some step, afterRoll := true, coord := { s.coord with rollLead := none } }
  let s := cows.foldl (fun s c => c.held.foldl HomeReq.refused s) s
  let s := ((s.fset F.STEP_CURRENT.STEP s.committed).fset F.STEP_STATUS.PHASE phStepRolling).fsetb F.STEP_STATUS.ROLLBACK true
  let s := (s.fsetb F.STEP_STATUS.COMMIT_BUSY false).serveHeld.settleAll
  (if s.isLead then s.returnPorts.faultCause else s.returnPorts).ackIfRolled

/-- A step or its boundary is under way that a rollback can end. -/
def State.mayRoll (s : State) : Bool :=
  s.fbit F.WV_STATUS.LOADED && s.stepPhase != phStepRolling && s.stepPhase != phStepFlipping

/-- DECIDE with code 2, for the step here or for one whose START waits: the outcome is recorded as rolled back. -/
def execDecideAbort (step : W64) (s : State) : Outcome :=
  let n := step.toNat
  if !s.mayRoll || !(n == s.current || s.startWait == some n) then .next s
  else .next (((s.recordRollback.recordDecision n 2).enter .rolling).rollBack n)

/-- DECIDE with code 3: commit n, which is not durable, is taken back. -/
def execDecideRevert (step : W64) (s : State) : Outcome :=
  let n := step.toNat
  let open_ := s.stepPhase == phStepFlipping || s.stepPhase == phStepMirroring
  if !s.fbit F.WV_STATUS.LOADED || !open_ || n ≠ s.committed || s.durable then .next s
  else
    let s := s.recordRevert
    let s := s.fset F.STEP_COMMITTED.STEP s.beforeCommit
    .next ((((s.recordDecision n 3).fsetb F.STEP_STATUS.MIRROR_PENDING false).enter .reverting).rollBack n)

/-! ## Restart and DONE (R389, R394, R398) -/

/-- The coordinator sends the rollback that a fault after the decision asks for (R24, R73). -/
def State.rollLate (s : State) : State :=
  match s.coord.rollAfter with
  | 0 => s
  | k => { s with coord := { s.coord with stage := if k = 1 then .rolling else .reverting, acks := [], rollAfter := 0 } }.broadcast
      0x0C s.current (BitVec.ofNat 8 (k + 1))

/-- Every ACK of a rollback is in: the job restarts once every reset is over, when a run-steps command goes on (R408), or it is held. -/
def State.restart (s : State) : State :=
  if !s.coord.resets.isEmpty then s
  else if s.fbit F.HQ_STATUS.JOB_UNREC || !s.outUnits.isEmpty || s.heldTopology || s.coord.acting then
    { s with coord := { s.coord with stage := .held, windows := [] } }.broadcast 0x0E s.committed 3
  else if s.stepWanted (s.committed + 1) then s.sendStart (s.committed + 1)
  else { s with coord := { s.coord with stage := .none } }

/-- DONE ends the commit: it carries START when steps remain (R389, R398), and a fault met after the decision rolls the job back (R24). -/
def State.doneWith (s : State) (step : W64) (code : Byte) : State :=
  if s.coord.rollAfter = 0 && s.stepWanted (step.toNat + 1) then (s.starting (step.toNat + 1)).emit (.doneStart step code)
  else ({ s with coord := { s.coord with stage := .none, acks := [] } }.broadcast 0x0E step.toNat code).rollLate

/-- The acknowledgements of a stage are complete. -/
def State.acked (s : State) : Bool := s.expected.all (fun e => e ∈ s.coord.acks)

def State.restartIfReady (s : State) : State :=
  if s.coordinates && (s.coord.stage == .rolling || s.coord.stage == .reverting) && s.acked then s.restart else s

def execAck (o : DevOrd) (step : W64) (code : Byte) (t100ns : W16) (s : State) : Outcome :=
  let g := s.coord.stage
  let fits := (code = 1 && (g == .flipping || g == .mirroring)) || (code = 2 && (g == .rolling || g == .reverting))
  if !s.combines || !fits || !(o.toNat ∈ s.expected) then .next s
  else
    let s := { s with coord := { s.coord with acks := addTo o.toNat s.coord.acks } }
    if !s.acked then .next s
    else if !s.coordinates then
      .next ({ s with coord := { s.coord with stage := .none } }.emit (.ctrl 0x0D (some s.primaryOrd) step code))
    else match g with
      | .flipping =>
        let s := (s.fset F.STEP_VOTE_TIME.LAST t100ns.toNat).fset F.STEP_VOTE_TIME.MAX (max (s.fget F.STEP_VOTE_TIME.MAX) t100ns.toNat)
        if s.jobMirror then
          let s := { s with coord := { s.coord with stage := .mirroring, acks := [] } }.broadcast 0x0E step.toNat 1
          .next (if s.coord.rollAfter < 2 then s else s.rollLate)
        else .next (s.doneWith step 1)
      | .mirroring => .next (s.doneWith step 2)
      | _ => .next s.restart

/-- A commit has ended here: commit-control commands that waited for it end. -/
def State.commitEnded (s : State) : State := s.endCtrl (fun c => c.action != 3 && c.step ≤ s.committed) 0

/-- STEP clears when a step boundary starts no step (R498): a Pronk burst ends (R513). -/
def State.boundaryOver (s : State) (start : Bool) : State := if start then s.startStep (s.committed + 1) else s.endBurst 3

/-- DONE with code 1: host reads go on; the mirror streams begin, or the step boundary is over. -/
def execDoneCommitted (step : W64) (start : Bool) (s : State) : Outcome :=
  if s.stepPhase ≠ phStepFlipping || step.toNat ≠ s.committed then .next s
  else
    let s := (s.fsetb F.STEP_STATUS.COMMIT_BUSY false).serveHeld.commitEnded
    if s.jobMirror then
      let s := ((s.fset F.STEP_STATUS.PHASE phStepMirroring).enter .mirroring).settleAll
      if s.mirrorOn then .next { s with mirror := { s.mirror with due := true } } else .next (s.toCoord 0x0D step.toNat 1)
    else
      let s := (s.fset F.STEP_STATUS.PHASE phStepIdle).settleAll.runDone.closeWindows
      .next (s.boundaryOver start)

/-- DONE with code 2: the commit is durable (R72). -/
def execDoneDurable (step : W64) (start : Bool) (s : State) : Outcome :=
  if s.stepPhase ≠ phStepMirroring || step.toNat ≠ s.committed then .next s
  else
    let s := ((s.fset F.STEP_DURABLE.STEP step.toNat).fsetb F.STEP_STATUS.MIRROR_PENDING false).fset F.STEP_STATUS.PHASE phStepIdle
    let s := s.runDone.closeWindows
    .next (s.boundaryOver start)

/-- DONE with code 3: no step starts, and the job is held (R394, R416). A job that is unrecoverable ends its command as such; it is
held as well only when a unit is out of service or a topology hold asks for it. -/
def execDoneHeld (topology : Bool) (s : State) : Outcome :=
  if !s.fbit F.WV_STATUS.LOADED || s.ackStep.isSome || s.stepPhase ≠ phStepIdle then .next s
  else
    let s := { s with afterRoll := false, startWait := none, heldTopology := s.heldTopology || topology, coord := { s.coord with windows := [] } }
    let s := if s.fbit F.HQ_STATUS.JOB_UNREC && s.outUnits.isEmpty && !s.heldTopology then s else s.setHeld true
    let s := s.endRun (if s.fbit F.HQ_STATUS.JOB_UNREC then 6 else 7)
    .next (((s.endCtrl (fun c => c.action == 3) 0).endCtrl (fun _ => true) 0x0C).endBurst 3)

/-- The cause of a hold has ended (R416). -/
def State.releaseHold (s : State) : State :=
  if s.fbit F.HQ_STATUS.JOB_HELD && !s.heldTopology && s.outUnits.isEmpty && !s.needPrimary then s.setHeld false else s

/-! ## Faults and silence at the coordinator (R391, R435 to R440) -/

/-- A fault of a job member has reached the coordinator (R24, R73, R391, R435, R436): before the decision point the step aborts;
after it, a START that is on its way included, the job returns to the commit, or, when committed frames are lost before the commit is durable, to the one before. -/
def State.coordFault (s : State) (subject : Nat) (destroys : Bool) : State :=
  if !s.coordinates then s
  else match s.coord.stage with
    | .starting => s.abortAt s.coord.step 4 subject
    | .running => s.abort 4 subject
    | .boundary => s.abort 4 subject
    | .voting => s.abort 4 subject
    | .standby => s.abort 4 subject
    | .flipping => { s with coord := { s.coord with rollAfter := max s.coord.rollAfter (if destroys && s.jobMirror then 2 else 1) } }
    | .mirroring =>
      if destroys then { s with coord := { s.coord with rollAfter := 2 } }.rollLate
      else { s with coord := { s.coord with rollAfter := max s.coord.rollAfter 1 } }
    | _ => s

/-- A silent device is a fault of that device (R391, R440): a report and a STOT with CODE 0x6006, and its reset is awaited. -/
def State.silentDevice (s : State) (o : Nat) : State :=
  let s := (s.unitErr 0x6006 4 8 (unitLoc 0) 0 (data2 0 o)).notify 0x11 0x6006 4 8 (unitLoc 0) o
  { s with coord := { s.coord with resets := addTo o s.coord.resets } }

def firstMissing (want have_ : List Nat) : Option Nat := want.find? (fun o => !(o ∈ have_))

def execVoteTimeout (s : State) : Outcome :=
  if !s.coordinates then .next s
  else match s.coord.stage with
    | .boundary | .voting =>
      match firstMissing s.expected s.coord.votes with
      | some o => .next (s.abort 5 o)
      | none => .next s
    | .standby => .next ((s.silentDevice s.standbyOrd).abort 5 s.standbyOrd)
    | .flipping =>
      match firstMissing s.expected s.coord.acks with
      | some o => .next ((s.silentDevice o).coordFault o false)
      | none => .next s
    | .mirroring | .rolling | .reverting =>
      match firstMissing s.expected s.coord.acks with
      | some o => .next (s.silentDevice o)
      | none => .next s
    | _ => .next s

/-! ## The standby (R392) -/

/-- The primary is lost: STEP_LAST_VOTE.REASON reads 6 until a new one is written. -/
def State.losePrimary (s : State) : State := { s with needPrimary := true }.fset F.STEP_LAST_VOTE.REASON 6

/-- The standby takes over: it queries every device, and commits step n when it holds that decision or a reply does. -/
def execStandbyTakeover (replies : List QueryAnswer) (s : State) : Outcome :=
  let n := s.current
  if !s.isStandby || s.coord.acting || !(s.needPrimary || s.stepPhase == phStepVoting || s.stepPhase == phStepFlipping) then .next s
  else
    let commits := s.decided == some n || s.stepPhase == phStepFlipping
      || replies.any (fun r => r.code == 1 && r.step.toNat == n)
    let s := s.losePrimary
    let s := { s with coord := { Coord.idle with acting := true, step := n } }.broadcast 0x0B n 3
    if s.stepPhase == phStepRolling || (s.stepPhase == phStepIdle && s.afterRoll) then
      .next { s with coord := { s.coord with stage := .rolling } }
    else if s.stepPhase == phStepIdle then .next s
    else if s.stepPhase == phStepMirroring then .next { s with coord := { s.coord with stage := .mirroring } }
    else if commits && s.stepPhase != phStepRunning then .next (s.takeDecision 6 s.primaryOrd)
    else .next (s.abort 6 s.primaryOrd)

/-- A device answers the standby's query with the last decision it holds. An ACK that it sent to the lost primary goes to the
standby again. -/
def execQueryReply (o : DevOrd) (s : State) : Outcome :=
  if !s.fbit F.STEP_COORD.SB_EN || o.toNat ≠ s.standbyOrd then .next s
  else
    let a : QueryAnswer := ⟨s.ord, BitVec.ofNat 8 (s.fget F.STEP_LAST_VOTE.OUTCOME), BitVec.ofNat 64 (s.fget F.STEP_LAST_VOTE.STEP)⟩
    let s := s.losePrimary.emit (.queryAnswer o.toNat a)
    .next (if s.afterRoll && s.ackStep.isNone then s.toCoord 0x0D s.committed 2 else s)

/-- A write of STEP_COORD: refused unless PHASE reads idle and the ordinals are valid. It names a new primary. -/
def execStepCoordWrite (v : W32) (s : State) : Outcome :=
  let sb := bit v.toNat 31
  let standby := bits v.toNat 29 16
  let primary := bits v.toNat 13 0
  let beyond := s.fbit F.WV_STATUS.LOADED && (primary ≥ s.devices || (sb && standby ≥ s.devices))
  if s.stepPhase ≠ phStepIdle || (sb && standby == primary) || beyond then .next (s.refuseWrite 0xB0040 v.toNat)
  else
    let s := ((s.fsetb F.STEP_COORD.SB_EN sb).fset F.STEP_COORD.STANDBY standby).fset F.STEP_COORD.PRIMARY primary
    .next { s with needPrimary := false, decided := none, coord := Coord.idle }.releaseHold

/-- A write of STEP_INTERVAL (R58). -/
def execStepIntervalWrite (v : W32) (s : State) : Outcome :=
  let k := v.toNat % 65536
  .next (if k = 0 then s.refuseWrite 0xB0018 v.toNat else s.fset F.STEP_INTERVAL.K k)

/-! ## A reconfiguration abandoned (R320) -/

/-- A fault during apply: the old configuration comes back, the reconfiguration is refused, and the coordinator rolls the job back to
the boundary commit. A full load in its apply phase is refused too, with no commit to go back to. -/
def execApplyAbandon (s : State) : Outcome :=
  if s.applying then
    let s := s.unapply.weaveRefused 3 (headRefusal 0x26 s.ord)
    .next (if s.coordinates && s.coord.stage == .none then s.abort 4 s.ord.toNat else s)
  else if s.load.isSome && s.fget F.WV_STATUS.PHASE = 5 then .next (s.weaveRefused 3 (headRefusal 0x26 s.ord))
  else .next s

/-! ## Host commands on steps (R33, R408, R415, R416) -/

/-- A run-steps entry that was fetched earlier waits in some queue (R411). -/
def State.earlierRun (s : State) (order : Nat) : Bool :=
  s.queues.any (fun p => p.2.fetched.any (fun (f : Fetched) => decide (f.order < order) && (match spell f.words with
    | some (.runSteps ..) => true
    | _ => false)))

/-- The status with which RUN_STEPS ends at once; 0 when it runs (R415). -/
def State.runStatus (s : State) (first : Nat) (coordsAgree : Bool) : Nat :=
  if !s.fbit F.WV_STATUS.LOADED then 4
  else if s.fbit F.HQ_STATUS.JOB_UNREC then 6
  else if s.fbit F.HQ_STATUS.JOB_HELD then 7
  else if !coordsAgree || s.primaryOrd ≥ s.devices || (s.fbit F.STEP_COORD.SB_EN && s.standbyOrd ≥ s.devices) then 5
  else if first ≠ s.current + 1 then 3
  else 0

/-- A load lets a run-steps command start: none is in progress, or a reconfiguration waits for its commit boundary (R311, R316). -/
def State.loadAllowsRun (s : State) : Bool := s.load.isNone || s.fget F.WV_STATUS.PHASE == 4

/-- The coordinator learns that a lead's run-steps command is in execution; START goes out when every lead's includes the next step (R408). -/
def State.openWindow (s : State) (lead first last : Nat) : State :=
  let s := { s with coord := { s.coord with windows := (lead, first, last) :: s.coord.windows.filter (fun w => w.1 != lead) } }
  if (s.coord.stage == .none || s.coord.stage == .held) && s.stepPhase == phStepIdle && s.stepWanted (s.current + 1) then
    s.sendStart (s.current + 1)
  else s

/-- RUN_STEPS, on the lead that holds the command. On the coordinator, the command of another lead, which that lead tells it. -/
def execRunSteps (lead : DevOrd) (q : BitVec 4) (cid : W16) (first : W64) (count : W32) (coordsAgree : Bool) (s : State) : Outcome :=
  if lead ≠ s.ord then
    .next (if s.coordinates then s.openWindow lead.toNat first.toNat (first.toNat + count.toNat - 1) else s)
  else
  let order := ((s.queue q.toNat).fetched.head?.map Fetched.order).getD 0
  if !s.mayStart q cid (.runSteps first.toNat count.toNat) || s.cmdRun.isSome || s.earlierRun order || !s.loadAllowsRun
      || s.needPrimary then .next s
  else
    let st := s.runStatus first.toNat coordsAgree
    let s := s.begin q
    if st ≠ 0 then .next (s.complete (some q) (if st = 6 ∨ st = 7 then s.committed else 0) st 0)
    else
      let r : RunCmd := { queue := some q, first := first.toNat, count := count.toNat, stop := false }
      let s := { s with cmdRun := some r }.emit (.runWindow r.first r.last)
      .next (if s.coordinates then s.openWindow lead.toNat r.first r.last else s)

/-- The step that a commit-control command acts on: the running one, or the next to start. -/
def State.ctrlStep (s : State) : Nat := if s.stepPhase = phStepRunning then s.current else s.current + 1

/-- A commit-control command enters execution, or ends with status 0x0C. `act` is its effect on the step it acts on. -/
def State.commitCtrl (s : State) (q : BitVec 4) (cid : W16) (action : Nat) (act : State → Nat → State) : State :=
  if !s.mayStart q cid (.commitCtrl action) then s
  else
    let s := s.begin q
    if s.cmdRun.isNone || s.fbit F.HQ_STATUS.JOB_UNREC || s.fbit F.HQ_STATUS.JOB_HELD then s.complete (some q) 0 0x0C 0
    else
      let n := s.ctrlStep
      let s := { s with cmdCtrl := s.cmdCtrl ++ [⟨some q, action, n⟩] }
      act (if s.coordinates then s else s.emit (.ctrlAsk action)) n

/-- A commit is asked for at the end of step n. -/
def State.askCommitAt (s : State) (n : Nat) : State :=
  { s with askCommit := some (match s.askCommit with | some m => min m n | none => n) }

/-- A commit-control command: on its lead, and on the coordinator when another lead tells it (R408). -/
def State.ctrlFor (s : State) (lead : DevOrd) (q : BitVec 4) (cid : W16) (action : Nat) (act : State → Nat → State) : State :=
  if lead = s.ord then s.commitCtrl q cid action act
  else if s.coordinates then act s s.ctrlStep else s

def execCommitCtrlCommit (lead : DevOrd) (q : BitVec 4) (cid : W16) (s : State) : Outcome :=
  .next (s.ctrlFor lead q cid 1 State.askCommitAt)

/-- ACTION 2: no step after n starts under the command, on whichever lead it runs. -/
def State.stopAfter (s : State) (n : Nat) : State :=
  { s with cmdRun := s.cmdRun.map (fun r => if n < r.last then { r with count := n + 1 - r.first, stop := true } else r)
           coord := { s.coord with windows := s.coord.windows.map (fun w => (w.1, w.2.1, min w.2.2 n)) } }

def execCommitCtrlStop (lead : DevOrd) (q : BitVec 4) (cid : W16) (s : State) : Outcome :=
  .next (s.ctrlFor lead q cid 2 (fun s n => (s.askCommitAt n).stopAfter n))

/-- The coordinator remembers which lead has asked for the rollback (STEP_LAST_VOTE, REASON 7). -/
def State.rollBy (s : State) (lead : DevOrd) : State :=
  if s.coordinates then { s with coord := { s.coord with rollLead := some lead.toNat } } else s

/-- ACTION 3: the step ends dirty. -/
def execCommitCtrlRollback (lead : DevOrd) (q : BitVec 4) (cid : W16) (s : State) : Outcome :=
  .next (s.ctrlFor lead q cid 3 (fun s n => { s with askRollback := true, endDirty := s.endDirty || n == s.current }.rollBy lead))

end Sys2Proof.Machine
end

