-- ==== Sys2Proof/Machine/Packet.lean ====
section
/-! DEFINITION. Packets of the fabric (R347 to R350): their layout and CRCs, their link blocks, the words of codeword headers and of
training, and the packets that carry what this device sends to other devices (R323, R348). -/

namespace Sys2Proof.Machine

/-! ## The first unit (R347) -/

def pktData (k : Packet) : Bool := bit k.typ.toNat 7

/-- Payload bytes (R347, R349). -/
def pktBytes (k : Packet) : Nat := if pktData k then k.len.toNat + 1 else 0

/-- Units of a packet (R352), and its payload blocks (R349). -/
def pktUnits (k : Packet) : Nat := 1 + cdiv (pktBytes k) 64
def pktBlocks (k : Packet) : Nat := cdiv (pktBytes k) 256

/-- Virtual channel of a packet (R351). -/
def pktVc (k : Packet) : Nat := 2 * k.cls.toNat + if k.dl then 1 else 0

/-- Bytes 0x00 to 0x07 of the first unit: TYPE, CTL, LEN and DST. -/
def pktWord0 (k : Packet) : Nat :=
  k.typ.toNat + (k.cls.toNat * 64 + (if k.dl then 32 else 0) + (if k.cm then 16 else 0) + k.hops.toNat) * 2 ^ 8
    + (if pktData k then k.len.toNat else 0) * 2 ^ 16 + k.dst.toNat * 2 ^ 32

/-- Bytes 0x00 to 0x37 of the first unit, under a link sequence number. -/
def pktFront (k : Packet) (lseq : Nat) : List Byte :=
  toBytes 8 (pktWord0 k) ++ toBytes 4 k.src.toNat ++ toBytes 2 k.flow.toNat ++ toBytes 1 k.epoch.toNat ++ toBytes 1 k.gen.toNat
    ++ toBytes 2 lseq ++ toBytes 6 k.arg.toNat ++ toBytes 32 k.content.toNat

/-- ECRC: over bytes 0x00 to 0x37 with the fields that a hop may change taken as zero. -/
def ecrcOf (k : Packet) : W32 := crc32c (pktFront { k with dl := false, cm := false, hops := 0 } 0)

/-- HCRC: over bytes 0x00 to 0x3B as sent on this hop. -/
def hcrcOf (k : Packet) (lseq : Nat) : W32 := crc32c (pktFront k lseq ++ toBytes 4 k.ecrc.toNat)

/-- The 64-byte first unit. -/
def firstUnit (k : Packet) (lseq : Nat) (hcrc : W32) : List Byte := pktFront k lseq ++ toBytes 4 k.ecrc.toNat ++ toBytes 4 hcrc.toNat

/-! ## Payload blocks (R343, R349) -/

/-- Bytes padded with zeros to whole units. -/
def padUnits (bs : List Byte) : List Byte := bs ++ List.replicate (cdiv bs.length 64 * 64 - bs.length) 0

/-- Bytes of payload that block `b` covers, and the block as it is sent. -/
def blockBytes (k : Packet) (b : Nat) : Nat := min 256 (pktBytes k - 256 * b)
def payloadBlock (k : Packet) (b : Nat) : List Byte := padUnits ((k.payload.drop (256 * b)).take (blockBytes k b))

/-- BCRC entry of block `b`. -/
def bcrcOf (k : Packet) (b : Nat) : W32 := k.content.extractLsb' (32 * b) 32

/-- A payload block is whole and meets its BCRC entry. -/
def payloadGood (k : Packet) (b : Nat) (bs : List Byte) : Bool := bs.length == cdiv (blockBytes k b) 64 * 64 && crc32c bs == bcrcOf k b

/-- The source fills in LEN, the BCRC entries of the blocks present, and ECRC. -/
def pktSeal (k : Packet) : Packet :=
  let k := { k with len := BitVec.ofNat 11 (k.payload.length - 1) }
  let k := if pktData k then
      { k with content := BitVec.ofNat 256 (ofBytes ((List.range (pktBlocks k)).flatMap (fun b => toBytes 4 (crc32c (payloadBlock k b)).toNat))) }
    else { k with len := 0, payload := [] }
  { k with ecrc := ecrcOf k }

/-- ECRC and every BCRC hold, at the destination (R350). -/
def pktSound (k : Packet) : Bool :=
  k.ecrc == ecrcOf k && k.payload.length == pktBytes k && (List.range (pktBlocks k)).all (fun b => payloadGood k b (payloadBlock k b))

/-! ## Link blocks and codewords (R340, R341) -/

/-- Bytes of a link block. -/
def bodyBytes (b : LinkBody) : List Byte :=
  match b.item with
  | .head k h => firstUnit k b.lseq.toNat h
  | .data bs => bs

/-- The 64-byte units of bytes. -/
def toUnits (bs : List Byte) : List (List Byte) := (List.range (bs.length / 64)).map (fun i => (bs.drop (64 * i)).take 64)

/-- A link block begins a packet, with its HCRC for the number under which it goes. -/
def headBody (k : Packet) (lseq : Nat) : LinkBody := ⟨BitVec.ofNat 12 lseq, .head { k with payload := [] } (hcrcOf k lseq)⟩

/-- A codeword header. -/
def linkHdr (rs : Bool) (kind value : Nat) : BitVec 20 := BitVec.ofNat 20 ((if rs then 2 ^ 19 else 0) + kind * 2 ^ 17 + value)
def hdrKind (h : BitVec 20) : Nat := bits h.toNat 18 17
def hdrValue (h : BitVec 20) : Nat := bits h.toNat 16 0
/-- SEQ of an ACK or a NAK. -/
def hdrSeq (h : BitVec 20) : Nat := bits h.toNat 16 5

/-- A unit with nothing to carry. -/
def idleUnit : List Byte := List.replicate 64 0

/-- The 514 data symbols of a codeword: its header, and ten units. -/
def dataSymbols (hdr : BitVec 20) (units : List (List Byte)) : List Nat :=
  let v := hdr.toNat + ofBytes units.flatten * 2 ^ 20
  (List.range 514).map (fun i => v / 2 ^ (10 * i) % 1024)

/-- Symbols striped round-robin over the active lanes. -/
def stripe (lanes : List Nat) (syms : List Nat) : List (Nat × List Nat) :=
  lanes.zipIdx.map (fun (l, i) => (l, (syms.zipIdx.filter (fun q => q.2 % lanes.length == i)).map Prod.fst))

/-- A codeword as it leaves: the data symbols and then the parity symbols. -/
def codewordOut (p : Nat) (lanes : List Nat) (hdr : BitVec 20) (units : List (List Byte)) : Output :=
  let us := units ++ List.replicate (10 - units.length) idleUnit
  let d := dataSymbols hdr us
  .codeword p hdr us (stripe lanes (d ++ Config.parity d))

/-! ## Training words (R362) -/

/-- The CRC of a training word, over [127:32]. -/
def trainCrc (v : Nat) : Nat := (crc32c (toBytes 12 (v / 2 ^ 32))).toNat

def trainWord (st lane rxGood preset : Nat) (ack : Bool) : BitVec 128 :=
  let v := 0x7E81 * 2 ^ 112 + st * 2 ^ 108 + lane * 2 ^ 105 + rxGood * 2 ^ 97 + preset * 2 ^ 93 + if ack then 2 ^ 92 else 0
  BitVec.ofNat 128 (v + trainCrc v)

def twState (w : BitVec 128) : Nat := bits w.toNat 111 108
def twRxGood (w : BitVec 128) : Byte := w.extractLsb' 97 8
def twPreset (w : BitVec 128) : Nat := bits w.toNat 96 93
def twAck (w : BitVec 128) : Bool := w.getLsbD 92

/-- A good word on a lane. -/
def twGood (lane : BitVec 3) (w : BitVec 128) : Bool :=
  let v := w.toNat
  bits v 127 112 == 0x7E81 && bits v 107 105 == lane.toNat && bits v 91 32 == 0 && bits v 31 0 == trainCrc v

/-! ## Types (R348) -/

/-- A TYPE of R348, with a class that it may have. -/
def pktDefined (k : Packet) : Bool :=
  let t := k.typ.toNat
  (t ∈ [0x01, 0x02, 0x03, 0x04] || (0x08 ≤ t && t ≤ 0x14) || (0x18 ≤ t && t ≤ 0x3F) || (0x80 ≤ t && t ≤ 0x85))
    && !(pktData k && k.cls == 0)

/-- The class that the source gives a TYPE: 0 URGENT, 1 RSP, 2 REQ, 3 BG. -/
def classOf (typ : Byte) : BitVec 2 :=
  let t := typ.toNat
  if t = 0x03 ∨ t = 0x04 ∨ (0x18 ≤ t ∧ t ≤ 0x1F) ∨ (0x28 ≤ t ∧ t ≤ 0x2F) ∨ (0x38 ≤ t ∧ t ≤ 0x3F) ∨ t = 0x82 then 1
  else if (0x20 ≤ t ∧ t ≤ 0x27) ∨ (0x30 ≤ t ∧ t ≤ 0x37) ∨ t = 0x80 ∨ t = 0x81 ∨ t = 0x83 then 2
  else if 0x84 ≤ t then 3 else 0

/-- The code of packet `i` of this model within a range of eight codes (log 34). -/
def typeIn (base i : Nat) : Byte := BitVec.ofNat 8 (base + (Config.typeSlot i).toNat)

/-! ## The packets of what this device sends (R323, R348) -/

/-- What a packet is formed from: TYPE, the device that it goes to, TARGET there and at the source, the path key, EPOCH, GEN and ARG,
and its CONTENT bytes or its payload. -/
structure Cargo where
  typ : Byte
  dst : Nat
  target : Nat := 0
  tag : Nat := 0
  key : Nat := 0
  gen : Byte := 0
  epoch : BitVec 4 := 0
  arg : Nat := 0
  body : List Byte := []
  deriving DecidableEq, Repr

/-- TARGET of an endpoint and of a tile's operation, and the path key of a send endpoint (log 34). -/
def epTarget (e : EndpointId) : Nat := e.tile.toNat * 2 ^ 6 + e.ep.toNat
def epKey (e : EndpointId) : Nat := e.ord.toNat * 2 ^ 17 + epTarget e

/-- Payload cut into packets of at most 2,048 bytes, each with its place. -/
def cutPayload (bs : List Byte) : List (Nat × List Byte) :=
  (List.range (cdiv bs.length 2048)).map (fun i => (i, (bs.drop (2048 * i)).take 2048))

/-- The packet of a cargo. -/
def State.packetOf (s : State) (l : Cargo) : Packet :=
  let data := bit l.typ.toNat 7
  pktSeal { typ := l.typ, cls := classOf l.typ, dl := false, cm := false, hops := 0, len := 0
            dst := BitVec.ofNat 32 ((s.coordWord l.dst).toNat + l.target), src := BitVec.ofNat 32 ((s.coordWord s.ord.toNat).toNat + l.tag)
            flow := Config.flow l.key, epoch := l.epoch, gen := l.gen, arg := BitVec.ofNat 48 l.arg
            content := if data then 0 else BitVec.ofNat 256 (ofBytes l.body), ecrc := 0, payload := if data then l.body else [] }

/-- ARG and TARGET of a piece's packet (R386). -/
def pieceCargo (dst plan run kind level : Nat) (q : Nat × List Byte) : Cargo :=
  { typ := 0x83, dst := dst, target := q.1 % 2 ^ 18, key := plan, body := q.2
    arg := plan * 2 ^ 32 + run * 2 ^ 24 + kind * 2 ^ 22 + level * 2 ^ 18 + q.1 / 2 ^ 18 }

/-- CONTENT of a notice (R438). -/
def noticeBytes (n : Notice) : List Byte :=
  toBytes 2 n.code.toNat ++ toBytes 1 n.level.toNat ++ toBytes 1 n.unit.toNat ++ toBytes 4 n.loc.toNat ++ toBytes 8 n.step.toNat
    ++ toBytes 4 n.subject.toNat ++ toBytes 4 n.nseq.toNat ++ toBytes 6 n.optime.toNat ++ toBytes 2 0

/-- CONTENT of vote traffic (R388, R395): the step, a code, and the count of a MIRROR. -/
def voteBytes (step : Nat) (code : Byte) (count : Nat) : List Byte := toBytes 8 step ++ toBytes 1 code.toNat ++ toBytes 3 0 ++ toBytes 4 count

/-- Recipients of a notice, with their TARGET (R437): the coordinators, and but for a FAULT the sender's herd and the fabric manager;
RECOVERED goes to the primary and the manager only. -/
def State.noticeTo (s : State) (typ : Byte) (manager : Bool) : List (Nat × Nat) :=
  let coords := s.primaryOrd :: (if s.fbit F.STEP_COORD.SB_EN then [s.standbyOrd] else [])
  let fm := s.fget F.FLT_FM_COORD.DST
  let to_ := if typ = 0x10 then coords else if typ = 0x12 then [s.primaryOrd] else s.herdOrds ++ coords
  to_.eraseDups.map (fun o => (o, 0)) ++ (if manager then [(s.wordOrd (BitVec.ofNat 32 fm), bits fm 17 0)] else [])

/-- What an access of job memory by `t` needs to reach its home (R82). -/
def accessCargo (typ : Byte) (h : HomeRef) (t : TileId) (gen : Byte) (seq : W16) (body : List Byte) : Cargo :=
  { typ := typ, dst := h.home, target := h.lpn % 64, tag := t.toNat, key := t.toNat, gen := gen, arg := seq.toNat, body := body }

/-- Reply of a home to a tile (R82). -/
def replyCargo (typ : Byte) (req : Requester) (body : List Byte) : List Cargo :=
  match req with
  | .tile o t gen seq => [{ typ := typ, dst := o.toNat, target := t.toNat, key := t.toNat, gen := gen, arg := seq.toNat, body := body }]
  | _ => []

/-- The cargo by which an output travels to other devices; none for what stays on this one or leaves by another way. TYPE, CLASS, ARG and
CONTENT are the spec's where it states them, and log 34 gives the rest. -/
def State.cargoOf (s : State) : Output → List Cargo
  | .message dst m => (cutPayload (padUnits (headerUnit m ++ m.data))).map (fun q =>
      { typ := 0x80, dst := dst.ord.toNat, target := epTarget dst, tag := epTarget m.who, key := epKey m.who, gen := m.gen, epoch := m.epoch
        arg := q.1 + m.seq.toNat % 2 ^ 16 * 2 ^ 16, body := q.2 })
  | .credit dst units epoch =>
    [{ typ := typeIn 0x18 0, dst := dst.ord.toNat, target := epTarget dst, key := epKey dst, epoch := epoch
       body := toBytes 4 units }]
  | .probe dst p =>
    [{ typ := typeIn 0x18 1, dst := dst.ord.toNat, target := epTarget dst, tag := epTarget p.forwarder.ep
       key := epKey p.forwarder.ep, body := toBytes 8 (probeWord p.origin 0) ++ toBytes 8 (probeWord p.forwarder p.hops) }]
  | .messageAck dst gen seq err =>
    [{ typ := typeIn 0x28 0, dst := dst.ord.toNat, target := epTarget dst, key := epKey dst, gen := gen
       body := toBytes 4 seq.toNat ++ toBytes 1 (if err then 1 else 0) }]
  | .jobRead t gen seq a len h => [accessCargo (typeIn 0x20 0) h t gen seq (toBytes 8 a.toNat ++ toBytes 4 len)]
  | .jobWrite t gen seq a data _ h => (cutPayload data).map (fun q =>
      { accessCargo 0x81 h t gen seq q.2 with arg := seq.toNat + (a.toNat + 2048 * q.1) % 2 ^ 32 * 2 ^ 16 })
  | .atomic t gen seq a aop wide x expect h => [accessCargo (typeIn 0x20 1) h t gen seq
      (toBytes 8 a.toNat ++ toBytes 1 (aop.toNat * 2 + if wide then 1 else 0) ++ toBytes 8 x.toNat ++ toBytes 8 expect.toNat)]
  | .homeData req _ data => (cutPayload data).flatMap (fun q => replyCargo 0x82 req q.2)
  | .homeAck req a len => replyCargo (typeIn 0x28 1) req (toBytes 8 a ++ toBytes 4 len)
  | .homeOld req old => replyCargo (typeIn 0x28 2) req (toBytes 8 old.toNat)
  | .homeErr req a => replyCargo (typeIn 0x28 3) req (toBytes 8 a)
  | .bar2Read a len =>
    [{ typ := typeIn 0x20 0, dst := (s.homeRef a).home, body := toBytes 8 a ++ toBytes 4 len }]
  | .bar2Write a data => (cutPayload data).map (fun q => { typ := 0x81, dst := (s.homeRef a).home, arg := (a + 2048 * q.1) % 2 ^ 48, body := q.2 })
  | .engineRead plan a len =>
    [{ typ := typeIn 0x20 0, dst := (s.homeRef a).home, tag := plan % 2 ^ 16, key := plan,
       body := toBytes 8 a ++ toBytes 4 len }]
  | .engineWrite plan a data => (cutPayload data).map (fun q =>
      { typ := 0x81, dst := (s.homeRef a).home, tag := plan % 2 ^ 16, key := plan, arg := (a + 2048 * q.1) % 2 ^ 48, body := q.2 })
  | .weavePortion o bytes => (cutPayload bytes).map (fun q => { typ := 0x85, dst := o, arg := q.1, body := q.2 })
  | .weaveConfirm o c =>
    [{ typ := typeIn 0x30 0, dst := o, body := toBytes 8 (epKey c.who) ++ toBytes 8 (epKey c.peer) ++
      toBytes 2 (c.maxU.toNat + if c.active then 256 else 0) ++ toBytes 2 c.creditMax.toNat ++ toBytes 2 c.loop.toNat ++ toBytes 2 c.rank.toNat }]
  | .weaveAnswer o who code =>
    [{ typ := typeIn 0x38 0, dst := o, body := toBytes 8 (epKey who) ++ toBytes 1 code.toNat }]
  | .ctrl typ dst step code => (match dst with | some d => [d] | none => List.range s.devices).map (fun d =>
      { typ := typ, dst := d, body := voteBytes step.toNat code 0 })
  | .doneStart step code => (List.range s.devices).map (fun d => { typ := 0x0E, dst := d, body := voteBytes step.toNat code 0, arg := 1 })
  | .mirrorCtl dst code count =>
    [{ typ := 0x0F, dst := dst, body := voteBytes s.committed code count }]
  | .mirrorData dst serial lpn sub chunk data =>
    [{ typ := 0x84, dst := dst, arg := serial.toNat * 2 ^ 32 + lpn * 2 ^ 10 + sub * 2 ^ 5 + chunk, body := data }]
  | .runWindow first last =>
    [{ typ := typeIn 0x20 2, dst := s.primaryOrd, body := toBytes 8 first ++ toBytes 8 last }]
  | .ctrlAsk action =>
    [{ typ := typeIn 0x20 3, dst := s.primaryOrd, body := toBytes 1 action }]
  | .piece dst plan run level data => (cutPayload data).map (pieceCargo dst plan run 0 level)
  | .digest dst plan run level d => [pieceCargo dst plan run 1 level (0, d)]
  | .resultDigest dst plan run d => [pieceCargo dst plan run 2 0 (0, d)]
  | .queryAnswer dst a =>
    [{ typ := 0x0B, dst := dst, body := voteBytes a.step.toNat 3 a.code.toNat }]
  | .notice typ n manager => (s.noticeTo typ manager).map (fun d => { typ := typ, dst := d.1, target := d.2, body := noticeBytes n })
  | .fabricErr dst k =>
    [{ typ := 0x04, dst := s.wordOrd dst, target := bits dst.toNat 17 0, gen := k.gen, body := toBytes 8 (pktWord0 k) }]
  | .cne dst about =>
    [{ typ := 0x03, dst := s.wordOrd dst, body := toBytes 4 about.toNat }]
  | .memberAccess pos off size wr =>
    [{ typ := typeIn 0x20 4, dst := s.ordAt (s.fget F.HQ_HERD.H) pos
       body := toBytes 4 off ++ toBytes 1 size ++ (match wr with | some v => toBytes 8 v.toNat | none => []) }]
  | _ => []

/-- The tile from which an output leaves, whose row its blocks follow (R323). -/
def senderTile : Output → Option TileId
  | .message _ m => some m.who.tile
  | .jobRead t .. => some t
  | .jobWrite t .. => some t
  | .atomic t .. => some t
  | _ => none

/-- The packets that carry output number `n` of this device to other devices, in order. -/
def State.packetsOf (s : State) (n : Nat) : List Packet :=
  match s.out[n]? with
  | some o => ((s.cargoOf o).filter (fun l => l.dst != s.ord.toNat)).map s.packetOf
  | none => []

end Sys2Proof.Machine
end

