-- ==== Sys2Proof/Machine/RegFile.lean ====
section
/-! DEFINITION. Reading, writing and resetting whole registers of BAR0 by the rules of the register tables (R5 to R11). -/

namespace Sys2Proof.Machine

/-! ## Finding a register -/

/-- The register that holds a BAR0 offset, and its index; of a 64-bit register both halves. -/
def regAt (off : Nat) : Option (RegD × Nat) :=
  firstReg regTable
where
  firstReg : List RegD → Option (RegD × Nat)
    | [] => none
    | r :: rs =>
      let n := if r.wide then 8 else 4
      let i := if r.stride = 0 then 0 else (off - r.off) / r.stride
      if r.off ≤ off ∧ r.first ≤ i ∧ i < r.last ∧ off - (r.off + r.stride * i) < n then some (r, i) else firstReg rs

/-- Offset of the register itself. -/
def RegD.at (r : RegD) (i : Nat) : Nat := r.off + r.stride * i

/-! ## Values -/

/-- What a read of the register's stored fields returns: WO fields read as zero (R9). -/
def State.rawReg (s : State) (r : RegD) (i : Nat) : Nat :=
  (r.fields.map (fun f => if f.acc = .wo then 0 else s.fget (f.ix i) * 2 ^ f.lsb)).sum

/-- A write's value for a field. -/
def Fld.of (f : Fld) (v : Nat) : Nat := bits v f.msb f.lsb

/-- A field takes a written value (R9); false when the value is out of range (R8). -/
def State.writeFld (s : State) (f : Fld) (v : Nat) : Bool × State :=
  match f.acc with
  | .rw | .rwl => if f.lo ≤ v ∧ v ≤ f.hi then (true, s.fset f v) else (false, s)
  | .w1c => (true, s.fset f (s.fget f &&& (2 ^ f.width - 1 - v)))
  | .w1s => (true, s.fset f (s.fget f ||| v))
  | .wo => (decide (f.lo ≤ v ∧ v ≤ f.hi), s)
  | .ro | .rc => (true, s)

/-- Fields that the write may not change at all are named by `locked`: a write that would change one is refused for it. -/
def State.writeFlds (s : State) (r : RegD) (i : Nat) (v : Nat) (locked : Fld → Bool) : Bool × State :=
  r.fields.foldl (fun (acc : Bool × State) f =>
    let g := f.ix i
    let x := f.of v
    if locked f then (acc.1 && decide (x = acc.2.fget g), acc.2)
    else
      let (ok, t) := acc.2.writeFld g x
      (acc.1 && ok, t)) (true, s)

/-- Write a register; a refusal writes one event record (R8). -/
def State.writeReg (s : State) (r : RegD) (i : Nat) (v : Nat) (locked : Fld → Bool) : State :=
  let (ok, t) := s.writeFlds r i v locked
  if ok then t else t.refuseWrite (r.at i) v

def nothingLocked (_ : Fld) : Bool := false

/-- Write the register at an offset as its table says. -/
def State.writeAt (s : State) (off : Nat) (v : Nat) : State :=
  match regAt off with
  | some (r, i) => s.writeReg r i v nothingLocked
  | none => s

/-- Clear the RC fields that lie in bits [hi:lo] of a register (R6, R9). -/
def State.clearRc (s : State) (r : RegD) (i hi lo : Nat) : State :=
  r.fields.foldl (fun s f => if f.acc = .rc ∧ lo ≤ f.lsb ∧ f.lsb ≤ hi then s.fset (f.ix i) 0 else s) s

/-- Registers whose map clears every field at the read of the lower half (R6): FLT_MESH_CNT and OL_PORT_ERR_p. -/
def clearsAtLower (off : Nat) : Bool := off == 0x70218 || off == 0xC0110

/-- The bits whose RC fields a read of one half of a 64-bit register clears: those of that half, or by the register's map all at the
lower half and none at the upper (R6). -/
def halfSpan (off : Nat) (upper : Bool) : Option (Nat × Nat) :=
  if clearsAtLower off then (if upper then none else some (63, 0)) else if upper then some (63, 32) else some (31, 0)

/-! ## Resets (R11) -/

/-- The field that a key of the register map stands for. -/
def keyFld (key : Nat) : Option Fld :=
  (regAt (key / 64)).bind (fun p => p.1.fields.find? (fun f => f.lsb == key % 64))

/-- The sources that restore the register's fields include one of `src`. -/
def restores (src : SrcMask) (f : Fld) : Bool := f.src &&& src != 0

/-- A reset restores every field that lists one of its sources, among the registers that `here` selects by offset; the write latches
of registers it restores are reloaded, which an empty latch stands for (R6). DESIGN CHOICE (log 30): it empties their read latches. -/
def State.restoreRegs (s : State) (src : SrcMask) (here : Nat → Bool) : State :=
  let hit (key : Nat) : Bool := here (key / 64) && (match keyFld key with | some f => restores src f | none => false)
  let regHit (off : Nat) : Bool := here off && (match regAt off with
    | some (r, _) => r.fields.any (restores src)
    | none => false)
  { s with regs := s.regs.filter (fun p => !hit p.1)
           wlatch := s.wlatch.filter (fun p => !regHit p.1)
           rlatch := s.rlatch.filter (fun p => !regHit p.1) }

/-- Every change of the soft map is written to the older copy, with the next sequence number (R484). -/
def State.setSoft (s : State) (f : Soft → Soft) : State :=
  let n := (s.soft.seq + 1) % 2 ^ 24
  ({ s with soft := { f s.soft with seq := n }, softOld := s.soft }.fset F.MAP_STATUS.SOFT_SEQ n).fsetb F.MAP_STATUS.SOFT_OK true

end Sys2Proof.Machine
end

