-- ==== Sys2Proof/Machine/Fabric.lean ====
section
/-! DEFINITION. The Ohmesque fabric (R337 to R372): links and replay, routing and delivery, training, link-state advertisements and
routes, congestion, and the loss of a port. -/

namespace Sys2Proof.Machine

/-! ## Ports -/

def Port.empty : Port :=
  { rxNext := 0, good := 0, waitRs := false, fails := 0, nakDue := none, ackDue := false, credDue := [], inq := [], rxIn := none
    txNext := 0, replay := [], tx := [], off := 0, rs := false, tries := 0, credit := [], inj := [], hold := none, lateReq := 0, lateBg := 0
    turns := [], lanesHere := 0, rxPeer := 0, presets := [], ident := 0, lost := false, bye := none }

/-- A port whose link starts afresh: only the presets are kept (R361). -/
def Port.fresh (x : Port) : Port := { Port.empty with presets := x.presets }

/-- The half that a port's link block lies in (R337): odd ports are the East half's. -/
def portEast (p : Nat) : Bool := p % 2 == 1

/-- Endpoint code of the link-block port of a half on a row (R251, R323). -/
def linkPlace (east : Bool) (row : Nat) : W16 := BitVec.ofNat 16 (2 * 2 ^ 14 + (if east then 1 else 0) * 2 ^ 7 + row)

def State.port (s : State) (p : Nat) : Port := mapGet Port.empty s.ports p
def State.setPort (s : State) (p : Nat) (x : Port) : State := { s with ports := mapIns p x s.ports }

def State.setPortState (s : State) (p st : Nat) : State := s.fset (F.OL_PORT_STATUS.STATE.ix p) st
def State.setResult (s : State) (p r : Nat) : State := s.fset (F.OL_PORT_STATUS.RESULT.ix p) r

/-- OL_PORT_STATUS_p as a word. -/
def State.portStatus (s : State) (p : Nat) : Nat :=
  s.portState p * 2 ^ 28 + s.fget (F.OL_PORT_STATUS.RESULT.ix p) * 2 ^ 24 + s.fget (F.OL_PORT_STATUS.WIDTH.ix p) * 2 ^ 22
    + s.fget (F.OL_PORT_STATUS.LANES.ix p) * 2 ^ 14 + s.fget (F.OL_PORT_STATUS.WRAP.ix p) * 2 ^ 13

/-- Lanes of a WIDTH code. -/
def lanesOf (w : Nat) : Nat := match w with | 1 => 2 | 2 => 4 | 3 => 8 | _ => 0

/-- The first group of a width whose lane pairs are all good (R363). -/
def laneGroup (m : Byte) (size : Nat) : Option (List Nat) :=
  ((List.range (8 / size)).map (fun g => (List.range size).map (fun i => g * size + i))).find? (fun ls => ls.all (fun n => m.getLsbD n))

/-- The active lanes of a mask of good lane pairs: ×8, else ×4, else ×2 (R363). -/
def activeLanes (m : Byte) : List Nat := (((laneGroup m 8).or (laneGroup m 4)).or (laneGroup m 2)).getD []

/-- WIDTH that a mask of good lane pairs gives. -/
def widthOf (m : Byte) : Nat := match (activeLanes m).length with | 8 => 3 | 4 => 2 | 2 => 1 | _ => 0

/-- The active lanes of a port. -/
def State.portLanes (s : State) (p : Nat) : List Nat := activeLanes (BitVec.ofNat 8 (s.fget (F.OL_PORT_STATUS.LANES.ix p)))

/-- Room of a virtual channel, in units (R351). -/
def vcRoom (vc : Nat) : Nat := match vc / 2 with | 0 => 16 | 1 => 132 | 2 => 132 | _ => 66

/-! ## Link blocks and replay (R341 to R346) -/

/-- LSEQ is counted modulo 4,096. -/
def seqMod : Nat := 4096

/-- A port carries codewords: from CREDIT_INIT to ACTIVE. -/
def State.linkUp (s : State) (n : Nat) : Bool := decide (tsCredit ≤ s.portState n ∧ s.portState n ≤ tsActive)

/-- The packet whose payload is arriving, and the block of it that comes next. -/
def Port.arriving (x : Port) : Option (Nat × InPkt × Nat) :=
  match x.rxIn with
  | none => none
  | some vc => ((mapGet [] x.inq vc).getLast?).bind (fun e => if e.left = 0 then none else some (vc, e, pktBlocks e.pkt - e.left))

/-- A link block meets its CRC (R343): HCRC, or the BCRC entry of the packet that is arriving. -/
def Port.blockGood (x : Port) (b : LinkBody) : Bool :=
  match b.item with
  | .head k h => h == hcrcOf k b.lseq.toNat
  | .data bs => match x.arriving with
    | some (_, e, i) => b.lseq.toNat != x.rxNext || payloadGood e.pkt i bs
    | none => true

/-- A good block in order enters its input buffer (R346, R351). A first unit that comes before the last block of the packet before it
ends that packet, which is discarded. A packet of a port's own link, IDENT or LSA, has commands of its own. -/
def Port.store (x : Port) (b : LinkBody) : Port :=
  match b.item with
  | .head k _ =>
    let x := match x.arriving with
      | some (vc, _, _) => { x with inq := mapPut [] vc ((mapGet [] x.inq vc).dropLast) x.inq, rxIn := none }
      | none => x
    if k.typ = 0x01 ∨ k.typ = 0x02 then x
    else
      let vc := pktVc k
      { x with inq := mapPut [] vc (mapGet [] x.inq vc ++ [⟨{ k with payload := [] }, pktBlocks k, none, false⟩]) x.inq, rxIn := some vc }
  | .data bs => match x.arriving with
    | some (vc, e, i) =>
      let e' : InPkt := { e with left := e.left - 1, pkt := { e.pkt with payload := e.pkt.payload ++ bs.take (blockBytes e.pkt i) } }
      { x with inq := mapPut [] vc ((mapGet [] x.inq vc).dropLast ++ [e']) x.inq }
    | none => x

/-- One link block at the receiver: discarded while a replay is awaited; a failed one is asked for once, and its fifth failure, that of
its fourth replay, loses the link; a good one in order is taken; one taken before is acknowledged again (R344, R345). -/
def State.takeBlock (s : State) (n : Nat) (bad : Bool) (b : LinkBody) : State :=
  let x := s.port n
  if x.waitRs then s
  else if bad || !x.blockGood b then
    (s.fadd (F.OL_PORT_ERR.CRC_FAIL.ix n) 1).setPort n { x with waitRs := true, fails := x.fails + 1, nakDue := some x.rxNext
                                                                lost := x.lost || decide (4 ≤ x.fails) }
  else if b.lseq.toNat = x.rxNext then
    s.setPort n { x.store b with rxNext := (x.rxNext + 1) % seqMod, fails := 0, good := x.good + 1, ackDue := x.ackDue || decide (31 ≤ x.good) }
  else s.setPort n { x with ackDue := true }

/-- A codeword reaches the receiver (R340 to R345): the decoder corrects up to 15 symbols; one that it cannot correct is a failure of the
first link block with a unit in it, and its header says nothing. -/
def execLinkBlockReceive (p : PortNo) (b : LinkBlock) (s : State) : Outcome :=
  let n := p.toNat
  if !s.linkUp n then .next s
  else
    let lost := decide (15 < b.errs)
    let s := if lost then s.fadd (F.OL_PORT_ERR.CW_UNCORR.ix n) 1
      else if 0 < b.errs then s.fadd (F.OL_PORT_ERR.CW_CORR.ix n) 1 else s
    let s := if !lost && b.hdr.getLsbD 19 then s.setPort n { s.port n with waitRs := false } else s
    .next (b.blocks.zipIdx.foldl (fun s (q, i) => s.takeBlock n (lost && i == 0) q) s)

/-- A cumulative ACK is due, whether or not a block came since the last one (R344). -/
def execAckTimer (p : PortNo) (s : State) : Outcome :=
  let n := p.toNat
  if s.linkUp n then .next (s.setPort n { s.port n with ackDue := true }) else .next s

/-- Blocks of a replay buffer after block `q`, which a cumulative ACK covers; all of them when it covers none. -/
def afterBlock (q : Nat) (bs : List LinkBody) : List LinkBody :=
  match bs.dropWhile (fun b => b.lseq.toNat != q) with
  | [] => bs
  | _ :: rest => rest

/-- A codeword header brings an ACK. -/
def execAckReceived (p : PortNo) (hdr : BitVec 20) (s : State) : Outcome :=
  let x := s.port p.toNat
  let left := afterBlock (hdrSeq hdr) x.replay
  if hdrKind hdr ≠ 1 then .next s
  else .next (s.setPort p.toNat { x with replay := left, tries := if left = x.replay then x.tries else 0 })

/-- Resend from the oldest block, and mark where the replay begins; when that block has been replayed four times already the link is lost
(R344, R345). -/
def State.resend (s : State) (n : Nat) : State :=
  let x := s.port n
  match x.replay with
  | [] => s
  | b :: _ =>
    if x.tries ≥ 4 then s.setPort n { x with lost := true }
    else ((s.setPort n { x with tries := x.tries + 1, tx := x.replay, off := 0, rs := true }).fadd (F.OL_PORT_ERR.REPLAYS.ix n) 1).emit
      (.linkReplay n b.lseq.toNat)

/-- NAK q: every block before q has arrived, and the link resends from q (R344). -/
def execNakReceived (p : PortNo) (hdr : BitVec 20) (s : State) : Outcome :=
  let n := p.toNat
  let x := s.port n
  let left := x.replay.dropWhile (fun b => b.lseq.toNat != hdrSeq hdr)
  if hdrKind hdr ≠ 2 || left.isEmpty then .next s
  else .next ((s.setPort n { x with replay := left, tries := if left = x.replay then x.tries else 0 }).resend n)

def execReplayTimeout (p : PortNo) (s : State) : Outcome := .next (s.resend p.toNat)

/-- A codeword header returns credit (R341, R351). -/
def execLinkCreditReceived (p : PortNo) (hdr : BitVec 20) (s : State) : Outcome :=
  let x := s.port p.toNat
  let vc := bits (hdrValue hdr) 16 14
  let v := min (vcRoom vc) (mapGet 0 x.credit vc + bits (hdrValue hdr) 13 0)
  if hdrKind hdr ≠ 3 then .next s
  else .next (s.setPort p.toNat { x with credit := mapPut 0 vc v x.credit })

/-- The receiver has lost codeword lock for 1 µs (R345). -/
def execLockLoss (p : PortNo) (s : State) : Outcome :=
  if s.portState p.toNat = tsActive then .next (s.setPort p.toNat { s.port p.toNat with lost := true }) else .next s

/-! ## Routing (R353 to R360) -/

/-- A packet is discarded at a hop (R348, R354, R360): it is counted and answered with ERR. -/
def State.dropPacket (s : State) (src : Option Nat) (k : Packet) : State :=
  (s.fadd (F.OL_PORT_TRAFFIC.DROPPED.ix (src.getD 0)) 1).emit (.fabricErr k.src k)

/-- Herd size of the descriptor in force, which HQ_HERD.N shows from the end of stage 6 on. -/
def State.topoN (s : State) : Nat := max 16 (le s.descr 0x0C 2)

/-- Position of a coordinate within the herd (R354). -/
def State.wordPos (s : State) (w : W32) : Nat := posOf s.topoN (bits w.toNat 23 22) (bits w.toNat 21 20) (bits w.toNat 19 18)

/-- The port that a packet takes (R354, R357, R358); none when the destination is unroutable from here. -/
def State.outPort (s : State) (k : Packet) : Option Nat :=
  let w (p : Nat) : Nat := mapGet 0 s.weights p
  if bits k.dst.toNat 31 24 ≠ s.fget F.HQ_HERD.H then
    let total := w 12 + w 13 + w 14 + w 15
    if total = 0 then none
    else
      let x := k.flow.toNat % total
      some (if x < w 12 then 12 else if x < w 12 + w 13 then 13 else if x < w 12 + w 13 + w 14 then 14 else 15)
  else
    let n := s.wordPos k.dst
    let d := s.fget (F.OL_RT.DIR.ix n)
    if !s.fbit (F.OL_RT.VALID.ix n) || d ≥ 6 || w (2 * d) + w (2 * d + 1) = 0 then none
    else some (if k.flow.toNat % (w (2 * d) + w (2 * d + 1)) < w (2 * d) then 2 * d else 2 * d + 1)

/-- The dateline bit with which a packet leaves (R356). -/
def State.dateline (s : State) (src out : Nat) (k : Packet) : Bool :=
  (decide (src < 12 ∧ out < 12 ∧ src / 4 = out / 4) && k.dl) || s.fbit (F.OL_PORT_STATUS.WRAP.ix out)

/-- The oldest packet of an input channel. -/
def Port.front (x : Port) (vc : Nat) : Option InPkt := (mapGet [] x.inq vc).head?

/-- The oldest packet of an input channel is gone, and the room that it held is credit due to the peer (R351). -/
def State.freeInput (s : State) (p vc : Nat) : State :=
  let x := s.port p
  match x.front vc with
  | none => s
  | some e => s.setPort p { x with inq := mapPut [] vc ((mapGet [] x.inq vc).drop 1) x.inq
                                   credDue := mapPut 0 vc (mapGet 0 x.credDue vc + pktUnits e.pkt) x.credDue }

/-- This device is the packet's destination. -/
def State.isHere (s : State) (k : Packet) : Bool := bits k.dst.toNat 31 24 == s.fget F.HQ_HERD.H && s.wordPos k.dst == s.pos

/-- A port's packet as it waits in its buffer, with the output that it is routed to. -/
def State.setFront (s : State) (p vc : Nat) (e : InPkt) : State :=
  let x := s.port p
  s.setPort p { x with inq := mapPut [] vc (e :: (mapGet [] x.inq vc).drop 1) x.inq }

/-- The oldest packet of an input channel is routed (R354): to an output, as soon as its first unit has arrived; delivered here or
discarded, when all of it has. RSP waits on no REQ nor BG buffer (R353): each channel has its own. A packet that its output gave up with
its link goes. -/
def State.routeInput (s : State) (p vc : Nat) : State :=
  match (s.port p).front vc with
  | none => s
  | some e =>
    if e.begun then
      if e.out.any (fun q => ((s.port q).hold.any (fun h => h.src == p && h.vc == vc))) || e.left ≠ 0 then s else s.freeInput p vc
    else
      let drop := !pktDefined e.pkt || (!s.isHere e.pkt && (decide (15 ≤ e.pkt.hops.toNat) || (s.outPort e.pkt).isNone))
      if drop then if e.left = 0 then (s.dropPacket (some p) e.pkt).freeInput p vc else s
      else if s.isHere e.pkt then if e.left = 0 then (s.emit (.deliver e.pkt)).freeInput p vc else s
      else
        let q := (s.outPort e.pkt).getD 0
        let s := if portEast p != portEast q && e.out != some q then s.emit (.acrossSeam p q e.pkt) else s
        s.setFront p vc { e with out := some q }

/-- A packet of this device is routed (R323, R354, R357): it goes to the link block of its output's half, or it is discarded. -/
def State.routeOwn (s : State) (row : Option TileId) (k : Packet) : State :=
  match s.outPort k with
  | none => s.dropPacket none k
  | some q =>
    let x := s.port q
    let s := s.setPort q { x with inj := x.inj ++ [k] }
    match row with
    | some t => s.emit (.toLink (linkPlace (portEast q) (tileY t)) q k)
    | none => s

/-- A packet that arrived on a port, or one of those that carry an output of this device, each once and in order. -/
def execPacketRoute (src : PacketSrc) (s : State) : Outcome :=
  match src with
  | .port p vc => .next (s.routeInput p.toNat vc.toNat)
  | .own n i =>
    if mapGet 0 s.routed n ≠ i then .next s
    else match (s.packetsOf n)[i]? with
      | none => .next s
      | some k => .next ({ s with routed := mapIns n (i + 1) s.routed }.routeOwn ((s.out[n]?).bind senderTile) k)

/-! ## The rate limiter (R371) -/

/-- The bucket: two packets of the largest size, in eighths of a byte. It fills by RATE × 3.125 bytes in a nanosecond. -/
def bucketMax : Nat := 2 * 2112 * 8
def Rate.fill (r : Rate) (now : Nat) : Rate := { r with level := min bucketMax (r.level + r.rate * 25 * (now - r.at_)), at_ := max now r.at_ }

/-- The limiter paces a packet: REQ and BG data. -/
def isPaced (k : Packet) : Bool := pktData k && decide (2 ≤ k.cls.toNat)
def pktCost (k : Packet) : Nat := pktUnits k * 64 * 8

/-- The bucket of its destination lets a packet go, and what is left. -/
def State.paceOk (s : State) (k : Packet) : Bool :=
  match mapFind s.rates (s.wordOrd k.dst) with
  | some r => !isPaced k || decide (pktCost k ≤ (r.fill s.now).level)
  | none => true
def State.pay (s : State) (k : Packet) : State :=
  match mapFind s.rates (s.wordOrd k.dst) with
  | some r =>
    let r := r.fill s.now
    if isPaced k then { s with rates := mapIns (s.wordOrd k.dst) { r with level := r.level - pktCost k } s.rates } else s
  | none => s

/-- A CNE cuts the rate toward a destination; one within 4 µs of the last cut is ignored. -/
def execCneReceived (dst : DevOrd) (now : Nat) (s : State) : Outcome :=
  let s := s.at now
  let d := dst.toNat
  match mapFind s.rates d with
  | some r =>
    if now < r.cut + 4000 then .next s
    else .next { s with rates := mapIns d { r.fill s.now with rate := max 1 (r.rate - cdiv r.rate 8), cut := now } s.rates }
  | none =>
    -- a full table gives up the entry with the highest RATE
    let rates := if s.rates.length < 256 then s.rates
      else match s.rates.foldl (fun (a : Option (Nat × Nat)) p => match a with
          | some (_, v) => if p.2.rate > v then some (p.1, p.2.rate) else a
          | none => some (p.1, p.2.rate)) none with
        | some (k, _) => mapDel k s.rates
        | none => s.rates
    .next { s with rates := mapIns d ⟨64 - cdiv 64 8, now, bucketMax, s.now⟩ rates }

/-- 16 µs without a CNE: RATE rises by 1, and an entry at 64 is freed. -/
def execRateRecoveryTimer (dst : DevOrd) (s : State) : Outcome :=
  let d := dst.toNat
  match mapFind s.rates d with
  | none => .next s
  | some r => .next { s with rates := if r.rate + 1 ≥ 64 then mapDel d s.rates else mapIns d { r.fill s.now with rate := r.rate + 1 } s.rates }

/-! ## Outputs (R341, R344, R346, R352, R369) -/

/-- A packet that could begin on an output: the port and channel where it waits, 16 for one of this device. -/
structure Waiting where
  src : Nat
  vc : Nat
  pkt : Packet
  deriving DecidableEq, Repr

/-- The packets that wait for output `q`: the oldest of each input channel, and the oldest of this device in each class. -/
def State.waiting (s : State) (q : Nat) : List Waiting :=
  (s.ports.flatMap (fun p => p.2.inq.filterMap (fun c => c.2.head?.bind (fun e =>
      if e.out == some q && !e.begun then some ⟨p.1, c.1, e.pkt⟩ else none))))
    ++ (List.range 4).filterMap (fun c => ((s.port q).inj.find? (fun k => k.cls.toNat == c)).map (fun k => ⟨16, 2 * c, k⟩))

/-- The channel by which a packet leaves, and whether the output can take all of it: credit, replay room, and pace (R344, R352, R371). -/
def State.outVc (s : State) (q : Nat) (w : Waiting) : Nat := 2 * w.pkt.cls.toNat + if s.dateline w.src q w.pkt then 1 else 0
def replayBytes (bs : List LinkBody) : Nat := (bs.map (fun b => (bodyBytes b).length)).sum
def State.canBegin (s : State) (q : Nat) (w : Waiting) : Bool :=
  decide (pktUnits w.pkt ≤ mapGet 0 (s.port q).credit (s.outVc q w))
    && decide (replayBytes (s.port q).replay + pktUnits w.pkt * 64 ≤ 65536) && (w.src != 16 || s.paceOk w.pkt)

/-- The class that an output serves: REQ when it has been refused 15 times in a row, BG when 31 times, else the highest (R352). -/
def pickClass (x : Port) (ws : List Waiting) : Option Nat :=
  let has (c : Nat) : Bool := ws.any (fun w => w.pkt.cls.toNat == c)
  if has 2 && decide (15 ≤ x.lateReq) then some 2 else if has 3 && decide (31 ≤ x.lateBg) then some 3 else (List.range 4).find? has

/-- Of the packets of one class, the first after the input and dateline served last. -/
def pickTurn (last : Nat) (ws : List Waiting) : Option Waiting :=
  let turn (w : Waiting) : Nat := (w.src * 2 + w.vc % 2 + 34 - last) % 34
  match ws with
  | [] => none
  | w :: rest => some (rest.foldl (fun a b => if turn b < turn a then b else a) w)

/-- A link block joins what is to go, with the next number, and the replay buffer (R343, R344). -/
def Port.place (x : Port) (b : LinkBody) : Port :=
  { x with txNext := (x.txNext + 1) % seqMod, tx := x.tx ++ [b], replay := x.replay ++ [b] }

/-- A packet begins on an output (R350, R352, R369): its first unit goes with HOPS, DL, CM, LSEQ and HCRC as they leave. -/
def State.beginPacket (s : State) (q : Nat) (w : Waiting) : State :=
  let room := vcRoom w.vc
  let used := ((mapGet [] (s.port w.src).inq w.vc).map (fun e => 1 + cdiv e.pkt.payload.length 64)).sum
  let mark := w.src != 16 && pktData w.pkt && s.fbit F.OL_CTRL.CM_EN && decide (s.fget F.OL_CTRL.CM_THRESH * room < used * 128)
  let vc := s.outVc q w
  let k := { w.pkt with hops := w.pkt.hops + 1, dl := s.dateline w.src q w.pkt, cm := w.pkt.cm || mark }
  let s := if mark then s.fadd (F.OL_PORT_TRAFFIC.CM_MARKED.ix w.src) 1 else s
  let s := match (s.port w.src).front w.vc with
    | some e => if w.src = 16 then s else s.setFront w.src w.vc { e with begun := true }
    | none => s
  let s := if w.src = 16 then s.pay w.pkt else s
  let x := s.port q
  let ready := (s.waiting q).filter (s.canBegin q)
  let late (c n : Nat) : Nat := if w.pkt.cls.toNat = c then 0 else if ready.any (fun v => v.pkt.cls.toNat == c) then n + 1 else n
  let x := { x with credit := mapPut 0 vc (mapGet 0 x.credit vc - pktUnits w.pkt) x.credit, hold := some ⟨w.src, w.vc, k, 0⟩
                    inj := if w.src = 16 then dropOne w.pkt x.inj else x.inj, turns := mapIns w.pkt.cls.toNat (w.src * 2 + w.vc % 2 + 1) x.turns
                    lateReq := late 2 x.lateReq, lateBg := late 3 x.lateBg }
  s.setPort q (x.place (headBody k x.txNext))

/-- The next payload block of the packet that holds an output, when it has arrived here; with the last one the packet is through
(R346, R352). -/
def State.continuePacket (s : State) (q : Nat) (h : Held) : Option State :=
  let x := s.port q
  let k := if h.src = 16 then h.pkt
    else { h.pkt with payload := (((s.port h.src).front h.vc).map (fun e => e.pkt.payload)).getD [] }
  let gone := h.src != 16 && !((s.port h.src).front h.vc).any (fun e => e.begun && e.out == some q)
  if gone then some (s.setPort q { x with hold := none })
  else if h.sent ≥ pktBlocks h.pkt then
    let s := s.setPort q { x with hold := none }
    some (if h.src = 16 then s else s.freeInput h.src h.vc)
  else if k.payload.length < 256 * h.sent + blockBytes k h.sent then none
  else some (s.setPort q { (x.place ⟨BitVec.ofNat 12 x.txNext, .data (payloadBlock k h.sent)⟩) with hold := some { h with sent := h.sent + 1 } })

/-- An output takes one more block: of the packet that holds it, or of a new one. -/
def State.feedOne (s : State) (q : Nat) : Option State :=
  match (s.port q).hold with
  | some h => s.continuePacket q h
  | none =>
    let ready := (s.waiting q).filter (s.canBegin q)
    (pickClass (s.port q) ready).bind (fun c =>
      (pickTurn (mapGet 0 (s.port q).turns c) (ready.filter (fun w => w.pkt.cls.toNat == c))).map (s.beginPacket q))

/-- Units that stand ready to go. -/
def Port.unitsLeft (x : Port) : List (List Byte) := (x.tx.flatMap (fun b => toUnits (bodyBytes b))).drop x.off

/-- Feed an output until ten units stand ready. -/
def State.feed (q : Nat) : Nat → State → State
  | 0, s => s
  | n + 1, s => if 10 ≤ (s.port q).unitsLeft.length then s else match s.feedOne q with | some t => State.feed q n t | none => s

/-- What is left to go after `n` units, and how many of the first block's units have gone. -/
def advance : Nat → List LinkBody → List LinkBody × Nat
  | _, [] => ([], 0)
  | n, b :: bs => let u := (bodyBytes b).length / 64; if u ≤ n then advance (n - u) bs else (b :: bs, n)

/-- The link control of the next codeword, NAK before CREDIT before ACK: KIND and VALUE, and the port without it (R341). -/
def Port.control (x : Port) : Nat × Nat × Port :=
  match x.nakDue, x.credDue with
  | some q, _ => (2, q * 2 ^ 5, { x with nakDue := none })
  | none, (vc, u) :: rest => (3, vc * 2 ^ 14 + u % 2 ^ 14, { x with credDue := rest })
  | none, [] =>
    if x.ackDue then (1, (x.rxNext + seqMod - 1) % seqMod * 2 ^ 5, { x with ackDue := false, good := 0 }) else (0, 0, x)

/-- One codeword of a port (R340, R341): its header and up to ten units; in STANDBY and before, no packet. A codeword of nothing but idle
units is not listed. -/
def State.portCycle (s : State) (q : Nat) : State :=
  if !s.linkUp q then s
  else
    let s := if s.portState q = tsActive then State.feed q 40 s else s
    let (kind, value, x) := (s.port q).control
    let us := x.unitsLeft.take 10
    if kind = 0 && us.isEmpty then s
    else
      let (tx, off) := advance (x.off + us.length) x.tx
      (s.setPort q { x with tx := tx, off := off, rs := x.rs && us.isEmpty }).emit
        (codewordOut q (s.portLanes q) (linkHdr (x.rs && !us.isEmpty) kind value) us)

/-- One codeword of every port. -/
def State.fabricCycle (s : State) : State := (s.ports.map Prod.fst).foldl State.portCycle s

/-! ## Delivery (R348, R350, R370) -/

/-- An error of the device that makes a running step dirty (R425). -/
def State.devErr (s : State) (code flags : Nat) (unit : Byte) (loc : W32) (data : Nat) (urgent : Bool) : State :=
  let s := if s.stepRunning then { s with endDirty := true } else s
  s.emit (.report (s.mkReport code flags unit loc 0 0 data) urgent)

/-- A congestion echo is due for the packet's source (R370): none was sent to it within 1 µs. -/
def State.echo (s : State) (k : Packet) (now : Nat) : State :=
  let o := s.wordOrd k.src
  if s.cneSent.any (fun c => c.1 == o && decide (now < c.2 + 1000)) then s
  else
    let rest := s.cneSent.filter (fun c => c.1 != o)
    let rest := if rest.length ≥ 64 then rest.drop 1 else rest
    { s with cneSent := rest ++ [(o, now)] }.emit (.cne k.src k.dst)

/-- A packet reaches its destination device, which wakes for it (R507), checks ECRC and every BCRC again, and hands it to its target (R348, R350, R370). -/
def execPacketDeliver (pkt : Packet) (now : Nat) (s : State) : Outcome :=
  let s := s.at now
  if s.deviceAsleep then .next (s.keepReq (.packet pkt now))
  else if !pktDefined pkt then .next (s.dropPacket none pkt)
  else if !pktSound pkt then .next (s.emit (.fabricErr pkt.src pkt))
  else
    let s := if pktData pkt && pkt.cm then s.echo pkt now else s
    -- an ERR ends the operation it belonged to, and is reported
    let s := if pkt.typ = 0x04 then s.devErr 0x4002 (errFlags false 0) 5 (unitLoc 0) (data2 (s.portStatus 0) (pktWord0 pkt)) false else s
    .next (s.emit (.handed pkt))

/-! ## The descriptor (R366) -/

/-- ENTRY_p of a descriptor. -/
def descEntry (d : List Byte) (p : Nat) : Nat := le d (0x20 + 8 * p) 8

def entryUse (e : Nat) : Nat := bits e 63 62
def entryMinw (e : Nat) : Nat := bits e 61 60
def entrySw (e : Nat) : Bool := bit e 59

/-- The peer that R20, R338 and R339 give a torus port: its coordinate word bits [31:18], and its port. -/
def torusPeer (n h i j k p : Nat) : Nat × Nat :=
  let plus := p % 4 < 2
  let size := if p / 4 = 2 then n / 16 else 4
  let turn (c : Nat) : Nat := if plus then (c + 1) % max 1 size else (c + max 1 size - 1) % max 1 size
  let c := match p / 4 with
    | 0 => h * 2 ^ 6 + turn i * 2 ^ 4 + j * 2 ^ 2 + k
    | 1 => h * 2 ^ 6 + i * 2 ^ 4 + turn j * 2 ^ 2 + k
    | _ => h * 2 ^ 6 + i * 2 ^ 4 + j * 2 ^ 2 + turn k
  (c, if plus then p + 2 else p - 2)

/-- A descriptor that the STAG does not refuse (R366). -/
def descValid (d : List Byte) : Bool :=
  let n := le d 0x0C 2
  let herds := le d 0x0E 2
  let self := le d 0x08 4
  d.length == 160 && le d 0 4 == 0x3144544F && le d 4 4 != 0
    && le d 0x1C 4 == (crc32c (d.take 0x1C ++ (d.drop 0x20).take 0x80)).toNat
    && (n == 16 || n == 32 || n == 64) && 1 ≤ herds && herds ≤ 256 && bits self 17 0 == 0
    && bits self 19 18 < n / 16 && bits self 31 24 < herds
    && (List.range 12).all (fun i => le d (0x10 + i) 1 == 0)
    && (List.range 16).all (fun p =>
      let e := descEntry d p
      entryUse e != 3 && entryMinw e != 3 && bits e 24 0 == 0
        && (entryUse e == 0
          || (if p < 12 then
                !entrySw e && bits e 40 25 == 0 && !(p ≥ 8 && n == 16)
                  && decide ((bits e 54 41, bits e 58 55)
                    = torusPeer n (bits self 31 24) (bits self 23 22) (bits self 21 20) (bits self 19 18) p)
              else herds > 1 && entrySw e && bits e 54 41 == 0)))

/-! ## Training (R361 to R365) -/

/-- A port in a training state fails (R361). -/
def State.trainFail (s : State) (p result : Nat) : State := (s.setPortState p tsFailed).setResult p result

/-- The training words that a port sends in its state, one for each lane; `ack` when it has heard 16 good words of the peer's state. -/
def State.sendTraining (s : State) (p : Nat) (ack : Bool) : State :=
  let st := s.portState p
  s.emit (.training p ((List.range 8).map (fun l =>
    trainWord st l (if st = tsAlign then (s.port p).lanesHere.toNat else 0) (Config.preset p l).toNat ack)))

/-- A port enters a state in which it sends training words. -/
def State.enterTraining (s : State) (p st : Nat) (ack : Bool) : State := (s.setPortState p st).sendTraining p ack

/-- Bit errors with which a lane still passes LANE_TEST: fewer than 21,475 in 2^31 bits, and in RETRAIN 2,685 in 2^28 (R361, R363). -/
def errLimit (st : Nat) : Nat := if st = tsRetrain then 2685 else 21475
def goodLanes (st : Nat) (errs : List Nat) : Byte :=
  BitVec.ofNat 8 (((List.range 8).filter (fun l => decide (errs.getD l (errLimit st) < errLimit st))).map (fun l => 2 ^ l)).sum

/-- Words that arrive on a lane (R361 to R363): 16 good ones in a row of the peer's state, this one's or the next, are answered with
ACK; with ACK = 1 in them the port moves on. `errs` are the errors that the lane test counts here. -/
def execTrainingStateAdvance (p : PortNo) (lane : BitVec 3) (words : List (BitVec 128)) (errs : List Nat) (s : State) : Outcome :=
  let n := p.toNat
  let st := s.portState n
  let next := if st = tsRetrain then tsAlign else st + 1
  let last := words.drop (words.length - 16)
  let w := last.getLastD 0
  let fits := last.length == 16 && last.all (fun v => twGood lane v && (twState v == st || twState v == next))
  if !fits || !((tsDetect ≤ st && st ≤ tsAlign) || st = tsRetrain) then .next s
  else
    let x := s.port n
    let s := s.setPort n { x with presets := mapIns lane.toNat (twPreset w) x.presets, rxPeer := twRxGood w
                                  lanesHere := if st = tsLaneTest ∨ st = tsRetrain then goodLanes st errs else x.lanesHere }
    if !last.all twAck then .next (s.sendTraining n true)
    else if st ≠ tsAlign then .next (s.enterTraining n next (twState w == next))
    else
      let pairs := (s.port n).lanesHere &&& twRxGood w
      let s := (s.fset (F.OL_PORT_STATUS.LANES.ix n) pairs.toNat).fset (F.OL_PORT_STATUS.WIDTH.ix n) (widthOf pairs)
      .next (if widthOf pairs = 0 then s.trainFail n 6 else s.setPortState n tsIdent)

def execDetectTimeout (p : PortNo) (s : State) : Outcome :=
  .next (if s.portState p.toNat = tsDetect then s.trainFail p.toNat 4 else s)

/-- A training state has passed its bound (R361). -/
def execTrainingTimeout (p : PortNo) (s : State) : Outcome :=
  let n := p.toNat
  match s.portState n with
  | 2 => .next (s.trainFail n 5)
  | 3 => .next (s.trainFail n 6)
  | 4 => .next (s.trainFail n (if widthOf ((s.port n).lanesHere &&& (s.port n).rxPeer) = 0 then 6 else 7))
  | 5 => .next (s.trainFail n 10)
  | 6 => .next (s.trainFail n 8)
  | 7 => .next (s.trainFail n 10)
  | 10 => .next (s.trainFail n 5)
  | _ => .next s

/-- This device's coordinate word. -/
def State.selfWord (s : State) : W32 := BitVec.ofNat 32 (le s.descr 0x08 4)

/-- IDENT CONTENT of this device on a port (R364). -/
def State.identContent (s : State) (p : Nat) : BitVec 256 :=
  BitVec.ofNat 256 (ofBytes (toBytes 1 0 ++ toBytes 1 p ++ toBytes 2 (le s.descr 0x0C 2) ++ toBytes 4 (le s.descr 0x08 4)
    ++ toBytes 4 (le s.descr 0x04 4) ++ toBytes 2 0 ++ toBytes 2 0 ++ toBytes 4 0x0F1A7264))

def execIdentTimer (p : PortNo) (s : State) : Outcome :=
  .next (if s.portState p.toNat = tsIdent then s.emit (.ident p.toNat (s.identContent p.toNat)) else s)

/-- Why CHECK fails (R365): 8 miswired, 9 HERD_N or SERIAL, 3 below MINW; 0 when it passes. -/
def State.checkIdent (s : State) (p : Nat) (c : Nat) : Nat :=
  let e := descEntry s.descr p
  let kind := bits c 7 0
  let wired :=
    if entrySw e then kind == 1 && bits c 111 96 == bits e 40 25 && bits c 127 112 + 12 == p
    else kind == 0 && bits c 63 50 == bits e 54 41 && bits c 15 8 == bits e 58 55
  let same := entrySw e || (bits c 31 16 == le s.descr 0x0C 2 && bits c 95 64 == le s.descr 0x04 4)
  if !wired then 8 else if !same then 9
  else if s.fget (F.OL_PORT_STATUS.WIDTH.ix p) < entryMinw e + 1 then 3 else 0

/-- An IDENT arrives: the port enters CHECK and compares it with the descriptor, which takes no command of its own; when it matches, the port
advertises its credits. -/
def execIdentReceived (p : PortNo) (content : BitVec 256) (s : State) : Outcome :=
  let n := p.toNat
  let st := s.portState n
  if st < tsIdent || st > tsActive then .next s
  else
    let s := (s.setPort n { s.port n with ident := content }).fset (F.OL_PORT_PEER.IDENT.ix n) (bits content.toNat 63 0)
    if st ≠ tsIdent then .next s
    else
      let s := s.setPortState n tsCheck
      match s.checkIdent n content.toNat with
      | 0 => .next ((s.setPortState n tsCredit).emit (.creditInit n ((List.range 8).map vcRoom)))
      | r => .next (s.trainFail n r)

/-- The peer's credits arrive: the link is trained, with fresh sequence numbers. -/
def execCreditInitReceived (p : PortNo) (units : List Nat) (s : State) : Outcome :=
  let n := p.toNat
  if s.portState n ≠ tsCredit then .next s
  else
    let x := s.port n
    let credit : SMap Nat := units.zipIdx.foldl (fun m (u, i) => mapPut 0 i u m) []
    let s := s.setPort n { Port.fresh x with credit := credit, lanesHere := x.lanesHere, rxPeer := x.rxPeer, ident := x.ident }
    .next ((s.setPortState n tsStandby).setResult n (if s.fget (F.OL_PORT_STATUS.WIDTH.ix n) = 3 then 1 else 2))

/-! ## Link-state advertisements and routes (R355, R359, R364, R367) -/

/-- Ports in STANDBY or ACTIVE. -/
def State.upPorts (s : State) : List Nat :=
  (List.range 16).filter (fun p => s.portState p = tsStandby ∨ s.portState p = tsActive)

/-- The member of an LSA is present (HQ_HERD_PRESENT). -/
def State.holdLsa (s : State) (l : Lsa) : State :=
  let n := s.wordPos l.coord
  let m := s.fget F.HQ_HERD_PRESENT.MASK
  { s with lsas := mapIns n l s.lsas }.fset F.HQ_HERD_PRESENT.MASK (m ||| 2 ^ n)

/-- Each device floods an LSA once no port of it is still training. -/
def execLsaFlood (s : State) : Outcome :=
  if (List.range 16).any (fun p => tsDetect ≤ s.portState p ∧ s.portState p ≤ tsCredit) then .next s
  else
    let n := s.lsaNum + 1
    let l : Lsa :=
      { coord := s.selfWord, serial := BitVec.ofNat 32 (le s.descr 4 4), num := n
        mask := BitVec.ofNat 16 ((s.upPorts.map (fun p => 2 ^ p)).sum)
        widths := BitVec.ofNat 32 (((List.range 16).map (fun p => s.fget (F.OL_PORT_STATUS.WIDTH.ix p) * 4 ^ p)).sum) }
    let s := { s with lsaNum := n }.holdLsa l
    .next (s.emits (s.upPorts.map (fun p => .lsa p l)))

/-- An LSA with a higher number than any held from its origin is kept and passed on. -/
def execLsaReceived (p : PortNo) (l : Lsa) (s : State) : Outcome :=
  let n := s.wordPos l.coord
  let newer := match mapFind s.lsas n with | some o => decide (o.num.toNat < l.num.toNat) | none => true
  if !newer || bits l.coord.toNat 31 24 ≠ bits s.selfWord.toNat 31 24 then .next s
  else
    let s := (s.holdLsa l).emits ((s.upPorts.filter (fun q => q != p.toNat)).map (fun q => .lsa q l))
    -- a peer that is about to go dark says so (R509)
    let mine (q : Nat) : Bool := q < 12 && entryUse (descEntry s.descr q) != 0 && bits (descEntry s.descr q) 54 41 == bits l.coord.toNat 31 18
    .next (((List.range 12).filter mine).foldl (fun s q =>
      s.setPort q { s.port q with bye := if l.mask = 0 then some s.now else none }) s)

/-- The pair of links from position (i, j, k) in direction `d` is alive: a port of it is up at both ends, as far as LSAs are
held. -/
def State.pairAlive (s : State) (n i j k d : Nat) : Bool :=
  let up (pos p : Nat) : Bool := match mapFind s.lsas pos with | some l => l.mask.getLsbD p | none => false
  [2 * d, 2 * d + 1].any (fun p =>
    let (c, q) := torusPeer n 0 i j k p
    up (posOf n i j k) p && up (posOf n (bits c 5 4) (bits c 3 2) (bits c 1 0)) q)

/-- The hops of one dimension from coordinate `a` to `b` on a ring of `size`, in the direction `plus`: their count when no dead
pair lies on them. `alive` tests the pair that leaves a coordinate. -/
def walkRing (alive : Nat → Bool → Bool) (size b : Nat) (plus : Bool) : Nat → Nat → Option Nat
  | 0, _ => none
  | fuel + 1, a =>
    if a = b then some 0
    else if !alive a plus then none
    else (walkRing alive size b plus fuel (if plus then (a + 1) % size else (a + size - 1) % size)).map (fun n => n + 1)

/-- One dimension (R355): direction (true for +) and hops; the shorter way, + on a tie, else the other. -/
def dimRoute (alive : Nat → Bool → Bool) (size a b : Nat) : Option (Bool × Nat) :=
  let up := (b + size - a) % size
  let first := decide (up ≤ size - up)
  match walkRing alive size b first (size + 1) a with
  | some n => some (first, n)
  | none => (walkRing alive size b (!first) (size + 1) a).map (fun n => (!first, n))

/-- The route from this device to a position, dimension by dimension. -/
def State.routeTo (s : State) (n pos : Nat) : Route :=
  let w := s.selfWord.toNat
  let i := bits w 23 22
  let j := bits w 21 20
  let k := bits w 19 18
  let (x, y, z) := (coordI n pos, coordJ n pos, coordK n pos)
  let one (dim size a b : Nat) (at_ : Nat → Nat × Nat × Nat) : Option (Option Nat × Nat) :=
    if a = b then some (none, 0)
    else (dimRoute (fun c plus => let (p, q, r) := at_ c; s.pairAlive n p q r (2 * dim + if plus then 0 else 1)) size a b).map
      (fun r => (some (2 * dim + if r.1 then 0 else 1), r.2))
  match one 0 4 i x (fun c => (c, j, k)), one 1 4 j y (fun c => (x, c, k)), one 2 (n / 16) k z (fun c => (x, y, c)) with
  | some (d0, h0), some (d1, h1), some (d2, h2) =>
    ⟨true, match d0, d1, d2 with | some d, _, _ => d | none, some d, _ => d | none, none, some d => d | _, _, _ => 6, h0 + h1 + h2⟩
  | _, _, _ => ⟨false, 0, 0⟩

/-- The STAG computes routes when it holds an LSA of every member, or when its wait has passed. -/
def State.computeRoutes (s : State) : State :=
  let n := s.topoN
  let rs := (List.range n).map (s.routeTo n)
  let missing := n - ((List.range n).filter (fun q => (mapFind s.lsas q).isSome)).length
  let s := (s.fset F.OL_TOPO_STATUS.MISSING missing).fset F.OL_TOPO_STATUS.UNROUTABLE (rs.filter (fun r => !r.valid)).length
  let s := { s with routes := some rs }
  -- a recomputation that finds every destination routable ends a hold for topology (R368)
  if s.heldTopology && rs.all Route.valid then { s with heldTopology := false }.releaseHold else s

def execRouteCompute (expired : Bool) (s : State) : Outcome :=
  if expired || (List.range s.topoN).all (fun q => (mapFind s.lsas q).isSome) then .next s.computeRoutes else .next s

/-- Stage-6 outcome under R367: 1 OK, 2 DEGRADED, 3 STOP. -/
def State.topoOutcome (s : State) : Nat :=
  let use (p : Nat) : Nat := entryUse (descEntry s.descr p)
  let up (p : Nat) : Bool := p ∈ s.upPorts
  let stop := !descValid s.descr || (List.range 16).any (fun p => use p == 1 && !up p)
    || s.fget F.OL_TOPO_STATUS.MISSING != 0 || s.fget F.OL_TOPO_STATUS.UNROUTABLE != 0
    || (s.herds > 1 && !([12, 13, 14, 15].any up))
  if stop then 3 else if (List.range 16).any (fun p => use p == 2 && !up p) then 2 else 1

/-- Install the routes and port weights (R357, R359): every STANDBY port enters ACTIVE. Under STOP nothing is installed (R367), and in a
rollback a loaded job is held for topology (R368). -/
def State.installRoutes (s : State) : State :=
  match s.routes with
  | none => s
  | some rs =>
    let s := { s with routes := none }
    match s.topoOutcome with
    | 3 =>
      if s.stepPhase = phStepRolling ∧ s.fbit F.WV_STATUS.LOADED then
        ({ s with heldTopology := true }.fset F.OL_TOPO_STATUS.OUTCOME 4).setHeld true
      else s.fset F.OL_TOPO_STATUS.OUTCOME 3
    | o =>
      let s := s.fset F.OL_TOPO_STATUS.OUTCOME o
      let s := s.upPorts.foldl (fun s p => s.setPortState p tsActive) s
      let s := (List.range 64).foldl (fun s n =>
        let r : Route := rs[n]?.getD ⟨false, 0, 0⟩
        ((s.fsetb (F.OL_RT.VALID.ix n) r.valid).fset (F.OL_RT.DIR.ix n) r.dir).fset (F.OL_RT.HOPS.ix n) r.hops) s
      let ws : SMap Nat := s.upPorts.foldl (fun m p => mapPut 0 p (lanesOf (s.fget (F.OL_PORT_STATUS.WIDTH.ix p))) m) []
      { s with weights := ws, heldTopology := false }.releaseHold

/-- During a rollback the routes computed are installed (R359); stage 6 and REROUTE install theirs themselves. -/
def execRouteInstall (s : State) : Outcome :=
  if s.stepPhase = phStepRolling then .next s.installRoutes else .next s

/-- Wrap ports of a coordinate (R339). -/
def isWrap (n i j k p : Nat) : Bool :=
  let (c, size) := match p / 4 with | 0 => (i, 4) | 1 => (j, 4) | _ => (k, n / 16)
  p < 12 && size > 1 && (if p % 4 < 2 then c == size - 1 else c == 0)

/-- The descriptor in flash comes into force and every port that it uses enters `st` (R361, R366). -/
def State.trainFrom (s : State) (st : Nat) : State :=
  let s := { s with descr := if descValid s.descrFlash then s.descrFlash else s.descr, routes := none, lsas := [] }
  let s := (s.fsetb F.OL_TOPO_STATUS.DESC_VALID (descValid s.descr)).fset F.HQ_HERD_PRESENT.MASK 0
  let w := s.selfWord.toNat
  let oos := s.fget F.FLT_ESC_STATE.OOS_PORTS
  (List.range 16).foldl (fun s p =>
    let s := (s.fset (F.OL_PORT_STATUS.WIDTH.ix p) 0).fset (F.OL_PORT_STATUS.LANES.ix p) 0
    let s := s.setPort p (Port.fresh (s.port p))
    let s := s.fsetb (F.OL_PORT_STATUS.WRAP.ix p) (isWrap (le s.descr 0x0C 2) (bits w 23 22) (bits w 21 20) (bits w 19 18) p)
    if !descValid s.descr then (s.setPortState p tsDisabled).setResult p 13
    else if entryUse (descEntry s.descr p) = 0 then (s.setPortState p tsDisabled).setResult p 12
    else if bit oos p then s.setPortState p tsDisabled
    else (s.setResult p 0).enterTraining p st false) s

/-- Every port that is used trains from DETECT: stage 6, or RETRAIN_ALL. -/
def State.startTraining (s : State) : State := s.trainFrom tsDetect

/-- A write of OL_CTRL: its RW fields take their values, and each action triggers or is refused by itself: REROUTE unless PHASE reads
idle, RETRAIN_ALL while a weave is loaded. A write of which anything is refused leaves one event record (R8, R9). -/
def State.writeOlCtrl (s : State) (v : Nat) : State :=
  match regAt 0xC0000 with
  | none => s
  | some (r, i) =>
    let (ok, t) := s.writeFlds r i v nothingLocked
    let reroutes := bit v 31 && s.stepPhase == phStepIdle
    let retrains := bit v 30 && !s.fbit F.WV_STATUS.LOADED
    let t := if ok && reroutes == bit v 31 && retrains == bit v 30 then t else t.refuseWrite 0xC0000 v
    let t := if reroutes then t.computeRoutes.installRoutes else t
    if retrains then t.startTraining else t

/-- A write of OL_CTRL with REROUTE = 1: refused unless PHASE reads idle. -/
def execReroute (v : W32) (s : State) : Outcome := .next (if bit v.toNat 31 then s.writeOlCtrl v.toNat else s)

/-- A write of OL_CTRL with RETRAIN_ALL = 1: refused while a weave is loaded. -/
def execRetrainAll (v : W32) (s : State) : Outcome := .next (if bit v.toNat 30 then s.writeOlCtrl v.toNat else s)

/-! ## Charges and escalation (R447), and the loss of a port (R345, R368, R440, R450) -/

/-- Charge a reset or a loss to a unit: whether it reaches `count` within `window` ns. -/
def State.charge (s : State) (key now window count : Nat) : Bool × State :=
  let ts := (mapGet [] s.charges key).filter (fun t => decide (now ≤ t + window)) ++ [now]
  (decide (ts.length ≥ count), { s with charges := mapIns key ts s.charges })

/-- Out of service: the port is held in DISABLED, and OUT goes to the job (R450). -/
def State.portOut (s : State) (p : Nat) : State :=
  let s := (s.setSoft (fun m => { m with oosPorts := addTo p m.oosPorts })).fset F.FLT_ESC_STATE.OOS_PORTS (s.fget F.FLT_ESC_STATE.OOS_PORTS ||| 2 ^ p)
  (s.setPortState p tsDisabled).notify 0x13 0x4001 5 5 (unitLoc p) s.ord.toNat

/-- A port leaves ACTIVE (R368): what its buffers held is discarded, the fault is reported, and the port retrains, or leaves
service when this is its fourth loss in 60 s. -/
def State.leaveActive (s : State) (n : Nat) : State :=
  let (out, s) := s.charge (0x40000 + n) s.now 60000000000 4
  let s := (s.setPort n { Port.fresh (s.port n) with ident := (s.port n).ident }).setResult n 11
  let s := s.enterTraining n tsRetrain false
  let s := s.devErr 0x4001 (errFlags false 0 + if out then 32 else 0) 5 (unitLoc n) (data2 (s.portStatus n) 0) true
  if out then s.portOut n else s

/-- Within 1 ms of the LSA by which its peer went dark, a port enters DETECT without a report and without a charge (R509). -/
def execPortLeavesActive (p : PortNo) (now : Nat) (s : State) : Outcome :=
  let n := p.toNat
  if s.portState n ≠ tsActive || !(s.port n).lost then .next s
  else
    let s := s.at now
    match (s.port n).bye with
    | some t =>
      if s.now ≤ t + 1000000 then
        .next (((s.setPort n (Port.fresh (s.port n))).setResult n 0).enterTraining n tsDetect false)
      else .next (s.leaveActive n)
    | none => .next (s.leaveActive n)

end Sys2Proof.Machine
end

