-- ==== Sys2Proof/Machine/Repair.lean ====
section
/-! DEFINITION. Repair maps and self-test (R477 to R494): column states, fault marks, periodic slices, scrubs, the test engine and
the life cycle. -/

namespace Sys2Proof.Machine

/-! ## Columns and marks (R477 to R485) -/

/-- Physical columns of a half, ascending. -/
def halfCols (east : Bool) : List Nat := (List.range 34).map (fun n => if east then n + 34 else n)

def colEast (c : Nat) : Bool := decide (34 ≤ c)

/-- Key of a physical tile. -/
def physKey (px py : Nat) : Nat := py * 68 + px

/-- Columns of a half without a fault mark. -/
def State.freeCols (s : State) (east : Bool) : List Nat :=
  (halfCols east).filter (fun c => s.soft.marks.all (fun m => m.col != c))

/-- A column holds a mark that no map has taken in. -/
def State.pendingCol (s : State) (c : Nat) : Bool := s.soft.marks.any (fun m => m.col == c && !m.loaded)

/-- Record a fault mark: the column reads PENDING until a map takes it in (R482). -/
def State.markColumn (s : State) (px py cause : Nat) : State :=
  if s.soft.marks.any (fun m => m.col == px && m.row == py && m.cause == cause) then s
  else
    let first := s.soft.marks.all (fun m => m.col != px)
    let s := s.setSoft (fun m => { m with marks := m.marks ++ [⟨px, py, cause, false⟩] })
    let s := (s.fsetb (F.MAP_COL.PENDING.ix px) true).fsetb F.MAP_ST_STATUS.PENDING true
    if first then (s.fset (F.MAP_COL.FAULT_Y.ix px) py).fset (F.MAP_COL.CAUSE.ix px) cause else s

/-- MAP_COL_n of one column. -/
def State.setCol (s : State) (c state logical row cause : Nat) (pending : Bool) : State :=
  ((((s.fset (F.MAP_COL.STATE.ix c) state).fset (F.MAP_COL.LOGICAL.ix c) logical).fset (F.MAP_COL.FAULT_Y.ix c) row).fset
    (F.MAP_COL.CAUSE.ix c) cause).fsetb (F.MAP_COL.PENDING.ix c) pending

/-- A column that a fault has taken out: BYPASSED for a router fault, else EXCLUDED (R477). -/
def outState (ms : List ColMark) : Nat := if ms.any (fun m => m.cause == 2) then 3 else 2

/-- GEN of a physical tile, whether it serves a logical tile or not (TIL_STATE). -/
def State.genAt (s : State) (px py : Nat) : Byte :=
  match s.logicalAt px py with | some t => (s.tile t).gen | none => mapGet 0 s.physGen (physKey px py)

/-- A new map leaves each physical tile its GEN: `old` is the state under the map before. -/
def State.moveGens (s old : State) (east : Bool) : State :=
  let same (c : Nat) : Bool := old.fget (F.MAP_COL.STATE.ix c) == s.fget (F.MAP_COL.STATE.ix c)
    && old.fget (F.MAP_COL.LOGICAL.ix c) == s.fget (F.MAP_COL.LOGICAL.ix c)
  ((halfCols east).filter (fun c => !same c)).foldl (fun s c => (List.range 32).foldl (fun s py =>
    let g := old.genAt c py
    match s.logicalAt c py with
    | some t => if (s.tile t).gen = g then s else s.setTile t { s.tile t with gen := g }
    | none => { s with physGen := mapPut 0 (physKey c py) g s.physGen }) s) s

/-- Load the map of a half that R478 computes from its marks; false, with the map unchanged, when too few columns are free (R483).
The tiles whose faults the map takes in are fenced, and no other tile of the half. -/
def State.loadMap (s : State) (east : Bool) : Bool × State :=
  let old := s
  let free := s.freeCols east
  if free.length < 32 then (false, s)
  else
    let fresh := s.soft.marks.filter (fun (m : ColMark) => colEast m.col == east && !m.loaded)
    let s := if fresh.isEmpty then s
      else s.setSoft (fun m => { m with marks := m.marks.map (fun k => if colEast k.col = east then { k with loaded := true } else k) })
    let faulty := s.soft.marks.filter (fun (m : ColMark) => colEast m.col == east && m.cause != 2)
    let s := { s with fenced := faulty.foldl (fun l (m : ColMark) => addTo (physKey m.col m.row) l)
                        (s.fenced.filter (fun k => colEast (k % 68) != east)) }
    let base := if east then 32 else 0
    let s := (halfCols east).foldl (fun s c =>
      match free.findIdx? (fun f => f == c) with
      | some n => if n < 32 then s.setCol c 0 (base + n) 0 0 false else s.setCol c 1 0 0 0 false
      | none =>
        let ms := s.soft.marks.filter (fun (m : ColMark) => m.col == c)
        s.setCol c (outState ms) 0 ((ms.head?.map ColMark.row).getD 0) ((ms.head?.map ColMark.cause).getD 0) false) s
    let s := s.fset (if east then F.FLT_ESC_STATE.SPARE_E else F.FLT_ESC_STATE.SPARE_W) (free.length - 32)
    let s := s.moveGens old east
    (true, s.fsetb F.MAP_ST_STATUS.PENDING (s.soft.marks.any (fun m => !m.loaded)))

/-- Compute fencing of a physical tile (TIL_STATE.FENCED). -/
def State.fence (s : State) (key : Nat) : State := { s with fenced := addTo key s.fenced }

/-- The physical tile that serves a logical tile, as a key. -/
def State.physOf (s : State) (t : TileId) : Nat := physKey (s.physCol (tileX t)) (tileY t)

/-- Tiles out of service, as FLT_ESC_STATE counts them. -/
def State.showOos (s : State) : State :=
  (s.fset F.FLT_ESC_STATE.OOS_TILES (min 127 s.soft.oosTiles.length)).fsetb F.FLT_ESC_STATE.DEV_OOS s.soft.oosDevice

/-! ## Periodic self-test (R489, R490, R492) -/

/-- The state of a tile's cluster, half or device stops no slice: every one of them is in RUN. -/
def State.inRun (s : State) (t : TileId) : Bool :=
  [clusterOf t, if isEast t then 129 else 128, 158].all (fun d => s.fget (F.PWR_STATE.STATE.ix d) == 0)

/-- A tile runs test slices. -/
def State.slicing (s : State) (t : TileId) : Bool := !(s.physOf t ∈ s.fenced)

/-- The engine port that a slice occupies: 2 IBEX, 4 TAHR; the network interface has none. -/
def slicePort (kind : Nat) : Option Nat := match kind with | 0 => some 2 | 1 => some 4 | _ => none

/-- Slices of a kind in one pass (R489): 16 Ibex, 8 Tahr, 8 network interface. -/
def sliceCount (kind : Nat) : Nat := if kind = 0 then 16 else 8

/-- A pass is complete when every tile that runs slices has run all 32 of them. -/
def State.endPass (s : State) : State :=
  if (List.range Config.tiles).all (fun i => !s.slicing (BitVec.ofNat 11 i)
      || (List.range 3).all (fun k => decide (sliceCount k ≤ mapGet 0 s.slices (4 * i + k)))) then
    { s with slices := (s.slices.map (fun (p : Nat × Nat) => (p.1, p.2 - sliceCount (p.1 % 4)))).filter (fun p => p.2 != 0) }.fadd
      F.MAP_ST_STATUS.PASSES 1
  else s

/-- A slice that fails marks its column PENDING, and the first failure is latched (R492). -/
def State.sliceFailed (s : State) (t : TileId) (kind : Nat) : State :=
  let px := s.physCol (tileX t)
  let py := tileY t
  let s := if s.fbit F.MAP_ST_STATUS.FAIL then s
    else ((s.fset F.MAP_ST_FAIL.PX px).fset F.MAP_ST_FAIL.PY py).fset F.MAP_ST_FAIL.TEST (kind + 1)
  let s := (s.fsetb F.MAP_ST_STATUS.FAIL true).markColumn px py 3
  s.event 0xC002 0 (s.tileLoc t) 0 (s.fget F.MAP_ST_FAIL.PX * 2 ^ 25 + s.fget F.MAP_ST_FAIL.PY * 2 ^ 20 + s.fget F.MAP_ST_FAIL.TEST * 2 ^ 16)

/-- A due slice runs while its port executes nothing; it is deferred during a rollback, below RUN and in reset (R490). -/
def execTestSlice (t : TileId) (kind : BitVec 2) (ok : Bool) (s : State) : Outcome :=
  let x := s.tile t
  let busy := match slicePort kind.toNat with | some p => x.exec.any (fun o => o.port == p) | none => false
  if !s.fbit F.MAP_ST_CTRL.EN || kind = 3 || !s.slicing t || x.phase == phReset || x.phase == phRolling || !s.inRun t || busy then .next s
  else
    let n := 4 * t.toNat + kind.toNat
    let s := { s with slices := mapIns n (mapGet 0 s.slices n + 1) s.slices }
    let s := if ok then s else s.sliceFailed t kind.toNat
    .next s.endPass

/-! ## Scrubs (R488, R491) -/

/-- A row is queued for soft repair, with one event record (R491). -/
def State.queueRepair (s : State) (array row : Nat) : State :=
  if (array, row) ∈ s.soft.queued then s
  else (s.setSoft (fun m => { m with queued := m.queued ++ [(array, row)] })).event 0xC003 8 0 0 (data2 array row)

/-- One unit of a scrub: a row below the last one begins a new pass; three corrected errors of a row in a pass, or an uncorrectable
word, queue its repair. -/
def State.scrubUnit (s : State) (array row : Nat) (e : Ecc) : State :=
  let errs := if row < mapGet 0 s.scrubPos array then s.scrubErrs.filter (fun r => r.1 != array) else s.scrubErrs
  let s := { s with scrubErrs := errs, scrubPos := mapIns array row s.scrubPos }
  match e with
  | .clean => s
  | .uncorrectable => s.queueRepair array row
  | .corrected =>
    let n := ((errs.find? (fun r => r.1 == array && r.2.1 == row)).map (fun r => r.2.2)).getD 0 + 1
    let rest := errs.filter (fun r => !(r.1 == array && r.2.1 == row))
    if n = 3 then ({ s with scrubErrs := rest }).queueRepair array row else { s with scrubErrs := rest ++ [(array, row, n)] }

/-- The tile's memory, by physical tile; a Commons slice. -/
def tileArray (key : Nat) : Nat := key
def sliceArray (k : Nat) : Nat := 0x10000 + k

def execTileMemoryScrub (t : TileId) (row : Nat) (e : Ecc) (s : State) : Outcome :=
  if !s.fbit F.MAP_ST_CTRL.SCRUB || (s.tile t).phase == phReset then .next s
  else .next (s.scrubUnit (tileArray (s.physOf t)) row e)

/-- A slice scrubs itself in cycles without a requester. -/
def execCommonsScrub (slice : BitVec 6) (row : Nat) (e : Ecc) (s : State) : Outcome :=
  if !s.fbit F.MAP_ST_CTRL.SCRUB || !(mapGet [] s.sliceQ (2 * slice.toNat)).isEmpty || !(mapGet [] s.sliceQ (2 * slice.toNat + 1)).isEmpty then .next s
  else .next (s.scrubUnit (sliceArray slice.toNat) row e)

/-- Queued repairs of an array take effect when a reset zeroes it (R488). -/
def State.applyRepairs (s : State) (p : Nat → Bool) : State :=
  let now := s.soft.queued.filter (fun q => p q.1)
  if now.isEmpty then s
  else s.setSoft (fun m => { m with repairs := m.repairs ++ now, queued := m.queued.filter (fun q => !p q.1) })

/-! ## The test engine and the life cycle (R493, R494) -/

/-- MAP_STATUS.LC: 0 MANUFACTURE, 1 FIELD, 2 RMA. -/
def State.lifeCycle (s : State) : Nat := s.fget F.MAP_STATUS.LC

/-- A column state written directly; in RMA this clears every out-of-service mark (R447). -/
def State.writeColumn (s : State) (c state : Nat) : State :=
  let rest := s.soft.marks.filter (fun m => m.col != c)
  let marks := match state with | 2 => rest ++ [⟨c, 0, 1, true⟩] | 3 => rest ++ [⟨c, 0, 2, true⟩] | _ => rest
  let s := s.setSoft (fun m => { m with marks := marks })
  let s := (s.fset (F.MAP_COL.STATE.ix c) state).fsetb (F.MAP_COL.PENDING.ix c) false
  let s := if state = 0 then s else s.fset (F.MAP_COL.LOGICAL.ix c) 0
  let s := s.fset (if colEast c then F.FLT_ESC_STATE.SPARE_E else F.FLT_ESC_STATE.SPARE_W) ((s.freeCols (colEast c)).length - 32)
  if s.lifeCycle = 2 then
    ({ s with soft := { s.soft with oosTiles := [], oosDevice := false, oosPorts := [] } }.fset F.FLT_ESC_STATE.OOS_PORTS 0).showOos
  else s

/-- The test engine is open in MANUFACTURE and RMA (R493). -/
def execTestEngineAccess (a : TestAccess) (s : State) : Outcome :=
  if s.lifeCycle ≠ 0 && s.lifeCycle ≠ 2 then .next s
  else match a with
    | .march px py => .next (if px.toNat < Config.physCols then s.emit (.march px.toNat py.toNat) else s)
    | .fuse i => .next { s with fuses := addTo i s.fuses }
    | .column c st => .next (if c.toNat < Config.physCols then s.writeColumn c.toNat st.toNat else s)

/-- MANUFACTURE passes to FIELD; FIELD passes to RMA by a transition signed with the slot-0 key, which erases near memory, the weave
store and key slots 1 to 7 (R494). -/
def execLifeCycleTransition (rma : Bool) (sigR sigS : BitVec 384) (s : State) : Outcome :=
  if !rma then .next (if s.lifeCycle = 0 then s.fset F.MAP_STATUS.LC 1 else s)
  else if s.lifeCycle = 1 && ecdsaOk Config.slot0Key Config.rmaHash sigR.toNat sigS.toNat then
    let near (a : Nat) : Bool := decide (a < 2 ^ 23 * Config.pageBytes)
    let s := s.fset F.MAP_STATUS.LC 2
    .next { s with mem := s.mem.filter (fun c => !near c.1), memBad := s.memBad.filter (fun u => !near (u * 64)), keys := []
                   portion := [], weave := none, sources := s.sources.map (fun (p : Nat × Source) => (p.1, { p.2 with portion := [] })) }
  else .next s

end Sys2Proof.Machine
end

