-- ==== Sys2Proof/Machine/Faults.lean ====
section
/-! DEFINITION. Faults (R424 to R440, R447 to R450): error reports, the resets they ask for, escalation, notices, progress windows and
the scrub of hardened registers. -/

namespace Sys2Proof.Machine

/-! ## Reset domains (R441) -/

def clusterEast (c : BitVec 7) : Bool := decide (8 ≤ c.toNat % 16)

/-- One domain lies within another, or is it. -/
def domContains (a b : Domain) : Bool :=
  match a, b with
  | .device, _ => true
  | .half e, .half f => e == f
  | .half e, .cluster c => e == clusterEast c
  | .half e, .tile t => e == isEast t
  | .cluster c, .cluster d => c == d
  | .cluster c, .tile t => c.toNat == clusterOf t
  | .tile t, .tile u => t == u
  | _, _ => false

/-- A reset of the domain, or of one around it, is asked for or runs. -/
def State.covered (s : State) (d : Domain) : Bool := (s.resetAsk ++ s.resetRun).any (fun a => domContains a d)

/-- What a notice of a reset names: CODE, UNIT and LOC of the report behind it (R438). -/
structure Why where
  code : W16
  unit : Byte
  loc : W32
  deriving DecidableEq, Repr

/-- A reset is asked for: of nested ones only the larger runs, and a smaller one that runs is abandoned (R436). -/
def State.askReset (s : State) (d : Domain) (w : Why) : State :=
  if s.covered d then s
  else { s with resetAsk := s.resetAsk.filter (fun a => !domContains d a) ++ [d]
                resetRun := s.resetRun.filter (fun a => !domContains d a)
                causes := s.causes.filter (fun c => !domContains d c.1) ++ [(d, w.code, w.unit, w.loc)] }

/-- Seconds in ns. -/
def sec (n : Nat) : Nat := n * 1000000000

/-- Charge a reset to its unit: whether the unit reaches escalation (R447). -/
def State.chargeReset (s : State) (d : Domain) : Bool × State :=
  match d with
  | .tile t => s.charge (s.physOf t) s.now (sec (s.fget F.FLT_ESC_CFG.TILE_S)) (s.fget F.FLT_ESC_CFG.TILE_N)
  | .cluster c => s.charge (0x10000 + c.toNat) s.now (sec 10) 3
  | .half e => s.charge (0x20000 + if e then 1 else 0) s.now (sec 60) 3
  | .device => s.charge 0x30000 s.now (sec (60 * s.fget F.FLT_ESC_CFG.DEV_MIN)) (s.fget F.FLT_ESC_CFG.DEV_N)

def State.tell (s : State) (typ : Byte) (level : Nat) (w : Why) : State := s.notify typ w.code level w.unit w.loc s.ord.toNat

/-- The device leaves service: it stays in reset, and the job is held (R449). -/
def State.deviceOut (s : State) (w : Why) : State :=
  let w := { w with unit := 8, loc := unitLoc 0 }
  let s := (s.setSoft (fun m => { m with oosDevice := true })).showOos
  ((s.tell 0x11 5 w).tell 0x13 5 w).askReset .device w

/-- A device reset is asked for (R437, R449): whether escalation is reached. -/
def State.demandDevice (s : State) (w : Why) : Bool × State :=
  if s.covered .device then (false, s)
  else
    let (esc, s) := s.chargeReset .device
    if esc then (true, s.deviceOut w) else (false, (s.tell 0x11 4 w).askReset .device w)

/-- A half reset is asked for; at escalation, a device reset. -/
def State.demandHalf (s : State) (e : Bool) (w : Why) : Bool × State :=
  if s.covered (.half e) then (false, s)
  else
    let (esc, s) := s.chargeReset (.half e)
    if esc then (true, (s.demandDevice w).2) else (false, (s.tell 0x11 3 w).askReset (.half e) w)

/-- A cluster reset is asked for; at escalation, a half reset. -/
def State.demandCluster (s : State) (c : BitVec 7) (w : Why) : Bool × State :=
  if s.covered (.cluster c) then (false, s)
  else
    let (esc, s) := s.chargeReset (.cluster c)
    if esc then (true, (s.demandHalf (clusterEast c) w).2) else (false, (s.tell 0x11 2 w).askReset (.cluster c) w)

/-- A physical tile, or its router, leaves service (R448, R449): with a spare column left the half is reset under a new map;
otherwise the job is held. `cause` is the mark's: 1 compute, 2 router. -/
def State.takeOut (s : State) (px py cause : Nat) (w : Why) : State :=
  let s := ((s.setSoft (fun m => { m with oosTiles := addTo (physKey px py) m.oosTiles })).markColumn px py cause).showOos
  let s := if cause = 1 then s.fence (physKey px py) else s
  if (s.freeCols (colEast px)).length ≥ 32 then
    ((s.tell 0x11 3 w).tell 0x13 5 w).askReset (.half (colEast px)) w
  else (s.tell 0x11 5 w).tell 0x13 5 w

/-- A tile reset is asked for; at escalation the tile leaves service. -/
def State.demandTile (s : State) (t : TileId) (w : Why) : Bool × State :=
  if s.covered (.tile t) then (false, s)
  else
    let (esc, s) := s.chargeReset (.tile t)
    if esc then
      -- without a spare column the tile is reset all the same
      (true, (s.takeOut (s.physCol (tileX t)) (tileY t) 1 w).askReset (.tile t) w)
    else (false, s.askReset (.tile t) w)

/-- A router marked suspect (R449): as a faulty tile; one in a column that is never bypassed takes the device out of service
(R481). -/
def State.routerOut (s : State) (px py : Nat) (w : Why) : State :=
  if px ∈ [0, 33, 34, 67] then s.deviceOut w else s.takeOut px py 2 w

/-! ## Error reports (R424, R425, R429 to R431, R435) -/

/-- The half in which the unit of a report lies. -/
def reportEast (r : Report) : Bool :=
  let i := bits r.loc.toNat 19 13
  match r.unit.toNat with
  | 0 => decide (32 ≤ bits r.loc.toNat 30 25)
  | 1 => decide (32 ≤ i)
  | 2 => decide (32 ≤ i)
  | 3 => decide (4 ≤ i)
  | 4 => decide (2 ≤ i)
  | 7 => decide (34 ≤ i)
  | _ => false

/-- The logical tile of a report. -/
def reportTile (r : Report) : TileId := mkTile (bits r.loc.toNat 30 25) (bits r.loc.toNat 24 20)

/-- RESET asked, FLAGS[4:2]. -/
def reportAsk (r : Report) : Nat := bits r.flags.toNat 4 2

/-- The resets that a report asks for: whether a unit reaches escalation. A silent device is reset on that device, when the STOT
reaches it. -/
def State.demandReset (s : State) (r : Report) : Bool × State :=
  let w : Why := ⟨r.code, r.unit, r.loc⟩
  if r.code = 0x6006 then (false, s)
  else if r.code = 0x3004 then (true, s.routerOut (bits r.loc.toNat 19 13) (bits r.loc.toNat 12 8) w)
  else match reportAsk r with
    | 1 =>
      let t := reportTile r
      let (esc, s) := s.demandTile t w
      match (s.tile t).img.dup with
      | some u => if r.code = 0x1014 then let (e2, s) := s.demandTile u w; (esc || e2, s) else (esc, s)
      | none => (esc, s)
    | 2 => s.demandCluster (BitVec.ofNat 7 (clusterOf (reportTile r))) w
    | 3 => s.demandHalf (reportEast r) w
    | 4 => s.demandDevice w
    | _ => (false, s)

/-- The FLT report queue holds 64 reports (R431). -/
def State.queueReport (s : State) (r : Report) : State :=
  if s.reports.length ≥ 64 then (s.fsetb F.FLT_REPORT_STATUS.OVERFLOW true).fadd F.FLT_REPORT_STATUS.LOST 1
  else { s with reports := s.reports ++ [r] }.fset F.FLT_REPORT_STATUS.COUNT (s.reports.length + 1)

/-- A report that goes to the coordinators as a FAULT notice: it stops a context, or is a hang fault (R435). -/
def faultReport (r : Report) : Bool := r.flags.getLsbD 1 || (0x6001 ≤ r.code.toNat && r.code.toNat ≤ 0x6005)

/-- An error report reaches the STAG (R425, R431, R435, R437). -/
def execErrorReport (r : Report) (s : State) : Outcome :=
  let w : Why := ⟨r.code, r.unit, r.loc⟩
  let s := if r.unit ≠ 0 && r.flags.getLsbD 0 && s.stepRunning then { s with endDirty := true } else s
  let s := if faultReport r then s.tell 0x10 (reportAsk r) w else s
  let s := match r.code.toNat with
    | 0x4001 => s.tell 0x11 6 w
    | 0x2012 => s.tell 0x11 7 w
    | _ => s
  let (esc, s) := s.demandReset r
  let r := if esc then { r with flags := r.flags ||| 0x20 } else r
  .next ((s.record r).queueReport r)

/-- A write of FLT_REPORT_POP. -/
def execFltReportPop (v : W32) (s : State) : Outcome :=
  if !bit v.toNat 0 then .next s
  else match s.reports with
    | [] => .next (s.refuseWrite 0x70004 v.toNat)
    | _ :: rs => .next ({ s with reports := rs }.fset F.FLT_REPORT_STATUS.COUNT rs.length)

/-- A write of FLT_REPORT_STATUS: OVERFLOW is W1C and takes LOST with it. -/
def execFltReportStatusClear (v : W32) (s : State) : Outcome :=
  if bit v.toNat 31 then .next ((s.fsetb F.FLT_REPORT_STATUS.OVERFLOW false).fset F.FLT_REPORT_STATUS.LOST 0) else .next s

/-- FLT_REPORT_n: bytes 4n to 4n + 3 of the oldest queued report. -/
def State.shownReport (s : State) (n : Nat) : Nat :=
  match s.reports with
  | r :: _ => ofBytes (((reportBytes r).drop (4 * n)).take 4)
  | [] => 0

/-! ## Progress windows (R432 to R434) -/

/-- Busy units of a kind, as TIL_SB_ACC, TIL_SB_A, TIL_SB_B and TIL_SB_V show them: those that an enqueued or executing operation
reads or writes. -/
def Tile.busyMap (x : Tile) (k : ResKind) (n : Nat) : Nat :=
  let spans := (x.exec ++ x.fifo).flatMap (fun o => ((o.res x).1 ++ (o.res x).2).filter (fun r => r.kind == k))
  ((List.range n).map (fun i => if spans.any (fun r => decide (r.lo ≤ i ∧ i < r.hi)) then 2 ^ i else 0)).sum

/-- The first busy map, in the order of R112, that names a resource of an operation: its low 32 bits. -/
def Tile.firstBusy (x : Tile) (o : Op) : Nat :=
  let mine := (o.res x).1 ++ (o.res x).2
  match [(ResKind.segA, 64), (.segB, 64), (.bank, 4), (.vreg, 32)].find? (fun k => mine.any (fun r => r.kind == k.1)) with
  | some (k, n) => x.busyMap k n % 2 ^ 32
  | none => 0

/-- DATA of a hang fault (R434). -/
def hangData (kind res a b : Nat) : Nat := data2 (kind + res % 2 ^ 32 * 2 ^ 32) (a % 2 ^ 32 + b % 2 ^ 32 * 2 ^ 32)

/-- Kind of a context's wait, and the resource waited on; none where it does not wait. -/
def waitKind (w : Wait) : Option (Nat × Nat) :=
  match w with
  | .none => none
  | .counter c _ => some (1, c.toNat)
  | .message ch _ _ false => some (2, ch.toNat)
  | .message ch _ _ true => some (3, ch.toNat)
  | .barrier b _ => some (4, b.toNat)
  | .flag f _ => some (5, f.toNat)
  | .fence _ _ => some (6, 0)
  | .atomic _ _ => some (6, 0)
  | .stepEnd => some (7, 0)
  | .enqueue o => some (8, o.port)

/-- A peer's logical tile and endpoint, in the layout of an identity's low bits. -/
def peerWord (e : EndpointId) : Nat := tileX e.tile + tileY e.tile * 2 ^ 6 + e.ep.toNat * 2 ^ 11

/-- The lowest member index from which a run awaits a piece. -/
def State.awaited (s : State) (p : Plan) (r : Run) : Nat :=
  let m := p.index s.ord.toNat
  let missing (j : Nat) : Bool := (r.piece 15 (p.member j)).isNone
  if p.reduces && r.level < 16 then match p.turn m r.level with | .recv j => j | _ => 0
  else if p.op = 3 then ((p.others m).find? missing).getD 0
  else 0

/-- A progress window pauses while PHASE reads 2 to 5 and while the device is not in RUN (R433). -/
def State.watching (s : State) : Bool := s.stepPhase ≤ phStepRunning && s.fget (F.PWR_STATE.STATE.ix 158) == 0

/-- A tile is watched: it runs a step, and its domains are in RUN. -/
def State.watchedTile (s : State) (t : TileId) : Bool :=
  (s.tile t).issues && !(s.tile t).core.stopped && s.inRun t && !s.covered (.tile t)

/-- The hang fault of a watched item (R433, R434). -/
def State.hang (s : State) (w : Watched) : State :=
  match w with
  | .context t =>
    let x := s.tile t
    match waitKind x.core.wait with
    | some (k, n) => if s.watchedTile t then s.tileErr t 0x6001 true 1 n (opid x.enq x.core.pc) (hangData k n 0 0) else s
    | none => s
  | .port t p =>
    let x := s.tile t
    match x.head p.toNat with
    | some o =>
      if s.watchedTile t && !x.canIssue o then
        s.tileErr t 0x6002 true 1 p.toNat o.opid (hangData 9 0 (x.firstFail o) (x.firstBusy o))
      else s
    | none => s
  | .netOp t seq =>
    match (s.tile t).exec.find? (fun o => o.port == 5 && o.seq == seq) with
    | some o => if s.watchedTile t then s.tileErr t 0x6002 true 1 5 o.opid (hangData 10 0 0 0) else s
    | none => s
  | .send t ep =>
    let x := s.tile t
    match x.stalledSend with
    | some (o, ch) =>
      let e := (x.ep ch).peerId
      if ch = ep && s.watchedTile t then
        s.tileErr t 0x6003 true 0 ch.toNat o.opid (hangData 11 ch.toNat e.ord.toNat (peerWord e))
      else s
    | none => s
  | .recv t ep =>
    let x := s.tile t
    match (x.ep ep).recs with
    | r :: _ =>
      if r.left ≠ 0 && s.watchedTile t then
        s.tileErr t 0x6003 true 0 ep.toNat (opid x.enq x.core.pc) (hangData 12 ep.toNat r.who.ord.toNat (peerWord r.who))
      else s
    | [] => s
  | .collective plan =>
    match s.runs.find? (fun r => r.plan == plan.toNat && r.started && !r.written) with
    | some r =>
      let who := match s.plan plan.toNat with | some p => s.awaited p r | none => 0
      { s with endDirty := true }.unitErr 0x6005 0 6 (unitLoc 0) 0 (hangData 13 plan.toNat 0 who)
    | none => s
  | .homeAgent k =>
    let mine (a : Nat) : Bool := a / Config.pageBytes % 64 == k.toNat
    let held := s.home.cows.any (fun c => c.lpn % 64 == k.toNat && !c.held.isEmpty)
      || s.home.accs.any (fun c => mine c.at_)
    if held then
      let s := if s.stepRunning then { s with endDirty := true } else s
      s.unitErr 0x6004 3 2 (unitLoc k.toNat) 0 (hangData 14 0 0 0)
    else s
  | .fabricPort p =>
    -- such a port leaves ACTIVE instead (R345)
    if (s.port p.toNat).replay.isEmpty || s.portState p.toNat ≠ tsActive then s
    else s.setPort p.toNat { s.port p.toNat with lost := true }

def execHangWindowExpired (w : Watched) (s : State) : Outcome :=
  if s.watching then .next (s.hang w) else .next s

/-! ## Hardened registers (R427, R428) -/

/-- What the three copies of a register show: no fault, a copy rewritten, or no majority. -/
inductive Vote3 where
  | good | fixed | lost
  deriving DecidableEq, Repr

/-- One copy out of line, or failing its parity, is rewritten; two that fail, or three that differ, leave no majority. -/
def vote3 (c0 c1 c2 : W64) (p0 p1 p2 : Bool) : Vote3 :=
  let fails := [p0, p1, p2].filter (fun p => !p)
  if fails.length ≥ 2 then .lost
  else if c0 = c1 ∧ c1 = c2 then (if fails.isEmpty then .good else .fixed)
  else if c0 = c1 ∨ c1 = c2 ∨ c0 = c2 then .fixed
  else .lost

/-- Where a hardened register stands: UNIT, LOC, the half that holds it (none: the device), its offset within its block. -/
def State.hardPlace (s : State) (r : HardReg) : Byte × W32 × Option Bool × Nat :=
  match r with
  | .mapCol c => (7, routerLoc c.toNat 0, some (colEast c.toNat), F.MAP_COL.STATE.at c.toNat % 0x10000)
  | .router px py => (7, routerLoc px.toNat py.toNat, some (colEast px.toNat), 0)
  | .chCfg t e => (0, s.tileLoc t, some (isEast t), 0x100 + 16 * e.toNat)
  | .chPeer t e => (0, s.tileLoc t, some (isEast t), 0x104 + 16 * e.toNat)
  | .range k i w => (2, unitLoc k.toNat, some (decide (32 ≤ k.toNat)), 0x1000 + 32 * i.toNat + 8 * w.toNat)
  | .route n => (5, unitLoc 0, none, F.OL_RT.VALID.at n.toNat % 0x10000)
  | .weight p => (5, unitLoc p.toNat, none, 0)
  | .coord => (8, unitLoc 0, none, 0x40)
  | .buddy => (8, unitLoc 0, none, 0x20)

/-- The register exists. -/
def hardExists : HardReg → Bool
  | .mapCol c => decide (c.toNat < Config.physCols)
  | .router px _ => decide (px.toNat < Config.physCols)
  | _ => true

/-- The scrubber reaches a hardened register; `us` is the duration of its last full pass. -/
def execHardenedScrub (r : HardReg) (c0 c1 c2 : W64) (p0 p1 p2 : Bool) (us : W16) (s : State) : Outcome :=
  if !hardExists r then .next s
  else
    let s := s.fset F.FLT_HARDEN.SCRUB_US us.toNat
    match vote3 c0 c1 c2 p0 p1 p2 with
    | .good => .next s
    | .fixed => .next (s.fadd F.FLT_HARDEN.CORRECTED 1)
    | .lost =>
      let (unit, loc, half, off) := s.hardPlace r
      let low (c : W64) : Nat := c.toNat % 2 ^ 32
      let data := data2 (off + low c0 * 2 ^ 32) (low c1 + low c2 * 2 ^ 32)
      match r with
      | .chCfg t e | .chPeer t e => .next (s.tileErr t 0x7001 false 3 e.toNat 0 data)
      | _ =>
        let s := if s.stepRunning then { s with endDirty := true } else s
        .next (s.unitErr 0x7001 (if half.isSome then 3 else 4) unit loc 0 data)

/-! ## Notices received (R435 to R440) -/

/-- CONTENT bytes 0x00 to 0x07 and 0x10 to 0x17 of a notice, as event 0xA001 keeps them. -/
def noticeData (n : Notice) : Nat :=
  data2 (n.code.toNat + n.level.toNat * 2 ^ 16 + n.unit.toNat * 2 ^ 24 + n.loc.toNat * 2 ^ 32)
    (n.subject.toNat + n.nseq.toNat * 2 ^ 32)

/-- A notice reaches the device (R439): none when it has been received already; else it is recorded, and the lead's FAULT cause is
set. -/
def State.heed (s : State) (typ : Nat) (n : Notice) : Option State :=
  if (n.subject, n.nseq) ∈ s.seen then none
  else
    let s := { s with seen := s.seen ++ [(n.subject, n.nseq)] }.event 0xA001 8 0 typ (noticeData n)
    some (if s.isLead then s.faultCause else s)

/-- Committed frames are lost with the fault that a notice reports: an uncorrectable unit, or a device out of service. -/
def destroys (n : Notice) : Bool := n.code == 0x2011 || (n.level == 5 && n.unit == 8)

/-- A device has lost committed copies for good: the lead reports the job unrecoverable (R68, R416). -/
def State.noteLoss (s : State) (n : Notice) : State :=
  if n.code == 0x2011 && n.unit == 8 && (s.isLead || s.coordinates) then s.setUnrec true else s

def execFaultNotice (n : Notice) (s : State) : Outcome :=
  match s.heed 0x10 n with
  | none => .next s
  | some s => .next ((s.noteLoss n).coordFault (s.wordOrd n.subject) (destroys n))

/-- The coordinator awaits the reset that a STOT announces; a unit that leaves service without a spare holds the job. -/
def State.noteStot (s : State) (n : Notice) : State :=
  let o := s.wordOrd n.subject
  let s := if s.coordinates && 2 ≤ n.level.toNat && n.level.toNat ≤ 4 then
      { s with coord := { s.coord with resets := addTo o s.coord.resets } }
    else s
  if n.level = 5 && (n.unit = 0 || n.unit = 7 || n.unit = 8) then
    { s with outUnits := addTo (n.subject, n.unit, n.loc) s.outUnits }
  else s

/-- A STOT: also a fault notice at the coordinators. One with CODE 0x6006 asks its subject for a device reset (R440); one that names
the primary silent leaves the standby without it (R392). -/
def execStot (n : Notice) (s : State) : Outcome :=
  match s.heed 0x11 n with
  | none => .next s
  | some s =>
    let o := s.wordOrd n.subject
    let s := (s.noteStot n).coordFault o (destroys n)
    let s := if n.code = 0x6006 && o == s.primaryOrd && s.isStandby && s.ord.toNat ≠ o then s.losePrimary else s
    if n.code = 0x6006 && o == s.ord.toNat then
      .next (if s.covered .device then s
        else
          let (esc, s) := s.chargeReset .device
          if esc then s.deviceOut ⟨n.code, 8, unitLoc 0⟩ else s.askReset .device ⟨n.code, 8, unitLoc 0⟩)
    else .next s

/-- A notice names a unit of `outUnits`: the device, or the physical tile, its router included. -/
def namesUnit (n : Notice) (u : W32 × Byte × W32) : Bool :=
  u.1 == n.subject && (if n.unit = 8 then u.2.1 == 8 else (n.unit == 0 || n.unit == 7) && u.2.1 != 8 && bits u.2.2.toNat 19 8 == bits n.loc.toNat 19 8)

/-- A reset of a half or of the device has ended: the columns of the subject's readmitted tiles are back (R416, R485). -/
def State.columnsBack (s : State) (n : Notice) : State :=
  if n.level.toNat < 3 then s
  else
    let back (u : W32 × Byte × W32) : Bool := u.1 == n.subject && u ∈ s.backUnits
    { s with outUnits := s.outUnits.filter (fun u => !back u), backUnits := s.backUnits.filter (fun u => u.1 != n.subject) }.releaseHold

/-- The mirror copies that a lost or replaced device kept are gone: what this device streams to it begins anew (R455). -/
def State.buddyGone (s : State) (o : Nat) : State :=
  if s.fbit F.STEP_BUDDY.EN && s.buddyOrd == o && s.ord.toNat ≠ o then { s with mirror := { s.mirror with first := true } } else s

/-- A reset announced in a STOT has ended; the RECOVERED of a device reset stands for its ACK. -/
def execRecovered (n : Notice) (s : State) : Outcome :=
  match s.heed 0x12 n with
  | none => .next s
  | some s =>
    let o := s.wordOrd n.subject
    let acks := if n.level = 4 then addTo o s.coord.acks else s.coord.acks
    .next ({ s with coord := { s.coord with resets := s.coord.resets.filter (fun r => r != o), acks := acks } }.columnsBack n).restartIfReady

def execOutNotice (n : Notice) (s : State) : Outcome :=
  match s.heed 0x13 n with
  | none => .next s
  | some s =>
    .next (if n.unit = 8 then { s with outUnits := addTo (n.subject, n.unit, n.loc) s.outUnits }.buddyGone (s.wordOrd n.subject) else s)

/-- A unit has come back (R416, R451): a device ends the hold that it caused; a tile ends it once its column is back. -/
def execReadmitted (n : Notice) (s : State) : Outcome :=
  match s.heed 0x14 n with
  | none => .next s
  | some s =>
    .next (if n.unit = 8 then { s with outUnits := s.outUnits.filter (fun u => !namesUnit n u) }.releaseHold.buddyGone (s.wordOrd n.subject)
      else { s with backUnits := (s.outUnits.filter (namesUnit n)).foldl (fun l u => addTo u l) s.backUnits })

end Sys2Proof.Machine
end

