-- ==== Sys2Proof/Machine/Recorder.lean ====
section
/-! DEFINITION. The commands of the event recorder (R418, R518 to R528): flushes, staging, power failure, the checkpoint and reading. -/

namespace Sys2Proof.Machine

/-- A change to the recorder. -/
def State.setRec (s : State) (r : Recorder) : State := { s with recorder := r }

def Recorder.copy (r : Recorder) (b : Bool) : Option Flash := if b then r.copyB else r.copyA
def Recorder.setCopy (r : Recorder) (b : Bool) (f : Option Flash) : Recorder :=
  if b then { r with copyB := f } else { r with copyA := f }

/-- Records of the ring in rising order of SEQ. -/
def insSeq (q : Record) : List Record → List Record
  | [] => [q]
  | x :: xs => if q.seq.toNat < x.seq.toNat then q :: x :: xs else x :: insSeq q xs

def Recorder.inOrder (r : Recorder) : List Record := (r.ring.map Prod.snd).foldl (fun l q => insSeq q l) []

/-- The lowest SEQ in the ring (EVT_OLDEST); the next SEQ when it holds none. -/
def Recorder.oldest (r : Recorder) : Nat := (r.inOrder.head?.map (fun q => q.seq.toNat)).getD r.nextSeq.toNat

/-- The highest SEQ among records; 0 without one. -/
def topSeq (l : List Record) : Nat := l.foldl (fun n q => max n q.seq.toNat) 0

/-- COPY_SEQ of the winning copy (EVT_FLUSHED). -/
def Recorder.flushed (r : Recorder) : Nat := ((r.copy r.win).map (fun f => f.copySeq.toNat)).getD 0

/-- A report or an event reaches the recorder (R518). -/
def execRecordWrite (r : Report) (s : State) : Outcome := .next (s.record r)

/-- A second of OPTIME ends: one 0xD002 record for each CODE that was dropped in it (R523). -/
def execSuppressSecondEnd (s : State) : Outcome :=
  let lost := s.recorder.dropped
  let s := s.setRec { s.recorder with dropped := [], written := [], second := max s.recorder.second (s.optime.toNat / 1024) }
  .next (lost.foldl (fun s p => s.event 0xD002 8 0 0 (p.1 % 2 ^ 16 + p.2 % 2 ^ 32 * 2 ^ 32)) s)

/-! ## Flush (R524 to R526) -/

/-- The recorder begins to program the older copy. -/
def Recorder.begin (r : Recorder) (optime : BitVec 48) (clean : Bool) : Recorder :=
  { r with flushing := true, wanted := false, image := some ⟨0, r.pcc, optime, clean, r.ring, []⟩ }

/-- A flush begins: a trigger waits, no flush or erase runs, and 1 s has passed since the end of the last flush (R524). -/
def execFlushStart (now : Nat) (s : State) : Outcome :=
  let s := s.at now
  let r := s.recorder
  let rested := match r.lastEnd with | none => true | some t => decide (t + 1000000000 ≤ s.now)
  if r.wanted && !r.flushing && !r.erasing && rested then .next (s.setRec (r.begin s.optime false)) else .next s

/-- A write of EVT_CTRL (R524). -/
def execEvtFlushRequest (v : W32) (s : State) : Outcome :=
  if v.getLsbD 31 then .next (s.setRec { s.recorder with wanted := true }) else .next s

/-- Staged records move into the ring in order of SEQ (R525); a staged merge replaces the record it merged into. -/
def Recorder.unstage (r : Recorder) : Recorder :=
  let go (r : Recorder) (q : Record) : Recorder :=
    if r.ring.any (fun p => p.2.seq == q.seq) then { r with ring := r.ring.map (fun p => (p.1, if p.2.seq == q.seq then q else p.2)) }
    else { r with ring := mapIns (ringSlot r.ring) q r.ring }
  { (r.staging.foldl (fun l q => insSeq q l) []).foldl go r with staging := [] }

/-- A flush completes (R524, R525): the copy becomes the newer one and the other is erased. How many of the staged records arrived
before their area was programmed is not known: a free number. A flush that failed leaves the winning copy and writes 0xD004 (R527);
its copy is erased again. -/
def execFlushComplete (ok : Bool) (now : Nat) (s : State) : Outcome :=
  let s := s.at now
  match s.recorder.image with
  | none => .next s
  | some im =>
    let (k, s) := s.draw
    let r := s.recorder
    let n := (Config.freeWord k 0).toNat % (r.staging.length + 1)
    let staged := r.staging.take n
    let older := !r.win
    let r := { r.unstage with flushing := false, image := none, lastEnd := some s.now, erasing := true }
    if ok then
      let seq := BitVec.ofNat 48 (topSeq (im.ring.map Prod.snd ++ staged))
      let r := r.setCopy older (some { im with copySeq := seq, staging := staged, optime := s.optime })
      .next (s.setRec { r.setCopy (!older) none with win := older })
    else .next ((s.setRec (r.setCopy older none)).event 0xD004 8 0 0 (data2 (if older then 1 else 0) (Config.freeWord k 1).toNat))

/-- The erase of the older copy completes (R524). -/
def execEraseComplete (s : State) : Outcome := .next (s.setRec { s.recorder with erasing := false })

/-- PWRFAIL_N falls (R526): one 0xD001 record with the records held unflushed, then none; a running flush is marked clean, or a
clean one starts where an erased copy is at hand. -/
def execPwrfailN (s : State) : Outcome :=
  if s.recorder.pfHold then .next s
  else
    let n := (s.recorder.held.filter (fun q => (s.recorder.copy s.recorder.win).isNone || decide (s.recorder.flushed < q.seq.toNat))).length
    let s := s.event 0xD001 8 0 0 n
    let r := { s.recorder with pfHold := true }
    if r.flushing then .next (s.setRec { r with image := r.image.map (fun f => { f with clean := true }) })
    else if r.erasing then .next (s.setRec r)
    else .next (s.setRec (r.begin s.optime true))

/-- PWRFAIL_N rises with VDD_AON held: recording resumes (R526). -/
def execPwrfailNRelease (s : State) : Outcome := .next (s.setRec { s.recorder with pfHold := false })

/-- The checkpoint of OPTIME is written to flash (R527). -/
def execOptimeCheckpoint (s : State) : Outcome :=
  .next (s.setRec { s.recorder with ckptOptime := s.optime, ckptPcc := s.recorder.pcc })

/-! ## Reading (R418, R528) -/

/-- A write of EVT_READ_SEL selects the slot of the ring that holds SEQ, or sets GONE (R528). -/
def State.selectRecord (s : State) (v : Nat) : State :=
  let q := v % 2 ^ 48
  let slot := (s.recorder.ring.find? (fun p => p.2.seq.toNat == q)).map Prod.fst
  ((s.fset F.EVT_READ_SEL.SEQ q).fsetb F.EVT_READ_STATUS.GONE slot.isNone).setRec { s.recorder with shown := slot }

def execEvtReadSelWrite (v : W64) (s : State) : Outcome := .next (s.selectRecord v.toNat)

/-- EVT_READ_DATA_n: bytes 8n to 8n + 7 of the selected slot as it stands now. -/
def State.shownData (s : State) (n : Nat) : Nat :=
  match s.recorder.shown.bind (mapFind s.recorder.ring) with
  | some q => ofBytes (((recordBytes q).drop (8 * n)).take 8)
  | none => 0

/-- The records that READ_EVENTS delivers: those of the ring from `from_` on, at most `room` of them (R418, R528). -/
def Recorder.deliver (r : Recorder) (from_ room : Nat) : List (List Byte) :=
  ((r.inOrder.filter (fun q => decide (from_ ≤ q.seq.toNat))).take room).map recordBytes

end Sys2Proof.Machine
end

