-- ==== Sys2Proof/Machine/Votes.lean ====
section
/-! DEFINITION. Power votes, the state each domain is to take, and what wakes it (R495 to R505). Domains are numbered as PWR_VOTE_d
numbers them. -/

namespace Sys2Proof.Machine

/-! ## Domains and their states (R495, R496) -/

/-- Domains that a domain contains (R499): the device its halves, ports, stacks and far ports, a half its clusters. -/
def inside (d : Nat) : List Nat :=
  match domKind d with
  | .device => (List.range 30).map (fun i => i + 128)
  | .half => (List.range 128).filter (fun c => decide (8 ≤ c % 16) == (d == 129))
  | _ => []

/-- A herd of 32 or 64 devices. -/
def State.bigHerd (s : State) : Bool := 32 ≤ s.fget F.HQ_HERD.N

/-- The exit bound from each state, in ns; none for a state that the domain does not have (R496). -/
def exitBound (k : DomKind) (big : Bool) (code : Nat) : Option Nat :=
  match k, code with
  | _, 0 => some 0
  | .cluster, 1 => some 200
  | .cluster, 2 => some 2000
  | .cluster, 4 => some 1000000
  | .cluster, 5 => some 1000000
  | .half, 1 => some 1000
  | .half, 2 => some 100000
  | .half, 4 => some 10000000
  | .half, 5 => some 120000000
  | .port, 1 => some 2000
  | .port, 5 => some 12000000
  | .stack, 2 => some 5000
  | .stack, 4 => some 150000
  | .stack, 5 => some 800000000
  | .far, 2 => some 150000
  | .far, 5 => some 800000000
  | .device, 1 => some 2000
  | .device, 2 => some 150000
  | .device, 3 => if big then some 400000 else none
  | .device, 4 => if big then none else some 12000000
  | .device, 5 => if big then none else some 2800000000
  | _, _ => none

/-- The nearest open state that is not deeper. -/
def openState (k : DomKind) (big : Bool) : Nat → Nat
  | 0 => 0
  | n + 1 => if (exitBound k big (n + 1)).isSome then n + 1 else openState k big n

/-- The deepest state whose exit bound is within the tolerance, PWR_TOL.US. -/
def State.tolState (s : State) (k : DomKind) : Nat :=
  let us := s.fget F.PWR_TOL.US
  let ok (code : Nat) : Bool := match exitBound k s.bigHerd code with
    | some b => us == 0xFFFFFFFF || b ≤ us * 1000
    | none => false
  ((List.range 6).filter ok).foldl max 0

/-- The abort point at which a state is reached (R502). -/
def pointOf (code : Nat) : Nat := match code with | 0 => 0 | 1 => 1 | 2 => 2 | 3 => 3 | 4 => 3 | _ => 4

/-- The state that a domain is in at a point: the one of R502, or the nearest shallower that is open to it. -/
def stateAt (k : DomKind) (big : Bool) (point : Nat) : Nat :=
  openState k big (match point with | 0 => 0 | 1 => 1 | 2 => 2 | 3 => 4 | _ => 5)

def State.domState (s : State) (d : Nat) : Nat := s.fget (F.PWR_STATE.STATE.ix d)

/-! ## Votes (R498) -/

/-- The limit that each hardware client whose bit is set puts on a domain. -/
def State.hwLimits (s : State) (d : Nat) : List (Nat × Nat) :=
  let k := domKind d
  let context := k == .cluster && s.clusterWorks d
  let used := k == .far && s.stepUses d
  let stepping := s.stepPhase != phStepIdle || s.startWait.isSome || s.fget F.WV_STATUS.PHASE == 5
  let anyActive := (List.range 16).any (fun p => s.portState p == tsActive)
  let step := stepping && s.stepUses d
  let loaded := s.fbit F.WV_STATUS.LOADED
  let migrates := s.home.migNow.isSome || !s.home.migQ.isEmpty
  (if step then [(0, 0)] else [])
    ++ (if loaded && (context || k == .stack || used) then [(1, 4)]
        else if loaded && (k == .half || k == .port || k == .device) then [(1, 2)] else [])
    ++ (if d ∈ s.access then [(2, 0)] else [])
    ++ (if k == .device && s.isLead && s.queues.any (fun (q : Nat × Queue) => q.2.busy.isSome) then [(3, 0)] else [])
    ++ (if anyActive && s.bigHerd then (match k with | .half => [(4, 2)] | .port => [(4, 1)] | _ => []) else [])
    ++ (if migrates && (k == .stack || k == .far) then [(5, 0)] else [])

/-- PWR_VOTE_d.HW. -/
def State.hwVotes (s : State) (d : Nat) : Nat := ((s.hwLimits d).map (fun c => 2 ^ c.1)).sum

/-- The limit of HOSTn (PWR_CLIENT_LIM). -/
def State.hostLimit (s : State) (n : Nat) : Nat := bits (s.fget F.PWR_CLIENT_LIM.HOST) (3 * n + 2) (3 * n)

/-- Every set bit of a domain's vote register, with its limit. -/
def State.limits (s : State) (d : Nat) : List (Nat × Nat) :=
  s.hwLimits d ++ (if s.fbit (F.PWR_VOTE.FW.ix d) then [(6, s.fget F.PWR_CLIENT_LIM.FW)] else [])
    ++ ((List.range 8).filter (bit (s.fget (F.PWR_VOTE.HOST.ix d)))).map (fun n => (n + 8, s.hostLimit n))

/-! ## The state a domain takes (R499, R500) -/

/-- How deep a contained domain lets the device or a half go. In a herd of 32 or 64 a domain in the state that BROWSE gives it holds
the device no shallower than BROWSE (R499, R507). -/
def State.heldAt (s : State) (c : Nat) : Nat :=
  let st := s.domState c
  let asBrowse : Bool := match domKind c with
    | .cluster => false
    | .half => 2 ≤ st && (inside c).all (fun x => decide (4 ≤ s.domState x))
    | .port => 1 ≤ st || s.portState (c - 130) != tsActive
    | .stack => 4 ≤ st
    | .far => 2 ≤ st || !s.fbit (F.CXL_PORT_STATUS.USED.ix (c - 154))
    | .device => false
  if s.bigHerd && asBrowse then 5 else st

/-- The state that R499 chooses, with the votes of one client left aside. -/
def State.targetBut (s : State) (skip : Option Nat) (d : Nat) : Nat :=
  let k := domKind d
  let vote := ((s.limits d).filter (fun c => skip != some c.1)).foldl (fun a c => min a c.2) 5
  openState k s.bigHerd (((inside d).map s.heldAt).foldl min (min vote (s.tolState k)))

/-- PWR_STATE_d.TARGET. -/
def State.target (s : State) (d : Nat) : Nat := s.targetBut none d

def State.setMove (s : State) (d : Nat) (m : PowerMove) : State := { s with moves := mapPut PowerMove.settled d m s.moves }

/-- A domain has finished its own entry. -/
def State.entered (s : State) (d : Nat) : Bool := (s.move d).waking == 0 && pointOf (s.target d) ≤ (s.move d).point

/-- The domain is to go deeper, and every domain that it contains has finished its entry (R500); `skip` leaves a client's vote aside.
A device that is not ready manages no power. -/
def State.goesDeeper (s : State) (skip : Option Nat) (d : Nat) : Bool :=
  let m := s.move d
  m.waking == 0 && s.fbit F.HQ_STATUS.READY && !s.shutdown && decide (m.point < pointOf (s.targetBut skip d)) && (inside d).all s.entered

/-- PWR_STATE_d.MOVING. -/
def State.moving (s : State) (d : Nat) : Bool := (s.move d).waking != 0 || (s.move d).abort || s.goesDeeper none d

/-! ## Waking (R503, R504) -/

/-- The first step of a wake from a point. -/
def firstWake (point : Nat) : Nat := match point with | 0 => 0 | 1 => 4 | 2 => 2 | _ => 1

/-- The domain begins to wake. -/
def State.wake (s : State) (d : Nat) : State :=
  let m := s.move d
  s.setMove d { m with abort := false, waking := firstWake m.point }

/-- A wake event has come (R504): a domain that is entering stops at the next abort point, one that is settled below RUN wakes. -/
def State.wakeFor (s : State) (entering : Bool) (d : Nat) : State :=
  let m := s.move d
  if m.waking != 0 || m.abort then s
  else if entering then s.setMove d { m with abort := true }
  else if m.point = 0 then s
  else s.wake d

/-- Domains that a change of votes or tolerance makes wake: `before` is the state ahead of the change. A domain that is entering wakes
when the action in progress would take it below its new target. -/
def State.reconsider (before s : State) (ds : List Nat) : State :=
  ds.foldl (fun t d =>
    let entering := before.goesDeeper none d
    let next := s.move d |>.point
    if decide (pointOf (s.target d) < if entering then next + 1 else next) then t.wakeFor entering d else t) s

/-- The tolerance takes a value (R419, R499). -/
def State.setTol (s : State) (us : Nat) : State := s.reconsider (s.fset F.PWR_TOL.US us) (List.range 159)

end Sys2Proof.Machine
end

