-- ==== Sys2Proof/Machine/HostCmd.lean ====
section
/-! DEFINITION. Host commands beside steps and weaves (R417 to R419), and the host port (R400, R401, R461). -/

namespace Sys2Proof.Machine

/-! ## COPY (R411, R417, R551) -/

/-- The front entry of a queue, when it may start. -/
def State.frontCmd (s : State) (q : BitVec 4) (cid : W16) : Option HostCmd :=
  match (s.queue q.toNat).fetched.head?.bind (fun f => spell f.words) with
  | some c => if s.mayStart q cid c then some c else none
  | none => none

/-- The access is refused under R406: no weave, or a page outside the job. -/
def State.outsideJob (s : State) (a : Nat) : Bool := !s.hostServes || (s.place a).isNone

/-- The page is unversioned; a copy that touches another kind waits for an idle phase. -/
def State.unversionedAt (s : State) (a : Nat) : Bool := match s.place a with | some (r, _, _, _) => r.kind == 2 | none => true

/-- A part that lies in one sub-block is written at its home, here or on another device. -/
def State.copyIn (s : State) (tag p : Nat) (bs : List Byte) : State :=
  match s.place p with
  | none => s
  | some (_, o, _, _) => if o = s.ord.toNat then s.writePart (.host tag) p bs else s.emit (.bar2Write p bs)

/-- COPY with DIR 0. `data` is what the host's memory gives; none when its read fails (status 0x09). Every access that R406
refuses writes its event and ends the command with status 0x09; the others are carried out. -/
def execCopyHostToJob (q : BitVec 4) (cid : W16) (a : W64) (len : W32) (data : Option (List Byte)) (s : State) : Outcome :=
  match s.frontCmd q cid with
  | some (.copy _ job n false) =>
    let parts := partsOf job n
    let versioned := parts.any (fun p => !s.outsideJob p.1 && !s.unversionedAt p.1)
    if job ≠ a.toNat || n ≠ len.toNat || (versioned && (s.stepPhase ≠ phStepIdle || s.cmdRun.isSome)) then .next s
    else
      let s := s.begin q
      if s.fbit F.HQ_STATUS.LINK_LOW then .next (s.complete (some q) 0 0x0A 0)
      else match data with
        | none => .next (s.complete (some q) 0 0x09 0)
        | some bs =>
          let (moved, s) := parts.foldl (fun (acc : Nat × State) (p, k) =>
            if acc.2.outsideJob p || (!acc.2.unversionedAt p && !acc.2.hostMayWrite) then (acc.1, acc.2.barEvent 2 p)
            else (acc.1 + k, acc.2.copyIn p p ((bs.drop (p - job)).take k))) (0, s)
          .next (s.complete (some q) moved (if moved = n then 0 else 0x09) 0)
  | _ => .next s

/-- The bytes of a part for the host: a part homed here with the effects of R104 and R551, `found` and `copies` as for a BAR2 read; one homed
on another device as that home's reply, which `remote` holds at the address of the part. -/
def State.copyOut (s : State) (remote : List (Nat × List Byte)) (found : List Nat) (copies : List (Nat × List Byte)) (p n : Nat) :
    List Byte × State :=
  match s.place p with
  | none => (ones n, s.barEvent 2 p)
  | some (_, o, _, _) =>
    if o = s.ord.toNat then s.hostPart found copies p n
    else match (remote.find? (fun r => r.1 == p)).map Prod.snd with
      | some bs => ((bs ++ ones n).take n, s)
      | none => (ones n, s.barEvent 2 p)

/-- COPY with DIR 1. While COMMIT_BUSY reads 1 a read of a versioned page is held (R57). Where the host's memory cannot be written the command
moves nothing and ends with status 0x09 (R414). -/
def execCopyJobToHost (q : BitVec 4) (cid : W16) (host a : W64) (len : W32) (remote : List (Nat × List Byte)) (found : List Nat)
    (copies : List (Nat × List Byte)) (s : State) : Outcome :=
  match s.frontCmd q cid with
  | some (.copy h job n true) =>
    let parts := partsOf job n
    if h ≠ host.toNat || job ≠ a.toNat || n ≠ len.toNat
        || (s.fbit F.STEP_STATUS.COMMIT_BUSY && parts.any (fun p => s.versionedAt p.1)) then .next s
    else
      let s := s.begin q
      if s.fbit F.HQ_STATUS.LINK_LOW then .next (s.complete (some q) 0 0x0A 0)
      else if s.hostCut then .next (s.complete (some q) 0 0x09 0)
      else
        let (bs, s) := parts.foldl (fun (acc : List Byte × State) (p, k) =>
          if acc.2.outsideJob p then (acc.1 ++ ones k, acc.2.barEvent 2 p)
          else let (b, t) := acc.2.copyOut remote found copies p k; (acc.1 ++ b, t)) ([], s)
        .next ((s.emit (.hostWrite h bs)).complete (some q) n 0 0)
  | _ => .next s

/-! ## READ_EVENTS and SET_TOLERANCE (R418, R419) -/

/-- The member at a position is present (R364); this device is. -/
def State.present (s : State) (pos : Nat) : Bool := pos == s.pos || bit (s.fget F.HQ_HERD_PRESENT.MASK) pos

/-- SEQ of the last of several records; one less than the first one wanted where there is none. -/
def nextAfter (from_ : Nat) (rs : List (List Byte)) : Nat :=
  match rs.getLast? with | some b => le b 0 8 / 2 ^ 16 + 1 | none => from_

/-- READ_EVENTS: whole records from FROM on. `remote` is what another member's recorder gives; none when it does not answer (status 0x0B).
Where the host's memory cannot be written it ends with status 0x09 (R414). -/
def execReadEvents (q : BitVec 4) (cid : W16) (buf : W64) (from_ : BitVec 48) (bytes : BitVec 23) (pos : BitVec 6)
    (remote : Option (List (List Byte))) (s : State) : Outcome :=
  if s.frontCmd q cid ≠ some (.readEvents buf.toNat from_.toNat bytes.toNat pos.toNat) then .next s
  else
    let s := s.begin q
    let room := bytes.toNat / 128
    let got : Option (List (List Byte)) :=
      if pos.toNat = s.pos then some (s.recorder.deliver from_.toNat room)
      else if s.present pos.toNat then remote.map (fun rs => (rs.filter (fun b => decide (from_.toNat ≤ le b 0 8 / 2 ^ 16))).take room)
      else none
    match got with
    | none => .next (s.complete (some q) 0 0x0B 0)
    | some rs =>
      if s.hostCut then .next (s.complete (some q) 0 0x09 0)
      else .next ((s.emit (.hostWrite buf.toNat rs.flatten)).complete (some q) (nextAfter from_.toNat rs % 2 ^ 48 + rs.length * 2 ^ 48) 0 0)

/-- Positions that a MASK names; 0 names every member. -/
def State.masked (s : State) (mask : Nat) : List Nat :=
  if mask = 0 then (List.range 64).filter s.present else (List.range 64).filter (bit mask)

/-- SET_TOLERANCE: each device of MASK takes the value. -/
def execSetTolerance (q : BitVec 4) (cid : W16) (us : W32) (mask : W64) (s : State) : Outcome :=
  if s.frontCmd q cid ≠ some (.setTolerance us.toNat mask.toNat) then .next s
  else
    let s := s.begin q
    let who := s.masked mask.toNat
    if who.any (fun p => !s.present p) then .next (s.complete (some q) 0 0x0B 0)
    else
      let s := who.foldl (fun s p => if p = s.pos then s.setTol us.toNat else s.emit (.tolerance p us)) s
      .next (s.complete (some q) 0 0 0)

/-! ## The host port (R400, R401, R461, R462, R546) -/

/-- HQ_STATUS as a word. -/
def State.hqStatus (s : State) : Nat := match regAt 0x11000 with | some (r, i) => s.rawReg r i | none => 0

/-- The host link settles (R400): below 16 GT/s or ×4 LINK_LOW is set and one event is written. -/
def execHostLinkTrained (rate width : BitVec 2) (flit : Bool) (s : State) : Outcome :=
  if !s.hostPort || s.pins.perstLow then .next s
  else
    let low := rate == 0 || width == 0
    let s := ((s.fset F.HQ_STATUS.RATE rate.toNat).fset F.HQ_STATUS.WIDTH width.toNat).fsetb F.HQ_STATUS.FLIT flit
    let s := s.fsetb F.HQ_STATUS.LINK_LOW low
    .next (if low then s.event 0xA002 8 0 0 s.hqStatus else s)

/-- A queue pair after a reset of the HQ block: what it has fetched goes on, its completions are discarded (R401). -/
def Queue.cut (x : Queue) : Queue :=
  { Queue.empty with fetched := x.fetched.map (fun (f : Fetched) => { f with live := false })
                     busy := x.busy.map (fun (f : Fetched) => { f with live := false }) }

/-- Reset of the host port and the HQ block (R401): every field that lists BLK, the queues, and the accesses of the host that are held. The job
goes on, and commands already fetched run to their end with their completions discarded. -/
def State.resetHq (s : State) : State :=
  let s := s.restoreRegs 128 (fun _ => true)
  let s := s.queues.foldl (fun s (q : Nat × Queue) => s.setIdle q.1) s
  let stays (r : HeldReq) : Bool := match r with | .packet .. => true | _ => false
  { s with queues := s.queues.map (fun (q : Nat × Queue) => (q.1, q.2.cut)), nextQ := 0, msix := [], msixPend := []
           home := { s.home with hostHeld := [] }, heldReqs := s.heldReqs.filter stays }

/-- PERST_N (R401, R541): low, it resets the host port and the HQ block; a member ignores it. -/
def execPerstN (low : Bool) (s : State) : Outcome :=
  if !s.isLead then .next s
  else
    let s := { s with pins := { s.pins with perstLow := low } }
    .next (if low then s.resetHq else if s.hostPort then s.emit (.hostLink true) else s)

def execHotReset (s : State) : Outcome := .next (if s.hostPort then s.resetHq else s)

def execFlr (s : State) : Outcome := .next (if s.hostPort then s.resetHq else s)

end Sys2Proof.Machine
end

