-- ==== Sys2Proof/Machine/Mailbox.lean ====
section
/-! DEFINITION. The STAG mailbox (R422, R464): commands, their results, and recovery firmware. -/

namespace Sys2Proof.Machine

/-- An access of the host to a device that is not the lead is dropped (R407); other paths, and the member window, reach it. -/
def State.hostDropped (s : State) (path : Path) : Bool := path == .pcie && !s.isLead

/-- Bytes of MBX_BUF. -/
def State.mbxBytes (s : State) (a n : Nat) : List Byte := readBytes 0 s.mbxBuf a n

/-- A write of MBX_CMD with GO = 1 starts a command: refused while one runs. Its result and output stand in MBX_BUF once it ends. -/
def State.mbxStart (s : State) (path : Path) (code result : Nat) (out : List Byte) (f : State → State) : State :=
  if s.hostDropped path then s
  else if s.fbit F.MBX_STATUS.BUSY then s.refuseWrite 0x30000 (2 ^ 31 + code)
  else
    let s := (f s).fset F.MBX_CMD.CODE code
    let s := (s.fsetb F.MBX_STATUS.BUSY true).fsetb F.MBX_STATUS.OWNER (path == .smbus)
    { s with mbxRun := some (result, out) }

/-- GET_INFO: firmware version and serial number. -/
def execGetInfo (path : Path) (s : State) : Outcome :=
  .next (s.mbxStart path 0x01 0 (toBytes 8 Config.firmwareVersion.toNat ++ toBytes 16 Config.serialNumber.toNat) id)

/-- TOPO_WRITE: the descriptor goes to flash unless the STAG refuses it (R366). -/
def execTopoWrite (path : Path) (flashOk : Bool) (s : State) : Outcome :=
  let d := s.mbxBytes 0 160
  if !descValid d then .next (s.mbxStart path 0x02 2 [] id)
  else if flashOk then .next (s.mbxStart path 0x02 0 [] (fun s => { s with descrFlash := d }))
  else .next (s.mbxStart path 0x02 3 [] id)

/-- TOPO_READ: the descriptor in force. -/
def execTopoRead (path : Path) (s : State) : Outcome := .next (s.mbxStart path 0x03 0 ((s.descr ++ List.replicate 160 0).take 160) id)

/-- A key as MBX_BUF spells it: 0x04, then the coordinates, most significant byte first. -/
def keyBytes (k : BitVec 768) : List Byte := 0x04 :: toBe 96 k.toNat
def keyOf (bs : List Byte) : BitVec 768 := BitVec.ofNat 768 (beBytes (bs.drop 1))

/-- A signature in the layout of R305 by the key of slot 0. -/
def slot0Signed (msg sig : List Byte) : Bool :=
  le sig 0 1 == 0 && le sig 1 1 == 1 && le sig 2 6 == 0 && signatureOk Config.slot0Key msg (sig.drop 8)

/-- The result of a command that changes a key slot: slots 1 to 7, a signature that verifies, a flash write that succeeds. -/
def keyResult (slot : Nat) (signed flashOk : Bool) : Nat :=
  if slot = 0 ∨ slot > 7 ∨ signed = false then 2 else if flashOk then 0 else 3

def execKeyWrite (path : Path) (flashOk : Bool) (s : State) : Outcome :=
  let slot := le (s.mbxBytes 0 1) 0 1
  let key := s.mbxBytes 1 97
  let r := keyResult slot (key.head? == some 0x04#8 && slot0Signed (s.mbxBytes 0 98) (s.mbxBytes 98 104)) flashOk
  .next (s.mbxStart path 0x10 r [] (fun s => if r = 0 then { s with keys := mapIns slot (.key (keyOf key)) s.keys } else s))

def execKeyRevoke (path : Path) (flashOk : Bool) (s : State) : Outcome :=
  let slot := le (s.mbxBytes 0 1) 0 1
  let r := keyResult slot (slot0Signed (s.mbxBytes 0 1) (s.mbxBytes 1 104)) flashOk
  .next (s.mbxStart path 0x11 r [] (fun s => if r = 0 then { s with keys := mapIns slot .revoked s.keys } else s))

/-- KEY_READ: the slot's state and its key. -/
def execKeyRead (path : Path) (s : State) : Outcome :=
  let slot := le (s.mbxBytes 0 1) 0 1
  let out : List Byte :=
    if slot = 0 then 1 :: keyBytes Config.slot0Key
    else match mapGet KeySlot.empty s.keys slot with
      | .empty => 0 :: List.replicate 97 0
      | .key k => 1 :: keyBytes k
      | .revoked => 2 :: List.replicate 97 0
  if slot > 7 then .next (s.mbxStart path 0x12 2 [] id) else .next (s.mbxStart path 0x12 0 out id)

/-- The command ends (R422): RESULT, LEN and the output are written, BUSY clears, and the MBX cause is set. -/
def execMailboxCommandEnd (s : State) : Outcome :=
  match s.mbxRun with
  | none => .next s
  | some (result, out) =>
    let s := { s with mbxRun := none, mbxBuf := writeBytes 0 0 out s.mbxBuf }
    let s := ((s.fset F.MBX_STATUS.RESULT result).fset F.MBX_STATUS.LEN out.length).fsetb F.MBX_STATUS.BUSY false
    .next s.mbxCause

/-- Recovery firmware reaches the STAG before stage 1 ends: over PCIe under strap code 8, over SMBus under code 9 (R464). -/
def execRecoveryFirmwareWrite (path : Path) (fw : List Byte) (s : State) : Outcome :=
  let code := s.fget F.RST_CFGSEL.CODE
  if s.fbit F.RST_CFGSEL.VALID && s.bring.active && s.bring.next == 1
      && ((code == 8 && path == .pcie) || (code == 9 && path == .smbus)) then .next { s with recoveryFw := fw }
  else .next s

end Sys2Proof.Machine
end

