-- ==== Sys2Proof/Machine/Reset.lean ====
section
/-! DEFINITION. Resets (R441 to R447, R456 to R462, R474 to R476): domain resets, device resets by every source, block resets, the
watchdog, and readmission. Bring-up itself stands in BringUp. -/

namespace Sys2Proof.Machine

/-! ## What a reset clears (R442, R443, R446) -/

/-- A tile in reset (R446): GEN moves on, its memory is zeroed, its buffers, banks and vector file are undefined; its image waits in
the weave store. -/
def Tile.down (x : Tile) (seed : Nat) : Tile :=
  { Tile.reset with gen := x.gen + 1, img := x.img, resume := x.resume, bufA := ⟨2 * seed, [], []⟩, bufB := ⟨2 * seed + 1, [], []⟩
                    bankSeed := seed, vec := ⟨seed, []⟩ }

/-- Requests that a tile had accepted from outside the domain end with error responses (R442): the remote writes in its gather buffer.
Message blocks that it had accepted have been acknowledged (R324); the others are answered as they arrive (R284). -/
def State.answerFor (s : State) (t : TileId) (inside : TileId → Bool) : State :=
  let acks := (s.tile t).gather.flatMap Gather.acks
  s.emits ((acks.filter (fun a => !inside a.1)).map (fun a => .writeAck a.1 a.2.1 a.2.2.1 true))

/-- The tiles of a domain, in order. -/
def domTiles (d : Domain) : List TileId :=
  ((List.range Config.tiles).map (BitVec.ofNat 11)).filter (fun t => domContains d (.tile t))

/-- GEN of the physical tiles of a half, or of both, that serve no logical tile moves on with a reset that reaches them (R123, R443). -/
def State.spareDown (s : State) (d : Domain) : State :=
  let cols := match d with | .half e => halfCols e | .device => List.range Config.physCols | _ => []
  let keys := (cols.filter (fun c => s.fget (F.MAP_COL.STATE.ix c) != 0)).flatMap (fun c => (List.range 32).map (physKey c))
  { s with physGen := keys.foldl (fun m k => mapPut 0 k (mapGet 0 m k + 1) m) s.physGen }

/-- The wrappers of the domain's tiles close (R445, steps 1 to 3). -/
def State.tilesDown (s : State) (d : Domain) : State :=
  let ts := domTiles d
  let s := ts.foldl (fun s t => s.answerFor t (fun u => domContains d (.tile u))) s
  let (n, s) := s.draw
  let s := { s with tiles := s.tiles.map (fun (p : Nat × Tile) =>
      if domContains d (.tile (BitVec.ofNat 11 p.1)) then (p.1, p.2.down (n * Config.tiles + p.1)) else p)
                    barriers := s.barriers.map (fun (p : Nat × List TileId) => (p.1, p.2.filter (fun t => !domContains d (.tile t)))) }
  -- a tile that no image has reached yet, or that serves no logical tile, moves its GEN on as well
  let s := s.spareDown d
  ts.foldl (fun s t => if (mapFind s.tiles t.toNat).isSome then s
    else s.setTile t (Tile.reset.down (n * Config.tiles + t.toNat))) s

/-- Commons slices of a half (R17). -/
def sliceEast (k : Nat) : Bool := decide (32 ≤ k)
def byteEast (a : Nat) : Bool := sliceEast (a / Config.sliceBytes)

/-- Blocks that begin or end in a half. -/
def State.blockIn (s : State) (east : Bool) (b : MeshBlock) : Bool := s.eastEnd b.src == east || s.eastEnd b.dst == east

/-- Blocks addressed into a half from the other one end with error responses when its mesh stops (R260, R442). -/
def State.endInto (s : State) (east : Bool) : State :=
  let into (k : Kept) : Bool := s.eastEnd k.block.src != east && s.eastEnd k.block.dst == east
  let mine := s.mesh.kept.filter into
  let s := { s with mesh := { s.mesh with kept := s.mesh.kept.filter (fun k => !into k) } }
  mine.foldl (fun s k => s.ownerFails k.block k.owner) s

/-- The routers of a half in reset: what they, their endpoints and the seam hold is dropped (R261, R446). -/
def State.meshDown (s : State) (east : Bool) : State :=
  let s := s.endInto east
  let m := s.mesh
  { s with mesh := { m with
    cnt := m.cnt.filter (fun p => eastCol (p.1 / 64 % 68) != east)
    seen := m.seen.filter (fun b => !s.blockIn east b)
    kept := m.kept.filter (fun k => !s.blockIn east k.block)
    asks := m.asks.filter (fun q => s.eastEnd q.1 != east)
    outs := m.outs.filter (fun p => eastCol (keyCol p.1) != east)
    hops := m.hops.filter (fun h => s.eastEnd h.1 != east && s.eastEnd h.2.1 != east)
    seam := []
    syncSeam := [] } }

/-- A half reset beside its tiles (R83, R261, R446): slices zeroed, their requests answered, caches emptied, the counters and the blocks
of its routers dropped. -/
def State.halfDown (s : State) (east : Bool) : State :=
  let mine := s.sliceQ.filter (fun p => sliceEast (p.1 / 2) == east)
  let s := { s with sliceQ := s.sliceQ.filter (fun p => sliceEast (p.1 / 2) != east) }
  let s := mine.foldl (fun s p => p.2.foldl (fun s r =>
    if isEast r.t == east then s else s.requestFailed r.t r.gen r.seq 0) s) s
  { s with commons := s.commons.filter (fun p => byteEast p.1 != east)
           commonsBad := s.commonsBad.filter (fun w => byteEast (w * 8) != east)
           home := { s.home with cache := s.home.cache.filter (fun p => sliceEast p.1 != east) } }.meshDown east

/-! ## Device resets (R456 to R461) -/

/-- Is the map's register: its reset value is the map that stage 3 loads (MAP_COL_n). -/
def isMapCol (off : Nat) : Bool := decide (0x90100 ≤ off ∧ off < 0x90210)

/-- The step under way is lost with a device reset: the interval is closed as rolled back (R59, R394), unless the device has cast its VOTE:
then its homes await the decision (R389). -/
def State.loseStep (s : State) : State :=
  if s.fbit F.WV_STATUS.LOADED && s.stepPhase == phStepVoting && s.prepared.isNone then { s with undecided := some s.current }
  else if s.fbit F.WV_STATUS.LOADED && (s.stepPhase == phStepRunning || s.stepPhase == phStepVoting) then
    s.recordRollback.fset F.STEP_CURRENT.STEP s.committed
  else s

/-- Requests of other devices at this home end with error responses (R442). -/
def State.answerHomes (s : State) : State :=
  let s := s.home.cows.foldl (fun s c => c.held.foldl HomeReq.refused s) s
  let s := s.home.hostReads.foldl (fun s r => s.emit (.homeErr r.1 r.2.1)) s
  let s := s.home.accs.foldl (fun s c => s.emit (.homeErr c.req c.a)) s
  { s with home := { s.home with cows := [], accs := [], hostHeld := [], hostReads := [], cache := [], farLost := [], rowErrs := [], scrubAt := [] } }

/-- A stream, or one that is due, that a reset of the device cuts off: its sub-blocks join the next stream (R71). -/
def Mirror.dropped (m : Mirror) : Mirror :=
  { m.dropStream with todo := [], hostWrote := m.todo.foldl (fun l n => addTo n l) m.dropStream.hostWrote }

/-- What the device holds outside its registers, tiles and home, as a reset of the device domain leaves it. -/
def State.deviceDown (s : State) : State :=
  { s with reports := [], commons := [], commonsBad := [], sliceQ := [], sliceOnce := [], sliceTurn := [], endDirty := false
           mesh := { Mesh.empty with era := s.mesh.era + 1 }, result := none, snapshot := none, rootFlags := 0, barriers := [], queues := [], nextQ := 0, msix := []
           msixPend := [], load := none, undo := none, runs := [], runCount := [], coord := Coord.idle, decided := none, cmdRun := none
           cmdCtrl := [], askCommit := none, askRollback := false, startWait := none, heldTopology := false, ended := false, prepared := none, rolling := []
           mirror := s.mirror.dropped, lsas := [], routes := none, weights := [], rates := []
           cneSent := [], portsBack := [], mbxBuf := [], mbxRun := none, stagUp := false, stagHalted := false, recoveryFw := []
           hostPort := false, wdtFrom := s.now, slices := [], scrubErrs := [], scrubPos := [], moves := [], access := [], heldReqs := [], snap := none
           pronk := { s.pronk with since := none }, tripped := false
           ports := s.ports.map (fun (p : Nat × Port) => (p.1, Port.fresh p.2)) }

/-- Bring-up begins at the first stage of a path (R459, R460); path 1 cold from stage `from_`, path 2 warm from stage 1. -/
def State.startBring (s : State) (path from_ : Nat) : State :=
  let s := (s.fset F.RST_STAGE_CTRL.KIND path).fset F.RST_STAGE_CTRL.STAGE from_
  let s := s.fsetb F.RST_STAGE_CTRL.HELD (s.fbit F.RST_STAGE_CTRL.HOLD_EN && 1 ≤ from_)
  { s with bring := { s.bring with active := true, path := path, next := from_, bad := [], heard := [] } }

/-- A reset of the device domain (R442 to R446, R456, R460, R461): its cause is kept, a flush of the recorder is asked for, registers take
the values that DEV, and for RESET_N also PIN, restore, and bring-up starts; a device out of service stays in reset (R449). -/
def State.deviceReset (s : State) (cause : Fld) (pin : Bool) : State :=
  let s := s.fsetb cause true
  let s := s.event 0xC004 8 0 0 (match regAt 0x60000 with | some (r, i) => s.rawReg r i | none => 0)
  let s := s.setRec { s.recorder with wanted := true }
  -- the host sees a surprise link-down (R461)
  let s := if s.hostPort then s.emit (.hostLink false) else s
  let s := (s.loseStep.answerHomes.tilesDown .device).deviceDown
  let s := s.restoreRegs (if pin then 12 else 8) (fun off => !isMapCol off)
  let s := { s with resetAsk := [], resetRun := [.device], causes := s.causes.filter (fun c => c.1 == Domain.device)
                    ackStep := none, afterRoll := false }
  if s.soft.oosDevice then { s with bring := { s.bring with active := false } }
  else if s.bring.done9 then s.startBring 2 1 else s.startBring 1 1

/-- The reset is charged to the device (R458); at escalation the device leaves service. -/
def State.charged (s : State) (code : W16) : Bool × State :=
  let (esc, s) := s.chargeReset .device
  (esc, if esc then s.deviceOut ⟨code, 8, unitLoc 0⟩ else s)

def State.chargedReset (s : State) (cause : Fld) (pin : Bool) : State := (s.charged 0).2.deviceReset cause pin

/-! ## Domain resets (R425, R436, R445) -/

/-- The rollback has let every tile leave its step, or no step runs. -/
def State.mayReset (s : State) : Bool :=
  s.stepPhase == phStepIdle || (s.stepPhase == phStepRolling && s.rolling.isEmpty)

/-- Power domains that a reset reaches below the device (R506): it wakes them first. -/
def powerOf : Domain → List Nat
  | .tile t => [clusterOf t]
  | .cluster c => [c.toNat]
  | .half e => (if e then 129 else 128) :: (List.range 128).filter (fun c => decide (8 ≤ c % 16) == e)
  | .device => []

/-- Domains are in RUN, as a reset leaves them; held requests proceed. -/
def State.awake (s : State) (ds : List Nat) : State :=
  let s := ds.foldl (fun s d => s.fset (F.PWR_STATE.STATE.ix d) 0) s
  { s with moves := s.moves.filter (fun p => !(p.1 ∈ ds)), access := s.access.filter (fun d => !(d ∈ ds)) }

/-- A reset that has been asked for begins. A device reset needs no rollback on this device. -/
def execDomainResetBegin (d : Domain) (s : State) : Outcome :=
  if !(d ∈ s.resetAsk) || !(s.mayReset || (d == .device && s.stepPhase != phStepRunning)) then .next s
  else match d with
    | .device => .next (s.deviceReset F.RST_CAUSE.FAULT false)
    | .half e =>
      -- stages 3, 4 and 8 of the half run before it ends (R474)
      if s.bring.active then .next s
      else
        let s := { s with resetAsk := s.resetAsk.filter (fun a => a != d), resetRun := s.resetRun ++ [d] }.awake (powerOf d)
        .next (((s.tilesDown d).halfDown e).startBring (if e then 4 else 3) 3)
    | _ =>
      let s := { s with resetAsk := s.resetAsk.filter (fun a => a != d), resetRun := s.resetRun ++ [d] }.awake (powerOf d)
      let s := s.tilesDown d
      .next (s.applyRepairs (fun a => (domTiles d).any (fun t => tileArray (s.physOf t) == a)))

/-- A tile comes out of reset (R313, R470): re-imaged when a weave is loaded, else with the idle image. -/
def State.raise (s : State) (t : TileId) : State :=
  let x := { s.tile t with phase := phIdle }
  let (n, s) := s.draw
  match s.weave with
  | none => s.setTile t x
  | some w =>
    let y := x.imaged w s.ord.toNat t n
    s.setTile t { y with resume := if x.resume = .entry then .entry else .resume }

def domLevel (d : Domain) : Nat := match d with | .tile _ => 1 | .cluster _ => 2 | .half _ => 3 | .device => 4

/-- The reset has ended: tiles wait at the step gate, and RECOVERED is sent (R445, steps 5 to 7). A half ends after its stage 8, the
device when it is ready. -/
def execDomainResetEnd (d : Domain) (s : State) : Outcome :=
  let ready := match d with | .device => s.fbit F.HQ_STATUS.READY | .half _ => !s.bring.active | _ => true
  if !(d ∈ s.resetRun) || !ready then .next s
  else
    let w : Why := match s.causes.find? (fun c => c.1 == d) with
      | some (_, code, unit, loc) => ⟨code, unit, loc⟩
      | none => match d with | .tile t => ⟨0, 0, s.tileLoc t⟩ | _ => ⟨0, 8, unitLoc 0⟩
    let s := match d with
      | .tile _ | .cluster _ => (domTiles d).foldl State.raise s
      | _ => s
    let s := { s with resetRun := s.resetRun.filter (fun a => a != d), causes := s.causes.filter (fun c => c.1 != d) }
    .next (s.tell 0x12 (domLevel d) w).ackIfRolled

/-! ## Power-on and brown-out (R446, R456, R457, R527) -/

/-- Register fields that a reset leaves alone; the map stays until stage 3 rebuilds it. -/
def State.keptRegs (s : State) (src : SrcMask) : SMap Nat :=
  s.regs.filter (fun p => isMapCol (p.1 / 64) || !(match keyFld p.1 with | some f => restores src f | none => false))

/-- What VDD_AON's loss does not reach: flash, fuses, pins. -/
def State.rebuilt (s : State) (src : SrcMask) (cfg : Byte) : State :=
  { State.reset with pending := s.pending, out := s.out, free := s.free, regs := s.keptRegs src, soft := s.soft, fuses := s.fuses
                     keys := s.keys, softOld := s.softOld, descr := s.descr, descrFlash := s.descrFlash, fenced := s.fenced, pins := s.pins
                     bring := { State.reset.bring with cfgRaw := cfg } }

/-- The recorder loads its winning copy (R527). -/
def Recorder.load (r : Recorder) : Recorder :=
  let win : Bool := match r.copyA, r.copyB with
    | some a, some b => decide (a.copySeq.toNat < b.copySeq.toNat)
    | none, some _ => true
    | _, _ => false
  let blank := { Recorder.first with ring := [], nextSeq := 0, written := [], copyA := r.copyA, copyB := r.copyB, win := win
                                     ckptOptime := r.ckptOptime, ckptPcc := r.ckptPcc + 1, pcc := r.ckptPcc + 1 }
  match r.copy win with
  | none => blank
  | some f =>
    let q := { blank with ring := f.ring, staging := f.staging }.unstage
    { (q.setCopy (!win) none) with nextSeq := f.copySeq + 1, erasing := (r.copy (!win)).isSome }

/-- POR: everything, the always-on domain included; the cold path. -/
def execPor (cfg : Byte) (s : State) : Outcome :=
  let r := s.recorder.load
  let old := r.copy r.win
  let start := max r.ckptOptime.toNat ((old.map (fun f => f.optime.toNat)).getD 0)
  let t := (s.rebuilt 1 cfg).setRec r
  -- a device in shutdown stays there until its sensors have cooled (R517)
  let hot := s.shutdown && s.temps.any (fun p => decide (720 ≤ p.2))
  let t := { t with optime0 := start, shutdown := hot, temps := if hot then s.temps else [] }
  .next (match old with
    | none => t.event 0xD003 8 0 0 0
    | some f => if f.clean then t else t.event 0xD003 8 0 0 (data2 f.pcc.toNat f.optime.toNat))

/-- BO: everything but the always-on domain, which keeps the recorder, the time and the escalation counts; the cold path. -/
def execBo (cfg : Byte) (s : State) : Outcome :=
  let t := s.rebuilt 2 cfg
  if s.shutdown then .next (s.fsetb F.RST_CAUSE.BO true)
  else .next ({ t with now := s.now, optime0 := s.optime0, recorder := s.recorder, charges := s.charges, smbAddr := s.smbAddr,
                       wdtFrom := s.now }.fsetb F.RST_CAUSE.BO true)

/-! ## RESET_N, the watchdog, debug, clocks, lock-up (R456, R458, R461, R537) -/

/-- The strap code that a reading selects (R463); none when it is invalid. -/
def cfgCode (raw : Nat) : Option Nat :=
  if raw ≥ 240 then some 15
  else (List.range 15).find? (fun n => decide (16 * n ≤ raw + 6 ∧ raw ≤ 16 * n + 6))

/-- Codes with debug posture open, and codes of a lead (R464). -/
def cfgOpen (c : Nat) : Bool := c ∈ [2, 3, 6, 7, 10, 11, 12, 13]
def cfgLead (c : Nat) : Bool := c ∈ [0, 2, 4, 6, 8, 10, 12]

/-- The converter measures CFGSEL (R463, R464). -/
def State.measure (s : State) : State :=
  let raw := s.bring.cfgRaw.toNat
  let code := (cfgCode raw).getD 0
  let s := ((s.fset F.RST_CFGSEL.RAW raw).fsetb F.RST_CFGSEL.VALID (cfgCode raw).isSome).fset F.RST_CFGSEL.CODE code
  let s := s.fsetb F.RST_CFGSEL.DEBUG ((cfgCode raw).isSome && cfgOpen code && s.lifeCycle != 1)
  s.fsetb F.RST_STAGE_CTRL.HOLD_EN ((cfgCode raw).isSome && (code == 12 || code == 13))

/-- RESET_N (R461, R541, R542): low, it holds the device in reset; its release measures CFGSEL and begins the warm path. Low in OFF
changes nothing, and its release there wakes the device through the cold path. -/
def execResetN (low : Bool) (cfg : Byte) (now : Nat) (s : State) : Outcome :=
  let s := s.at now
  if low then
    if s.pins.resetLow then .next s
    else
      let s := { s with pins := { s.pins with resetLow := true } }
      .next (if s.isOff then s else s.chargedReset F.RST_CAUSE.PIN true)
  else if !s.pins.resetLow then .next s
  else
    let s := { s with pins := { s.pins with resetLow := false }, bring := { s.bring with cfgRaw := cfg } }
    if s.shutdown then .next s
    else if s.isOff then
      .next (((s.answerHomes.tilesDown .device).deviceDown.restoreRegs 12 (fun off => !isMapCol off)).measure.startBring 1 1)
    else
      let s := s.measure
      .next (if s.bring.active then s.startBring s.bring.path s.bring.next else s)

/-- The watchdog expires (RST_WDT): it counts while the STAG runs and the debugger does not halt it. -/
def execWdt (now : Nat) (s : State) : Outcome :=
  let s := s.at now
  if s.stagUp && s.fbit F.RST_WDT.EN && !s.stagHalted && decide (s.wdtFrom + s.fget F.RST_WDT.PERIOD_MS * 1000000 ≤ s.now) then
    .next (s.chargedReset F.RST_CAUSE.WDT false)
  else .next s

/-- A write of RST_WDT.KICK: accepted from the STAG only. -/
def execKick (path : Path) (s : State) : Outcome :=
  if path == .stag then .next { s with wdtFrom := s.now }
  else if s.hostDropped path then .next s
  else .next (s.refuseWrite 0x60010 (2 ^ 30))

/-- A debug request (R456, R464): under open posture only, with the STAG held if asked. -/
def execDbg (hold : Bool) (now : Nat) (s : State) : Outcome :=
  let s := s.at now
  if !s.fbit F.RST_CFGSEL.DEBUG || s.pins.trstLow || s.shutdown then .next s
  else .next { s.deviceReset F.RST_CAUSE.DBG false with stagHalted := hold }

/-- The report of a clock failure or a lock-up: it is recorded, and the device resets (R424, R456, R458). -/
def State.failReset (s : State) (code data : Nat) (cause : Fld) : State :=
  let (esc, s) := s.charged (BitVec.ofNat 16 code)
  let s := s.record (s.mkReport code (errFlags false 4 + if esc then 32 else 0) 8 (unitLoc 0) 0 0 data)
  s.deviceReset cause false

/-- CKF (R537): after the loss of REFCLK_SYS the device stays in reset until it is back. -/
def execCkf (pll : Bool) (idx : Byte) (now : Nat) (s : State) : Outcome :=
  let s := (s.at now).fsetb (if pll then F.CLK_REF_LOSS.PLL else F.CLK_REF_LOSS.SYS) true
  if s.isOff then .next s
  else .next { s.failReset 0x8002 idx.toNat F.RST_CAUSE.CKF with pins := { s.pins with clkLost := s.pins.clkLost || !pll } }

def execRefclkSysRestored (s : State) : Outcome := .next { s with pins := { s.pins with clkLost := false } }

/-- LKU: DATA 0 names the STAG, 1 the power sequencer. -/
def execLku (sequencer : Bool) (now : Nat) (s : State) : Outcome :=
  let s := s.at now
  if (!sequencer && !s.stagUp) || s.shutdown then .next s
  else .next (s.failReset 0x8001 (if sequencer then 1 else 0) F.RST_CAUSE.LKU)

/-! ## Software and block resets (R475, R476) -/

/-- The value written to RST_SW. -/
def swWord (scope : Nat) (x : BitVec 6) (y : BitVec 5) : Nat := 2 ^ 31 + scope * 2 ^ 29 + x.toNat * 2 ^ 11 + y.toNat * 2 ^ 6

/-- RST_SW below the device: refused unless the device is ready, PHASE is idle and no reset around the domain runs. -/
def State.softReset (s : State) (d : Domain) (v : Nat) (w : Why) : State :=
  if !s.fbit F.HQ_STATUS.READY || s.resetRun.any (fun a => domContains a d) || s.stepPhase != phStepIdle then s.refuseWrite 0x60008 v
  else
    let s := if s.covered d || domLevel d = 1 then s else s.tell 0x11 (domLevel d) w
    s.askReset d w

def execRstSwTile (x : BitVec 6) (y : BitVec 5) (s : State) : Outcome :=
  let t := mkTile x.toNat y.toNat
  .next (s.softReset (.tile t) (swWord 0 x y) ⟨0, 0, s.tileLoc t⟩)

def execRstSwCluster (x : BitVec 6) (y : BitVec 5) (s : State) : Outcome :=
  let t := mkTile x.toNat y.toNat
  .next (s.softReset (.cluster (BitVec.ofNat 7 (clusterOf t))) (swWord 1 x y) ⟨0, 0, s.tileLoc t⟩)

def execRstSwHalf (x : BitVec 6) (y : BitVec 5) (s : State) : Outcome :=
  .next (s.softReset (.half (isEast (mkTile x.toNat y.toNat))) (swWord 2 x y) ⟨0, 8, unitLoc 0⟩)

/-- RST_SW at device scope is accepted in any phase. -/
def execRstSwDevice (s : State) : Outcome :=
  if !s.fbit F.HQ_STATUS.READY || Domain.device ∈ s.resetRun then .next (s.refuseWrite 0x60008 (swWord 3 0 0))
  else .next (s.deviceReset F.RST_CAUSE.SWR false)

def execRstBlkSmb (s : State) : Outcome := .next { s with smbAddr := 0x5A }

def execRstBlkHq (s : State) : Outcome := .next s.resetHq

/-- Far ports that a mask names. -/
def portsOf (n mask : Nat) : List Nat := (List.range n).filter (bit mask)

/-- RST_BLK.CXL: refused while a weave is loaded and a port named is used; else the port retrains. -/
def execRstBlkCxl (ports : BitVec 4) (s : State) : Outcome :=
  let ps := portsOf 4 ports.toNat
  if s.fbit F.WV_STATUS.LOADED && ps.any (fun p => s.fbit (F.CXL_PORT_STATUS.USED.ix p)) then
    .next (s.refuseWrite 0x6000C (ports.toNat * 2 ^ 16))
  else .next (ps.foldl (fun s p => s.fsetb (F.CXL_PORT_STATUS.LINK_UP.ix p) false) s)

/-- RST_BLK.OL: a port that is ACTIVE leaves it with the effects of R368; every port in use starts from DETECT. -/
def State.resetPort (s : State) (p : Nat) : State :=
  let s := if s.portState p = tsActive then s.leaveActive p else s
  if s.portState p = tsDisabled then s
  else ((s.setPort p (Port.fresh (s.port p))).setResult p 0).enterTraining p tsDetect false

def execRstBlkOl (ports : W16) (s : State) : Outcome := .next ((portsOf 16 ports.toNat).foldl State.resetPort s)

/-! ## Readmission (R451, R455, R485) -/

/-- A port out of service returns at the next rollback or commit boundary. -/
def execReadmitPort (p : PortNo) (s : State) : Outcome :=
  let n := p.toNat
  let oos := s.fget F.FLT_ESC_STATE.OOS_PORTS
  if !bit oos n then .next s
  else
    let s := (s.setSoft (fun m => { m with oosPorts := m.oosPorts.filter (fun q => q != n) })).fset F.FLT_ESC_STATE.OOS_PORTS (oos - 2 ^ n)
    let s := { s with charges := mapDel (0x40000 + n) s.charges, portsBack := addTo n s.portsBack }
    .next (s.tell 0x14 6 ⟨0, 5, unitLoc n⟩)

/-- A tile's fault mark is cleared at once; its column returns as SPARE, and FENCED clears, when the next map is loaded. A column that
the device does not have is refused as in R8 (FLT_READMIT). -/
def execReadmitTile (px : BitVec 7) (py : BitVec 5) (s : State) : Outcome :=
  let c := px.toNat
  let k := physKey c py.toNat
  if c ≥ Config.physCols then .next (s.refuseWrite 0x70028 (3 * 2 ^ 30 + c % 64 * 2 ^ 17 + c / 64 * 2 ^ 16 + py.toNat * 2 ^ 11))
  else
    let mine (m : ColMark) : Bool := m.col == c && m.row == py.toNat
    if !s.soft.marks.any mine && !(k ∈ s.soft.oosTiles) then .next s
    else
      let s := s.setSoft (fun m => { m with marks := m.marks.filter (fun x => !mine x), oosTiles := m.oosTiles.filter (fun x => x != k) })
      let s := { s with charges := mapDel k s.charges }
      let s := (s.fsetb (F.MAP_COL.PENDING.ix c) (s.pendingCol c)).fsetb F.MAP_ST_STATUS.PENDING (s.soft.marks.any (fun m => !m.loaded))
      .next (s.showOos.tell 0x14 1 ⟨0, 0, routerLoc c py.toNat⟩)

/-- The replacement takes the portion of the device it replaces: it allocates frames, builds its Home Table, restores every page from
the buddy, and takes the job's steps and coordinators (R455). -/
def State.takeOver (s : State) (w : Weave) (portion : List Byte) (copies : List (Nat × List Byte)) (committed durable coord : Nat) :
    State :=
  let s := s.buildHome w
  let s := { s with weave := some w, portion := portion, seed := w.hdr.seed, kNow := w.hdr.k
                    member := (w.plans.filter (fun (p : Plan) => p.counts s.ord.toNat)).map (fun (p : Plan) => BitVec.ofNat 16 p.plan) }
  let s := ((s.fsetb F.WV_STATUS.LOADED true).fset F.WV_STATUS.EPOCH w.hdr.epoch).fset F.WV_WEAVE_ID.ID w.hdr.id.toNat
  let s := s.home.table.foldl (fun s p => s.restorePage copies p.1 (some (p.2.frame0.toNat, p.2.frame1.toNat))) s
  let s := s.imageAll w
  let s := { s with tiles := s.tiles.map (fun (p : Nat × Tile) => (p.1, { p.2 with resume := .resume })) }
  let s := (((s.stepsAtLoad w.hdr.k).fset F.STEP_CURRENT.STEP committed).fset F.STEP_COMMITTED.STEP committed).fset F.STEP_DURABLE.STEP durable
  let s := ((s.fsetb F.STEP_COORD.SB_EN (bit coord 31)).fset F.STEP_COORD.STANDBY (bits coord 29 16)).fset F.STEP_COORD.PRIMARY (bits coord 13 0)
  { s with beforeCommit := committed }

/-- FLT_READMIT of a device, at the replacement: the mark and the counts clear, the portion is checked as in pass 2, and READMITTED is
sent. -/
def State.readmitSelf (s : State) (portion : List Byte) (copies : List (Nat × List Byte)) (committed durable coord : Nat) : State :=
  let s := (if s.soft.oosDevice then s.setSoft (fun m => { m with oosDevice := false }) else s).showOos
  let s := { s with charges := mapDel 0x30000 s.charges }
  let s := match storedWeave portion.length none portion with
    | some w => if s.fbit F.WV_STATUS.LOADED then s else s.takeOver w portion copies committed durable coord
    | none => s
  s.tell 0x14 4 ⟨0, 8, unitLoc 0⟩

/-- On the lead the write clears what it holds against the member; at the member's own position the member comes back. -/
def execReadmitDevice (pos : BitVec 6) (portion : List Byte) (copies : List (Nat × List Byte)) (committed durable : W64) (coord : W32)
    (s : State) : Outcome :=
  if pos.toNat = s.pos then
    if s.fbit F.HQ_STATUS.READY then .next (s.readmitSelf portion copies committed.toNat durable.toNat coord.toNat) else .next s
  else if !s.isLead then .next s
  else
    let o := s.ordAt (s.fget F.HQ_HERD.H) pos.toNat
    .next { s with outUnits := s.outUnits.filter (fun u => !(u.2.1 == 8 && s.wordOrd u.1 == o)) }.releaseHold

end Sys2Proof.Machine
end

