-- ==== Sys2Proof/Machine/Power.lean ====
section
/-! DEFINITION. Power states and performance modes (R495 to R517, R533, R541 to R543, R547). -/

namespace Sys2Proof.Machine

/-! ## What OFF and shutdown lose (R495, R497, R509, R517) -/

/-- A stack's contents are lost (R446). -/
def State.stackLost (s : State) (k : Nat) : State :=
  let mine (a : Nat) : Bool := decide (a / Config.pageBytes < 2 ^ 23 ∧ a / Config.pageBytes % 8 = k)
  { s.fsetb (F.NM_ERR.TRAINED.ix k) false with mem := s.mem.filter (fun c => !mine c.1), memBad := s.memBad.filter (fun u => !mine (u * 64)) }

/-- Before its first port leaves ACTIVE the device floods an LSA whose port mask is zero; the port is DISABLED (R496, R509). -/
def State.portDark (s : State) (p : Nat) : State :=
  let told := match mapFind s.lsas (s.wordPos s.selfWord) with | some l => l.mask == 0 | none => false
  let s := if s.portState p != tsActive || told then s
    else
      let l : Lsa := { coord := s.selfWord, serial := BitVec.ofNat 32 (le s.descr 4 4), num := s.lsaNum + 1, mask := 0, widths := 0 }
      ({ s with lsaNum := s.lsaNum + 1 }.holdLsa l).emits (s.upPorts.map (fun q => .lsa q l))
  (s.setPort p (Port.fresh (s.port p))).setPortState p tsDisabled

/-- The device in OFF: only the always-on domain, the flash, the pins and what the expanders hold are kept. -/
def State.deviceOff (s : State) : State :=
  let strap := s.regs.filter (fun p => p.1 / 64 == 0x60004 || p.1 == F.RST_STAGE_CTRL.HOLD_EN.key)
  let t := s.rebuilt 2 s.bring.cfgRaw
  let far (a : Nat) : Bool := decide (2 ^ 23 ≤ a / Config.pageBytes)
  let t := { t with regs := strap.foldl (fun m (p : Nat × Nat) => mapIns p.1 p.2 m) t.regs, now := s.now, optime0 := s.optime0, recorder := s.recorder
                    charges := s.charges, smbAddr := s.smbAddr, wdtFrom := s.now, temps := s.temps, volts := s.volts
                    oddSensors := s.oddSensors, mem := s.mem.filter (fun c => far c.1), memBad := s.memBad.filter (fun u => far (u * 64))
                    bring := { s.bring with active := false, done9 := false, bad := [], heard := [] } }
  (t.setMove 158 { PowerMove.settled with point := 4 }).fset (F.PWR_STATE.STATE.ix 158) 5

/-- The supplies of a domain are off. -/
def State.lose (s : State) (d : Nat) : State :=
  match domKind d with
  | .cluster => s.tilesDown (.cluster (BitVec.ofNat 7 d))
  | .half => (s.tilesDown (.half (d == 129))).halfDown (d == 129)
  | .port => s.portDark (d - 130)
  | .stack => s.stackLost (d - 146)
  | .far => s.fsetb (F.CXL_PORT_STATUS.LINK_UP.ix (d - 154)) false
  | .device => s.deviceOff

/-- The domain comes back from OFF (R496, R497): by cluster reset, half reset, RETRAIN, training, enumeration, or the cold path. -/
def State.regain (s : State) (d : Nat) : State :=
  match domKind d with
  | .cluster => (domTiles (.cluster (BitVec.ofNat 7 d))).foldl State.raise s
  | .half => s.startBring (if d = 129 then 4 else 3) 3
  | .port => (s.setPortState (d - 130) tsRetrain).setResult (d - 130) 0
  | .stack => s.fsetb (F.NM_ERR.TRAINED.ix (d - 146)) true
  | .far => s.fsetb (F.CXL_PORT_STATUS.LINK_UP.ix (d - 154)) (s.fbit (F.CXL_PORT_STATUS.USED.ix (d - 154)))
  | .device => s.startBring 1 1

/-! ## Entry (R502, R504) -/

def meshSlow (east : Bool) : Fld := if east then F.PWR_STATUS.E_MESH_SLOW else F.PWR_STATUS.W_MESH_SLOW
def jLimit (east : Bool) : Fld := if east then F.PWR_STATUS.E_JLIMIT else F.PWR_STATUS.W_JLIMIT
def throttle (east : Bool) : Fld := if east then F.PWR_STATUS.E_THROTTLE else F.PWR_STATUS.W_THROTTLE

/-- A half's mesh runs at 1.0 GHz while the half is in SLEEP or at the junction limit (R502, R516). -/
def State.setMesh (s : State) (d : Nat) : State :=
  if domKind d == .half then s.fsetb (meshSlow (d == 129)) (2 ≤ (s.move d).point || s.fbit (jLimit (d == 129))) else s

/-- The domain reaches an abort point. -/
def State.reach (s : State) (d point : Nat) : State :=
  let s := if point = 4 then s.lose d else s
  let m := s.move d
  let st := stateAt (domKind d) s.bigHerd point
  let s := ((s.setMove d { m with point := point }).fset (F.PWR_STATE.STATE.ix d) st).setMesh d
  let s := if st = 3 then { s with snap := none } else s
  -- what the running half has sent into one whose mesh stops ends with error responses (R260)
  if st = 4 && domKind d == .half then s.endInto (d == 129) else s

/-- An action of the entry completes: the domain stops there when a wake event has come, and when it has reached its target. -/
def State.enterPoint (s : State) (d point : Nat) : Outcome :=
  if d > 158 then .next s
  else
    let m := s.move d
    if m.waking != 0 || m.point + 1 != point || !(m.abort || s.goesDeeper none d) then .next s
    else
      let s := s.reach d point
      if m.abort then .next (((s.fadd (F.PWR_STATE.ABORTS.ix d) 1).fset (F.PWR_STATE.ABORT_PT.ix d) point).wake d)
      else if pointOf (s.target d) ≤ point then .next (s.setMove d { s.move d with cleared := [] })
      else .next s

def execQuiesce (d : Byte) (s : State) : Outcome := s.enterPoint d.toNat 1
def execStopOscillators (d : Byte) (s : State) : Outcome := s.enterPoint d.toNat 2
def execRetainMemory (d : Byte) (s : State) : Outcome := s.enterPoint d.toNat 3
def execRegulatorsOff (d : Byte) (s : State) : Outcome := s.enterPoint d.toNat 4

/-! ## Wake (R503 to R505, R508, R541) -/

/-- A re-enable (R505). -/
def State.reenable (s : State) (d client point : Nat) : State :=
  let first := !s.fbit (F.PWR_STATE.REENABLE.ix d)
  let s := (s.fsetb (F.PWR_STATE.REENABLE.ix d) true).fset (F.PWR_STATE.REENABLE_CLIENT.ix d) client
  if first then s.event 0xB003 8 0 0 (data2 (d + client * 2 ^ 32) point) else s

/-- Why a device left BROWSE: 1 a packet, 6 a vote or the tolerance. -/
def State.browseCause (s : State) (d cause : Nat) : State :=
  if d = 158 && s.domState d == 3 && (s.move d).waking == 0 then s.fset F.PWR_BROWSE.CAUSE cause else s

/-- A wake event (R504): a client's bit has been set, or, with no client, the tolerance or a contained domain has changed. -/
def execWakeEvent (d : Byte) (client : Option (BitVec 4)) (s : State) : Outcome :=
  let n := d.toNat
  let m := s.move n
  if n > 158 then .next s
  else match client with
    | none => if pointOf (s.target n) < m.point then .next ((s.browseCause n 6).wakeFor false n) else .next s
    | some c =>
      let entering := s.goesDeeper (some c.toNat) n
      let s := if c = 2 && (entering || m.point != 0) then { s with access := addTo n s.access } else s
      let voted := (s.limits n).any (fun l => l.1 == c.toNat)
      let due := decide (pointOf (s.target n) < if entering then m.point + 1 else m.point)
      if !voted || !due || m.waking != 0 || m.abort then .next s
      else
        let again := entering && (c.toNat ∈ m.cleared || (c.toNat < 6 && c != 2))
        let s := if again then s.reenable n c.toNat (m.point + 1) else s
        .next ((s.browseCause n (if c = 2 then 1 else 6)).wakeFor entering n)

/-- A ready signal ends one step of a wake, and the next begins. -/
def State.wakeStep (s : State) (d step : Nat) : Outcome :=
  if d > 158 then .next s
  else
    let m := s.move d
    if m.waking != step then .next s
    else .next (s.setMove d { m with waking := match step with | 1 => 2 | 2 => if m.point ≤ 2 then 4 else 3 | _ => 4 })

def execRegulatorReady (d : Byte) (s : State) : Outcome := s.wakeStep d.toNat 1
def execOscillatorReady (d : Byte) (s : State) : Outcome := s.wakeStep d.toNat 2
def execMemoryReady (d : Byte) (s : State) : Outcome := s.wakeStep d.toNat 3

/-- The wrapper opens: the domain is in RUN, or begins the reset or training that brings it back from OFF; held requests proceed. -/
def execLogicReady (d : Byte) (s : State) : Outcome :=
  let n := d.toNat
  let m := s.move n
  if n > 158 then .next s
  else if m.waking != 4 || (m.point == 4 && domKind n == .half && s.bring.active) then .next s
  else
    let s := if m.point = 4 then s.regain n else s
    let s := s.setMove n { PowerMove.settled with cleared := if n ∈ s.access then [2] else [] }
    let s := { s with access := s.access.filter (fun a => a != n || (n == 158 && !s.heldReqs.isEmpty)) }
    .next ((s.fset (F.PWR_STATE.STATE.ix n) 0).setMesh n)

/-- What differs first between two Browse samples (PWR_BROWSE.CAUSE). -/
def snapCause (a b : Snapshot) : Nat :=
  if a.ports != b.ports then 2 else if a.lsas != b.lsas then 3 else if a.hostLink != b.hostLink then 4 else 5

/-- The Browse sequencer samples (R508). The first sample of a stay in BROWSE is only stored. -/
def execBrowseSample (snap : Snapshot) (s : State) : Outcome :=
  if s.domState 158 != 3 || (s.move 158).waking != 0 then .next s
  else match s.snap with
    | none => .next { s with snap := some snap }
    | some old =>
      if old = snap then .next s
      else .next ({ s with snap := some snap, access := addTo 158 s.access }.fset F.PWR_BROWSE.CAUSE (snapCause old snap) |>.wake 158)

/-- The device leaves the shutdown of R517 through the cold path. -/
def State.leaveShutdown (s : State) : State :=
  let s := { s with shutdown := false, pins := { s.pins with thermLow := false } }
  let s := (s.setMove 158 PowerMove.settled).fset (F.PWR_STATE.STATE.ix 158) 0
  if s.bring.active then s else s.startBring 1 1

/-- Every sensor reads below 90 °C. -/
def State.cool (s : State) : Bool := s.temps.all (fun p => decide (p.2 < 720))

/-- WAKE_N low (R541, R542): a wake event of the device in DEEP or OFF; the end of a shutdown once the sensors are cool. -/
def execWakeN (low : Bool) (s : State) : Outcome :=
  let s := { s with pins := { s.pins with wakeLow := low } }
  if !low then .next s
  else if s.shutdown then .next (if s.cool then s.leaveShutdown else s)
  else if s.domState 158 == 4 || s.domState 158 == 5 then .next (s.wakeFor false 158)
  else .next s

/-! ## Writes of PWR registers (R499 to R501, R511, R514) -/

def execPwrTolWrite (v : W32) (s : State) : Outcome := .next (s.setTol v.toNat)

/-- A host write of PWR_VOTE_d: bits set and cleared take effect as those of hardware do; a bit set again by the client that cleared it
while the domain was still entering is a re-enable. -/
def execPwrVoteWrite (d : Byte) (v : W32) (s : State) : Outcome :=
  let n := d.toNat
  if n > 158 then .next s
  else
    let old := s.fget (F.PWR_VOTE.HOST.ix n)
    let new := bits v.toNat 15 8
    let m := s.move n
    let gone := ((List.range 8).filter (fun i => bit old i && !bit new i)).map (fun i => i + 8)
    let come := ((List.range 8).filter (fun i => bit new i && !bit old i)).map (fun i => i + 8)
    let t := (s.fset (F.PWR_VOTE.HOST.ix n) new).setMove n { m with cleared := gone.foldl (fun l c => addTo c l) m.cleared }
    let entering := s.goesDeeper none n && m.waking == 0 && !m.abort
    let t := match come.find? (fun c => c ∈ m.cleared) with
      | some c => if entering && decide (pointOf (t.target n) ≤ m.point) then t.reenable n c (m.point + 1) else t
      | none => t
    .next (State.reconsider s (t.browseCause n 6) [n])

/-- A write of PWR_MODE: code 3 is undefined and refused; the mode applies from stage 9, and any burst ends. -/
def execPwrModeWrite (v : W32) (now : Nat) (s : State) : Outcome :=
  let s := s.at now
  let mode := bits v.toNat 31 30
  if mode = 3 then .next (s.refuseWrite 0x40008 v.toNat)
  else
    let s := (s.fset F.PWR_MODE.MODE mode).endBurst 3
    if !s.fbit F.HQ_STATUS.READY then .next s
    else .next ({ s with tripped := false }.fsetb F.PWR_STATUS.LIMITING false |>.setClocks s.modeClock)

def execLockoutClear (v : W32) (s : State) : Outcome :=
  if !bit v.toNat 31 then .next s
  else .next ({ s with pronk := { s.pronk with trips := [] } }.fset F.PWR_PRONK.TRIPS 0 |>.fsetb F.PWR_PRONK.LOCKOUT false)

/-! ## Pronk, power and current limits (R512 to R515, R533) -/

/-- Valid sensors of a half, with their readings: West has sensors 0 to 23, East 24 to 47. -/
def State.readings (s : State) (east : Bool) : List (Nat × Int) :=
  (((List.range 24).map (fun i => if east then i + 24 else i)).filter (fun i => !s.sensorBad i)).map (fun i => (i, mapGet 0 s.temps i))

def hottest (rs : List (Nat × Int)) : Option (Nat × Int) :=
  rs.foldl (fun (a : Option (Nat × Int)) r => match a with
    | some b => if b.2 < r.2 then some r else some b
    | none => some r) none

/-- The reading that R516 acts on: with fewer than 12 valid sensors a half counts as 103 °C (R547). -/
def State.halfTemp (s : State) (east : Bool) : Int :=
  let rs := s.readings east
  if rs.length < 12 then 824 else ((hottest rs).map Prod.snd).getD 824

/-- A burst begins when every condition of R512 holds. -/
def execPronkBegin (now : Nat) (s : State) : Outcome :=
  let s := s.at now
  let rested := match s.pronk.lastEnd with | none => true | some t => decide (t + 1700000000 ≤ s.now)
  let step := (s.hwLimits 158).any (fun l => l.1 == 0)
  let hot := max (s.halfTemp false) (s.halfTemp true)
  if s.fbit F.PWR_STATUS.PRONK || s.fget F.PWR_MODE.MODE ≠ 2 || !s.fbit F.HQ_STATUS.READY || (s.move 158).point != 0 || !step
      || s.fbit F.PWR_PRONK.LOCKOUT || decide (760 ≤ hot) || !rested then .next s
  else
    let s := { s with pronk := { s.pronk with since := some s.now } }
    .next (((s.fsetb F.PWR_STATUS.PRONK true).fsetb F.PWR_STATUS.LIMITING false).setClocks 170)

def execPronkBudgetEnd (now : Nat) (s : State) : Outcome :=
  let s := s.at now
  match s.pronk.since with
  | some t => .next (if t + 300000000 ≤ s.now then s.endBurst 1 else s)
  | none => .next s

/-- The tile clock of the device, as its unthrottled half shows it. -/
def State.clock (s : State) : Nat := max (s.fget F.PWR_STATUS.W_CLK) (s.fget F.PWR_STATUS.E_CLK)

/-- One step of 100 MHz down, not below the mode's floor (R515). -/
def State.slower (s : State) : State :=
  (s.setClocks (max s.floorClock (s.clock - 10))).fsetb F.PWR_STATUS.LIMITING true

/-- A current trip ends a burst; outside one it lowers the clocks. -/
def execCurrentTrip (now : Nat) (s : State) : Outcome :=
  let s := s.at now
  if s.fbit F.PWR_STATUS.PRONK then .next (s.endBurst 3) else .next { s.slower with tripped := true }

/-- One measurement of package power: above the mode's limit the clocks step down; below it they step up to the mode's clock. -/
def execPowerMeasure (watts : W16) (s : State) : Outcome :=
  let s := { s with watts := watts }
  let limit := if s.fget F.PWR_MODE.MODE = 0 then 1050 else 1800
  if s.fbit F.PWR_STATUS.PRONK || !s.fbit F.HQ_STATUS.READY then .next s
  else if watts.toNat > limit then .next s.slower
  else if watts.toNat = limit || !s.fbit F.PWR_STATUS.LIMITING then .next s
  else
    let v := min s.modeClock (s.clock + 10)
    .next ({ s with tripped := s.tripped && v != s.modeClock }.setClocks v |>.fsetb F.PWR_STATUS.LIMITING (v != s.modeClock))

/-! ## Sensors (R102, R516, R517, R543, R547) -/

/-- A sensor differs from both of its neighbours in its half by more than 30 K. -/
def State.oddOne (s : State) (i : Nat) : Bool :=
  let base := i / 24 * 24
  let t (j : Nat) : Int := mapGet 0 s.temps (base + j % 24)
  let far (a b : Int) : Bool := decide (240 < a - b ∨ 240 < b - a)
  far (t i) (t (i - base + 1)) && far (t i) (t (i - base + 23))

/-- The readings are taken, and sensors that have come to differ are marked with the time. -/
def State.sampled (s : State) (temps : List Int) (mv : List Nat) : State :=
  let s := { s with temps := (temps.take 48).zipIdx.foldl (fun m (p : Int × Nat) => mapIns p.2 p.1 m) s.temps
                    volts := (mv.take 24).zipIdx.foldl (fun m (p : Nat × Nat) => mapIns p.2 p.1 m) s.volts }
  { s with oddSensors := ((List.range 48).filter s.oddOne).map (fun i => (i, mapGet s.now s.oddSensors i)) }

/-- The thresholds of R516 on one half. -/
def State.thresholds (s : State) (east : Bool) : State :=
  let t := s.halfTemp east
  let clock := s.clock
  let hold (f : Fld) (on off : Int) : Bool := decide (on ≤ t) || (s.fbit f && !decide (t < off))
  let hot := hold (throttle east) 824 784
  let limit := hold (jLimit east) 840 800
  let fresh := limit && !s.fbit (jLimit east)
  let s := ((s.fsetb (throttle east) hot).fsetb (jLimit east) limit).setMesh (if east then 129 else 128)
  let own := if east then F.PWR_STATUS.E_CLK else F.PWR_STATUS.W_CLK
  let base := if s.fbit F.PWR_STATUS.PRONK then 170 else if s.fbit F.PWR_STATUS.LIMITING then clock
    else if s.fbit F.HQ_STATUS.READY then s.modeClock else 100
  let s := s.fset own (if hot then min base 100 else base)
  if fresh then s.event 0xB002 8 0 0 (data2 (if east then 1 else 0) (t % 2 ^ 16).toNat) else s

/-- Hardware shutdown (R517): the recorder is flushed, and every supply but VDD_AON is off. -/
def State.shutDown (s : State) (sensor : Nat) (t : Int) : State :=
  let s := s.event 0xB004 8 0 0 (data2 sensor (t % 2 ^ 16).toNat)
  let s := if s.recorder.flushing then s else s.setRec (s.recorder.begin s.optime false)
  { s.deviceOff with shutdown := true }

/-- THERM_N is driven low at the junction limit of a half and from a shutdown until every sensor is cool (R543). -/
def State.thermPin (s : State) : State :=
  { s with pins := { s.pins with thermLow := s.fbit F.PWR_STATUS.W_JLIMIT || s.fbit F.PWR_STATUS.E_JLIMIT || (s.shutdown && !s.cool) } }

/-- Every 100 µs the sensors and monitors are read and the thresholds applied. -/
def execSensorSample (temps stackTemps : List Int) (mv : List Nat) (now : Nat) (s : State) : Outcome :=
  let s := (s.at now).sampled temps mv
  if s.shutdown then
    .next (if s.cool && (s.pins.wakeLow || s.bring.active) then s.leaveShutdown else s.thermPin)
  else if s.isOff then .next s
  else
    let s := (stackTemps.take 8).zipIdx.foldl (fun s p => s.fsetb (F.NM_ERR.HOT.ix p.2) (decide (680 < p.1))) s
    let top := hottest (s.readings false ++ s.readings true)
    let s := match top with | some (_, t) => if 800 ≤ t then s.endBurst 2 else s | none => s
    let s := (s.thresholds false).thresholds true
    let s := match top with | some (i, t) => if 920 ≤ t then s.shutDown i t else s | none => s
    .next s.thermPin

end Sys2Proof.Machine
end

