-- ==== Sys2Proof/Machine/BringUp.lean ====
section
/-! DEFINITION. Bring-up (R105, R462 to R474): the command of a stage is its end, with what the stage found. -/

namespace Sys2Proof.Machine

/-! ## Stages and reports (R467, R472, R473) -/

/-- Standalone strap codes skip stage 6 (R464). -/
def State.standalone (s : State) : Bool := s.fbit F.RST_CFGSEL.VALID && (s.fget F.RST_CFGSEL.CODE == 10 || s.fget F.RST_CFGSEL.CODE == 11)

/-- Stage n runs and may end. -/
def State.stageReady (s : State) (n : Nat) : Bool :=
  s.bring.active && s.bring.next == n && !s.fbit F.RST_STAGE_CTRL.HELD && !s.fbit F.RST_STAGE_CTRL.HALTED && !s.pins.resetLow
    && !s.pins.clkLost && !s.shutdown && (n == 0 || !s.stagHalted)

/-- The halves that the path brings up. -/
def State.pathHalves (s : State) : List Bool := match s.bring.path with | 3 => [false] | 4 => [true] | _ => [false, true]

def State.wholePath (s : State) : Bool := s.bring.path ≤ 2

/-- On the warm path links train by RETRAIN with their stored presets. -/
def State.retrainAll (s : State) : State := s.trainFrom tsRetrain

/-- A stage begins: stage 6 starts link training. -/
def State.beginStage (s : State) (n : Nat) : State :=
  if n = 6 then (if s.bring.path = 2 then s.retrainAll else s.startTraining) else s

/-- The stage after stage n. -/
def State.stageAfter (s : State) (n : Nat) : Nat :=
  if s.wholePath then (if n = 5 && s.standalone then 7 else n + 1) else if n = 4 then 8 else n + 1

def stageWord (result fail detail us : Nat) : Nat := result * 2 ^ 60 + fail * 2 ^ 52 + detail % 2 ^ 20 * 2 ^ 32 + us

def State.setStage (s : State) (n result fail detail us : Nat) : State :=
  (((s.fset (F.RST_STAGE.RESULT.ix n) result).fset (F.RST_STAGE.FAIL.ix n) fail).fset (F.RST_STAGE.DETAIL.ix n) detail).fset
    (F.RST_STAGE.TIME_US.ix n) us

/-- Bring-up is over. -/
def State.endBring (s : State) : State := { s with bring := { s.bring with active := false } }.fset F.RST_STAGE_CTRL.KIND 0

/-- Bring-up moves to its next stage, which is held under strap codes 12 and 13. -/
def State.toStage (s : State) (n : Nat) : State :=
  let s := { s with bring := { s.bring with next := n } }.fset F.RST_STAGE_CTRL.STAGE n
  if s.fbit F.RST_STAGE_CTRL.HOLD_EN then s.fsetb F.RST_STAGE_CTRL.HELD true else s.beginStage n

/-- The stage ends: its register and its event record are written; RESULT 3 halts bring-up, or takes the device out of service when
the stage was part of a half reset (R472, R474). -/
def State.endStage (s : State) (n result fail detail us : Nat) : State :=
  let s := s.setStage n result fail detail us
  let s := s.event 0xC001 8 0 0 (data2 (stageWord result fail detail us) (n + s.bring.path * 2 ^ 32))
  if result = 3 then
    if s.wholePath then s.fsetb F.RST_STAGE_CTRL.HALTED true else s.endBring.deviceOut ⟨0, 8, unitLoc 0⟩
  else if n = 9 || (n = 8 && !s.wholePath) then s.endBring
  else
    let next := s.stageAfter n
    (if n = 5 && next = 7 then s.setStage 6 0 0 0 0 else s).toStage next

/-- DETAIL of stages 3, 4 and 8: the first physical tile or router. -/
def placeDetail (key count : Nat) : Nat := key % 68 * 2 ^ 13 + key / 68 * 2 ^ 8 + min count 255

/-! ## Stages 0 to 2 (R463 to R465, R535, R546) -/

/-- Stage 0 has no register: its time and finding are not used. -/
def execStage0 (_us : W32) (_f : StageFinding) (s : State) : Outcome :=
  if s.stageReady 0 then .next (s.measure.toStage 1) else .next s

/-- The STAG boots from the flash image that the strap names, or from the firmware that a mailbox has brought. -/
def execStage1 (us : W32) (f : StageFinding) (s : State) : Outcome :=
  let code := s.fget F.RST_CFGSEL.CODE
  let detail := code * 2 ^ 16
  if !s.stageReady 1 then .next s
  else if !s.fbit F.RST_CFGSEL.VALID || code = 14 then .next (s.endStage 1 3 0x13 detail us.toNat)
  else if (code = 8 || code = 9) && s.recoveryFw.isEmpty then .next s
  else if f.fail = 0x11 || f.fail = 0x12 then .next (s.endStage 1 3 f.fail.toNat detail us.toNat)
  else
    let s := { s with stagUp := true, wdtFrom := s.now }.fsetb F.HQ_HERD.LEAD (cfgLead code)
    let s := s.fsetb F.RST_WDT.EN true
    .next (if f.fail = 0x1A then s.endStage 1 2 0x1A detail us.toNat else s.endStage 1 1 0 detail us.toNat)

/-- References and PLLs are checked, and the host port is released where REFCLK_PCIE is fed. `wires` names the references that are
absent: 0 REFCLK_SYS, 1 REFCLK_PCIE, 2 REFCLK_CXL; DETAIL the PLLs that did not lock. -/
def execStage2 (us : W32) (f : StageFinding) (s : State) : Outcome :=
  let absent (n : Nat) : Bool := n ∈ f.wires
  let plls := f.detail.toNat
  if !s.stageReady 2 then .next s
  else
    let s := ((s.fsetb F.CLK_REF_STATUS.SYS_OK (!absent 0 && plls == 0)).fsetb F.CLK_REF_STATUS.PCIE_OK (!absent 1)).fsetb
      F.CLK_REF_STATUS.CXL_OK (!absent 2)
    let s := (s.fsetb F.CLK_REF_STATUS.AON_OK (!s.pins.xtalLost)).fsetb F.CLK_REF_STATUS.AON_INT s.pins.xtalLost
    if absent 0 then .next (s.endStage 2 3 0x22 plls us.toNat)
    else if plls ≠ 0 then .next (s.endStage 2 3 0x21 plls us.toNat)
    else if absent 1 && s.isLead then .next (s.endStage 2 3 0x23 0 us.toNat)
    else
      let s := { s with hostPort := !absent 1 }.fset F.CLK_REF_STATUS.LINK_LOCK 0xFFFF
      let s := if s.hostPort && !s.pins.perstLow then s.emit (.hostLink true) else s
      .next (if absent 2 then s.endStage 2 2 0x2A 0 us.toNat else s.endStage 2 1 0 0 us.toNat)

/-! ## Stages 3 and 4 (R471, R480 to R488) -/

/-- Load the maps of the path's halves; false when one has too few free columns (R483). -/
def State.loadMaps (s : State) : Bool × State :=
  s.pathHalves.foldl (fun (acc : Bool × State) east =>
    let (ok, t) := acc.2.loadMap east
    (acc.1 && ok, t)) (true, s)

/-- Columns that bypass links cannot replace (R481). -/
def fixedCol (c : Nat) : Bool := c ∈ [0, 33, 34, 67]

/-- A copy of the soft map whose CRC fails is ignored (R484): `gone` names the newer copy 0 and the older one 1. Without a valid copy the
map starts from no mark. -/
def State.pickSoft (s : State) (gone : List Nat) : State :=
  let s := if !(0 ∈ gone) then s else
    let m := if 1 ∈ gone then Soft.first else s.softOld
    { s with soft := m }.fset F.FLT_ESC_STATE.OOS_PORTS (m.oosPorts.foldl (fun a p => a ||| 2 ^ p) 0)
  let ok := !(0 ∈ gone && 1 ∈ gone)
  ((s.fset F.MAP_STATUS.SOFT_SEQ s.soft.seq).fsetb F.MAP_STATUS.SOFT_OK ok).showOos

/-- Maps are loaded and mesh links tested: `fails` names the routers that failed; on the cold path `wires` the copies of the soft map whose
CRC fails. -/
def execStage3 (us : W32) (f : StageFinding) (s : State) : Outcome :=
  let bad := f.fails.filter (fun k => decide (k < 32 * 68))
  let first := match bad with | [] => 0 | k :: _ => placeDetail k 0
  if !s.stageReady 3 then .next s
  else if f.fail = 0x31 then .next ((s.fsetb F.MAP_STATUS.FUSED_OK false).endStage 3 3 0x31 0 us.toNat)
  else
    let s := (s.fsetb F.MAP_STATUS.FUSED_OK true).pickSoft (if s.bring.path = 1 then f.wires else [])
    if bad.any (fun k => fixedCol (k % 68)) then .next (s.endStage 3 3 0x32 first us.toNat)
    else
      let s := bad.foldl (fun s k => s.markColumn (k % 68) (k / 68) 2) s
      let (ok, s) := s.loadMaps
      if ok then .next (s.endStage 3 1 0 first us.toNat)
      else .next (s.endStage 3 3 (if bad.isEmpty then 0x41 else 0x32) first us.toNat)

/-- Tiles that failed are fenced and their columns leave the map (R471). -/
def State.fenceAll (s : State) (bad : List Nat) : Bool × State :=
  (bad.foldl (fun s k => (s.fence k).markColumn (k % 68) (k / 68) 1) s).loadMaps

/-- A stage that tests tiles ends. -/
def State.endTest (s : State) (n degraded : Nat) (bad : List Nat) (us : Nat) : State :=
  match bad with
  | [] => s.endStage n 1 0 0 us
  | k :: _ => s.endStage n 2 degraded (placeDetail k bad.length) us

/-- SRAM self-test: `fails` names tiles, `wires` Commons slices with more defects than spares. Arrays are zeroed and queued repairs
take effect. -/
def execStage4 (us : W32) (f : StageFinding) (s : State) : Outcome :=
  let bad := (f.fails.filter (fun k => decide (k < 32 * 68))).eraseDups
  if !s.stageReady 4 then .next s
  else
    let halves := s.pathHalves
    let here (a : Nat) : Bool := if a < 0x10000 then colEast (a % 68) ∈ halves else sliceEast (a - 0x10000) ∈ halves
    let (ok, s) := (s.applyRepairs here).fenceAll bad
    match ok, f.wires with
    | false, _ => .next (s.endStage 4 3 0x41 (placeDetail (bad.headD 0) bad.length) us.toNat)
    | true, k :: _ => .next (s.endStage 4 3 0x42 (k % 64 * 2 ^ 8 + min bad.length 255) us.toNat)
    | true, [] => .next (s.endTest 4 0x4A bad us.toNat)

/-! ## Stages 5 to 7 (R95, R105, R361 to R367, R468) -/

/-- Near memory is trained: `fails` names the stacks that failed; code 0x5A, on the warm path, says that full training ran. -/
def execStage5 (us : W32) (f : StageFinding) (s : State) : Outcome :=
  let failed (k : Nat) : Bool := k ∈ f.fails
  let mask := (((List.range 8).filter failed).map (fun k => 2 ^ k)).sum
  if !s.stageReady 5 then .next s
  else
    let s := (List.range 8).foldl (fun s k => s.fsetb (F.NM_ERR.TRAINED.ix k) (!failed k)) s
    if mask ≠ 0 then .next (s.endStage 5 3 0x51 (mask * 2 ^ 12) us.toNat)
    else if s.bring.path = 2 && f.fail = 0x5A then .next (s.endStage 5 2 0x5A 0 us.toNat)
    else .next (s.endStage 5 1 0 0 us.toNat)

/-- Links have trained: routes are computed unless they have been, and installed; the herd's number, size and this device's position
come from the descriptor. -/
def execStage6 (us : W32) (_f : StageFinding) (s : State) : Outcome :=
  if !s.stageReady 6 then .next s
  else
    let s := if s.routes.isSome then s else s.computeRoutes
    let o := s.topoOutcome
    let s := s.installRoutes
    let s := ((s.fset F.HQ_HERD.H (bits s.selfWord.toNat 31 24)).fset F.HQ_HERD.N s.topoN).fset F.HQ_HERD.POS (s.wordPos s.selfWord)
    let active := (((List.range 16).filter (fun p => s.portState p == tsActive)).map (fun p => 2 ^ p)).sum
    let detail := s.fget F.OL_TOPO_STATUS.OUTCOME * 2 ^ 17 + active
    .next (match o with
      | 3 => s.endStage 6 3 0x61 detail us.toNat
      | 2 => s.endStage 6 2 0x6A detail us.toNat
      | _ => s.endStage 6 1 0 detail us.toNat)

/-- One far port is enumerated (R105): its width code, frames of 2 MiB and REASON; a port with a REASON is not used. On the warm path a
port of a job whose width or capacity has changed is lost (R468), its link down. -/
def State.enumerate (s : State) (p width frames reason : Nat) : State :=
  let reason := if !s.fbit F.CLK_REF_STATUS.CXL_OK then 1 else if reason ≠ 0 then reason % 16 else if width = 0 then 4 else if frames = 0 then 6 else 0
  let used := reason == 0
  let frames := if used then frames else 0
  let width := if used then width % 4 else 0
  let s := ((s.fsetb (F.CXL_PORT_STATUS.USED.ix p) used).fset (F.CXL_PORT_STATUS.WIDTH.ix p) width).fset (F.CXL_PORT_STATUS.REASON.ix p) reason
  let s := (s.fset (F.CXL_PORT_STATUS.CAP_GIB.ix p) (frames / 512)).fsetb (F.CXL_PORT_STATUS.LINK_UP.ix p) used
  let was := (mapGet 0 s.home.farCap p, mapGet 0 s.home.farWidth p)
  if s.bring.path = 2 && s.fbit F.WV_STATUS.LOADED && was != (frames, width) && was.1 != 0 then
    (s.fsetb (F.CXL_PORT_STATUS.LINK_UP.ix p) false).farLose p
  else { s with home := { s.home with farCap := mapPut 0 p frames s.home.farCap, farWidth := mapPut 0 p width s.home.farWidth } }

/-- Far memory is enumerated: `wires` holds width, frames and REASON of each port in turn. -/
def execStage7 (us : W32) (f : StageFinding) (s : State) : Outcome :=
  if !s.stageReady 7 then .next s
  else
    let s := (List.range 4).foldl (fun s p =>
      s.enumerate p (f.wires[3 * p]?.getD 0) (f.wires[3 * p + 1]?.getD 0) (f.wires[3 * p + 2]?.getD 1)) s
    let reason (p : Nat) : Nat := s.fget (F.CXL_PORT_STATUS.REASON.ix p)
    let used := (((List.range 4).filter (fun p => s.fbit (F.CXL_PORT_STATUS.USED.ix p))).map (fun p => 2 ^ p)).sum
    let detail := used * 2 ^ 16 + ((List.range 4).map (fun p => reason p * 16 ^ p)).sum
    .next (if (List.range 4).any (fun p => 2 ≤ reason p) then s.endStage 7 2 0x7A detail us.toNat else s.endStage 7 1 0 detail us.toNat)

/-! ## Stages 8 and 9 (R470, R471) -/

/-- The tile is waited for in stage 8. -/
def State.testing (s : State) (t : TileId) : Bool :=
  s.bring.active && s.bring.next == 8 && isEast t ∈ s.pathHalves && !(t ∈ s.bring.heard)

def State.testFailed (s : State) (t : TileId) (bad : Bool) : State :=
  let s := { s with bring := { s.bring with heard := addTo t s.bring.heard } }
  if bad then { s with bring := { s.bring with bad := addTo (s.physOf t) s.bring.bad } }.fence (s.physOf t) else s

/-- A tile's signature arrives; one that differs from the expected value fails the tile. -/
def execTileSelfTestReport (t : TileId) (sig : W32) (s : State) : Outcome :=
  if s.testing t then .next (s.testFailed t (sig != Config.selfTestSig)) else .next s

def execSelfTestReportTimeout (t : TileId) (s : State) : Outcome :=
  if s.testing t then .next (s.testFailed t true) else .next s

/-- Tile firmware has been broadcast and the tiles have tested themselves: `fails` names failing tiles beside those whose reports said
so. Tiles are raised with the idle image or re-imaged. -/
def execStage8 (us : W32) (f : StageFinding) (s : State) : Outcome :=
  let bad := (s.bring.bad ++ f.fails.filter (fun k => decide (k < 32 * 68))).eraseDups
  if !s.stageReady 8 then .next s
  else
    let detail := match bad with | [] => 0 | k :: _ => placeDetail k bad.length
    if f.fail = 0x81 then .next (s.endStage 8 3 0x81 detail us.toNat)
    else
      let (ok, s) := s.fenceAll bad
      if !ok then .next (s.endStage 8 3 0x41 detail us.toNat)
      else
        let ts := s.pathHalves.flatMap (fun east => domTiles (.half east))
        .next ((ts.foldl State.raise s).endTest 8 0x8A bad us.toNat)

/-- The device is ready: tile clocks take the mode's rate. -/
def execStage9 (us : W32) (_f : StageFinding) (s : State) : Outcome :=
  if !s.stageReady 9 then .next s
  else
    let mask := (((List.range 9).filter (fun n => s.fget (F.RST_STAGE.RESULT.ix n) == 2 && n != 0)).map (fun n => 2 ^ n)).sum
    let s := if mask = 0 then s.endStage 9 1 0 0 us.toNat else s.endStage 9 2 0x9A mask us.toNat
    let s := { s with bring := { s.bring with done9 := true } }.fsetb F.HQ_STATUS.READY true
    .next (s.setClocks s.modeClock)

/-! ## CONTINUE and the debugger (R464, R473) -/

/-- The stage that is held begins. -/
def State.release (s : State) : State := (s.fsetb F.RST_STAGE_CTRL.HELD false).beginStage s.bring.next

/-- A write of RST_STAGE_CTRL.CONTINUE: refused when no stage is held. -/
def execContinueStage (path : Path) (s : State) : Outcome :=
  if s.hostDropped path then .next s
  else if !s.fbit F.RST_STAGE_CTRL.HELD then .next (s.refuseWrite 0x60014 (2 ^ 30))
  else .next s.release

/-- The debugger, under open posture: it halts or resumes the STAG, whose watchdog keeps its count meanwhile, or releases a stage. -/
def execDebuggerHalt (a : DebugAction) (s : State) : Outcome :=
  if !s.fbit F.RST_CFGSEL.DEBUG || s.pins.trstLow then .next s
  else match a with
    | .halt => .next (if s.stagHalted then s else { s with stagHalted := true, wdtFrom := s.now - s.wdtFrom })
    | .resume => .next (if s.stagHalted then { s with stagHalted := false, wdtFrom := s.now - s.wdtFrom } else s)
    | .release => .next (if s.fbit F.RST_STAGE_CTRL.HELD then s.release else s)

/-! ## References and the test access port (R537, R544) -/

def execRefclkPcieLoss (s : State) : Outcome :=
  let s := (s.fsetb F.CLK_REF_LOSS.PCIE true).fsetb F.CLK_REF_STATUS.PCIE_OK false
  .next (if s.hostPort then s.emit (.hostLink false) else s)

/-- The host port retrains when its reference returns. -/
def execRefclkPcieRestored (s : State) : Outcome :=
  let s := s.fsetb F.CLK_REF_STATUS.PCIE_OK true
  .next (if s.hostPort && !s.pins.perstLow then s.emit (.hostLink true) else s)

/-- Every used far port goes down. -/
def execRefclkCxlLoss (s : State) : Outcome :=
  let s := (s.fsetb F.CLK_REF_LOSS.CXL true).fsetb F.CLK_REF_STATUS.CXL_OK false
  .next (((List.range 4).filter (fun p => s.fbit (F.CXL_PORT_STATUS.USED.ix p))).foldl State.farDown s)

/-- A link PLL loses lock: its port is to leave ACTIVE. -/
def execLinkPllLoss (p : PortNo) (s : State) : Outcome :=
  let n := p.toNat
  let lock := s.fget F.CLK_REF_STATUS.LINK_LOCK
  let s := s.fset F.CLK_REF_STATUS.LINK_LOCK (if bit lock n then lock - 2 ^ n else lock)
  .next (s.setPort n { s.port n with lost := true })

/-- The always-on domain goes over to its internal oscillator. -/
def execXtalAonLoss (s : State) : Outcome :=
  let s := { s with pins := { s.pins with xtalLost := true } }.fsetb F.CLK_REF_LOSS.AON true
  .next ((s.fsetb F.CLK_REF_STATUS.AON_OK false).fsetb F.CLK_REF_STATUS.AON_INT true)

/-- IDCODE: the stepping above the part's number. -/
def idcode : W32 := BitVec.ofNat 32 (Config.stepping.letter * 2 ^ 28 + 0x72645AB)

/-- An instruction enters the port: the EXTEST instructions act as BYPASS unless RESET_N is low. -/
def execTapInstruction (i : TapInstr) (s : State) : Outcome :=
  if s.pins.trstLow then .next s
  else
    let test := i == .extest || i == .extestPulse || i == .extestTrain
    let i := if test && !s.pins.resetLow then TapInstr.bypass else i
    let s := { s with pins := { s.pins with tap := i } }
    .next (if i = .idcode then s.emit (.tapData i idcode) else s)

/-- TRST_N low holds the port in reset, with IDCODE selected. -/
def execTrstN (low : Bool) (s : State) : Outcome :=
  .next { s with pins := { s.pins with trstLow := low, tap := if low then .idcode else s.pins.tap } }

end Sys2Proof.Machine
end

