-- ==== Sys2Proof/Machine/Registers.lean ====
section
/-! DEFINITION. Register accesses (R4 to R11, R122 to R125, R403, R404, R407, R409, R423, R469): reads and writes of BAR0 by every
path, the tile windows, the read and write latches, the member window and SMBus. -/

namespace Sys2Proof.Machine

/-- The state a meaning leaves. -/
def stateAfter (s : State) (o : Outcome) : State := match o with | .next t => t | _ => s

/-! ## Tile windows (R122, R123) -/

/-- Where an offset of the TIL block leads: the physical tile, whether through the physical view, and the offset in its window. -/
def State.window (s : State) (o : Nat) : Option (Nat × Bool × Nat) :=
  if o < 0x800000 then some (s.physOf (BitVec.ofNat 11 (o / 0x1000)), false, o % 0x1000)
  else if o < 0x1080000 then some ((o - 0x800000) / 0x1000, true, o % 0x1000) else none

/-- TIL_ID of a physical tile. -/
def State.tilId (s : State) (key : Nat) : Nat :=
  let px := key % 68
  let here := (if colEast px then 2 ^ 30 else 0) + px * 2 ^ 23 + key / 68 * 2 ^ 18
  match s.logicalAt px (key / 68) with
  | some t => here + 2 ^ 31 + clusterOf t * 2 ^ 11 + tileX t * 2 ^ 5 + tileY t
  | none => here

/-- TIL_STATE of a physical tile: one that serves no logical tile and is not fenced is SPARE, and its PHASE reads 0
(DESIGN CHOICE, log 32). -/
def State.tilState (s : State) (key : Nat) : Nat :=
  let fenced := key ∈ s.fenced
  let f := if fenced then 2 ^ 6 else 0
  match s.logicalAt (key % 68) (key / 68) with
  | some t => let x := s.tile t; x.gen.toNat * 2 ^ 24 + (if x.dirty then 2 ^ 7 else 0) + f + x.phase.toNat
  | none => (mapGet 0 s.physGen key).toNat * 2 ^ 24 + f + if fenced then 0 else 2 ^ 5

/-- TIL_QDEPTH. -/
def Tile.depths (x : Tile) : Nat := ((List.range 6).map (fun p => (x.fifo.filter (fun o => o.port == p)).length % 32 * 32 ^ p)).sum

/-- The registers of a channel endpoint (R288): CFG, PEER, PTR, STAT. -/
def Tile.endpointWord (x : Tile) (c k : Nat) : Nat :=
  let e := x.ep (BitVec.ofNat 6 c)
  match k with
  | 0 => e.cfg.toNat
  | 1 => e.peer.toNat
  | 2 => if e.isRecv then e.rd % 32768 * 2 ^ 16 + e.wr % 32768 else e.creditMax % 65536 * 2 ^ 16 + e.credit % 65536
  | _ =>
    if e.isRecv then
      let waits := !x.core.stopped && (match x.core.wait with | .message ch .. => ch.toNat == c | _ => false)
      let part := match e.recs with | r :: _ => r.left != 0 | [] => false
      (if waits then 2 ^ 31 else 0) + (if x.core.held.getLsbD c then 2 ^ 30 else 0) + (if part then 2 ^ 29 else 0) + min e.recs.length 65535
    else
      let waits := match x.fifo.find? (fun o => o.port == 5) with
        | some o => (match o.kind with | .send ch .. => ch.toNat == c && !x.creditReady o | _ => false)
        | none => false
      (if waits then 2 ^ 31 else 0) + e.seq.toNat % 65536

/-- The tile's own registers, by window offset: the value and whether the register has 64 bits. -/
def Tile.ownReg (x : Tile) (w : Nat) : Nat × Bool :=
  if w = 0x008 then (x.step.toNat, false)
  else if w = 0x00C then (x.enq % 65536 * 65536 + x.doneSeq % 65536, false)
  else if w = 0x010 then (x.depths, false)
  else if w = 0x014 then (x.busyMap .bank 4, false)
  else if w = 0x018 then (x.busyMap .segA 64, true)
  else if w = 0x020 then (x.busyMap .segB 64, true)
  else if w = 0x028 then (x.busyMap .vreg 32, false)
  else if 0x040 ≤ w ∧ w < 0x078 then ((x.cycleCount ((w - 0x040) / 8)).toNat, true)
  else if w = 0x078 then (x.opsDone.toNat, true)
  else if w = 0x080 then (if x.freeze then 2 else 0, false)
  else if 0x100 ≤ w ∧ w < 0x500 then (x.endpointWord ((w - 0x100) / 16) (w / 4 % 4), false)
  else if 0x500 ≤ w ∧ w < 0x700 then
    let c := (w - 0x500) / 8
    (min (if w / 4 % 2 = 0 then (x.ep (BitVec.ofNat 6 c)).msgs else (x.ep (BitVec.ofNat 6 c)).stalls) (2 ^ 32 - 1), false)
  else if 0x800 ≤ w ∧ w < 0x880 then (mapGet 0 x.arr ((w - 0x800) / 4) % 2 ^ 32, false)
  else if 0x880 ≤ w ∧ w < 0x900 then
    let r := (w - 0x880) / 8
    (if w / 4 % 2 = 0 then (mapGet 0 x.img.regions r).toNat
     else mapGet 0 x.tails r % 65536 * 65536 + mapGet 0 x.heads r % 65536, false)
  else (0, false)

/-- Offset of the 64-bit register that holds a window offset. -/
def wideBase (w : Nat) : Nat := if (0x018 ≤ w ∧ w < 0x028) ∨ (0x040 ≤ w ∧ w < 0x080) then w / 8 * 8 else w

/-- A register of a tile window: its value and whether it has 64 bits. What the tile's own domain holds reads 0 while the tile does
not serve, and through the physical view of a tile that is spare or fenced; a bypassed column reads 0 throughout (R481). -/
def State.tilReg (s : State) (o : Nat) : Nat × Bool :=
  match s.window o with
  | none => (0, false)
  | some (key, phys, w) =>
    if phys && s.fget (F.MAP_COL.STATE.ix (key % 68)) == 3 then (0, false)
    else if w = 0 then (s.tilId key, false)
    else if w = 4 then (s.tilState key, false)
    else match s.logicalAt (key % 68) (key / 68) with
      | some t =>
        let r := (s.tile t).ownReg w
        if s.tileServes t && !(phys && key ∈ s.fenced) then r else (0, r.2)
      | none => (0, false)

/-- A read of a counter that counts cycles finds a fresh value while it counts (R124). -/
def State.tickCounters (s : State) (o : Nat) : State :=
  match s.window o with
  | some (key, _, w) =>
    match s.logicalAt (key % 68) (key / 68) with
    | some t => if ((0x040 ≤ w ∧ w < 0x078) ∨ (0x500 ≤ w ∧ w < 0x700)) ∧ (s.tile t).counting then s.recount t else s
    | none => s
  | none => s

/-- A write in a tile window: only TIL_CTRL takes it. -/
def State.writeTil (s : State) (off v : Nat) : State :=
  match s.window (off - tilBase) with
  | none => s
  | some (key, phys, w) =>
    let t := s.logicalAt (key % 68) (key / 68)
    let bypassed := phys && s.fget (F.MAP_COL.STATE.ix (key % 68)) == 3
    match t with
    | some t =>
      if bypassed || (phys && key ∈ s.fenced) || (8 ≤ w && !s.tileServes t) then s.refuseWrite off v
      else if w ≠ 0x080 then s
      else if bit v 0 then stateAfter s (execTilCtrlClear t (bit v 1) s) else stateAfter s (execTilCtrlFreeze t (bit v 1) s)
    | none => if w < 8 && !bypassed then s else s.refuseWrite off v

/-! ## Values that a read computes -/

/-- WV_STATUS.EPOCH_USE. -/
def State.epochMask (s : State) : Nat := (((List.range 16).filter s.epochUsed).map (fun e => 2 ^ e)).sum

/-- FLT_MESH_CNT of the router that FLT_MESH_CNT_SEL names. -/
def State.routerKey (s : State) (lsb : Nat) : Nat := cntKey (s.fget F.FLT_MESH_CNT_SEL.PX) (s.fget F.FLT_MESH_CNT_SEL.PY) lsb

/-- FLT_MESH_CNT; a router whose half's mesh is stopped reads 0. -/
def State.routerCounts (s : State) : Nat :=
  if s.meshStopped (eastCol (s.fget F.FLT_MESH_CNT_SEL.PX)) then 0 else ((List.range 8).map (fun n => mapGet 0 s.mesh.cnt (s.routerKey (8 * n)) * 256 ^ n)).sum

/-- EVT_STATUS. -/
def State.evtStatus (s : State) : Nat :=
  let r := s.recorder
  let b (x : Bool) (n : Nat) : Nat := if x then 2 ^ n else 0
  b r.flushing 31 + b r.erasing 30 + b r.win 29 + b r.pfHold 28 + r.ring.length

/-- What a register shows beside its stored fields, by the offset of element 0 and the index. -/
def State.viewPart (s : State) (off i : Nat) : Nat :=
  match off with
  | 0x4 => Config.stepping.code
  | 0xB0058 => min s.mirrorFrames.length (2 ^ 20 - 1)
  | 0x70218 => s.routerCounts
  | 0xF0000 => s.epochMask
  | 0xC000C => le s.descr 0x04 4
  | 0x70040 => s.shownReport i
  | 0x40400 => if s.fbit F.HQ_STATUS.READY then s.hwVotes i else 0
  | 0x40800 => if s.fbit F.HQ_STATUS.READY then s.target i * 2 ^ 26 + (if s.moving i then 2 ^ 25 else 0) else 0
  | 0x80000 => s.evtStatus
  | 0x80008 => s.recorder.nextSeq.toNat
  | 0x80010 => s.recorder.oldest
  | 0x80018 => s.recorder.flushed
  | 0x80020 => s.optime.toNat
  | 0x80028 => s.recorder.pcc.toNat
  | 0x80080 => s.shownData i
  | _ => 0

/-- The value of a register. -/
def State.regValue (s : State) (r : RegD) (i : Nat) : Nat := s.rawReg r i + s.viewPart r.off i

/-- A range of the interleave table as four 64-bit words (R79). -/
def rangeWord (r : Range) (k : Nat) : Nat :=
  match k with
  | 0 => 2 ^ 63 + r.kind.toNat * 2 ^ 61 + r.tier.toNat * 2 ^ 59 + r.gran.toNat * 2 ^ 55 + r.base.toNat
  | 1 => r.pages.toNat
  | 2 => r.count.toNat * 2 ^ 32 + r.first.toNat * 2 ^ 16
  | _ => r.lbase.toNat

/-- 32 bits of BAR0 outside every register table: MBX_BUF, the MSI-X table and its pending bits, the interleave table. -/
def State.plainWord (s : State) (off : Nat) : Nat :=
  if 0x30100 ≤ off ∧ off < 0x30200 then ofBytes (s.mbxBytes (off - 0x30100) 4)
  else if 0x20000 ≤ off ∧ off < 0x28000 then (s.msixWord ((off - 0x20000) / 4)).toNat
  else if 0x28000 ≤ off ∧ off < 0x28100 then
    ((s.msixPend.filter (fun v => v / 32 == (off - 0x28000) / 4)).map (fun v => 2 ^ (v % 32))).sum
  else if 0xA1000 ≤ off ∧ off < 0xA3000 then
    match mapFind s.ranges ((off - 0xA1000) / 32) with
    | some r => rangeWord r (off / 8 % 4) / 2 ^ (off / 4 % 2 * 32) % 2 ^ 32
    | none => 0
  else 0

/-- The 64-bit register that holds an offset: its own offset and its value; none where the offset belongs to none. -/
def State.wideAt (s : State) (off : Nat) : Option (Nat × Nat) :=
  if tilBase ≤ off ∧ off < tilBase + 0x1080000 then
    let base := tilBase + (off - tilBase) / 0x1000 * 0x1000 + wideBase (off % 0x1000)
    let (v, wide) := s.tilReg (base - tilBase)
    if wide then some (base, v) else none
  else match regAt off with
    | some (r, i) => if r.wide then some (r.at i, s.regValue r i) else none
    | none => none

/-- The value of 32 bits at an offset that no 64-bit register holds. -/
def State.narrowAt (s : State) (off : Nat) : Nat :=
  if tilBase ≤ off ∧ off < tilBase + 0x1080000 then (s.tilReg (off - tilBase)).1
  else match regAt off with
    | some (r, i) => s.regValue r i
    | none => s.plainWord off

/-! ## Reads (R6, R9, R10) -/

/-- The side effects of reading bits [hi:lo] of the register at an offset: RC fields clear. -/
def State.afterRead (s : State) (off hi lo : Nat) : State :=
  if off = 0x70218 then
    { s with mesh := { s.mesh with cnt := s.mesh.cnt.filter (fun p => !((List.range 8).any (fun n =>
      decide (lo ≤ 8 * n ∧ 8 * n ≤ hi) && p.1 == s.routerKey (8 * n)))) } }
  else match regAt off with
    | some (r, i) => s.clearRc r i hi lo
    | none => s

/-- The side effects of reading one half of the 64-bit register at `base`. -/
def State.afterHalf (s : State) (base : Nat) (upper : Bool) : State :=
  match halfSpan (((regAt base).map (fun p => p.1.off)).getD base) upper with
  | some (hi, lo) => s.afterRead base hi lo
  | none => s

/-- A 32-bit read: of a lower half it loads the read latch with the upper half, of an upper half it returns and empties the latch. -/
def State.read32 (s : State) (off : Nat) : Nat × State :=
  let s := if tilBase ≤ off then s.tickCounters (off - tilBase) else s
  match s.wideAt off with
  | some (base, v) =>
    if off = base then
      (v % 2 ^ 32, { s with rlatch := mapIns base (BitVec.ofNat 32 (v / 2 ^ 32)) s.rlatch }.afterHalf base false)
    else match mapFind s.rlatch base with
      | some u => (u.toNat, { s with rlatch := mapDel base s.rlatch }.afterHalf base true)
      | none => (v / 2 ^ 32, s.afterHalf base true)
  | none => (s.narrowAt off % 2 ^ 32, s.afterRead off 31 0)

/-- A 64-bit read: of a 64-bit register the whole at once, elsewhere two registers, the lower address first. -/
def State.read64 (s : State) (off : Nat) : Nat × State :=
  let s := if tilBase ≤ off then s.tickCounters (off - tilBase) else s
  match s.wideAt off with
  | some (base, v) => (v, s.afterRead base 63 0)
  | none =>
    let (lo, s) := s.read32 off
    let (hi, s) := s.read32 (off + 4)
    (lo + hi * 2 ^ 32, s)

/-- An access is 4 bytes and 4-aligned, or 8 bytes and 8-aligned (R404). -/
def aligned (off size : Nat) : Bool := (size == 4 && off % 4 == 0) || (size == 8 && off % 8 == 0)

/-- Offsets that the host port serves before stage 9 (R469): ID, MBX, RST, EVT and HQ_STATUS. -/
def servedEarly (off : Nat) : Bool :=
  off < 0x1000 || off / 0x10000 == 3 || off / 0x10000 == 6 || off / 0x10000 == 8 || off == 0x11000

/-- An access of the host that waits for the device to wake: every one but reads of the ID block and HQ_STATUS (R502, R510). -/
def State.waitsWake (s : State) (path : Path) (off : Nat) (read : Bool) : Bool :=
  path == .pcie && s.deviceAsleep && !s.hostSilent && !(read && (off < 0x1000 || off == 0x11000))

def allOnes : W64 := BitVec.allOnes 64

/-- A read of BAR0's lower half by a path (R404, R407, R469). -/
def State.busRead (s : State) (path : Path) (off size : Nat) : State :=
  if path == .pcie && s.hostSilent then s
  else if !aligned off size then (s.barEvent 0 off).emit (.readData path off (if size = 4 then BitVec.ofNat 64 (2 ^ 32 - 1) else allOnes))
  else if s.hostDropped path && 0x1000 ≤ off then s.emit (.readData path off (BitVec.ofNat 64 (2 ^ (8 * size) - 1)))
  else if path == .pcie && !s.fbit F.HQ_STATUS.READY && !servedEarly off then s.emit (.readData path off 0)
  else
    let (v, s) := if size = 8 then s.read64 off else s.read32 off
    s.emit (.readData path off (BitVec.ofNat 64 v))

/-- A read by a path, held while the device sleeps. -/
def State.readOrHold (s : State) (path : Path) (off size : Nat) : Outcome :=
  .next (if s.waitsWake path off true then s.keepReq (.read off size) else s.busRead path off size)

def execLowerHalfRead (path : Path) (off : BitVec 26) (s : State) : Outcome := s.readOrHold path off.toNat 4
def execUpperHalfRead (path : Path) (off : BitVec 26) (s : State) : Outcome := s.readOrHold path off.toNat 4

/-- A host read of a register by its offset, whole. -/
def State.hostRead (s : State) (off size : Nat) : Outcome := s.readOrHold .pcie off size

def execStepStaleRead (s : State) : Outcome := s.hostRead 0xB0028 4
def execHomeStatusRead (s : State) : Outcome := s.hostRead 0xA0004 4
def execNmErrRead (k : BitVec 3) (s : State) : Outcome := s.hostRead (0xE0000 + 4 * k.toNat) 4
def execFltMeshCntRead (s : State) : Outcome := s.hostRead 0x70218 8
def execOlPortErrRead (p : PortNo) (s : State) : Outcome := s.hostRead (0xC0110 + 0x20 * p.toNat) 8
def execOlPortTrafficRead (p : PortNo) (s : State) : Outcome := s.hostRead (0xC0118 + 0x20 * p.toNat) 4
def execWvFlushCntRead (s : State) : Outcome := s.hostRead 0xF0018 4
def execStepVoteTimeRead (s : State) : Outcome := s.hostRead 0xB0050 4
def execStepDigestErrRead (s : State) : Outcome := s.hostRead 0xB0054 4
def execFltHardenRead (s : State) : Outcome := s.hostRead 0x70038 4
def execFltGenDropsRead (s : State) : Outcome := s.hostRead 0x7003C 4
def execEvtSuppressRead (s : State) : Outcome := s.hostRead 0x8002C 4

/-- A misaligned read, or one of another length, returns all ones and is recorded. -/
def execBar0MisalignedRead (off : BitVec 26) (size : Nat) (s : State) : Outcome :=
  s.readOrHold .pcie off.toNat size

/-! ## Writes (R6 to R9) -/

/-- A write of MBX_CMD: refused while a command runs; GO starts the command of CODE. -/
def State.writeMbxCmd (s : State) (path : Path) (v : Nat) : State :=
  if s.fbit F.MBX_STATUS.BUSY then s.refuseWrite 0x30000 v
  else if !bit v 31 then s.fset F.MBX_CMD.CODE (v % 256)
  else match v % 256 with
    | 0x01 => stateAfter s (execGetInfo path s)
    | 0x02 => stateAfter s (execTopoWrite path true s)
    | 0x03 => stateAfter s (execTopoRead path s)
    | 0x10 => stateAfter s (execKeyWrite path true s)
    | 0x11 => stateAfter s (execKeyRevoke path true s)
    | 0x12 => stateAfter s (execKeyRead path s)
    | c => s.mbxStart path c 1 [] id

/-- A write of RST_SW with GO. -/
def State.writeRstSw (s : State) (v : Nat) : State :=
  let x := BitVec.ofNat 6 (bits v 16 11)
  let y := BitVec.ofNat 5 (bits v 10 6)
  if !bit v 31 then s
  else match bits v 30 29 with
    | 0 => stateAfter s (execRstSwTile x y s)
    | 1 => stateAfter s (execRstSwCluster x y s)
    | 2 => stateAfter s (execRstSwHalf x y s)
    | _ => stateAfter s (execRstSwDevice s)

/-- A write of RST_BLK resets the blocks it names. -/
def State.writeRstBlk (s : State) (v : Nat) : State :=
  let s := if bits v 15 0 = 0 then s else stateAfter s (execRstBlkOl (BitVec.ofNat 16 v) s)
  let s := if bits v 19 16 = 0 then s else stateAfter s (execRstBlkCxl (BitVec.ofNat 4 (bits v 19 16)) s)
  let s := if bit v 20 then stateAfter s (execRstBlkHq s) else s
  if bit v 21 then stateAfter s (execRstBlkSmb s) else s

/-- A write of FLT_READMIT: KIND 3 is refused, with GO or without. A device comes back without a portion here: READMIT_DEVICE carries
one. -/
def State.writeReadmit (s : State) (v : Nat) : State :=
  if bits v 30 29 = 3 then s.refuseWrite 0x70028 v
  else if !bit v 31 then s
  else match bits v 30 29 with
    | 0 => stateAfter s (execReadmitDevice (BitVec.ofNat 6 (bits v 28 23)) [] [] 0 0 0 s)
    | 1 => stateAfter s (execReadmitPort (BitVec.ofNat 4 (bits v 10 7)) s)
    | 2 =>
      let c := bits v 22 17 + bits v 16 16 * 64
      if c ≥ Config.physCols then s.refuseWrite 0x70028 v
      else stateAfter s (execReadmitTile (BitVec.ofNat 7 c) (BitVec.ofNat 5 (bits v 15 11)) s)
    | _ => s.refuseWrite 0x70028 v

/-- A write of RST_WDT: EN needs open posture and KICK the STAG when the write is a host's. -/
def State.writeWdt (s : State) (r : RegD) (path : Path) (v : Nat) : State :=
  let host := path != .stag
  let s := if bit v 30 then stateAfter s (execKick path s) else s
  s.writeReg r 0 (v % 2 ^ 30 + bits v 31 31 * 2 ^ 31) (fun f => host && f.lsb == 31 && !s.fbit F.RST_CFGSEL.DEBUG)

/-- A write of PWR_CLIENT_LIM: codes 6 and 7 are undefined, and FW is the firmware's. -/
def State.writeLimits (s : State) (path : Path) (v : Nat) : State :=
  let bad := (List.range 9).any (fun n => decide (5 < bits v (3 * n + 2) (3 * n)) && (n != 8 || path == .stag))
  let s := if path == .stag && bits v 26 24 ≤ 5 then s.fset F.PWR_CLIENT_LIM.FW (bits v 26 24) else s
  let ok (n : Nat) : Nat := if bits v (3 * n + 2) (3 * n) ≤ 5 then bits v (3 * n + 2) (3 * n) else s.hostLimit n
  let s := s.fset F.PWR_CLIENT_LIM.HOST (((List.range 8).map (fun n => ok n * 8 ^ n)).sum)
  if bad then s.refuseWrite 0x40000 v else s

/-- A write of PWR_VOTE_d; STAG firmware also writes FW. -/
def State.writeVote (s : State) (path : Path) (d v : Nat) : State :=
  let s := if path == .stag then s.fset (F.PWR_VOTE.FW.ix d) (bits v 6 6) else s
  stateAfter s (execPwrVoteWrite (BitVec.ofNat 8 d) (BitVec.ofNat 32 v) s)

/-- A register takes a value as a whole: one that has a row of its own as that row says, any other as its table says. -/
def State.setReg (s : State) (path : Path) (r : RegD) (i v : Nat) : State :=
  let w : W32 := BitVec.ofNat 32 v
  let q : BitVec 4 := BitVec.ofNat 4 i
  let on := s.fbit (F.HQ_Q_CFG.EN.ix i)
  match r.off with
  | 0x10000 | 0x10008 => s.writeReg r i v (fun _ => on)
  | 0x10010 =>
    let t := s.writeReg r i v (fun f => on && (f.lsb == 20 || f.lsb == 24))
    if bit v 31 then t else stateAfter t (execQueueDisable q t)
  | 0x10018 => stateAfter s (execDoorbellWrite q w s)
  | 0x1001C => stateAfter s (execCqHeadWrite q w s)
  | 0x30000 => s.writeMbxCmd path v
  | 0x40000 => s.writeLimits path v
  | 0x40004 => stateAfter s (execPwrTolWrite w s)
  | 0x40008 => stateAfter s (execPwrModeWrite w s.now s)
  | 0x40010 => stateAfter s (execLockoutClear w s)
  | 0x40400 => s.writeVote path i v
  | 0x60008 => s.writeRstSw v
  | 0x6000C => s.writeRstBlk v
  | 0x60010 => s.writeWdt r path v
  | 0x60014 => if bit v 30 then stateAfter s (execContinueStage path s) else s
  | 0x70000 => stateAfter s (execFltReportStatusClear w s)
  | 0x70004 => stateAfter s (execFltReportPop w s)
  | 0x70028 => s.writeReadmit v
  | 0x80030 => stateAfter s (execEvtFlushRequest w s)
  | 0x80040 => stateAfter s (execEvtReadSelWrite (BitVec.ofNat 64 v) s)
  | 0xA0010 => stateAfter s (execMigrateRequest (BitVec.ofNat 64 v) s)
  | 0xB0018 => stateAfter s (execStepIntervalWrite w s)
  | 0xB0020 =>
    if bit v 31 then stateAfter s (execBuddyEnable w none s)
    else if s.fbit F.STEP_BUDDY.EN then stateAfter s (execBuddyDisable w s) else s.writeReg r i v nothingLocked
  | 0xB0040 => stateAfter s (execStepCoordWrite w s)
  | 0xC0000 => s.writeOlCtrl v
  | 0xF0040 => stateAfter s (execQsClear w s)
  | 0xF0044 => stateAfter s (execQsSnapshot w s)
  | _ => s.writeReg r i v nothingLocked

/-- A 32-bit write where no register table rules: MBX_BUF, the MSI-X table; elsewhere nothing is written. A vector that is unmasked
while it pends sends its message. -/
def State.writePlain (s : State) (off v : Nat) : State :=
  if 0x30100 ≤ off ∧ off < 0x30200 then
    if s.fbit F.MBX_STATUS.BUSY then s.refuseWrite off v
    else { s with mbxBuf := writeBytes 0 (off - 0x30100) (toBytes 4 v) s.mbxBuf }
  else if 0x20000 ≤ off ∧ off < 0x28000 then
    let k := (off - 0x20000) / 4
    let s := { s with msix := mapPut (if k % 4 = 3 then 1 else 0) k (BitVec.ofNat 32 v) s.msix }
    if k % 4 = 3 && !bit v 0 && k / 4 ∈ s.msixPend then { s with msixPend := dropOne (k / 4) s.msixPend }.signal (k / 4) else s
  else s

/-- The lower half of a 64-bit register as an upper-half write without a lower-half write finds it: WO fields read zero. -/
def State.lowerNow (s : State) (base : Nat) : Nat := ((s.wideAt base).map Prod.snd).getD 0 % 2 ^ 32

/-- A 32-bit write: of a lower half it loads the write latch; of an upper half it sets the whole register and empties the latch, which
then stands for the register's current lower half. -/
def State.write32 (s : State) (path : Path) (off v : Nat) : State :=
  let v := v % 2 ^ 32
  if tilBase ≤ off ∧ off < tilBase + 0x1080000 then s.writeTil off v
  else match regAt off with
    | some (r, i) =>
      if !r.wide then s.setReg path r i v
      else if off = r.at i then { s with wlatch := mapIns (r.at i) (BitVec.ofNat 32 v) s.wlatch }
      else
        let low := ((mapFind s.wlatch (r.at i)).map BitVec.toNat).getD (s.lowerNow (r.at i))
        { s with wlatch := mapDel (r.at i) s.wlatch }.setReg path r i (v * 2 ^ 32 + low)
    | none => s.writePlain off v

/-- A 64-bit write: of a 64-bit register the whole at once, elsewhere two registers, the lower address first. DESIGN CHOICE (log 30):
a 64-bit access leaves the latches of the register as they stand. -/
def State.write64 (s : State) (path : Path) (off v : Nat) : State :=
  match regAt off with
  | some (r, i) => if r.wide then s.setReg path r i v else (s.write32 path off v).write32 path (off + 4) (v / 2 ^ 32)
  | none => (s.write32 path off v).write32 path (off + 4) (v / 2 ^ 32)

/-- A write to BAR0's lower half by a path. -/
def State.busWrite (s : State) (path : Path) (off size v : Nat) : State :=
  if path == .pcie && s.hostSilent then s
  else if !aligned off size then s.barEvent 0 off
  else if s.hostDropped path then s
  else if path == .pcie && !s.fbit F.HQ_STATUS.READY && !servedEarly off then s.refuseWrite off v
  else
    if size = 8 then s.write64 path off v else s.write32 path off v

/-- A write by a path, held while the device sleeps. -/
def State.writeOrHold (s : State) (path : Path) (off size v : Nat) : Outcome :=
  .next (if s.waitsWake path off false then s.keepReq (.write off size v) else s.busWrite path off size v)

def execRegisterWrite (path : Path) (off : BitVec 26) (size : Nat) (v : W64) (s : State) : Outcome :=
  s.writeOrHold path off.toNat size (if size = 8 then v.toNat else v.toNat % 2 ^ 32)

def execWriteLatchLoad (path : Path) (off : BitVec 26) (v : W32) (s : State) : Outcome :=
  s.writeOrHold path off.toNat 4 v.toNat
def execUpperHalfWrite (path : Path) (off : BitVec 26) (v : W32) (s : State) : Outcome :=
  s.writeOrHold path off.toNat 4 v.toNat

/-! ## The member window (R409) -/

/-- An access that finds no member: ones, or nothing, with FAIL. -/
def State.windowFail (s : State) (off size : Nat) (read : Bool) : State :=
  let s := s.fsetb F.HQ_MEMBER_SEL.FAIL true
  if read then s.emit (.readData .pcie (0x2000000 + off) (BitVec.ofNat 64 (2 ^ (8 * size) - 1))) else s

/-- An access through the member window. At the lead's own position it reaches the lead's registers; a reply carries what another
member answered, none that it did not within REQ_TIMEOUT. -/
def execMemberWindowAccess (off : BitVec 25) (size : Nat) (wr : Option W64) (reply : Option W64) (s : State) : Outcome :=
  let o := off.toNat
  let full := 0x2000000 + o
  let pos := s.fget F.HQ_MEMBER_SEL.POS
  let read := wr.isNone
  if s.hostSilent then .next s
  else if s.waitsWake .pcie full read then .next (s.keepReq (.window off size wr reply))
  else if !aligned o size then
    .next (if read then (s.barEvent 0 full).emit (.readData .pcie full allOnes) else s.barEvent 0 full)
  else if !s.isLead then .next (if read then s.emit (.readData .pcie full (BitVec.ofNat 64 (2 ^ (8 * size) - 1))) else s)
  else if !s.fbit F.HQ_STATUS.READY then
    .next (match wr with | some v => s.refuseWrite full v.toNat | none => s.emit (.readData .pcie full 0))
  else
    if o / 0x10000 = 2 || !s.present pos then .next (s.windowFail o size read)
    else if pos = s.pos then
      .next (match wr with
        | some v => s.busWrite .window o size (if size = 8 then v.toNat else v.toNat % 2 ^ 32)
        | none => s.busRead .window o size)
    else
      let s := s.emit (.memberAccess pos o size wr)
      match wr, reply with
      | _, none => .next (s.windowFail o size read)
      | some _, some _ => .next s
      | none, some v => .next (s.emit (.readData .pcie full v))

/-! ## SMBus (R423, R541) -/

/-- The full command set is answered from the end of stage 2, or once bring-up has halted, while the STAG runs. -/
def State.smbOpen (s : State) : Bool :=
  s.stagUp && !s.stagHalted && s.domState 158 < 4 && (!s.bring.active || 3 ≤ s.bring.next || s.fbit F.RST_STAGE_CTRL.HALTED)

/-- A block, or none while the STAG does not answer. -/
def State.smbAnswer (s : State) (bs : List Byte) : State := s.emit (.smbData (if s.smbOpen then bs else []))

/-- Bytes of BAR0 registers as they stand, without side effects. -/
def State.peek (s : State) (off n : Nat) : List Byte := (List.range n).flatMap (fun i => toBytes 4 (s.narrowAt (off + 4 * i)))

def execSmbusReadId (s : State) : Outcome := .next (s.emit (.smbData (s.peek 0 10)))

def execSmbusReadStatus (s : State) : Outcome := .next (s.smbAnswer (s.peek 0x11000 2))

/-- Code 0x02: the hottest valid sensor; 0x8000 until one has been read. -/
def execSmbusReadTemperature (s : State) : Outcome :=
  let v : Nat := if s.temps.isEmpty then 0x8000 else match hottest (s.readings false ++ s.readings true) with
    | some (_, t) => (t % 65536).toNat
    | none => 0x8000
  .next (s.emit (.smbData (toBytes 2 v)))

def execSmbusReadPower (s : State) : Outcome := .next (s.smbAnswer (toBytes 2 s.watts.toNat))

/-- Code 0x08. A write without a valid PEC is refused; so is an offset that BAR0's lower half does not have. -/
def execSmbusBar0Read (off : W32) (pecOk : Bool) (s : State) : Outcome :=
  let o := off.toNat
  if !pecOk || 0x2000000 ≤ o then .next (s.emit .smbNak)
  else if !s.smbOpen then .next (s.emit (.smbData []))
  else if o % 4 ≠ 0 then .next ((s.barEvent 0 o).emit (.smbData (ones 4)))
  else
    let (v, s) := s.read32 o
    .next (s.emit (.smbData (toBytes 4 v)))

/-- Code 0x09: a register of the MBX block. -/
def execSmbusMbxWrite (off : W32) (v : W32) (pecOk : Bool) (s : State) : Outcome :=
  let o := off.toNat
  if !pecOk then .next (s.emit .smbNak)
  else if !s.smbOpen then .next s
  else if 0x10000 ≤ o then .next (s.refuseWrite (0x30000 + o) v.toNat)
  else .next (s.busWrite .smbus (0x30000 + o) 4 v.toNat)

/-- Code 0x0A, which the always-on domain serves. -/
def execSmbusContinue (v : W16) (pecOk : Bool) (s : State) : Outcome :=
  if !pecOk then .next (s.emit .smbNak)
  else if v = 0x5A01 then execContinueStage .smbus s else .next (s.refuseWrite 0x60014 v.toNat)

/-- The target resets its interface and releases SMB_DAT. -/
def execSmbusTimeout (s : State) : Outcome := .next (s.emit .smbRelease)

/-- ARP assigns another address. -/
def execSmbusArp (addr : BitVec 7) (s : State) : Outcome := .next { s with smbAddr := addr }

end Sys2Proof.Machine
end

