-- ==== Sys2Proof/Machine/Tahr.lean ====
section
/-! DEFINITION. Tahr (R176 to R198, R552, R553): one definition per operation, over one issue of form V that reads the
operand lanes and writes a value per lane. An operation moves its data when it issues. -/

namespace Sys2Proof.Machine

open Sys2Proof.Num

/-! ## Operand lanes (R176, R179, R198) -/

/-- A lane as an operation reads it: one with a two-bit error reads as the canonical NaN (R198). -/
def readLane (v : VFile) (e : LaneErr) (r n : Nat) : W32 :=
  match e with
  | .twoBit q l => if q.toNat = r ∧ l.toNat = n then nan32 else v.lane r n
  | _ => v.lane r n

/-- Operand lanes of a form V operation, by member and lane (R179). -/
structure Lanes where
  a : Nat → Nat → W32
  b : Nat → Nat → W32
  c : Nat → Nat → W32
  /-- The rounding of the operation's result in that lane (R182). -/
  r : Nat → Nat → Rnd

def TahrF.lanes (f : TahrF) (v : VFile) (e : LaneErr) (seed step : Nat) : Lanes where
  a m n := readLane v e (f.va + m) n
  b m n := if f.bsrc = 2 then f.imm else readLane v e (f.vb + (if f.bsrc = 0 then m else 0)) n
  c m n := readLane v e (f.vc + m) n
  r m n := rndOf seed step 1 f.rm f.sat f.stream (f.ebase + 64 * m + n)

/-- What the codes of the vector file report (R198): a corrected bit once in a step, a two-bit error by register and
lane, when the operation reads the register. -/
def Tile.laneNotes (x : Tile) (e : LaneErr) (o : Op) (w0 : W64) : Tile × List Note :=
  let reads (r : Nat) : Bool := (o.res x).1.any (fun sp => sp.kind == .vreg && decide (sp.lo ≤ r ∧ r < sp.hi))
  match e with
  | .none => (x, [])
  | .oneBit r l => if reads r.toNat then x.correctedNote .vreg 4 (r.toNat * 64 + l.toNat) else (x, [])
  | .twoBit r l =>
    (x, if reads r.toNat then [.err 0x1020 false 1 r.toNat o.opid (data2 w0.toNat (r.toNat + l.toNat * 2 ^ 8))] else [])

/-- Write the members of the destination group (R179). -/
def TahrF.write (f : TahrF) (v : VFile) (members : Nat) (g : Nat → Nat → W32) : VFile :=
  (List.range members).foldl (fun v m => (List.range 64).foldl (fun v n => v.set (f.vd + m) n (g m n)) v) v

/-- A form V operation issues: `g` gives the value of each lane. -/
def runTahrV (t : TileId) (e : LaneErr) (opc : Nat) (g : TahrF → Lanes → Nat → Nat → W32) (s : State) : State :=
  issueHead t 4 (fun o => match o.kind with | .two w0 _ _ => bits w0.toNat 63 58 == opc | _ => false) (fun x o =>
    match o.kind with
    | .two w0 w1 _ =>
      let f := tahrF w0 w1
      let ls := f.lanes x.vec e s.gen.1 s.gen.2
      let (y, ns) := x.laneNotes e o w0
      ({ y with vec := f.write x.vec f.dlen (g f ls) }, ns)
    | _ => (x, [])) s

/-- One operand, under its rounding. -/
def run1 (t : TileId) (e : LaneErr) (opc : Nat) (g : Rnd → W32 → W32) (s : State) : State :=
  runTahrV t e opc (fun _ l m n => g (l.r m n) (l.a m n)) s

/-- Two operands, under their rounding. -/
def run2 (t : TileId) (e : LaneErr) (opc : Nat) (g : Rnd → W32 → W32 → W32) (s : State) : State :=
  runTahrV t e opc (fun _ l m n => g (l.r m n) (l.a m n) (l.b m n)) s

/-- Three operands, under their rounding. -/
def run3 (t : TileId) (e : LaneErr) (opc : Nat) (g : Rnd → W32 → W32 → W32 → W32) (s : State) : State :=
  runTahrV t e opc (fun _ l m n => g (l.r m n) (l.a m n) (l.b m n) (l.c m n)) s

def laneMask (b : Bool) : W32 := if b then 0xFFFFFFFF#32 else 0#32

/-! ## FP32 arithmetic (R183 to R186) -/

def execFadd (t : TileId) (e : LaneErr) (s : State) : Outcome := .next (run2 t e 0x08 Num.fadd s)
def execFsub (t : TileId) (e : LaneErr) (s : State) : Outcome := .next (run2 t e 0x09 Num.fsub s)
def execFmul (t : TileId) (e : LaneErr) (s : State) : Outcome := .next (run2 t e 0x0A Num.fmul s)
def execFma (t : TileId) (e : LaneErr) (s : State) : Outcome := .next (run3 t e 0x0B Num.fma s)
def execFmin (t : TileId) (e : LaneErr) (s : State) : Outcome := .next (run2 t e 0x0C (fun _ => Num.fmin) s)
def execFmax (t : TileId) (e : LaneErr) (s : State) : Outcome := .next (run2 t e 0x0D (fun _ => Num.fmax) s)
def execFabs (t : TileId) (e : LaneErr) (s : State) : Outcome := .next (run1 t e 0x0E (fun _ => Num.fabs) s)
def execFneg (t : TileId) (e : LaneErr) (s : State) : Outcome := .next (run1 t e 0x0F (fun _ => Num.fneg) s)
def execFcmp (t : TileId) (e : LaneErr) (s : State) : Outcome :=
  .next (runTahrV t e 0x10 (fun f l m n => laneMask (fcmpHolds (bits f.ctl 2 0) (l.a m n) (l.b m n))) s)
def execSel (t : TileId) (e : LaneErr) (s : State) : Outcome :=
  .next (run3 t e 0x11 (fun _ a b c => if c ≠ 0 then a else b) s)
def execClamp (t : TileId) (e : LaneErr) (s : State) : Outcome :=
  .next (run3 t e 0x12 (fun _ a b c => Num.fmin (Num.fmax a b) c) s)
def execFdiv (t : TileId) (e : LaneErr) (s : State) : Outcome := .next (run2 t e 0x13 Num.fdiv s)
def execCvtfi (t : TileId) (e : LaneErr) (s : State) : Outcome := .next (run1 t e 0x14 Num.cvtfi s)
def execCvtif (t : TileId) (e : LaneErr) (s : State) : Outcome := .next (run1 t e 0x15 Num.cvtif s)

/-! ## Functions (R187) -/

def execRcp (t : TileId) (e : LaneErr) (s : State) : Outcome := .next (run1 t e 0x18 frcp s)
def execSqrt (t : TileId) (e : LaneErr) (s : State) : Outcome := .next (run1 t e 0x19 fsqrt s)
def execRsqrt (t : TileId) (e : LaneErr) (s : State) : Outcome := .next (run1 t e 0x1A frsqrt s)
def execExp2 (t : TileId) (e : LaneErr) (s : State) : Outcome := .next (run1 t e 0x1B fexp2 s)
def execLog2 (t : TileId) (e : LaneErr) (s : State) : Outcome := .next (run1 t e 0x1C flog2 s)
def execSinpi (t : TileId) (e : LaneErr) (s : State) : Outcome := .next (run1 t e 0x1D fsinpi s)
def execCospi (t : TileId) (e : LaneErr) (s : State) : Outcome := .next (run1 t e 0x1E fcospi s)
def execExpT (t : TileId) (e : LaneErr) (s : State) : Outcome := .next (run1 t e 0x20 fexp s)
def execLn (t : TileId) (e : LaneErr) (s : State) : Outcome := .next (run1 t e 0x21 fln s)
def execSigmoid (t : TileId) (e : LaneErr) (s : State) : Outcome := .next (run1 t e 0x22 fsigmoid s)
def execTanh (t : TileId) (e : LaneErr) (s : State) : Outcome := .next (run1 t e 0x23 ftanh s)
def execGelus (t : TileId) (e : LaneErr) (s : State) : Outcome := .next (run1 t e 0x24 fgelus s)
def execSilu (t : TileId) (e : LaneErr) (s : State) : Outcome := .next (run1 t e 0x25 fsilu s)

/-! ## Integers (R183, R186) -/

def sh32 (b : W32) : Nat := b.toNat % 32

def execIadd (t : TileId) (e : LaneErr) (s : State) : Outcome := .next (run2 t e 0x28 (fun _ a b => a + b) s)
def execIsub (t : TileId) (e : LaneErr) (s : State) : Outcome := .next (run2 t e 0x29 (fun _ a b => a - b) s)
def execImul (t : TileId) (e : LaneErr) (s : State) : Outcome := .next (run2 t e 0x2A (fun _ a b => a * b) s)
def execTahrAnd (t : TileId) (e : LaneErr) (s : State) : Outcome := .next (run2 t e 0x2B (fun _ a b => a &&& b) s)
def execTahrOr (t : TileId) (e : LaneErr) (s : State) : Outcome := .next (run2 t e 0x2C (fun _ a b => a ||| b) s)
def execTahrXor (t : TileId) (e : LaneErr) (s : State) : Outcome := .next (run2 t e 0x2D (fun _ a b => a ^^^ b) s)
def execTahrShl (t : TileId) (e : LaneErr) (s : State) : Outcome := .next (run2 t e 0x2E (fun _ a b => a <<< sh32 b) s)
def execTahrShr (t : TileId) (e : LaneErr) (s : State) : Outcome := .next (run2 t e 0x2F (fun _ a b => a >>> sh32 b) s)
def execTahrSar (t : TileId) (e : LaneErr) (s : State) : Outcome :=
  .next (run2 t e 0x30 (fun _ a b => a.sshiftRight (sh32 b)) s)
def execIcmp (t : TileId) (e : LaneErr) (s : State) : Outcome :=
  .next (runTahrV t e 0x31 (fun f l m n => laneMask (icmpHolds (bits f.ctl 2 0) (l.a m n) (l.b m n))) s)
def execLaneid (t : TileId) (e : LaneErr) (s : State) : Outcome :=
  .next (runTahrV t e 0x32 (fun f _ m n => BitVec.ofNat 32 (64 * m + n) + f.imm) s)

/-- SHUF: lane (b mod 64) of a (R189). -/
def execShuf (t : TileId) (e : LaneErr) (s : State) : Outcome :=
  .next (runTahrV t e 0x34 (fun _ l m n => l.a m ((l.b m n).toNat % 64)) s)

/-- RAND: the generator word with PURPOSE 2, as an integer or as an FP32 value in [0, 1) (R182, R189). -/
def randLane (seed step : Nat) (f : TahrF) (m n : Nat) : W32 :=
  let r := genWord seed 2 f.stream ((f.ebase + 64 * m + n) % 2 ^ 46) step
  if bit f.ctl 0 then enc (fp32.ofVal exactRnd (.fin false (r / 2 ^ 8) (-24))) else BitVec.ofNat 32 r

def execRand (t : TileId) (e : LaneErr) (s : State) : Outcome :=
  .next (runTahrV t e 0x35 (fun f _ m n => randLane s.gen.1 s.gen.2 f m n) s)

/-! ## Reductions (R182, R188) -/

/-- The width of a lane group. -/
def groupWidth (ctl : Nat) : Nat := match bits ctl 1 0 with | 0 => 64 | 1 => 32 | 2 => 16 | _ => 8

/-- The lanes that the group of lane `n` reduces: of member `m`, or of every member with ACROSS. -/
def groupLanes (f : TahrF) (l : Lanes) (m n : Nat) : List W32 :=
  let w := groupWidth f.ctl
  let g := n / w * w
  if tahrAcross f then (List.range f.len).flatMap (fun i => (List.range w).map (fun k => l.a i (g + k)))
  else (List.range w).map (fun k => l.a m (g + k))

/-- A group's sum, with the rounding word of its lowest lane; with ACROSS the element index counts from EBASE (R182). -/
def sumLane (sq : Bool) (f : TahrF) (l : Lanes) (m n : Nat) : W32 :=
  let w := groupWidth f.ctl
  Num.rsum sq (l.r (if tahrAcross f then 0 else m) (n / w * w)) (groupLanes f l m n)

def execRsum (t : TileId) (e : LaneErr) (s : State) : Outcome := .next (runTahrV t e 0x38 (sumLane false) s)
def execRsumsq (t : TileId) (e : LaneErr) (s : State) : Outcome := .next (runTahrV t e 0x39 (sumLane true) s)
def execRmax (t : TileId) (e : LaneErr) (s : State) : Outcome :=
  .next (runTahrV t e 0x3A (fun f l m n => rext Num.fmax (groupLanes f l m n)) s)
def execRmin (t : TileId) (e : LaneErr) (s : State) : Outcome :=
  .next (runTahrV t e 0x3B (fun f l m n => rext Num.fmin (groupLanes f l m n)) s)

/-! ## Checks (R194 to R197) -/

/-- Fields of a check entry (R194). -/
def ckLo (c : BitVec 256) : W32 := c.extractLsb' 0 32
def ckHi (c : BitVec 256) : W32 := c.extractLsb' 32 32
def ckRmsLo (c : BitVec 256) : W32 := c.extractLsb' 64 32
def ckRmsHi (c : BitVec 256) : W32 := c.extractLsb' 96 32
def ckTensor (c : BitVec 256) : Nat := (c.extractLsb' 128 32).toNat
def ckNonfiniteOk (c : BitVec 256) : Bool := c.getLsbD 172
def ckCountOnly (c : BitVec 256) : Bool := c.getLsbD 173
def ckMaxNf (c : BitVec 256) : Nat := (c.extractLsb' 176 16).toNat

/-- The lanes an operation checks, in order of member and then lane: CTL[6:0] + 1 of each member, of which a register
has 64 (R194). -/
def checkedLanes (f : TahrF) (l : Lanes) : List (Nat × Nat × W32) :=
  (List.range f.len).flatMap (fun m => (List.range (min 64 (bits f.ctl 6 0 + 1))).map (fun n => (m, n, l.a m n)))

/-- A lane fails CHKR (R195). -/
def chkrFails (c : BitVec 256) (w : W32) : Bool :=
  if isFinite w then cmpKey w < cmpKey (ckLo c) || cmpKey (ckHi c) < cmpKey w else !ckNonfiniteOk c

/-- What a failed check does (R197): DIRTY and, for the first of the entry in the step, an error report; or with MODE 1
one event record per entry per step. -/
def Tile.checkFailed (x : Tile) (o : Op) (entry : Nat) (c : BitVec 256) (detail count nf : Nat) : Tile × List Note :=
  let (due, x) := x.oncePer (.check entry)
  if ckCountOnly c then
    (x, if due then [.event 0x9021 0 o.opid (data2 (ckTensor c + entry * 2 ^ 32) (count + nf * 2 ^ 32))] else [])
  else
    ({ x with dirty := true },
      if due then [.err 0x1021 false 0 entry o.opid (data2 (ckTensor c + entry * 2 ^ 32) detail)] else [])

/-- CHKR issues (R195). -/
def Tile.doChkr (x : Tile) (o : Op) (f : TahrF) (l : Lanes) : Tile × List Note :=
  let entry := bits f.ctl 12 7
  let c := mapGet 0 x.img.checks entry
  match (checkedLanes f l).find? (fun p => chkrFails c p.2.2) with
  | none => (x, [])
  | some (m, n, w) =>
    let st := mapGet ⟨0, 0, 0⟩ x.stats entry
    x.checkFailed o entry c (m + n * 2 ^ 8 + w.toNat * 2 ^ 32) st.count st.nf

/-- Add a lane to a statistic (R196). -/
def Stat.add (st : Stat) (w : W32) : Stat :=
  match dec w with
  | .fin n m e =>
    { st with count := min (st.count + 1) (2 ^ 32 - 1), sumsq := st.sumsq + (atExp n m e (-149)).natAbs ^ 2 }
  | _ => { st with nf := min (st.nf + 1) (2 ^ 32 - 1) }

/-- The square of a bound times COUNT, in units of 2^−298; none for +infinity (R196). -/
def boundSq (b : W32) (count : Nat) : Option Nat :=
  match dec b with
  | .fin n m e => some ((atExp n m e (-149)).natAbs ^ 2 * count)
  | _ => if count = 0 then some 0 else none

/-- The final test (R196). -/
def Stat.passes (st : Stat) (c : BitVec 256) : Bool :=
  st.nf ≤ ckMaxNf c
    && (match boundSq (ckRmsLo c) st.count with | some v => v ≤ st.sumsq | none => false)
    && (match boundSq (ckRmsHi c) st.count with | some v => st.sumsq ≤ v | none => true)

/-- CHKP issues (R196). -/
def Tile.doChkp (x : Tile) (o : Op) (f : TahrF) (l : Lanes) : Tile × List Note :=
  let entry := bits f.ctl 12 7
  let c := mapGet 0 x.img.checks entry
  let st := (checkedLanes f l).foldl (fun st p => st.add p.2.2) (mapGet ⟨0, 0, 0⟩ x.stats entry)
  if bit f.ctl 13 then
    let y := { x with stats := mapPut ⟨0, 0, 0⟩ entry ⟨0, 0, 0⟩ x.stats }
    if st.passes c then (y, []) else y.checkFailed o entry c (st.count + st.nf * 2 ^ 32) st.count st.nf
  else ({ x with stats := mapPut ⟨0, 0, 0⟩ entry st x.stats }, [])

/-- A check operation issues. -/
def runCheck (t : TileId) (e : LaneErr) (opc : Nat) (g : Tile → Op → TahrF → Lanes → Tile × List Note) (s : State) : State :=
  issueHead t 4 (fun o => match o.kind with | .two w0 _ _ => bits w0.toNat 63 58 == opc | _ => false) (fun x o =>
    match o.kind with
    | .two w0 w1 _ =>
      let f := tahrF w0 w1
      let (y, ns) := x.laneNotes e o w0
      let (z, ms) := g y o f (f.lanes x.vec e s.gen.1 s.gen.2)
      (z, ns ++ ms)
    | _ => (x, [])) s

def execChkr (t : TileId) (e : LaneErr) (s : State) : Outcome := .next (runCheck t e 0x3C Tile.doChkr s)
def execChkp (t : TileId) (e : LaneErr) (s : State) : Outcome := .next (runCheck t e 0x3D Tile.doChkp s)

/-! ## Moves to and from tile memory (R190 to R192, R230, R233) -/

/-- A form M operation issues. -/
def runTahrM (t : TileId) (e : LaneErr) (opc : Nat)
    (g : Tile → Op → W64 → TahrF → Byte → (Nat → Nat → W32) → (Nat → Nat → Rnd) → Tile × List Note) (s : State) : State :=
  issueHead t 4 (fun o => match o.kind with | .two w0 _ _ => bits w0.toNat 63 58 == opc | _ => false) (fun x o =>
    match o.kind with
    | .two w0 w1 xb =>
      let f := tahrF w0 w1
      let (y, ns) := x.laneNotes e o w0
      let (z, ms) := g y o w0 f xb (fun m n => readLane x.vec e (f.vd + m) n)
        (fun m n => rndOf s.gen.1 s.gen.2 1 f.mrm f.msat f.stream (f.ebase + 64 * m + n))
      (z, ns ++ ms)
    | _ => (x, [])) s

/-- Whether a byte range holds an uncorrectable word. -/
def Tile.badAt (x : Tile) (a n : Nat) : Bool := !(badWords x.bad a n).isEmpty

/-- LD (R191): lanes from an uncorrectable word are the canonical NaN, and the words are reported on slot 3 (R233). -/
def Tile.doLd (x : Tile) (o : Op) (f : TahrF) : Tile × List Note :=
  let w := tahrW f.fmt
  let lane (m n : Nat) : W32 :=
    let a := f.addr + 64 * w * m + w * n
    if x.badAt a w then nan32
    else
      let v := ofBytes (x.readMem a w)
      match f.fmt with
      | 1 => widen bf16 v
      | 2 => widen fp16 v
      | _ => BitVec.ofNat 32 v
  ({ x with vec := f.write x.vec f.mlen lane }, x.wordErrs f.addr f.elemBytes 3 o.opid)

/-- ST (R191). -/
def Tile.doSt (x : Tile) (f : TahrF) (lane : Nat → Nat → W32) (r : Nat → Nat → Rnd) : Tile × List Note :=
  let w := tahrW f.fmt
  let put (m n : Nat) : List Byte :=
    match f.fmt with
    | 1 => toBytes 2 (narrow bf16 (r m n) (lane m n))
    | 2 => toBytes 2 (narrow fp16 (r m n) (lane m n))
    | _ => toBytes 4 (lane m n).toNat
  ((List.range f.mlen).foldl (fun x m =>
    x.writeMem (f.addr + 64 * w * m) ((List.range 64).flatMap (put m))) x, [])

/-- The bytes that element `i` of a packed block takes part of: the first, and how many (R131). -/
def elemBytes (width i : Nat) : Nat × Nat := (i * width / 8, ((i + 1) * width + 7) / 8 - i * width / 8)

/-- LDMX (R147, R192): block k of the group is the half k mod 2 of member k / 2. A lane whose element or scale stands in an
uncorrectable word is the canonical NaN (R233). -/
def Tile.doLdmx (x : Tile) (o : Op) (f : TahrF) : Tile × List Note :=
  let eb := ebOf f.fmt
  let block (k : Nat) : List W32 :=
    let a := f.addr + k * eb
    match MxElem.ofCode f.fmt with
    | some el =>
      let vs := mxDecode el false (ofBytes (x.readMem (f.saddr + k) 1)) (unpackElems el.width 32 (x.readMem a eb))
      let lost (i : Nat) : Bool := x.badAt (f.saddr + k) 1 || x.badAt (a + (elemBytes el.width i).1) (elemBytes el.width i).2
      (List.range 32).map (fun i => if lost i then nan32 else (vs[i]?).getD nan32)
    | none => List.replicate 32 nan32
  let vals := (List.range (2 * f.mlen)).map block
  ({ x with vec := f.write x.vec f.mlen (fun m n => (((vals[2 * m + n / 32]?).getD [])[n % 32]?).getD nan32) },
    x.wordErrs f.addr f.elemBytes 3 o.opid ++ x.wordErrs f.saddr f.scaleBytes 3 o.opid)

/-- STMX (R145 to R147, R192, R552): the scales are merged into their words (R230). -/
def Tile.doStmx (x : Tile) (f : TahrF) (xb : Byte) (lane : Nat → Nat → W32) (r : Nat → Nat → Rnd) : Tile × List Note :=
  match MxElem.ofCode f.fmt with
  | none => (x, [])
  | some el =>
    let eb := ebOf f.fmt
    let sel : ScaleSel := match f.sel with | 0 => .floor | 1 => .ceil | _ => .explicit xb.toNat
    ((List.range (2 * f.mlen)).foldl (fun x k =>
      let m := k / 2
      let xs := (List.range 32).map (fun i => let n := k % 2 * 32 + i; (lane m n, (r m n).word))
      let (sc, es) := mxEncode el sel ⟨(RM.ofCode f.mrm).getD .rne, false, 0⟩ xs
      (x.writeMem (f.addr + k * eb) (packElems el.width es)).writeMem (f.saddr + k) (toBytes 1 sc)) x, [])

/-- A load, after what the code of tile memory has found in its elements or scales. -/
def Tile.loadMet (x : Tile) (m : WordErr) (f : TahrF) (load : Tile → Tile × List Note) : Tile × List Note :=
  let (x, ns) := x.meet m f.addr f.elemBytes
  let (x, ms) := if f.scaleBytes = 0 then (x, []) else x.meet m f.saddr f.scaleBytes
  let (x, es) := load x
  (x, ns ++ ms ++ es)

def execLd (t : TileId) (e : LaneErr) (m : WordErr) (s : State) : Outcome :=
  .next (runTahrM t e 1 (fun x o _ f _ _ _ => x.loadMet m f (fun x => x.doLd o f)) s)
def execSt (t : TileId) (e : LaneErr) (s : State) : Outcome :=
  .next (runTahrM t e 2 (fun x _ _ f _ l r => x.doSt f l r) s)
def execLdmx (t : TileId) (e : LaneErr) (m : WordErr) (s : State) : Outcome :=
  .next (runTahrM t e 3 (fun x o _ f _ _ _ => x.loadMet m f (fun x => x.doLdmx o f)) s)
def execStmx (t : TileId) (e : LaneErr) (s : State) : Outcome :=
  .next (runTahrM t e 4 (fun x _ _ f xb l r => x.doStmx f xb l r) s)

def execTahrOpComplete (t : TileId) (s : State) : Outcome :=
  .next (finishPort t 4 (fun x o => (x.complete o, [])) s)

end Sys2Proof.Machine
end

