-- ==== Sys2Proof/Machine/Dispatch.lean ====
section
/-! DEFINITION. Every command of the table and its meaning. -/

namespace Sys2Proof.Machine

def exec (i : Instr) (s : State) : Host.Outcome State Fault Refusal :=
  match i with
  | .registerWrite path off size v => Sys2Proof.Machine.execRegisterWrite path off size v s
  | .writeLatchLoad path off v => Sys2Proof.Machine.execWriteLatchLoad path off v s
  | .upperHalfWrite path off v => Sys2Proof.Machine.execUpperHalfWrite path off v s
  | .lowerHalfRead path off => Sys2Proof.Machine.execLowerHalfRead path off s
  | .upperHalfRead path off => Sys2Proof.Machine.execUpperHalfRead path off s
  | .stepStaleRead => Sys2Proof.Machine.execStepStaleRead s
  | .homeStatusRead => Sys2Proof.Machine.execHomeStatusRead s
  | .nmErrRead stk => Sys2Proof.Machine.execNmErrRead stk s
  | .fltMeshCntRead => Sys2Proof.Machine.execFltMeshCntRead s
  | .olPortErrRead p => Sys2Proof.Machine.execOlPortErrRead p s
  | .olPortTrafficRead p => Sys2Proof.Machine.execOlPortTrafficRead p s
  | .wvFlushCntRead => Sys2Proof.Machine.execWvFlushCntRead s
  | .stepVoteTimeRead => Sys2Proof.Machine.execStepVoteTimeRead s
  | .stepDigestErrRead => Sys2Proof.Machine.execStepDigestErrRead s
  | .fltHardenRead => Sys2Proof.Machine.execFltHardenRead s
  | .fltGenDropsRead => Sys2Proof.Machine.execFltGenDropsRead s
  | .evtSuppressRead => Sys2Proof.Machine.execEvtSuppressRead s
  | .stepIntervalWrite v => Sys2Proof.Machine.execStepIntervalWrite v s
  | .buddyEnable v answer => Sys2Proof.Machine.execBuddyEnable v answer s
  | .buddyDisable v => Sys2Proof.Machine.execBuddyDisable v s
  | .stepCoordWrite v => Sys2Proof.Machine.execStepCoordWrite v s
  | .bar2Read off len reply found copies => Sys2Proof.Machine.execBar2Read off len reply found copies s
  | .bar2Write off data => Sys2Proof.Machine.execBar2Write off data s
  | .jobMemoryWriteAtHome req a data => Sys2Proof.Machine.execJobMemoryWriteAtHome req a data s
  | .copyOnWriteComplete lpn sub err buddy => Sys2Proof.Machine.execCopyOnWriteComplete lpn sub err buddy s
  | .jobMemoryReadAtHome req a len => Sys2Proof.Machine.execJobMemoryReadAtHome req a len s
  | .memoryAccessComplete req a len e bank row buddy => Sys2Proof.Machine.execMemoryAccessComplete req a len e bank row buddy s
  | .atomicExecute req a aop wide x expect err buddy => Sys2Proof.Machine.execAtomicExecute req a aop wide x expect err buddy s
  | .atomicReply t gen seq old err => Sys2Proof.Machine.execAtomicReply t gen seq old err s
  | .writeAcknowledge t gen seq err => Sys2Proof.Machine.execWriteAcknowledge t gen seq err s
  | .sweeperTouch slice us => Sys2Proof.Machine.execSweeperTouch slice us s
  | .intervalOpen => Sys2Proof.Machine.execIntervalOpen s
  | .migrateRequest v => Sys2Proof.Machine.execMigrateRequest v s
  | .migrationStart => Sys2Proof.Machine.execMigrationStart s
  | .migrationSubblockCopy err second buddy => Sys2Proof.Machine.execMigrationSubblockCopy err second buddy s
  | .patrolScrubRead stack bank row e unit buddy => Sys2Proof.Machine.execPatrolScrubRead stack bank row e unit buddy s
  | .farRequestTimeout port req a buddy => Sys2Proof.Machine.execFarRequestTimeout port req a buddy s
  | .expanderEventFetch port recs => Sys2Proof.Machine.execExpanderEventFetch port recs s
  | .cxlLinkDown port => Sys2Proof.Machine.execCxlLinkDown port s
  | .cxlLinkRetrained port => Sys2Proof.Machine.execCxlLinkRetrained port s
  | .cxlRetrainTimeout port copies => Sys2Proof.Machine.execCxlRetrainTimeout port copies s
  | .br t e => Sys2Proof.Machine.execBr t e s
  | .call t e => Sys2Proof.Machine.execCall t e s
  | .jr t e => Sys2Proof.Machine.execJr t e s
  | .loopi t e => Sys2Proof.Machine.execLoopi t e s
  | .loopr t e => Sys2Proof.Machine.execLoopr t e s
  | .lidx t e => Sys2Proof.Machine.execLidx t e s
  | .cmp t e => Sys2Proof.Machine.execCmp t e s
  | .cmpi t e => Sys2Proof.Machine.execCmpi t e s
  | .plog t e => Sys2Proof.Machine.execPlog t e s
  | .prd t e => Sys2Proof.Machine.execPrd t e s
  | .add t e => Sys2Proof.Machine.execAdd t e s
  | .sub t e => Sys2Proof.Machine.execSub t e s
  | .mul t e => Sys2Proof.Machine.execMul t e s
  | .andS t e => Sys2Proof.Machine.execAndS t e s
  | .orS t e => Sys2Proof.Machine.execOrS t e s
  | .xorS t e => Sys2Proof.Machine.execXorS t e s
  | .shl t e => Sys2Proof.Machine.execShl t e s
  | .shr t e => Sys2Proof.Machine.execShr t e s
  | .sar t e => Sys2Proof.Machine.execSar t e s
  | .addi t e => Sys2Proof.Machine.execAddi t e s
  | .andi t e => Sys2Proof.Machine.execAndi t e s
  | .ori t e => Sys2Proof.Machine.execOri t e s
  | .shli t e => Sys2Proof.Machine.execShli t e s
  | .shri t e => Sys2Proof.Machine.execShri t e s
  | .li t e => Sys2Proof.Machine.execLi t e s
  | .lik t e => Sys2Proof.Machine.execLik t e s
  | .ins t e => Sys2Proof.Machine.execIns t e s
  | .extS t e => Sys2Proof.Machine.execExtS t e s
  | .adda t e => Sys2Proof.Machine.execAdda t e s
  | .addas t e => Sys2Proof.Machine.execAddas t e s
  | .movsa t e => Sys2Proof.Machine.execMovsa t e s
  | .movas t e => Sys2Proof.Machine.execMovas t e s
  | .lds t e m => Sys2Proof.Machine.execLds t e m s
  | .sts t e => Sys2Proof.Machine.execSts t e s
  | .issueFillA t e => Sys2Proof.Machine.execIssueFillA t e s
  | .issueFillB t e => Sys2Proof.Machine.execIssueFillB t e s
  | .issueIbex t e => Sys2Proof.Machine.execIssueIbex t e s
  | .issueDrain t e => Sys2Proof.Machine.execIssueDrain t e s
  | .issueTahr t e => Sys2Proof.Machine.execIssueTahr t e s
  | .issueNet t e => Sys2Proof.Machine.execIssueNet t e s
  | .stalledEnqueue t => Sys2Proof.Machine.execStalledEnqueue t s
  | .send t e => Sys2Proof.Machine.execSend t e s
  | .recv t e => Sys2Proof.Machine.execRecv t e s
  | .release t e => Sys2Proof.Machine.execRelease t e s
  | .dispatch t e => Sys2Proof.Machine.execDispatch t e s
  | .hret t e => Sys2Proof.Machine.execHret t e s
  | .atomLoad t e => Sys2Proof.Machine.execAtomLoad t e s
  | .atomStore t e => Sys2Proof.Machine.execAtomStore t e s
  | .atomSwap t e => Sys2Proof.Machine.execAtomSwap t e s
  | .atomCas t e => Sys2Proof.Machine.execAtomCas t e s
  | .atomAdd t e => Sys2Proof.Machine.execAtomAdd t e s
  | .atomMin t e => Sys2Proof.Machine.execAtomMin t e s
  | .atomMax t e => Sys2Proof.Machine.execAtomMax t e s
  | .atomAnd t e => Sys2Proof.Machine.execAtomAnd t e s
  | .atomOr t e => Sys2Proof.Machine.execAtomOr t e s
  | .atomXor t e => Sys2Proof.Machine.execAtomXor t e s
  | .waitc t e => Sys2Proof.Machine.execWaitc t e s
  | .waitcResume t => Sys2Proof.Machine.execWaitcResume t s
  | .csub t e => Sys2Proof.Machine.execCsub t e s
  | .bar t e => Sys2Proof.Machine.execBar t e s
  | .flagset t e => Sys2Proof.Machine.execFlagset t e s
  | .flagwait t e => Sys2Proof.Machine.execFlagwait t e s
  | .flagwaitResume t => Sys2Proof.Machine.execFlagwaitResume t s
  | .fenceRelease t e => Sys2Proof.Machine.execFenceRelease t e s
  | .fenceAcquire t e => Sys2Proof.Machine.execFenceAcquire t e s
  | .fenceFull t e => Sys2Proof.Machine.execFenceFull t e s
  | .fenceComplete t => Sys2Proof.Machine.execFenceComplete t s
  | .stepend t e => Sys2Proof.Machine.execStepend t e s
  | .rdsys t e => Sys2Proof.Machine.execRdsys t e s
  | .trap t e => Sys2Proof.Machine.execTrap t e s
  | .illegalInstruction t e => Sys2Proof.Machine.execIllegalInstruction t e s
  | .fill t b m => Sys2Proof.Machine.execFill t b m s
  | .fillComplete t b => Sys2Proof.Machine.execFillComplete t b s
  | .mma t e cell par => Sys2Proof.Machine.execMma t e cell par s
  | .rawacc t e par => Sys2Proof.Machine.execRawacc t e par s
  | .clear t => Sys2Proof.Machine.execClear t s
  | .ibexOpComplete t => Sys2Proof.Machine.execIbexOpComplete t s
  | .drainToTileMemory t e => Sys2Proof.Machine.execDrainToTileMemory t e s
  | .drainToVector t e => Sys2Proof.Machine.execDrainToVector t e s
  | .drainComplete t => Sys2Proof.Machine.execDrainComplete t s
  | .dupRecordArrival t rec => Sys2Proof.Machine.execDupRecordArrival t rec s
  | .dupCompareTimeout t => Sys2Proof.Machine.execDupCompareTimeout t s
  | .fadd t e => Sys2Proof.Machine.execFadd t e s
  | .fsub t e => Sys2Proof.Machine.execFsub t e s
  | .fmul t e => Sys2Proof.Machine.execFmul t e s
  | .fma t e => Sys2Proof.Machine.execFma t e s
  | .fmin t e => Sys2Proof.Machine.execFmin t e s
  | .fmax t e => Sys2Proof.Machine.execFmax t e s
  | .fabs t e => Sys2Proof.Machine.execFabs t e s
  | .fneg t e => Sys2Proof.Machine.execFneg t e s
  | .fcmp t e => Sys2Proof.Machine.execFcmp t e s
  | .sel t e => Sys2Proof.Machine.execSel t e s
  | .clamp t e => Sys2Proof.Machine.execClamp t e s
  | .fdiv t e => Sys2Proof.Machine.execFdiv t e s
  | .cvtfi t e => Sys2Proof.Machine.execCvtfi t e s
  | .cvtif t e => Sys2Proof.Machine.execCvtif t e s
  | .rcp t e => Sys2Proof.Machine.execRcp t e s
  | .sqrt t e => Sys2Proof.Machine.execSqrt t e s
  | .rsqrt t e => Sys2Proof.Machine.execRsqrt t e s
  | .exp2 t e => Sys2Proof.Machine.execExp2 t e s
  | .log2 t e => Sys2Proof.Machine.execLog2 t e s
  | .sinpi t e => Sys2Proof.Machine.execSinpi t e s
  | .cospi t e => Sys2Proof.Machine.execCospi t e s
  | .expT t e => Sys2Proof.Machine.execExpT t e s
  | .ln t e => Sys2Proof.Machine.execLn t e s
  | .sigmoid t e => Sys2Proof.Machine.execSigmoid t e s
  | .tanh t e => Sys2Proof.Machine.execTanh t e s
  | .gelus t e => Sys2Proof.Machine.execGelus t e s
  | .silu t e => Sys2Proof.Machine.execSilu t e s
  | .iadd t e => Sys2Proof.Machine.execIadd t e s
  | .isub t e => Sys2Proof.Machine.execIsub t e s
  | .imul t e => Sys2Proof.Machine.execImul t e s
  | .tahrAnd t e => Sys2Proof.Machine.execTahrAnd t e s
  | .tahrOr t e => Sys2Proof.Machine.execTahrOr t e s
  | .tahrXor t e => Sys2Proof.Machine.execTahrXor t e s
  | .tahrShl t e => Sys2Proof.Machine.execTahrShl t e s
  | .tahrShr t e => Sys2Proof.Machine.execTahrShr t e s
  | .tahrSar t e => Sys2Proof.Machine.execTahrSar t e s
  | .icmp t e => Sys2Proof.Machine.execIcmp t e s
  | .laneid t e => Sys2Proof.Machine.execLaneid t e s
  | .shuf t e => Sys2Proof.Machine.execShuf t e s
  | .rand t e => Sys2Proof.Machine.execRand t e s
  | .rsum t e => Sys2Proof.Machine.execRsum t e s
  | .rsumsq t e => Sys2Proof.Machine.execRsumsq t e s
  | .rmax t e => Sys2Proof.Machine.execRmax t e s
  | .rmin t e => Sys2Proof.Machine.execRmin t e s
  | .chkr t e => Sys2Proof.Machine.execChkr t e s
  | .chkp t e => Sys2Proof.Machine.execChkp t e s
  | .ld t e m => Sys2Proof.Machine.execLd t e m s
  | .st t e => Sys2Proof.Machine.execSt t e s
  | .ldmx t e m => Sys2Proof.Machine.execLdmx t e m s
  | .stmx t e => Sys2Proof.Machine.execStmx t e s
  | .tahrOpComplete t => Sys2Proof.Machine.execTahrOpComplete t s
  | .moveCommonsToTile t => Sys2Proof.Machine.execMoveCommonsToTile t s
  | .moveTileToCommons t m => Sys2Proof.Machine.execMoveTileToCommons t m s
  | .moveJobToTile t => Sys2Proof.Machine.execMoveJobToTile t s
  | .moveTileToJob t m => Sys2Proof.Machine.execMoveTileToJob t m s
  | .moveRemoteWrite t m => Sys2Proof.Machine.execMoveRemoteWrite t m s
  | .rrel t => Sys2Proof.Machine.execRrel t s
  | .atomicIssue t => Sys2Proof.Machine.execAtomicIssue t s
  | .netOpComplete t gen seq data bad err => Sys2Proof.Machine.execNetOpComplete t gen seq data bad err s
  | .remoteWriteArrival t src gen seq a data ctr bad => Sys2Proof.Machine.execRemoteWriteArrival t src gen seq a data ctr bad s
  | .gatherWrite t src gen seq a data ctr bad => Sys2Proof.Machine.execGatherWrite t src gen seq a data ctr bad s
  | .gatherFlush t m => Sys2Proof.Machine.execGatherFlush t m s
  | .commonsSliceAccess slice e => Sys2Proof.Machine.execCommonsSliceAccess slice e s
  | .stepStartMark t => Sys2Proof.Machine.execStepStartMark t s
  | .endOfStepReport t => Sys2Proof.Machine.execEndOfStepReport t s
  | .tileRollback t => Sys2Proof.Machine.execTileRollback t s
  | .tileRollbackDone t => Sys2Proof.Machine.execTileRollbackDone t s
  | .tilCtrlClear t freeze => Sys2Proof.Machine.execTilCtrlClear t freeze s
  | .tilCtrlFreeze t freeze => Sys2Proof.Machine.execTilCtrlFreeze t freeze s
  | .bulkBlockArrival b => Sys2Proof.Machine.execBulkBlockArrival b s
  | .bulkAckArrival b => Sys2Proof.Machine.execBulkAckArrival b s
  | .bulkNakArrival b => Sys2Proof.Machine.execBulkNakArrival b s
  | .resendTimeout b => Sys2Proof.Machine.execResendTimeout b s
  | .controlPacketArrival at_ b => Sys2Proof.Machine.execControlPacketArrival at_ b s
  | .syncMessageHop src dst cls msg parity => Sys2Proof.Machine.execSyncMessageHop src dst cls msg parity s
  | .barrierArrival t b => Sys2Proof.Machine.execBarrierArrival t b s
  | .barDeparture t b => Sys2Proof.Machine.execBarDeparture t b s
  | .flagUpdateAtRoot ups => Sys2Proof.Machine.execFlagUpdateAtRoot ups s
  | .flagCopyUpdate t f v era => Sys2Proof.Machine.execFlagCopyUpdate t f v era s
  | .deviceVoteResult => Sys2Proof.Machine.execDeviceVoteResult s
  | .endCast => Sys2Proof.Machine.execEndCast s
  | .sendIssue t m => Sys2Proof.Machine.execSendIssue t m s
  | .messagePlacement t ep ms => Sys2Proof.Machine.execMessagePlacement t ep ms s
  | .messageBlockArrival t ep who gen epoch seq at_ data bad => Sys2Proof.Machine.execMessageBlockArrival t ep who gen epoch seq at_ data bad s
  | .recvResume t => Sys2Proof.Machine.execRecvResume t s
  | .releaseIssue t => Sys2Proof.Machine.execReleaseIssue t s
  | .creditReturnArrival t ep units epoch => Sys2Proof.Machine.execCreditReturnArrival t ep units epoch s
  | .stallDetect t => Sys2Proof.Machine.execStallDetect t s
  | .probeArrival t p => Sys2Proof.Machine.execProbeArrival t p s
  | .loadWeave q cid addr len clear => Sys2Proof.Machine.execLoadWeave q cid addr len clear s
  | .weavePass1 bytes => Sys2Proof.Machine.execWeavePass1 bytes s
  | .weavePass2 bytes => Sys2Proof.Machine.execWeavePass2 bytes s
  | .weavePortionArrival bytes asks answers => Sys2Proof.Machine.execWeavePortionArrival bytes asks answers s
  | .weaveVote votes => Sys2Proof.Machine.execWeaveVote votes s
  | .weaveApply us => Sys2Proof.Machine.execWeaveApply us s
  | .partialApply us => Sys2Proof.Machine.execPartialApply us s
  | .drainLimitExpired => Sys2Proof.Machine.execDrainLimitExpired s
  | .applyAbandon => Sys2Proof.Machine.execApplyAbandon s
  | .queueDepthSample t => Sys2Proof.Machine.execQueueDepthSample t s
  | .qsClear v => Sys2Proof.Machine.execQsClear v s
  | .qsSnapshot v => Sys2Proof.Machine.execQsSnapshot v s
  | .qsSnapshotDone => Sys2Proof.Machine.execQsSnapshotDone s
  | .linkBlockReceive p b => Sys2Proof.Machine.execLinkBlockReceive p b s
  | .ackTimer p => Sys2Proof.Machine.execAckTimer p s
  | .ackReceived p hdr => Sys2Proof.Machine.execAckReceived p hdr s
  | .nakReceived p hdr => Sys2Proof.Machine.execNakReceived p hdr s
  | .replayTimeout p => Sys2Proof.Machine.execReplayTimeout p s
  | .linkCreditReceived p hdr => Sys2Proof.Machine.execLinkCreditReceived p hdr s
  | .lockLoss p => Sys2Proof.Machine.execLockLoss p s
  | .packetRoute src => Sys2Proof.Machine.execPacketRoute src s
  | .packetDeliver pkt now => Sys2Proof.Machine.execPacketDeliver pkt now s
  | .cneReceived dst now => Sys2Proof.Machine.execCneReceived dst now s
  | .rateRecoveryTimer dst => Sys2Proof.Machine.execRateRecoveryTimer dst s
  | .fabricErrorResponse t gen seq head => Sys2Proof.Machine.execFabricErrorResponse t gen seq head s
  | .requestTimeout t gen seq => Sys2Proof.Machine.execRequestTimeout t gen seq s
  | .trainingStateAdvance p lane words errs => Sys2Proof.Machine.execTrainingStateAdvance p lane words errs s
  | .detectTimeout p => Sys2Proof.Machine.execDetectTimeout p s
  | .trainingTimeout p => Sys2Proof.Machine.execTrainingTimeout p s
  | .identTimer p => Sys2Proof.Machine.execIdentTimer p s
  | .identReceived p content => Sys2Proof.Machine.execIdentReceived p content s
  | .creditInitReceived p units => Sys2Proof.Machine.execCreditInitReceived p units s
  | .lsaFlood => Sys2Proof.Machine.execLsaFlood s
  | .lsaReceived p l => Sys2Proof.Machine.execLsaReceived p l s
  | .routeCompute expired => Sys2Proof.Machine.execRouteCompute expired s
  | .routeInstall => Sys2Proof.Machine.execRouteInstall s
  | .portLeavesActive p now => Sys2Proof.Machine.execPortLeavesActive p now s
  | .reroute v => Sys2Proof.Machine.execReroute v s
  | .retrainAll v => Sys2Proof.Machine.execRetrainAll v s
  | .cstart t => Sys2Proof.Machine.execCstart t s
  | .collectivePayloadReceive plan run level m data fault => Sys2Proof.Machine.execCollectivePayloadReceive plan run level m data fault s
  | .collectiveDigestReceive plan run level m digest => Sys2Proof.Machine.execCollectiveDigestReceive plan run level m digest s
  | .digestTimeout plan run level m => Sys2Proof.Machine.execDigestTimeout plan run level m s
  | .collectiveResultWritten plan => Sys2Proof.Machine.execCollectiveResultWritten plan s
  | .resultDigestReceive plan run m digest => Sys2Proof.Machine.execResultDigestReceive plan run m digest s
  | .startMsg step => Sys2Proof.Machine.execStart step s
  | .endMsg o step dirty => Sys2Proof.Machine.execEndMsg o step dirty s
  | .prepareBoundary step => Sys2Proof.Machine.execPrepareBoundary step s
  | .prepareCommit step => Sys2Proof.Machine.execPrepareCommit step s
  | .voteSend => Sys2Proof.Machine.execVoteSend s
  | .vote o step code => Sys2Proof.Machine.execVote o step code s
  | .decideAtStandby step => Sys2Proof.Machine.execDecideAtStandby step s
  | .standbyAck step => Sys2Proof.Machine.execStandbyAck step s
  | .decideCommit step mirror => Sys2Proof.Machine.execDecideCommit step mirror s
  | .decideAbort step => Sys2Proof.Machine.execDecideAbort step s
  | .decideRevert step => Sys2Proof.Machine.execDecideRevert step s
  | .ack o step code t100ns => Sys2Proof.Machine.execAck o step code t100ns s
  | .doneCommitted step start => Sys2Proof.Machine.execDoneCommitted step start s
  | .doneDurable step start => Sys2Proof.Machine.execDoneDurable step start s
  | .doneHeld topology => Sys2Proof.Machine.execDoneHeld topology s
  | .voteTimeout => Sys2Proof.Machine.execVoteTimeout s
  | .standbyTakeover replies => Sys2Proof.Machine.execStandbyTakeover replies s
  | .queryReply o => Sys2Proof.Machine.execQueryReply o s
  | .mirrorStream => Sys2Proof.Machine.execMirrorStream s
  | .mirrorData o serial lpn sub chunk data => Sys2Proof.Machine.execMirrorData o serial lpn sub chunk data s
  | .mirrorEndOfStream o count portion => Sys2Proof.Machine.execMirrorEndOfStream o count portion s
  | .mirrorAccepted => Sys2Proof.Machine.execMirrorAccepted s
  | .mirrorRefused => Sys2Proof.Machine.execMirrorRefused s
  | .mirrorRelease o => Sys2Proof.Machine.execMirrorRelease o s
  | .runSteps lead q cid first count coordsAgree => Sys2Proof.Machine.execRunSteps lead q cid first count coordsAgree s
  | .commitCtrlCommit lead q cid => Sys2Proof.Machine.execCommitCtrlCommit lead q cid s
  | .commitCtrlStop lead q cid => Sys2Proof.Machine.execCommitCtrlStop lead q cid s
  | .commitCtrlRollback lead q cid => Sys2Proof.Machine.execCommitCtrlRollback lead q cid s
  | .copyHostToJob q cid a len data => Sys2Proof.Machine.execCopyHostToJob q cid a len data s
  | .copyJobToHost q cid host a len remote found copies => Sys2Proof.Machine.execCopyJobToHost q cid host a len remote found copies s
  | .readEvents q cid buf from_ bytes pos remote => Sys2Proof.Machine.execReadEvents q cid buf from_ bytes pos remote s
  | .setTolerance q cid us mask => Sys2Proof.Machine.execSetTolerance q cid us mask s
  | .doorbellWrite q v => Sys2Proof.Machine.execDoorbellWrite q v s
  | .sqEntryFetch entry => Sys2Proof.Machine.execSqEntryFetch entry s
  | .cqHeadWrite q v => Sys2Proof.Machine.execCqHeadWrite q v s
  | .queueDisable q => Sys2Proof.Machine.execQueueDisable q s
  | .memberWindowAccess off size wr reply => Sys2Proof.Machine.execMemberWindowAccess off size wr reply s
  | .hostLinkTrained rate width flit => Sys2Proof.Machine.execHostLinkTrained rate width flit s
  | .perstN low => Sys2Proof.Machine.execPerstN low s
  | .hotReset => Sys2Proof.Machine.execHotReset s
  | .flr => Sys2Proof.Machine.execFlr s
  | .getInfo path => Sys2Proof.Machine.execGetInfo path s
  | .topoWrite path flashOk => Sys2Proof.Machine.execTopoWrite path flashOk s
  | .topoRead path => Sys2Proof.Machine.execTopoRead path s
  | .keyWrite path flashOk => Sys2Proof.Machine.execKeyWrite path flashOk s
  | .keyRevoke path flashOk => Sys2Proof.Machine.execKeyRevoke path flashOk s
  | .keyRead path => Sys2Proof.Machine.execKeyRead path s
  | .mailboxCommandEnd => Sys2Proof.Machine.execMailboxCommandEnd s
  | .smbusReadId => Sys2Proof.Machine.execSmbusReadId s
  | .smbusReadStatus => Sys2Proof.Machine.execSmbusReadStatus s
  | .smbusReadTemperature => Sys2Proof.Machine.execSmbusReadTemperature s
  | .smbusReadPower => Sys2Proof.Machine.execSmbusReadPower s
  | .smbusBar0Read off pecOk => Sys2Proof.Machine.execSmbusBar0Read off pecOk s
  | .smbusMbxWrite off v pecOk => Sys2Proof.Machine.execSmbusMbxWrite off v pecOk s
  | .smbusContinue v pecOk => Sys2Proof.Machine.execSmbusContinue v pecOk s
  | .smbusTimeout => Sys2Proof.Machine.execSmbusTimeout s
  | .errorReport r => Sys2Proof.Machine.execErrorReport r s
  | .fltReportPop v => Sys2Proof.Machine.execFltReportPop v s
  | .fltReportStatusClear v => Sys2Proof.Machine.execFltReportStatusClear v s
  | .hangWindowExpired w => Sys2Proof.Machine.execHangWindowExpired w s
  | .hardenedScrub r c0 c1 c2 p0 p1 p2 us => Sys2Proof.Machine.execHardenedScrub r c0 c1 c2 p0 p1 p2 us s
  | .faultNotice n => Sys2Proof.Machine.execFaultNotice n s
  | .stot n => Sys2Proof.Machine.execStot n s
  | .recovered n => Sys2Proof.Machine.execRecovered n s
  | .outNotice n => Sys2Proof.Machine.execOutNotice n s
  | .readmitted n => Sys2Proof.Machine.execReadmitted n s
  | .domainResetBegin d => Sys2Proof.Machine.execDomainResetBegin d s
  | .domainResetEnd d => Sys2Proof.Machine.execDomainResetEnd d s
  | .readmitDevice pos portion copies committed durable coord => Sys2Proof.Machine.execReadmitDevice pos portion copies committed durable coord s
  | .readmitPort p => Sys2Proof.Machine.execReadmitPort p s
  | .readmitTile px py => Sys2Proof.Machine.execReadmitTile px py s
  | .por cfg => Sys2Proof.Machine.execPor cfg s
  | .bo cfg => Sys2Proof.Machine.execBo cfg s
  | .resetN low cfg now => Sys2Proof.Machine.execResetN low cfg now s
  | .wdt now => Sys2Proof.Machine.execWdt now s
  | .kick path => Sys2Proof.Machine.execKick path s
  | .rstSwTile x y => Sys2Proof.Machine.execRstSwTile x y s
  | .rstSwCluster x y => Sys2Proof.Machine.execRstSwCluster x y s
  | .rstSwHalf x y => Sys2Proof.Machine.execRstSwHalf x y s
  | .rstSwDevice => Sys2Proof.Machine.execRstSwDevice s
  | .rstBlkSmb => Sys2Proof.Machine.execRstBlkSmb s
  | .rstBlkHq => Sys2Proof.Machine.execRstBlkHq s
  | .rstBlkCxl ports => Sys2Proof.Machine.execRstBlkCxl ports s
  | .rstBlkOl ports => Sys2Proof.Machine.execRstBlkOl ports s
  | .dbg hold now => Sys2Proof.Machine.execDbg hold now s
  | .ckf pll idx now => Sys2Proof.Machine.execCkf pll idx now s
  | .refclkSysRestored => Sys2Proof.Machine.execRefclkSysRestored s
  | .lku sequencer now => Sys2Proof.Machine.execLku sequencer now s
  | .stage0 us f => Sys2Proof.Machine.execStage0 us f s
  | .stage1 us f => Sys2Proof.Machine.execStage1 us f s
  | .stage2 us f => Sys2Proof.Machine.execStage2 us f s
  | .stage3 us f => Sys2Proof.Machine.execStage3 us f s
  | .stage4 us f => Sys2Proof.Machine.execStage4 us f s
  | .stage5 us f => Sys2Proof.Machine.execStage5 us f s
  | .stage6 us f => Sys2Proof.Machine.execStage6 us f s
  | .stage7 us f => Sys2Proof.Machine.execStage7 us f s
  | .stage8 us f => Sys2Proof.Machine.execStage8 us f s
  | .stage9 us f => Sys2Proof.Machine.execStage9 us f s
  | .tileSelfTestReport t sig => Sys2Proof.Machine.execTileSelfTestReport t sig s
  | .selfTestReportTimeout t => Sys2Proof.Machine.execSelfTestReportTimeout t s
  | .continueStage path => Sys2Proof.Machine.execContinueStage path s
  | .testSlice t kind ok => Sys2Proof.Machine.execTestSlice t kind ok s
  | .tileMemoryScrub t row e => Sys2Proof.Machine.execTileMemoryScrub t row e s
  | .commonsScrub slice row e => Sys2Proof.Machine.execCommonsScrub slice row e s
  | .sensorSample temps stackTemps mv now => Sys2Proof.Machine.execSensorSample temps stackTemps mv now s
  | .pronkBegin now => Sys2Proof.Machine.execPronkBegin now s
  | .pronkBudgetEnd now => Sys2Proof.Machine.execPronkBudgetEnd now s
  | .currentTrip now => Sys2Proof.Machine.execCurrentTrip now s
  | .powerMeasure watts => Sys2Proof.Machine.execPowerMeasure watts s
  | .lockoutClear v => Sys2Proof.Machine.execLockoutClear v s
  | .pwrModeWrite v now => Sys2Proof.Machine.execPwrModeWrite v now s
  | .pwrTolWrite v => Sys2Proof.Machine.execPwrTolWrite v s
  | .pwrVoteWrite d v => Sys2Proof.Machine.execPwrVoteWrite d v s
  | .quiesce d => Sys2Proof.Machine.execQuiesce d s
  | .stopOscillators d => Sys2Proof.Machine.execStopOscillators d s
  | .retainMemory d => Sys2Proof.Machine.execRetainMemory d s
  | .regulatorsOff d => Sys2Proof.Machine.execRegulatorsOff d s
  | .wakeEvent d client => Sys2Proof.Machine.execWakeEvent d client s
  | .regulatorReady d => Sys2Proof.Machine.execRegulatorReady d s
  | .oscillatorReady d => Sys2Proof.Machine.execOscillatorReady d s
  | .memoryReady d => Sys2Proof.Machine.execMemoryReady d s
  | .logicReady d => Sys2Proof.Machine.execLogicReady d s
  | .browseSample snap => Sys2Proof.Machine.execBrowseSample snap s
  | .wakeN low => Sys2Proof.Machine.execWakeN low s
  | .recordWrite r => Sys2Proof.Machine.execRecordWrite r s
  | .suppressSecondEnd => Sys2Proof.Machine.execSuppressSecondEnd s
  | .flushStart now => Sys2Proof.Machine.execFlushStart now s
  | .evtFlushRequest v => Sys2Proof.Machine.execEvtFlushRequest v s
  | .flushComplete ok now => Sys2Proof.Machine.execFlushComplete ok now s
  | .eraseComplete => Sys2Proof.Machine.execEraseComplete s
  | .pwrfailN => Sys2Proof.Machine.execPwrfailN s
  | .pwrfailNRelease => Sys2Proof.Machine.execPwrfailNRelease s
  | .optimeCheckpoint => Sys2Proof.Machine.execOptimeCheckpoint s
  | .evtReadSelWrite v => Sys2Proof.Machine.execEvtReadSelWrite v s
  | .refclkPcieLoss => Sys2Proof.Machine.execRefclkPcieLoss s
  | .refclkCxlLoss => Sys2Proof.Machine.execRefclkCxlLoss s
  | .linkPllLoss p => Sys2Proof.Machine.execLinkPllLoss p s
  | .xtalAonLoss => Sys2Proof.Machine.execXtalAonLoss s
  | .refclkPcieRestored => Sys2Proof.Machine.execRefclkPcieRestored s
  | .routerInputCheck px py input item => Sys2Proof.Machine.execRouterInputCheck px py input item s
  | .smbusArp addr => Sys2Proof.Machine.execSmbusArp addr s
  | .bar0MisalignedRead off size => Sys2Proof.Machine.execBar0MisalignedRead off size s
  | .tapInstruction inst => Sys2Proof.Machine.execTapInstruction inst s
  | .trstN low => Sys2Proof.Machine.execTrstN low s
  | .debuggerHalt a => Sys2Proof.Machine.execDebuggerHalt a s
  | .testEngineAccess a => Sys2Proof.Machine.execTestEngineAccess a s
  | .lifeCycleTransition rma sigR sigS => Sys2Proof.Machine.execLifeCycleTransition rma sigR sigS s
  | .recoveryFirmwareWrite path fw => Sys2Proof.Machine.execRecoveryFirmwareWrite path fw s

end Sys2Proof.Machine
end

