-- ==== Sys2Proof/Machine/Tick.lean ====
section
/-! DEFINITION. What happens at a tick, whatever is commanded: requests that the device held while it slept are served, the queues of the
meshes and of the fabric ports move on, and a step whose START waits begins when it may. -/

namespace Sys2Proof.Machine

/-- A held request takes effect. -/
def State.serve (s : State) (r : HeldReq) : State :=
  match r with
  | .read off size => s.busRead .pcie off size
  | .write off size v => s.busWrite .pcie off size v
  | .window off size wr reply => stateAfter s (execMemberWindowAccess off size wr reply s)
  | .bar2Read off len reply found copies => stateAfter s (execBar2Read off len reply found copies s)
  | .bar2Write off data => stateAfter s (execBar2Write off data s)
  | .packet pkt now => stateAfter s (execPacketDeliver pkt now s)

/-- The device has woken: held requests proceed, in the order of their arrival, and ACCESS clears (R498, R504). -/
def State.serveHeldReqs (s : State) : State :=
  if s.heldReqs.isEmpty || s.deviceAsleep then s
  else
    let is := s.heldReqs
    is.foldl State.serve { s with heldReqs := [], access := s.access.filter (fun d => d != 158) }

/-- One tick: held requests (R504), a cycle of the meshes (R253, R254, R259), a codeword of every port (R340, R352), and a START that waits
(R389). -/
def State.tick (s : State) : State := s.serveHeldReqs.meshCycle.fabricCycle.startWaiting

end Sys2Proof.Machine
end

