-- ==== Sys2Proof/WellFormed.lean ====
section
/-! DEFINITION. Which commands name units that the device has (R28, R427, R497). Operand types keep every other operand in
range; a command that is not well formed leaves the state as it is (log 33). -/

namespace Sys2Proof

/-- A physical column, 0 to 67 (R28). -/
def columnExists (px : BitVec 7) : Bool := decide (px.toNat < Config.physCols)

/-- A power domain, 0 to 158 (R497). -/
def domainExists (d : Byte) : Bool := decide (d.toNat ≤ 158)

/-- A hardened register of R427 whose column, where it has one, exists. -/
def HardReg.present : HardReg → Bool
  | .mapCol c => columnExists c
  | .router px _ => columnExists px
  | _ => true

/-- What the test engine reaches exists (R493). -/
def TestAccess.present : TestAccess → Bool
  | .march px _ => columnExists px
  | .column c _ => columnExists c
  | _ => true

/-- The units that the command names exist. -/
def Instr.wf : Instr → Bool
  | .hardenedScrub r _ _ _ _ _ _ _ => r.present
  | .routerInputCheck px _ _ _ => columnExists px
  | .testEngineAccess a => a.present
  | .readmitTile px _ => columnExists px
  | .quiesce d => domainExists d
  | .stopOscillators d => domainExists d
  | .retainMemory d => domainExists d
  | .regulatorsOff d => domainExists d
  | .wakeEvent d _ => domainExists d
  | .regulatorReady d => domainExists d
  | .oscillatorReady d => domainExists d
  | .memoryReady d => domainExists d
  | .logicReady d => domainExists d
  | .pwrVoteWrite d _ => domainExists d
  | _ => true

end Sys2Proof
end

