-- ==== Sys2Proof/Safety.lean ====
section
/-! DEFINITION. What counts as a safe run, and the terms in which the statements speak: the invariant of the state, what a
command leaves alone, and when an instruction of a tile's sequencer is ready to start. -/

namespace Sys2Proof.Machine

/-! ## Invariant -/

/-- Keys strictly rising: the form of every sparse map. -/
def Rising {V : Type} (m : SMap V) : Prop := m.Pairwise (fun a b => a.1 < b.1)

/-- Memory is in its canonical form, and so are the Commons and the register fields. -/
structure State.Inv (s : State) : Prop where
  mem : Memory.wf s.mem = true
  commons : Memory.wf s.commons = true
  regs : Rising s.regs

/-- A run is safe while every command waiting names units that the device has: each acts on a unit that exists. -/
def State.safe (s : State) : Prop := ∀ c ∈ s.pending, c.wf = true

/-! ## Time order of what leaves the device -/

/-- What has been sent stays sent, and free values are drawn in order. -/
structure State.Follows (s t : State) : Prop where
  out : s.out <+: t.out
  free : s.free ≤ t.free

/-! ## Frames -/

/-- Only this tile, the recorder, its drop count, the outputs and the free values drawn may differ: what a command of a tile's
sequencer or engines changes. -/
structure State.TileFrame (t : TileId) (s s' : State) : Prop where
  rest : s' = { s with tiles := s'.tiles, out := s'.out, recorder := s'.recorder, regs := s'.regs, free := s'.free }
  others : ∀ u : TileId, u ≠ t → s'.tile u = s.tile u
  fields : ∀ f : Fld, f.key ≠ F.EVT_SUPPRESS.COUNT.key → s'.fget f = s.fget f

/-! ## Muntjac -/

/-- The context of tile `t` stands at the word `w`, and none of the registers named is pending (R199, R202). -/
structure Starts (s : State) (t : TileId) (w : W32) (regs : List Nat) : Prop where
  running : (s.tile t).phase = phRunning
  going : (s.tile t).core.stopped = false
  free : (s.tile t).core.wait = .none
  word : (s.tile t).word = w
  ready : (s.tile t).core.isPending regs = false

/-- The guard of `w` is true: p(PG) XOR PN = 1 (R202). -/
def GuardTrue (x : Tile) (w : W32) : Prop := predRead x.core.preds (wGuard w).2 ≠ (wGuard w).1

/-- An engine's operation `o` stands at the head of port `p` of tile `t` and meets the issue rule (R113). -/
def Issues (s : State) (t : TileId) (p : Nat) (o : Op) : Prop := (s.tile t).issuable p = some o

end Sys2Proof.Machine
end

