-- ==== Sys2Proof/Certificates/Slice0/Obligations.lean ====
section
/-! DEFINITION. The statements for the provers. A result statement says which next state a command answers, so it is the command's
completion statement too; what its next state does not name is unchanged. -/

open Sys2Proof Sys2Proof.Machine

/-! ## The queue, and the whole machine -/

/-- A step takes the command at the front of the queue and answers what `exec` gives for it and the queue's rest. -/
def Obligations.StepRunsFrontCommand : Prop :=
  ∀ (c : Instr) (rest : List Instr) (s : State), s.pending = c :: rest → step s = exec c { s with pending := rest }

/-- Nothing waits in a port: no link control is due, and no packet or block is to go. -/
structure Quiet (x : Port) : Prop where
  nak : x.nakDue = none
  credit : x.credDue = []
  ack : x.ackDue = false
  sent : x.tx = []
  held : x.hold = none
  own : x.inj = []
  inputs : x.inq = []

/-- With no command waiting one tick passes, and the block idles where no queue of the meshes or of a port and no START holds anything (log
entry 1, the model's choice). -/
def Obligations.EmptyQueueIdles : Prop := ∀ s : State, s.pending = [] →
  step s = .next s.tick
  ∧ (s.mesh.outs = [] → s.mesh.seam = [] → s.mesh.syncSeam = [] → (∀ p ∈ s.ports, Quiet p.2) → s.startWait = none → s.heldReqs = [] → step s = .next s)

/-- No command of the table stops: each, with any operands and in any state, answers a next state. -/
def Obligations.EveryCommandAnswersNextState : Prop := ∀ (i : Instr) (s : State), ∃ t, exec i s = .next t

/-- A command that names a unit the device does not have changes nothing, or, as a write of FLT_READMIT, is refused and logged (R8). -/
def Obligations.AbsentUnitsChangeNothing : Prop :=
  ∀ (i : Instr) (s : State), i.wf = false → exec i s = .next s ∨ ∃ v, exec i s = .next (s.refuseWrite 0x70028 v)

/-- Every step keeps the invariant: memory and the Commons canonical, register fields listed in rising order. -/
def Obligations.EveryStepKeepsInvariant : Prop := ∀ s t : State, s.Inv → step s = .next t → t.Inv

/-- The invariant holds after reset. -/
def Obligations.InvariantHoldsAtReset : Prop := State.reset.Inv

/-- No command touches the queue, takes back an output, or reuses a free value. -/
def Obligations.EveryCommandKeepsQueueAndOutputs : Prop :=
  ∀ (i : Instr) (s t : State), exec i s = .next t → t.pending = s.pending ∧ s.Follows t

/-! ## Muntjac: scalar arithmetic (R204, R212, R213) -/

/-- The instruction that `c` stands for, ready at tile `t` with the registers of `regs` and its guard true, does `act`. -/
def Completes (c : TileId → CoreErr → Instr) (is : W32 → Prop) (regs : W32 → List Nat) (act : Tile → W32 → Tile) : Prop :=
  ∀ (s : State) (t : TileId) (w : W32), Starts s t w (regs w) → GuardTrue (s.tile t) w → is w →
    exec (c t .none) s = .next (s.putTile t (act (s.tile t) w).finish)

/-- OPC 0x10 with the code `fn` writes f(sA, sB) into sD. -/
def AluWrites (c : TileId → CoreErr → Instr) (fn : Nat) (f : W64 → W64 → W64) : Prop :=
  Completes c (fun w => wOpc w = 0x10 ∧ wField w 3 0 = fn) (fun w => [wA w, wB w, wD w])
    (fun x w => x.setS (wD w) (f (x.core.s (wA w)) (x.core.s (wB w))))

/-- R212: the nine operations of OPC 0x10. -/
def ScalarOperationsWriteTheirResult : Prop :=
  AluWrites .add 0 (fun a b => a + b) ∧ AluWrites .sub 1 (fun a b => a - b) ∧ AluWrites .mul 2 (fun a b => a * b)
  ∧ AluWrites .andS 3 (fun a b => a &&& b) ∧ AluWrites .orS 4 (fun a b => a ||| b) ∧ AluWrites .xorS 5 (fun a b => a ^^^ b)
  ∧ AluWrites .shl 6 (fun a b => a <<< (b.toNat % 64)) ∧ AluWrites .shr 7 (fun a b => a >>> (b.toNat % 64))
  ∧ AluWrites .sar 8 (fun a b => a.sshiftRight (b.toNat % 64))

/-- An immediate instruction of the code `opc` writes f(sA, word) into sD. -/
def ImmWrites (c : TileId → CoreErr → Instr) (opc : Nat) (f : W64 → W32 → W64) : Prop :=
  Completes c (fun w => wOpc w = opc) (fun w => [wA w, wD w]) (fun x w => x.setS (wD w) (f (x.core.s (wA w)) w))

/-- R204: the immediate operations. -/
def ImmediateOperationsWriteTheirResult : Prop :=
  ImmWrites .addi 0x11 (fun a w => a + wImm12 w) ∧ ImmWrites .andi 0x12 (fun a w => a &&& wImm12 w)
  ∧ ImmWrites .ori 0x13 (fun a w => a ||| wImm12 w) ∧ ImmWrites .shli 0x14 (fun a w => a <<< wField w 5 0)
  ∧ ImmWrites .shri 0x15 (fun a w => a >>> wField w 5 0)

/-- R204, R212: the scalar operations and their immediate forms. -/
def Obligations.ScalarInstructionsWriteTheirResult : Prop :=
  ScalarOperationsWriteTheirResult ∧ ImmediateOperationsWriteTheirResult

/-- A guarded instruction of the code `opc` turns the tile into `act` and completes. -/
def OpcDoes (c : TileId → CoreErr → Instr) (opc : Nat) (regs : W32 → List Nat) (act : Tile → W32 → Tile) : Prop :=
  Completes c (fun w => wOpc w = opc) regs act

/-- An instruction without a guard, of the code `opc`, writes f(tile, word) into the register of bits [25:21]. -/
def UnguardedWrites (c : TileId → CoreErr → Instr) (opc : Nat) (src : W32 → List Nat) (f : Tile → W32 → W64) : Prop :=
  ∀ (s : State) (t : TileId) (w : W32), Starts s t w (src w ++ [wField w 25 21]) → wOpc w = opc →
    exec (c t .none) s = .next (s.putTile t ((s.tile t).setS (wField w 25 21) (f (s.tile t) w)).finish)

/-- R213: LI, LIK, INS and EXT. -/
def FieldInstructionsWriteTheirResult : Prop :=
  UnguardedWrites .li 0x18 (fun _ => []) (fun _ w => BitVec.ofInt 64 (sext 16 (wField w 15 0)) <<< (16 * wField w 20 19))
  ∧ UnguardedWrites .lik 0x19 (fun w => [wField w 25 21])
      (fun x w => insField (x.core.s (wField w 25 21)) (16 * wField w 20 19) 16 (wField w 15 0))
  ∧ UnguardedWrites .ins 0x1A (fun w => [wField w 25 21, wField w 20 16])
      (fun x w => insField (x.core.s (wField w 25 21)) (wField w 15 10) (wField w 9 4 + 1) (x.core.s (wField w 20 16)).toNat)
  ∧ UnguardedWrites .extS 0x1B (fun w => [wField w 20 16])
      (fun x w => BitVec.ofNat 64 (bits (x.core.s (wField w 20 16)).toNat (wField w 15 10 + wField w 9 4) (wField w 15 10)))

/-- What replacing a field keeps and writes (R213): bit `i` of the new value. -/
def FieldReplacementKeepsOtherBits : Prop :=
  ∀ (d : W64) (pos n v i : Nat), pos + n ≤ 64 → i < 64 →
    (insField d pos n v).getLsbD i = if pos ≤ i ∧ i < pos + n then v.testBit (i - pos) else d.getLsbD i

/-- R215, R208, R211, R225: moves between registers, the loop index, the predicates as a word, and the system values but
TIL_CNT_CYCLES. -/
def MoveInstructionsWriteTheirResult : Prop :=
  OpcDoes .adda 0x1C (fun w => [32 + wA w % 16, 32 + wD w % 16]) (fun x w => x.setA (wD w) (x.core.a (wA w) + wImm12 w))
  ∧ OpcDoes .addas 0x1D (fun w => [32 + wA w % 16, wB w, 32 + wD w % 16])
      (fun x w => x.setA (wD w) (x.core.a (wA w) + (x.core.s (wB w) <<< wField w 2 0)))
  ∧ OpcDoes .movsa 0x1E (fun w => [wA w, 32 + wD w % 16]) (fun x w => x.setA (wD w) (x.core.s (wA w)))
  ∧ OpcDoes .movas 0x1F (fun w => [32 + wA w % 16, wD w]) (fun x w => x.setS (wD w) (x.core.a (wA w)))
  ∧ OpcDoes .lidx 0x06 (fun w => [wD w])
      (fun x w => x.setS (wD w) ((x.core.loops[wField w 16 15]?).elim (BitVec.allOnes 64) Loop.index))
  ∧ OpcDoes .prd 0x0B (fun w => [wD w]) (fun x w => x.setS (wD w) ((x.core.preds ||| 1#8).setWidth 64))
  ∧ (∀ (s : State) (t : TileId) (w : W32), Starts s t w [wD w] → GuardTrue (s.tile t) w → wOpc w = 0x3D → wField w 16 11 < 3 →
      exec (.rdsys t .none) s = .next (s.putTile t ((s.tile t).setS (wD w) (match wField w 16 11 with
        | 0 => BitVec.ofNat 64 (s.fget F.STEP_CURRENT.STEP)
        | 1 => BitVec.ofNat 64 (t.toNat % 64 + t.toNat / 64 * 2 ^ 8 + clusterOf t * 2 ^ 16)
        | _ => BitVec.ofNat 64 (coordK s.herdN s.pos + coordJ s.herdN s.pos * 4 + coordI s.herdN s.pos * 16
            + s.fget F.HQ_HERD.H % 256 * 2 ^ 8))).finish))

/-- R211: the comparisons and the operations between predicates. -/
def PredicateInstructionsWriteTheirResult : Prop :=
  OpcDoes .cmp 0x08 (fun w => [wA w, wB w])
    (fun x w => x.setP (wField w 19 17) (cmpHolds (wField w 2 0) (x.core.s (wA w)) (x.core.s (wB w))))
  ∧ OpcDoes .cmpi 0x09 (fun w => [wField w 15 11])
      (fun x w => x.setP (wField w 21 19) (cmpHolds (wField w 18 16) (x.core.s (wField w 15 11))
        (BitVec.ofInt 64 (sext 11 (wField w 10 0)))))
  ∧ OpcDoes .plog 0x0A (fun _ => [])
      (fun x w => x.setP (wField w 21 19) (plogOp (wField w 12 11) (predRead x.core.preds (wField w 18 16))
        (predRead x.core.preds (wField w 15 13))))

/-- R208, R211, R213, R215, R225: field, move and predicate instructions. -/
def Obligations.RegisterMovesWriteTheirResult : Prop :=
  FieldInstructionsWriteTheirResult ∧ MoveInstructionsWriteTheirResult ∧ PredicateInstructionsWriteTheirResult

/-- R199, R211: a predicate write sets that predicate and no other, and p0 always reads 1. -/
def PredicateWriteSetsThatPredicate : Prop :=
  ∀ (p : BitVec 8) (i j : Nat) (v : Bool), i < 8 → j < 8 →
    predRead (predWrite p i v) j = if j = 0 then true else if j = i then v else predRead p j

/-! ## Muntjac: control flow (R207 to R209, R219, R226, R227) -/

/-- The instruction at tile `t` leads to the PC `pc` of the tile `y`, waiting for nothing. -/
def GoesTo (c : Instr) (s : State) (t : TileId) (y : Tile) (pc : Nat) : Prop :=
  exec c s = .next (s.putTile t ({ y with core := { y.core with pc := BitVec.ofNat 12 pc, wait := .none } }, []))

/-- BR and CALL go to PC + OFF22 modulo the store, BR leaving the bodies that do not hold its target and CALL linking through
s31; JR goes to sA; HRET without REL returns to the saved PC. -/
def BranchesReachTheirTarget : Prop :=
  (∀ (s : State) (t : TileId) (w : W32), Starts s t w [] → GuardTrue (s.tile t) w → wOpc w = 0x01 →
    let pc := ((((s.tile t).core.pc.toNat : Int) + wOff22 w) % 4096).toNat
    GoesTo (.br t .none) s t { s.tile t with core := { (s.tile t).core with loops := popLeft pc (s.tile t).core.loops } } pc)
  ∧ (∀ (s : State) (t : TileId) (w : W32), Starts s t w [31] → GuardTrue (s.tile t) w → wOpc w = 0x02 →
    GoesTo (.call t .none) s t ((s.tile t).setS 31 (BitVec.ofNat 64 ((s.tile t).core.pc.toNat + 1)))
      ((((s.tile t).core.pc.toNat : Int) + wOff22 w) % 4096).toNat)
  ∧ (∀ (s : State) (t : TileId) (w : W32), Starts s t w [wA w] → GuardTrue (s.tile t) w → wOpc w = 0x03 →
    ((s.tile t).core.s (wA w)).toNat < 4096 → GoesTo (.jr t .none) s t (s.tile t) ((s.tile t).core.s (wA w)).toNat)
  ∧ (∀ (s : State) (t : TileId) (w : W32) (link : BitVec 12) (ch : BitVec 6), Starts s t w [] → GuardTrue (s.tile t) w →
    wOpc w = 0x2C → bit w.toNat 21 = false → (s.tile t).core.handler = some (link, ch) →
    GoesTo (.hret t .none) s t { s.tile t with core := { (s.tile t).core with handler := none } } link.toNat)

/-- A loop instruction with `body` + 1 instructions and `count` iterations: a nonzero count pushes an entry with index 0 and the
body follows; a count of 0 acts as the body's last instruction completing (R208). -/
def StartsLoop (c : Instr) (s : State) (t : TileId) (body count : Nat) : Prop :=
  let x := s.tile t
  let pc := x.core.pc.toNat
  (count ≠ 0 → x.core.loops.length < 4 → exec c s = .next (s.putTile t
    { x with core := { x.core with loops := ⟨pc + 1, pc + 1 + body, 0, count - 1⟩ :: x.core.loops } }.finish))
  ∧ (count = 0 → exec c s = .next (s.putTile t { x with core := { x.core with pc := BitVec.ofNat 12 (pc + body + 1) } }.finish))

/-- R208: LOOPI takes its count from the word, LOOPR from sA[31:0]; with a false guard either skips its body. -/
def LoopsPushTheirEntry : Prop :=
  (∀ (s : State) (t : TileId) (w : W32), Starts s t w [] → GuardTrue (s.tile t) w → wOpc w = 0x04 →
    StartsLoop (.loopi t .none) s t (wField w 21 12) (wField w 11 0))
  ∧ (∀ (s : State) (t : TileId) (w : W32), Starts s t w [wD w] → GuardTrue (s.tile t) w → wOpc w = 0x05 →
    StartsLoop (.loopr t .none) s t (wField w 16 7) (((s.tile t).core.s (wD w)).toNat % 2 ^ 32))
  ∧ (∀ (s : State) (t : TileId) (w : W32) (body : Nat) (c : Instr), Starts s t w [] → ¬ GuardTrue (s.tile t) w →
    (wOpc w = 0x04 ∧ c = .loopi t .none ∧ body = wField w 21 12) ∨ (wOpc w = 0x05 ∧ c = .loopr t .none ∧ body = wField w 16 7) →
    exec c s = .next (s.putTile t { s.tile t with core := { (s.tile t).core with
      pc := BitVec.ofNat 12 ((s.tile t).core.pc.toNat + body + 1) } }.finish))

/-- R207: JR above the store and execution that falls through from address 4,095 raise the illegal-target fault. -/
def TargetsOutsideTheStoreFault : Prop :=
  (∀ (s : State) (t : TileId) (w : W32), Starts s t w [wA w] → GuardTrue (s.tile t) w → wOpc w = 0x03 →
    4096 ≤ ((s.tile t).core.s (wA w)).toNat → exec (.jr t .none) s = .next (s.putTile t ((s.tile t).fault 0x2 0 0)))
  ∧ (∀ x : Tile, x.core.pc.toNat = 4095 → (∀ l ∈ x.core.loops, l.last ≠ 4095) →
    x.finish = { x with core := { x.core with wait := .none } }.fault 0x2 0 0)

/-- The header word of the record `r`, bytes 0 to 7 of its first unit in the ring of endpoint `ch` (R275). -/
def headWord (s : State) (x : Tile) (ch : BitVec 6) (r : Rec) : W64 :=
  let a := (x.ep ch).unitAddr r.start
  BitVec.ofNat 64 (ofBytes (if (x.ep ch).inCommons then readBytes 0 s.commons a 8 else x.readMem a 8))

/-- R209: a taken BR pops the top entry whose body does not hold the target, and tests the next; DISPATCH enters its handler with the
loop stack as it is. -/
def BranchesLeaveBodies : Prop :=
  (∀ pc, popLeft pc [] = [])
  ∧ (∀ pc (l : Loop) (ls : List Loop), popLeft pc (l :: ls) = if l.first ≤ pc ∧ pc ≤ l.last then l :: ls else popLeft pc ls)
  ∧ (∀ (s : State) (t : TileId) (w : W32) (r : Rec) (h : BitVec 12), Starts s t w [32 + recvAd w, recvSd w] → GuardTrue (s.tile t) w →
    wOpc w = 0x2B → (s.tile t).core.handler = none → (s.tile t).headMsg (chOf w) = some r →
    mapFind (s.tile t).img.handlers (bits (headWord s (s.tile t) (chOf w) r).toNat 59 54) = some h → ∃ s', exec (.dispatch t .none) s = .next s'
      ∧ (s'.tile t).core.pc = h ∧ (s'.tile t).core.loops = (s.tile t).core.loops)

/-- R207 to R209, R219: control flow. -/
def Obligations.BranchesAndLoopsReachTheirTarget : Prop :=
  BranchesReachTheirTarget ∧ LoopsPushTheirEntry ∧ TargetsOutsideTheStoreFault ∧ BranchesLeaveBodies

/-- R207, R208: an instruction that is no taken branch goes to the next address; at the end of the top entry's body it returns to
the body's start while iterations remain; from address 4,095 it raises the illegal-target fault. -/
def Obligations.CompletionFollowsTheLoopStack : Prop :=
  ∀ x : Tile, let pc := x.core.pc.toNat
    ((∀ l ∈ x.core.loops, l.last ≠ pc) → pc < 4095 →
      x.finish = ({ x with core := { x.core with pc := BitVec.ofNat 12 (pc + 1), wait := .none } }, []))
    ∧ (∀ (l : Loop) (ls : List Loop), x.core.loops = l :: ls → l.last = pc → l.left ≠ 0 →
      x.finish = ({ x with core := { x.core with pc := BitVec.ofNat 12 l.first, wait := .none,
                                                 loops := { l with index := l.index + 1, left := l.left - 1 } :: ls } }, []))
    ∧ (∀ (l : Loop) (ls : List Loop), x.core.loops = l :: ls → l.last = pc → l.left = 0 →
      x.finish = { x with core := { x.core with loops := ls } }.finish)
    ∧ (x.core.loops = [] → pc = 4095 → x.finish = { x with core := { x.core with wait := .none } }.fault 0x2 0 0)

/-- An instruction of the code `opc`, ready with its guard true, stops the context with the fault `fcode` where `cond` holds. -/
def FaultsWhen (c : TileId → CoreErr → Instr) (opc : Nat) (regs : W32 → List Nat) (cond : Tile → W32 → Prop) (fcode : Nat)
    (extra : W32 → Nat) : Prop :=
  ∀ (s : State) (t : TileId) (w : W32), Starts s t w (regs w) → GuardTrue (s.tile t) w → wOpc w = opc → cond (s.tile t) w →
    exec (c t .none) s = .next (s.putTile t ((s.tile t).fault fcode (extra w) 0))

/-- R226, R227: TRAP and an OPC that the map does not list stop the context. -/
def TrapAndIllegalStopTheContext : Prop :=
  FaultsWhen .trap 0x3E (fun _ => []) (fun _ _ => True) 0xB (fun w => wField w 21 12)
  ∧ (∀ (s : State) (t : TileId) (w : W32), Starts s t w [] → GuardTrue (s.tile t) w → wOpc w = 0x3E →
      ∃ s' r, exec (.trap t .none) s = .next s' ∧ s'.out = s.out ++ [.report r true] ∧ r.code = 0x1001#16
        ∧ bits r.data.toNat 3 0 = 0xB ∧ bits r.data.toNat 17 8 = wField w 21 12)
  ∧ (∀ (s : State) (t : TileId) (w : W32), Starts s t w [] → opcListed (wOpc w) = false →
      exec (.illegalInstruction t .none) s = .next (s.putTile t ((s.tile t).fault 0x1 0 0)))

/-- R207, R208, R215, R218, R219, R221: where an instruction stops the context: JR above the store, a fifth loop, LDS and STS outside
or misaligned, CSUB below zero, RELEASE of what is not held, STEPEND or DISPATCH in a handler, HRET outside one. -/
def OperandFaultsStopTheContext : Prop :=
  FaultsWhen .jr 0x03 (fun w => [wA w]) (fun x w => 4096 ≤ (x.core.s (wA w)).toNat) 0x2 (fun _ => 0)
  ∧ FaultsWhen .loopi 0x04 (fun _ => []) (fun x w => wField w 11 0 ≠ 0 ∧ 4 ≤ x.core.loops.length) 0x4 (fun _ => 0)
  ∧ FaultsWhen .loopr 0x05 (fun w => [wD w])
      (fun x w => (x.core.s (wD w)).toNat % 2 ^ 32 ≠ 0 ∧ 4 ≤ x.core.loops.length) 0x4 (fun _ => 0)
  ∧ (∀ m, FaultsWhen (fun t e => .lds t e m) 0x20 (fun w => [32 + wA w % 16, wD w])
      (fun x w => (x.core.a (wA w) + wImm12 w).toNat % 8 ≠ 0 ∨ 2 ^ 21 ≤ (x.core.a (wA w) + wImm12 w).toNat) 0x8 (fun _ => 0))
  ∧ FaultsWhen .sts 0x21 (fun w => [32 + wA w % 16, wD w])
      (fun x w => (x.core.a (wA w) + wImm12 w).toNat % 8 ≠ 0 ∨ 2 ^ 21 ≤ (x.core.a (wA w) + wImm12 w).toNat) 0x8 (fun _ => 0)
  ∧ FaultsWhen .csub 0x31 ctrReads (fun x w => mapGet 0 x.arr (wD w) < (ctrVal w x).toNat) 0x7 (fun _ => 0)
  ∧ FaultsWhen .release 0x2A (fun _ => []) (fun x w => x.isHeld (chOf w) = false) 0x6 (fun _ => 0)
  ∧ FaultsWhen .stepend 0x3C (fun _ => []) (fun x _ => x.core.handler.isSome = true) 0x5 (fun _ => 0)
  ∧ FaultsWhen .dispatch 0x2B (fun w => [32 + recvAd w, recvSd w]) (fun x _ => x.core.handler.isSome = true) 0x5 (fun _ => 0)
  ∧ FaultsWhen .hret 0x2C (fun _ => []) (fun x _ => x.core.handler = none) 0x5 (fun _ => 0)

/-- R207, R208, R215, R218, R219, R221, R226, R227: where a context stops. -/
def Obligations.FaultingInstructionsStopTheContext : Prop :=
  TrapAndIllegalStopTheContext ∧ OperandFaultsStopTheContext

/-- R120, R227, R228: a fault stops the context and makes the step dirty, and its report, which travels on C0, is the only output; the
report holds the PC and the operation number in OPID, and the fault, the loop depth, the handler flag, the instruction word and word 0
of the operation in DATA. -/
def Obligations.FaultLeavesOneUrgentReport : Prop :=
  ∀ (s : State) (t : TileId) (fcode extra word0 : Nat),
    let x := s.tile t
    let s' := s.putTile t (x.fault fcode extra word0)
    (s'.tile t).dirty = true ∧ (s'.tile t).core.stopped = true ∧ s'.regs = s.regs ∧ s'.mem = s.mem
    ∧ ∃ r : Report, r.code = 0x1001#16 ∧ r.flags = 3#8 ∧ s'.out = s.out ++ [.report r true]
      ∧ bits r.opid.toNat 15 4 = x.core.pc.toNat ∧ bits r.opid.toNat 31 16 = x.enq % 2 ^ 16
      ∧ (fcode < 16 → extra < 1024 → word0 < 2 ^ 64 → x.core.loops.length ≤ 4 → let d := r.data.toNat
        bits d 3 0 = fcode ∧ bits d 6 4 = x.core.loops.length ∧ bit d 7 = x.core.handler.isSome ∧ bits d 17 8 = extra
        ∧ bits d 31 18 = 0 ∧ bits d 63 32 = x.word.toNat ∧ bits d 127 64 = word0)

/-! ## Muntjac: tile memory, the operation queue, messages and atomics (R111, R206, R214 to R220) -/

/-- R215: LDS reads, and STS writes, the 8 bytes at aA + IMM12 in little-endian order, once no earlier operation still writes (LDS), or
reads or writes (STS), their line. -/
def Obligations.ScalarLoadsAndStoresMoveEightBytes : Prop :=
  ∀ (s : State) (t : TileId) (w : W32), Starts s t w [32 + wA w % 16, wD w] → GuardTrue (s.tile t) w →
    let x := s.tile t
    let a := (x.core.a (wA w) + wImm12 w).toNat
    a % 8 = 0 → a < 2 ^ 21 →
    (wOpc w = 0x20 → (∀ o ∈ x.exec ++ x.fifo, anyOverlap (o.res x).2 (lines a 8) = false) → badWords x.bad a 8 = [] →
      exec (.lds t .none .none) s = .next (s.putTile t (x.setS (wD w) (BitVec.ofNat 64 (ofBytes (x.readMem a 8)))).finish))
    ∧ (wOpc w = 0x21 → (∀ o ∈ x.exec ++ x.fifo, anyOverlap ((o.res x).1 ++ (o.res x).2) (lines a 8) = false) →
      exec (.sts t .none) s = .next (s.putTile t (x.writeMem a (toBytes 8 (x.core.s (wD w)).toNat)).finish))

/-- The tile with Muntjac waiting in `wt`. -/
def waitingIn (x : Tile) (wt : Wait) : Tile × List Note := ({ x with core := { x.core with wait := wt } }, [])

/-- The tile with the operation `kind` enqueued on port `p` under the next sequence number (R111). -/
def withOp (x : Tile) (p : Nat) (kind : OpKind) : Tile :=
  { x with fifo := x.fifo ++ [⟨x.enq + 1, p, x.core.pc, kind⟩], enq := x.enq + 1 }

/-- The tile with the operation `o`, for which Muntjac waited, enqueued, and the wait over. -/
def withWaited (x : Tile) (o : Op) : Tile :=
  let y : Tile := { x with fifo := x.fifo ++ [⟨x.enq + 1, o.port, o.pc, o.kind⟩], enq := x.enq + 1 }
  { y with core := { y.core with wait := .none } }

/-- ISSUE on port `p`, once no register that it reads is pending: a legal operation is enqueued where its FIFO has room, and waited with where it is full. -/
def IssueEnqueues (c : TileId → CoreErr → Instr) (p : Nat) (kind : Tile → W64 → W64 → OpKind) : Prop :=
  ∀ (s : State) (t : TileId) (w : W32),
    let x := s.tile t
    let n := wField w 18 14
    let w0 := x.core.s n
    let w1 := if p ≤ 1 then 0 else x.core.s (n + 1)
    Starts s t w (issueReads x p w) → GuardTrue x w → wOpc w = 0x24 → wField w 21 19 = p →
    (p ≤ 1 ∨ n ≠ 31) → issueLegal t p x.img s.member w0 w1 = true →
    exec (c t .none) s = .next (s.putTile t (if (x.waiting p).length < 16 then (withOp x p (kind x w0 w1)).finish
      else waitingIn x (.enqueue ⟨0, p, x.core.pc, kind x w0 w1⟩)))

/-- R111, R214: the six ports of ISSUE; an STMX that takes its scale from a register copies it. -/
def IssueEnqueuesTheOperation : Prop :=
  IssueEnqueues .issueFillA 0 (fun _ w0 _ => .fill w0) ∧ IssueEnqueues .issueFillB 1 (fun _ w0 _ => .fill w0)
  ∧ IssueEnqueues .issueIbex 2 (fun _ w0 w1 => .two w0 w1 0) ∧ IssueEnqueues .issueDrain 3 (fun _ w0 w1 => .two w0 w1 0)
  ∧ IssueEnqueues .issueTahr 4 (fun x w0 w1 => .two w0 w1
      (if (tahrF w0 w1).opc = 4 ∧ (tahrF w0 w1).sel = 2 then (x.core.s (tahrF w0 w1).sreg).setWidth 8 else 0))
  ∧ IssueEnqueues .issueNet 5 (fun _ w0 w1 => .net w0 w1)

/-- R216, R218, R111: SEND and RELEASE enqueue on the NET port, RELEASE clearing the held flag; an operation that waited for room
is enqueued once there is some, and the instruction completes. -/
def SendAndReleaseEnqueue : Prop :=
  ∀ (s : State) (t : TileId) (w : W32), let x := s.tile t
    (Starts s t w [32 + wField w 15 12, wField w 11 7] → GuardTrue x w → wOpc w = 0x28 → (x.waiting 5).length < 16 →
      let a := (x.core.a (wField w 15 12)).toNat
      let n := (x.core.s (wField w 11 7)).toNat
      0 < n → n ≤ 16384 → n ≤ (x.ep (chOf w)).maxMsg → a % 64 = 0 → a + n ≤ 2 ^ 21 →
      exec (.send t .none) s = .next (s.putTile t
        (withOp x 5 (.send (chOf w) (BitVec.ofNat 21 a) n (BitVec.ofNat 6 (wField w 6 1)))).finish))
    ∧ (Starts s t w [] → GuardTrue x w → wOpc w = 0x2A → (x.waiting 5).length < 16 → x.isHeld (chOf w) = true →
      exec (.release t .none) s = .next (s.putTile t (withOp (x.unhold (chOf w)) 5 (.release (chOf w))).finish))
    ∧ (∀ o : Op, x.goes = true → x.core.wait = .enqueue o → (x.waiting o.port).length < 16 → x.word = w →
      wOpc w ≠ 0x2E → wOpc w ≠ 0x2C →
      exec (.stalledEnqueue t) s = .next (s.putTile t (withWaited x o).finish))

/-- The tile that has taken the message `r` of endpoint `ch` (R217): its address, its header word, its held flag. -/
def taken (s : State) (x : Tile) (ch : BitVec 6) (r : Rec) (ad sd : Nat) : Tile :=
  let y := (x.setA ad (BitVec.ofNat 64 ((x.ep ch).unitAddr (r.start + 1)))).setS sd (headWord s x ch r)
  { y with core := { y.core with held := y.core.held ||| BitVec.ofNat 64 (2 ^ ch.toNat) } }

/-- R217, R219: RECV takes the message at the read position, with TRY setting pD; with no message it waits, or with TRY clears
pD; DISPATCH takes it and enters the handler that the header names; a wait ends when the message is there. -/
def Obligations.ReceiveTakesTheHeadMessage : Prop :=
  ∀ (s : State) (t : TileId) (w : W32), let x := s.tile t
    (Starts s t w [32 + recvAd w, recvSd w] → GuardTrue x w → wOpc w = 0x29 →
      (∀ r, x.headMsg (chOf w) = some r → exec (.recv t .none) s = .next (s.putTile t
        (let y := taken s x (chOf w) r (recvAd w) (recvSd w); if bit w.toNat 6 then y.setP (wField w 5 3) true else y).finish))
      ∧ (x.headMsg (chOf w) = none → bit w.toNat 6 = true →
          exec (.recv t .none) s = .next (s.putTile t (x.setP (wField w 5 3) false).finish))
      ∧ (x.headMsg (chOf w) = none → bit w.toNat 6 = false → exec (.recv t .none) s = .next (s.putTile t
          (waitingIn x (.message (chOf w) (BitVec.ofNat 4 (recvAd w)) (BitVec.ofNat 5 (recvSd w)) false)))))
    ∧ (∀ r h, Starts s t w [32 + recvAd w, recvSd w] → GuardTrue x w → wOpc w = 0x2B → x.core.handler = none →
        x.headMsg (chOf w) = some r → mapFind x.img.handlers (bits (headWord s x (chOf w) r).toNat 59 54) = some h →
        let y := taken s x (chOf w) r (recvAd w) (recvSd w)
        GoesTo (.dispatch t .none) s t { y with core := { y.core with handler := some (x.core.pc + 1, chOf w) } } h.toNat)
    ∧ (∀ ch ad sd r, x.phase = phRunning → x.core.stopped = false → x.core.wait = .message ch ad sd false → x.headMsg ch = some r →
        let s1 := if x.counting then s.moreStalls t else s
        let x1 := s1.tile t
        exec (.recvResume t) s = .next (s1.putTile t
          (taken s1 { x1 with core := { x1.core with wait := .none } } ch r ad.toNat sd.toNat).finish))

/-- The atomic operation that the word `w` builds. -/
def atomOp (x : Tile) (w : W32) : OpKind :=
  .atom (x.core.a (wField w 16 13)) (BitVec.ofNat 4 (wField w 7 4)) (bit w.toNat 1) (x.core.s (wField w 12 8))
    (x.core.s (wD w)) (BitVec.ofNat 5 (wD w))

/-- ATOM with an AOP of `ops`: without ordering it is enqueued and sD, but for STORE, becomes pending; an acquire is waited for after
it, and a release before it (R220, R53). -/
def AtomEnqueues (c : TileId → CoreErr → Instr) (ops : List Nat) : Prop :=
  ∀ (s : State) (t : TileId) (w : W32), let x := s.tile t
    Starts s t w [32 + wField w 16 13, wField w 12 8, wD w] → GuardTrue x w → wOpc w = 0x2E → wField w 7 4 ∈ ops →
    (x.waiting 5).length < 16 →
    let y := withOp x 5 (atomOp x w)
    let z := if wField w 7 4 = 1 then y
      else { y with core := { y.core with pend := y.core.pend ++ [(BitVec.ofNat 5 (wD w), x.enq + 1)] } }
    exec (c t .none) s = .next (s.putTile t (match wField w 3 2 with
      | 0 => z.finish
      | 1 => waitingIn x (.atomic ⟨0, 5, x.core.pc, atomOp x w⟩ false)
      | 2 => waitingIn z (.fence false true)
      | _ => waitingIn x (.atomic ⟨0, 5, x.core.pc, atomOp x w⟩ true)))

/-- R220: the AOP codes of the ten atomics. -/
def AtomicsEnqueueTheirOperation : Prop :=
  AtomEnqueues .atomLoad [0] ∧ AtomEnqueues .atomStore [1] ∧ AtomEnqueues .atomSwap [2] ∧ AtomEnqueues .atomCas [3]
  ∧ AtomEnqueues .atomAdd [4] ∧ AtomEnqueues .atomMin [5, 7] ∧ AtomEnqueues .atomMax [6, 8] ∧ AtomEnqueues .atomAnd [9]
  ∧ AtomEnqueues .atomOr [10] ∧ AtomEnqueues .atomXor [11]

/-- The instructions that put an operation in a port's FIFO. -/
def Obligations.IssuingInstructionsEnqueueTheirOperation : Prop :=
  IssueEnqueuesTheOperation ∧ SendAndReleaseEnqueue ∧ AtomicsEnqueueTheirOperation

/-- R221, R222, R224, R227: counters, barriers, flags and the end of the step. A wait whose condition holds at once completes; one
whose condition comes to hold completes then. FLAGSET sends its update; BAR first waits for its release fence; STEPEND goes to the step
gate and resumes after itself. -/
def Obligations.CounterAndFlagInstructionsComplete : Prop :=
  ∀ (s : State) (t : TileId) (w : W32), let x := s.tile t
    (Starts s t w (ctrReads w) → GuardTrue x w → wOpc w = 0x30 → exec (.waitc t .none) s = .next (s.putTile t
      (if (ctrVal w x).toNat ≤ mapGet 0 x.arr (wD w) then x.finish
       else waitingIn x (.counter (BitVec.ofNat 5 (wD w)) (ctrVal w x)))))
    ∧ (Starts s t w (ctrReads w) → GuardTrue x w → wOpc w = 0x31 → (ctrVal w x).toNat ≤ mapGet 0 x.arr (wD w) →
      exec (.csub t .none) s = .next (s.putTile t
        { x with arr := mapPut 0 (wD w) (mapGet 0 x.arr (wD w) - (ctrVal w x).toNat) x.arr }.finish))
    ∧ (∀ c v, x.goes = true → x.core.wait = .counter c v → v.toNat ≤ mapGet 0 x.arr c.toNat →
      exec (.waitcResume t) s = .next (s.putTile t x.finish))
    ∧ (Starts s t w [] → GuardTrue x w → wOpc w = 0x35 → exec (.flagset t .none) s = .next (s.putTile t
        (x.finish.1, .flag (chOf w) (bit w.toNat 15) :: x.finish.2)))
    ∧ (Starts s t w [] → GuardTrue x w → wOpc w = 0x36 → exec (.flagwait t .none) s = .next (s.putTile t
        (if x.flags.getLsbD (chOf w).toNat = bit w.toNat 15 then x.finish else waitingIn x (.flag (chOf w) (bit w.toNat 15)))))
    ∧ (∀ f v, x.goes = true → x.core.wait = .flag f v → x.flags.getLsbD f.toNat = v →
      exec (.flagwaitResume t) s = .next (s.putTile t x.finish))
    ∧ (Starts s t w [] → GuardTrue x w → wOpc w = 0x34 →
      exec (.bar t .none) s = .next (s.putTile t (waitingIn x (.barrier (BitVec.ofNat 4 (wField w 21 18)) 0))))
    ∧ (Starts s t w [] → GuardTrue x w → wOpc w = 0x3C → x.core.handler = none →
      exec (.stepend t .none) s = .next (s.putTile t (waitingIn { x with phase := phEnding, resume := .next } .stepEnd)))

/-- FENCE of the KIND `k` waits for the fences `rel` and `acq` (R223). -/
def FenceWaits (c : TileId → CoreErr → Instr) (k : Nat) (rel acq : Bool) : Prop :=
  ∀ (s : State) (t : TileId) (w : W32), Starts s t w [] → GuardTrue (s.tile t) w → wOpc w = 0x38 → wField w 21 20 = k →
    exec (c t .none) s = .next (s.putTile t (waitingIn (s.tile t) (.fence rel acq)))

/-- R45 to R47, R117, R223: a release fence completes once every write enqueued has completed and been acknowledged, an acquire
fence once every read has completed. -/
def Obligations.FencesWaitForTheirAccesses : Prop :=
  FenceWaits .fenceRelease 1 true false ∧ FenceWaits .fenceAcquire 2 false true ∧ FenceWaits .fenceFull 3 true true
  ∧ (∀ (s : State) (t : TileId) (rel acq : Bool), let x := s.tile t
      x.goes = true → x.core.wait = .fence rel acq →
      (rel = true → (∀ o ∈ x.exec ++ x.fifo, o.writes = false) ∧ x.unacked = []) →
      (acq = true → ∀ o ∈ x.exec ++ x.fifo, o.reads = false) →
      exec (.fenceComplete t) s = .next (s.putTile t { x with core := { x.core with wait := .none } }.finish))

/-! ## The engines: FILL, IBEX and DRAIN (R113, R114, R161 to R174) -/

/-- The tile with the operation `o` moved from its FIFO into execution. -/
def issued (x : Tile) (o : Op) : Tile := { x with fifo := dropOne o x.fifo, exec := x.exec ++ [o] }

/-- The tile with the operation `o` complete: it holds its port and resources no longer, and TIL_CNT_OPS counts it (R114, R124). -/
def completed (x : Tile) (o : Op) : Tile :=
  { x with exec := dropOne o x.exec, opsDone := if x.counting then x.opsDone + 1 else x.opsDone }

/-- R164: a FILL that issues copies LEN + 1 units of 64 bytes of tile memory into its buffer from segment SEG on; it completes
later. -/
def FillCopiesTileMemory : Prop :=
  (∀ (s : State) (t : TileId) (b : Bool) (o : Op) (w : W64), let x := s.tile t
    Issues s t (if b then 1 else 0) o → o.port = (if b then 1 else 0) → o.kind = .fill w → x.bad = [] →
    let f := fillF w
    let put (u : Buffer) : Buffer := u.write (f.seg * 1024) (x.readMem f.src (f.units * 64)) []
    let y := issued x o
    exec (.fill t b .none) s = .next (s.putTile t (if b then { y with bufB := put y.bufB } else { y with bufA := put y.bufA }, [])))
  ∧ (∀ (s : State) (t : TileId) (b : Bool) (o : Op), (s.tile t).executing (if b then 1 else 0) = some o →
      exec (.fillComplete t b) s = .next (s.putTile t (completed (s.tile t) o, [])))

/-- R154, R164: a buffer holds what was written to it, and its other bytes are unchanged. -/
def BufferHoldsWhatWasWritten : Prop :=
  ∀ (u : Buffer) (a p : Nat) (bs : List Byte) (marks : List Nat),
    (u.write a bs marks).byte p = if h : a ≤ p ∧ p - a < bs.length then bs[p - a]'h.2 else u.byte p

/-- R154, R164: the FILL ports. -/
def Obligations.FillsReachTheirBuffer : Prop := FillCopiesTileMemory ∧ BufferHoldsWhatWasWritten

/-- What an operation leaves at output (i, j) of its bank: the amount `v` and the flags and groups `d` added (R134 to R136). -/
def BankAdds (x : Tile) (bank : Nat) (base : Bank) (m n : Nat) (v : Nat → Nat → Int) (d : Nat → Nat → Cell) (y : Tile) : Prop :=
  (∀ i j, i < m → j < n → (y.bank bank).cell (i * 32 + j) = (base.cell (i * 32 + j)).add (v i j) (d i j))
  ∧ (∀ p, (∀ i j, i < m → j < n → p ≠ i * 32 + j) → (y.bank bank).cell p = base.cell p)
  ∧ (∀ b, b ≠ bank → y.bank b = x.bank b)

/-- The bank as an IBEX operation with CLR or without finds it (R161). -/
def bankBase (x : Tile) (f : IbexF) : Bank :=
  if f.clr then { x.bank f.bank with anchor := f.anchor, seed := none, cells := [] } else x.bank f.bank

/-- R134 to R136, R161: an MMA adds to each output the products of row i of A and column j of B, each truncated at ANCHOR, under its
flags and K / 32 groups; RAWACC adds raw values; CLEAR zeroes the bank and sets ANCHOR. -/
def Obligations.BankOperationsAddToTheirOutputs : Prop :=
  (∀ (s : State) (t : TileId) (o : Op) (w0 w1 : W64) (xb : Byte), let x := s.tile t
    let f := ibexF w0 w1
    Issues s t 2 o → o.kind = .two w0 w1 xb → f.m ≤ 32 → f.n ≤ 32 → x.bufA.bad = [] → x.bufB.bad = [] →
    (f.opc = 1 → ∃ y ns, exec (.mma t .none none []) s = .next (s.putTile t (y, ns)) ∧
      let e (i j : Nat) : Eff := Eff.dot (bankBase x f).anchor.toInt (aRow x f i) (bCol x f j) Eff.zero
      BankAdds x f.bank (bankBase x f) f.m f.n (fun i j => (e i j).sum)
        (fun i j => ⟨0, (e i j).nan, (e i j).pinf, (e i j).ninf, (e i j).oor, (e i j).truncs != 0, f.k / 32⟩) y)
    ∧ (f.opc = 2 → ∃ y ns, exec (.rawacc t .none []) s = .next (s.putTile t (y, ns)) ∧
      let raw (i j : Nat) : Cell := Cell.ofRaw (ofBytes (x.bufA.bytes (f.aseg * 1024 + (i * 32 + j) * 16) 16))
      BankAdds x f.bank (bankBase x f) f.m f.n (fun i j => (raw i j).value.toInt) raw y)
    ∧ (f.opc = 3 → exec (.clear t) s = .next (s.putTile t ((issued x o).setBank f.bank
        { x.bank f.bank with anchor := f.anchor, seed := none, cells := [] }, []))))
  ∧ (∀ (s : State) (t : TileId) (o : Op) (w0 w1 : W64) (xb : Byte), let x := s.tile t
    let f := ibexF w0 w1
    x.executing 2 = some o → o.kind = .two w0 w1 xb → (∀ p ∈ x.sums, p.1 ≠ o.n) →
    exec (.ibexOpComplete t) s = .next (s.putTile t (completed
      (if f.opc = 3 ∨ f.clr = true then x.setBank f.bank { x.bank f.bank with init := true } else x) o, [])))

/-- The value that a drain writes for output (i, j), and the sum record of the outputs (R139, R169, R172). -/
def drained (s : State) (x : Tile) (f : DrainF) (i j : Nat) : Nat :=
  ((x.bank f.bank).cell (i * 32 + j)).drain (x.bank f.bank).anchor f.fmt
    (rndOf s.seed.toNat (s.fget F.STEP_CURRENT.STEP) 0 f.rm f.sat f.stream (f.ebase + i * 32 + j))

/-- R170, R172: a drain of OPC 0x5 writes row i at DST + i × STRIDE × 64, and its sum record after the rows; one of OPC 0x6 writes row i
to register VBASE + ⌊i / 2⌋, lanes (i mod 2) × 32 on. -/
def DrainsWriteTheirRows : Prop :=
  ∀ (s : State) (t : TileId) (o : Op) (w0 w1 : W64) (xb : Byte), let x := s.tile t
    let f := drainF w0 w1
    Issues s t 3 o → o.kind = .two w0 w1 xb →
    (f.opc = 5 → ∃ y ns, exec (.drainToTileMemory t .none) s = .next (s.putTile t (y, ns)) ∧ y.vec = x.vec ∧ y.banks = x.banks ∧
      y.mem = (let rows := (List.range f.m).foldl (fun z i => z.writeMem (f.dst + i * f.stride * 64)
          ((List.range f.n).flatMap (fun j => toBytes f.w (drained s x f i j)))) x
        if f.sum then rows.writeMem (f.dst + f.m * f.stride * 64) (toBytes 32 (sumRecord (x.bank f.bank).anchor
          ((List.range f.m).flatMap (fun i => (List.range f.n).map (fun j => (x.bank f.bank).cell (i * 32 + j))))).toNat)
        else rows).mem)
    ∧ (f.opc = 6 → f.n ≤ 32 → ∃ y ns, exec (.drainToVector t .none) s = .next (s.putTile t (y, ns)) ∧ y.mem = x.mem ∧ y.banks = x.banks
      ∧ (∀ i j, i < f.m → j < f.n →
          y.vec.lane (f.vbase + i / 2) (i % 2 * 32 + j) = BitVec.ofNat 32 (drained s x f i j))
      ∧ (∀ r l, l < 64 → (∀ i j, i < f.m → j < f.n → (r, l) ≠ (f.vbase + i / 2, i % 2 * 32 + j)) → y.vec.lane r l = x.vec.lane r l))

/-- R171, R173: a drain completes; with a partner its record leaves, and records are compared oldest with oldest: where they differ
the step ends dirty. With no partner record in time both tiles report the mismatch. -/
def DuplicateRecordsAreCompared : Prop :=
  (∀ (s : State) (t : TileId) (o : Op), let x := s.tile t
    x.executing 3 = some o → x.dupOwn = [] → exec (.drainComplete t) s = .next (s.putTile t (completed x o, [])))
  ∧ (∀ (s : State) (t : TileId) (r : BitVec 256) (p : Dup) (ps : List Dup), let x := s.tile t
    x.img.dup.isSome = true → x.dupPeer = [] → x.dupOwn = p :: ps → (∀ o ∈ x.exec, o.n ≠ p.n) →
    exec (.dupRecordArrival t r) s = .next (s.putTile t ({ x with dupOwn := ps },
      if p.sum = r then [] else [.err 0x1014 false 1 3 (opid p.n p.pc) p.word.toNat])))
  ∧ (∀ (s : State) (t q : TileId) (p : Dup) (ps : List Dup), let x := s.tile t
    x.img.dup = some q → x.dupOwn = p :: ps → (∀ o ∈ x.exec, o.n ≠ p.n) →
    let s1 := s.putTile t ({ x with dupOwn := ps }, [.err 0x1014 false 1 3 (opid p.n p.pc) p.word.toNat])
    let r := (s1.tile q).oldestDup.getD p
    exec (.dupCompareTimeout t) s = .next (s1.tileErr q 0x1014 false 1 3 (opid r.n r.pc) r.word.toNat))

/-- R170 to R173: the DRAIN port. -/
def Obligations.DrainsWriteAndAreCompared : Prop := DrainsWriteTheirRows ∧ DuplicateRecordsAreCompared

/-! ## TAHR (R176 to R198) -/

/-- Lane n of member m of the operands a, b and c (R177, R179), and its rounding (R182). -/
def laneA (x : Tile) (f : TahrF) (m n : Nat) : W32 := x.vec.lane (f.va + m) n
def laneB (x : Tile) (f : TahrF) (m n : Nat) : W32 :=
  if f.bsrc = 2 then f.imm else x.vec.lane (f.vb + if f.bsrc = 0 then m else 0) n
def laneC (x : Tile) (f : TahrF) (m n : Nat) : W32 := x.vec.lane (f.vc + m) n
def laneRnd (s : State) (f : TahrF) (m n : Nat) : Num.Rnd :=
  rndOf s.seed.toNat (s.fget F.STEP_CURRENT.STEP) 1 f.rm f.sat f.stream (f.ebase + 64 * m + n)

/-- A form V operation of the code `opc` that issues writes g into each lane of its destination group. -/
def LanesGet (c : TileId → LaneErr → Instr) (opc : Nat) (g : State → Tile → TahrF → Nat → Nat → W32) : Prop :=
  ∀ (s : State) (t : TileId) (o : Op) (w0 w1 : W64) (xb : Byte), Issues s t 4 o → o.kind = .two w0 w1 xb →
    bits w0.toNat 63 58 = opc →
    let x := s.tile t
    let f := tahrF w0 w1
    exec (c t .none) s = .next (s.putTile t ({ issued x o with vec := f.write x.vec f.dlen (g s x f) }, []))

def Lanes1 (c : TileId → LaneErr → Instr) (opc : Nat) (g : Num.Rnd → W32 → W32) : Prop :=
  LanesGet c opc (fun s x f m n => g (laneRnd s f m n) (laneA x f m n))
def Lanes2 (c : TileId → LaneErr → Instr) (opc : Nat) (g : Num.Rnd → W32 → W32 → W32) : Prop :=
  LanesGet c opc (fun s x f m n => g (laneRnd s f m n) (laneA x f m n) (laneB x f m n))

/-- R183 to R186: the FP32 arithmetic of form V. -/
def FloatLanesGetTheirResult : Prop :=
  Lanes2 .fadd 0x08 Num.fadd ∧ Lanes2 .fsub 0x09 Num.fsub ∧ Lanes2 .fmul 0x0A Num.fmul
  ∧ LanesGet .fma 0x0B (fun s x f m n => Num.fma (laneRnd s f m n) (laneA x f m n) (laneB x f m n) (laneC x f m n))
  ∧ Lanes2 .fmin 0x0C (fun _ => Num.fmin) ∧ Lanes2 .fmax 0x0D (fun _ => Num.fmax)
  ∧ Lanes1 .fabs 0x0E (fun _ a => if Num.isNan a then 0x7FC00000#32 else a &&& 0x7FFFFFFF#32)
  ∧ Lanes1 .fneg 0x0F (fun _ a => if Num.isNan a then 0x7FC00000#32 else a ^^^ 0x80000000#32)
  ∧ LanesGet .fcmp 0x10 (fun _ x f m n =>
      if Num.fcmpHolds (bits f.ctl 2 0) (laneA x f m n) (laneB x f m n) then 0xFFFFFFFF#32 else 0#32)
  ∧ LanesGet .sel 0x11 (fun _ x f m n => if laneC x f m n ≠ 0 then laneA x f m n else laneB x f m n)
  ∧ LanesGet .clamp 0x12 (fun _ x f m n => Num.fmin (Num.fmax (laneA x f m n) (laneB x f m n)) (laneC x f m n))
  ∧ Lanes2 .fdiv 0x13 Num.fdiv ∧ Lanes1 .cvtfi 0x14 Num.cvtfi ∧ Lanes1 .cvtif 0x15 Num.cvtif

/-- R187: the functions of form V. -/
def FunctionLanesGetTheirResult : Prop :=
  Lanes1 .rcp 0x18 Num.frcp ∧ Lanes1 .sqrt 0x19 Num.fsqrt ∧ Lanes1 .rsqrt 0x1A Num.frsqrt ∧ Lanes1 .exp2 0x1B Num.fexp2
  ∧ Lanes1 .log2 0x1C Num.flog2 ∧ Lanes1 .sinpi 0x1D Num.fsinpi ∧ Lanes1 .cospi 0x1E Num.fcospi ∧ Lanes1 .expT 0x20 Num.fexp
  ∧ Lanes1 .ln 0x21 Num.fln ∧ Lanes1 .sigmoid 0x22 Num.fsigmoid ∧ Lanes1 .tanh 0x23 Num.ftanh
  ∧ Lanes1 .gelus 0x24 Num.fgelus ∧ Lanes1 .silu 0x25 Num.fsilu

/-- R183, R186, R189: the integer operations, LANEID, SHUF and RAND. -/
def IntegerLanesGetTheirResult : Prop :=
  Lanes2 .iadd 0x28 (fun _ a b => a + b) ∧ Lanes2 .isub 0x29 (fun _ a b => a - b) ∧ Lanes2 .imul 0x2A (fun _ a b => a * b)
  ∧ Lanes2 .tahrAnd 0x2B (fun _ a b => a &&& b) ∧ Lanes2 .tahrOr 0x2C (fun _ a b => a ||| b)
  ∧ Lanes2 .tahrXor 0x2D (fun _ a b => a ^^^ b) ∧ Lanes2 .tahrShl 0x2E (fun _ a b => a <<< (b.toNat % 32))
  ∧ Lanes2 .tahrShr 0x2F (fun _ a b => a >>> (b.toNat % 32)) ∧ Lanes2 .tahrSar 0x30 (fun _ a b => a.sshiftRight (b.toNat % 32))
  ∧ LanesGet .icmp 0x31 (fun _ x f m n =>
      if Num.icmpHolds (bits f.ctl 2 0) (laneA x f m n) (laneB x f m n) then 0xFFFFFFFF#32 else 0#32)
  ∧ LanesGet .laneid 0x32 (fun _ _ f m n => BitVec.ofNat 32 (64 * m + n) + f.imm)
  ∧ LanesGet .shuf 0x34 (fun _ x f m n => laneA x f m ((laneB x f m n).toNat % 64))
  ∧ LanesGet .rand 0x35 (fun s _ f m n =>
      let r := Num.genWord s.seed.toNat 2 f.stream ((f.ebase + 64 * m + n) % 2 ^ 46) (s.fget F.STEP_CURRENT.STEP)
      if bit f.ctl 0 then Num.enc (Num.fp32.ofVal Num.exactRnd (.fin false (r / 2 ^ 8) (-24))) else BitVec.ofNat 32 r)

/-- The lane operations of TAHR. -/
def Obligations.LanesGetTheirResult : Prop :=
  FloatLanesGetTheirResult ∧ FunctionLanesGetTheirResult ∧ IntegerLanesGetTheirResult

/-- R176, R179: the lanes of a written group hold what was written, and every other lane of the vector file is unchanged. -/
def GroupWriteSetsExactlyItsLanes : Prop :=
  ∀ (f : TahrF) (v : VFile) (k : Nat) (g : Nat → Nat → W32),
    (∀ m n, m < k → n < 64 → (f.write v k g).lane (f.vd + m) n = g m n)
    ∧ (∀ r n, n < 64 → (r < f.vd ∨ f.vd + k ≤ r) → (f.write v k g).lane r n = v.lane r n)

/-- R199, R211, R213 and the lane groups of the vector file: a write of a part reads back, and the rest is kept. -/
def Obligations.PartialWritesKeepTheRest : Prop :=
  FieldReplacementKeepsOtherBits ∧ PredicateWriteSetsThatPredicate ∧ GroupWriteSetsExactlyItsLanes

/-- The lanes of operand a that the group of lane n of member m reduces (R188): w lanes of that member, or of every member. -/
def reduced (x : Tile) (f : TahrF) (m n : Nat) : List W32 :=
  let w := groupWidth f.ctl
  (if tahrAcross f then List.range f.len else [m]).flatMap (fun i => (List.range w).map (fun k => laneA x f i (n / w * w + k)))

/-- The rounding of a sum (R182): that of the group's lowest lane. -/
def reducedRnd (s : State) (f : TahrF) (m n : Nat) : Num.Rnd :=
  laneRnd s f (if tahrAcross f then 0 else m) (n / groupWidth f.ctl * groupWidth f.ctl)

/-- R188: the reductions give every lane of a group the group's result. -/
def Obligations.ReductionsGiveEachGroupItsResult : Prop :=
  LanesGet .rsum 0x38 (fun s x f m n => Num.rsum false (reducedRnd s f m n) (reduced x f m n))
  ∧ LanesGet .rsumsq 0x39 (fun s x f m n => Num.rsum true (reducedRnd s f m n) (reduced x f m n))
  ∧ LanesGet .rmax 0x3A (fun _ x f m n => Num.rext Num.fmax (reduced x f m n))
  ∧ LanesGet .rmin 0x3B (fun _ x f m n => Num.rext Num.fmin (reduced x f m n))

/-- The lanes that a check reads, and the entry it names (R194). -/
def checkLanes (x : Tile) (f : TahrF) : List W32 :=
  (List.range f.len).flatMap (fun m => (List.range (min 64 (bits f.ctl 6 0 + 1))).map (fun n => laneA x f m n))

/-- R195, R196: a CHKR whose lanes all pass writes nothing; a CHKP without its final test adds its lanes to the entry's statistic,
and one whose final test passes clears it. -/
def Obligations.PassingChecksOnlyAddToTheirStatistic : Prop :=
  ∀ (s : State) (t : TileId) (o : Op) (w0 w1 : W64) (xb : Byte), Issues s t 4 o → o.kind = .two w0 w1 xb →
    let x := s.tile t
    let f := tahrF w0 w1
    let e := bits f.ctl 12 7
    let c := mapGet 0 x.img.checks e
    let st := (checkLanes x f).foldl Stat.add (mapGet ⟨0, 0, 0⟩ x.stats e)
    (bits w0.toNat 63 58 = 0x3C → (∀ w ∈ checkLanes x f, chkrFails c w = false) →
      exec (.chkr t .none) s = .next (s.putTile t (issued x o, [])))
    ∧ (bits w0.toNat 63 58 = 0x3D → bit f.ctl 13 = false → exec (.chkp t .none) s =
        .next (s.putTile t ({ issued x o with stats := mapPut ⟨0, 0, 0⟩ e st x.stats }, [])))
    ∧ (bits w0.toNat 63 58 = 0x3D → bit f.ctl 13 = true → st.passes c = true → exec (.chkp t .none) s =
        .next (s.putTile t ({ issued x o with stats := mapPut ⟨0, 0, 0⟩ e ⟨0, 0, 0⟩ x.stats }, [])))

/-- R190 to R192: LD and LDMX load lanes from tile memory, ST and STMX store them; with no uncorrectable word each does only that. An
operation of the port completes later. -/
def Obligations.VectorMovesLoadAndStore : Prop :=
  (∀ (s : State) (t : TileId) (o : Op) (w0 w1 : W64) (xb : Byte), Issues s t 4 o → o.kind = .two w0 w1 xb →
    let x := s.tile t
    let f := tahrF w0 w1
    let w := if f.fmt = 1 ∨ f.fmt = 2 then 2 else 4
    let lane (m n : Nat) : W32 := x.vec.lane (f.vd + m) n
    let rnd (m n : Nat) := rndOf s.seed.toNat (s.fget F.STEP_CURRENT.STEP) 1 f.mrm f.msat f.stream (f.ebase + 64 * m + n)
    x.bad = [] →
    (bits w0.toNat 63 58 = 1 → exec (.ld t .none .none) s = .next (s.putTile t
      ({ issued x o with vec := f.write x.vec f.mlen (fun m n =>
          let v := ofBytes (x.readMem (f.addr + 64 * w * m + w * n) w)
          match f.fmt with | 1 => Num.widen Num.bf16 v | 2 => Num.widen Num.fp16 v | _ => BitVec.ofNat 32 v) }, [])))
    ∧ (bits w0.toNat 63 58 = 2 → exec (.st t .none) s = .next (s.putTile t
        ((List.range f.mlen).foldl (fun y m => y.writeMem (f.addr + 64 * w * m)
          ((List.range 64).flatMap (fun n => match f.fmt with
            | 1 => toBytes 2 (Num.narrow Num.bf16 (rnd m n) (lane m n))
            | 2 => toBytes 2 (Num.narrow Num.fp16 (rnd m n) (lane m n))
            | _ => toBytes 4 (lane m n).toNat))) (issued x o), [])))
    ∧ (bits w0.toNat 63 58 = 3 → isMx f.fmt = true → ∃ v, exec (.ldmx t .none .none) s = .next (s.putTile t ({ issued x o with vec := v }, []))
        ∧ ∀ m k i, m < f.mlen → k < 2 → i < 32 → ∀ el, Num.MxElem.ofCode f.fmt = some el →
          some (v.lane (f.vd + m) (k * 32 + i)) =
            (Num.mxDecode el false (ofBytes (x.readMem (f.saddr + (2 * m + k)) 1))
              (Num.unpackElems el.width 32 (x.readMem (f.addr + (2 * m + k) * el.blockBytes) el.blockBytes)))[i]?)
    ∧ (bits w0.toNat 63 58 = 4 → ∀ el, Num.MxElem.ofCode f.fmt = some el → exec (.stmx t .none) s = .next (s.putTile t
        ((List.range (2 * f.mlen)).foldl (fun y k =>
          let b := Num.mxEncode el (match f.sel with | 0 => .floor | 1 => .ceil | _ => .explicit xb.toNat)
            ⟨(Num.RM.ofCode f.mrm).getD .rne, false, 0⟩
            ((List.range 32).map (fun i => (lane (k / 2) (k % 2 * 32 + i), (rnd (k / 2) (k % 2 * 32 + i)).word)))
          (y.writeMem (f.addr + k * el.blockBytes) (Num.packElems el.width b.2)).writeMem (f.saddr + k) (toBytes 1 b.1))
          (issued x o), []))))
  ∧ (∀ (s : State) (t : TileId) (o : Op), (s.tile t).executing 4 = some o →
      exec (.tahrOpComplete t) s = .next (s.putTile t (completed (s.tile t) o, [])))

/-! ## The NET port (R75, R76, R220, R236 to R249, R443, R554) -/

/-- The address a MOVE reads from or writes to in tile memory: TADDR, or the record that a region fill takes next (R242). -/
def moveAddr (x : Tile) (f : MoveF) : Nat :=
  if f.rgn then
    let c := mapGet 0 x.img.regions f.rid
    rgnBase c + mapGet 0 x.tails f.rid % rgnSlots c * rgnRec c
  else f.taddr

/-- R243, R244, R246: what a NET operation that issues sends, where its tile memory holds no uncorrectable word: a read of job memory,
a write of job memory, a remote write, each in one page part; an atomic on a declared page; an RREL that passes no TAIL. -/
def Obligations.NetOperationsSendTheirAccess : Prop :=
  ∀ (s : State) (t : TileId) (o : Op), Issues s t 5 o → (s.tile t).bad = [] →
    let x := s.tile t
    (∀ w0 w1, o.kind = .net w0 w1 →
      let f := moveF w0 w1
      (f.opc = 7 → f.dir = 2 → f.rgn = false → f.far % 2 ^ 21 + f.len ≤ 2 ^ 21 → 0 < f.len → s.jobOk f.far = true →
        exec (.moveJobToTile t) s = .next ((s.setTile t (issued x o)).emit (.jobRead t x.gen o.seq (BitVec.ofNat 64 f.far) f.len (s.homeRef f.far))))
      ∧ (f.opc = 7 → f.dir = 3 → f.rgn = false → f.far % 2 ^ 21 + f.len ≤ 2 ^ 21 → 0 < f.len → s.jobOk f.far = true →
        exec (.moveTileToJob t .none) s = .next ((s.setTile t { issued x o with
            unacked := x.unacked ++ [⟨o.n, 1, if f.cen then some f.ctr else none, o⟩] }).emit
          (.jobWrite t x.gen o.seq (BitVec.ofNat 64 f.far) (x.readMem f.taddr f.len) [] (s.homeRef f.far))))
      ∧ (f.opc = 7 → f.dir = 4 → exec (.moveRemoteWrite t .none) s = .next ((s.setTile t { issued x o with
            unacked := x.unacked ++ [⟨o.n, 1, none, o⟩] }).emit
          (.remoteWrite t x.gen o.seq (mkTile f.rx f.ry) (s.tileCode (mkTile f.rx f.ry)) (BitVec.ofNat 21 f.raddr) (x.readMem f.taddr f.len) []
            (if f.cen then some f.ctr else none))))
      ∧ (bits w0.toNat 63 60 = 8 →
        let r := rrelF w0
        let head := mapGet 0 x.heads r.rid
        r.count ≤ (mapGet 0 x.tails r.rid + 65536 - head) % 65536 →
        exec (.rrel t) s = .next (s.setTile t { completed (issued x o) o with heads := mapPut 0 r.rid ((head + r.count) % 65536) x.heads })))
    ∧ (∀ a aop wide v e rd, o.kind = .atom a aop wide v e rd → a.toNat % (if wide then 8 else 4) = 0 → s.jobOk a.toNat = true →
        exec (.atomicIssue t) s = .next ((s.setTile t (issued x o)).emit (.atomic t x.gen o.seq a aop wide v e (s.homeRef a.toNat))))

/-- R244, R247, R248, R252: a MOVE to or from the Commons puts one request per part at the port of its slice that serves the tile's row; a
region fill takes the next record and TAIL moves on. A slice of a half whose mesh is stopped is not reached from the other half (R260). -/
def Obligations.CommonsMovesQueueAtTheirSlices : Prop :=
  ∀ (s : State) (t : TileId) (o : Op) (w0 w1 : W64), Issues s t 5 o → o.kind = .net w0 w1 → (s.tile t).bad = [] →
    let x := s.tile t
    let f := moveF w0 w1
    f.opc = 7 → commonsParts 257 f.far f.len = [(f.far, f.len)] →
    let sl := (commonsAt f.far).1
    (decide (32 ≤ sl) = isEast t ∨ s.meshStopped (decide (32 ≤ sl)) = false) →
    let port := 2 * sl + t.toNat / 64 / 16
    let req (ta : Nat) (d : Option (List Byte × List Nat)) : SliceReq :=
      { t := t, gen := x.gen, seq := o.seq, off := (commonsAt f.far).2, len := f.len, taddr := ta, data := d }
    let queued (d : Option (List Byte × List Nat)) : SMap (List SliceReq) :=
      mapIns port (mapGet [] s.sliceQ port ++ [req (moveAddr x f) d]) s.sliceQ
    (f.dir = 0 → f.rgn = false →
      exec (.moveCommonsToTile t) s = .next { s.setTile t (issued x o) with sliceQ := queued none })
    ∧ (f.dir = 0 → f.rgn = true → exec (.moveCommonsToTile t) s = .next
        { s.setTile t { x with fifo := dropOne o x.fifo, tails := mapPut 0 f.rid ((mapGet 0 x.tails f.rid + 1) % 65536) x.tails,
                               exec := x.exec ++ [{ o with kind := .net (w0 ||| BitVec.ofNat 64 (moveAddr x f)) w1 }] } with
          sliceQ := queued none })
    ∧ (f.dir = 1 → f.rgn = false → f.taddr + f.len ≤ 2 ^ 21 → exec (.moveTileToCommons t .none) s = .next
        { s.setTile t { issued x o with unacked := x.unacked ++ [⟨o.n, 1, if f.cen then some f.ctr else none, o⟩] } with
          sliceQ := queued (some (x.readMem f.taddr f.len, [])) })

/-- R114, R220, R443, R554: a read's bytes arrive and its move completes, with its increment; an atomic's reply clears the
mark and writes sD, zero-extended for 4 bytes, unless it is a STORE; the last acknowledgement of a write applies its increment; a reply
with a stale generation is dropped and counted. -/
def RepliesCompleteTheirOperation : Prop :=
  ∀ (s : State) (t : TileId) (gen : Byte) (seq : W16), let x := s.tile t
    (∀ (o : Op) (w0 w1 : W64) (data : List Byte), x.execBySeq seq = some o → gen = x.gen → o.port = 5 → o.kind = .net w0 w1 →
      let f := moveF w0 w1
      f.opc = 7 → f.dir = 2 → f.cen = false → data.length = f.len →
      exec (.netOpComplete t gen seq data [] false) s = .next (s.setTile t (completed (x.writeMem f.taddr data) o)))
    ∧ (∀ (o : Op) (old : W64) a aop wide v e rd, x.execBySeq seq = some o → gen = x.gen → o.kind = .atom a aop wide v e rd →
      let y := completed x o
      let z := { y with core := { y.core with pend := y.core.pend.filter (fun p => p.2 != o.n) } }
      exec (.atomicReply t gen seq old false) s = .next (s.setTile t
        (if aop = 1 then z else z.setS rd.toNat (if wide then old else BitVec.ofNat 64 (old.toNat % 2 ^ 32)))))
    ∧ (∀ (u : Unacked), x.unacked.find? (fun v => BitVec.ofNat 16 v.n == seq) = some u → x.unacked.find? (fun v => v.n == u.n) = some u →
      gen = x.gen → u.parts ≤ 1 → u.inc = none →
      exec (.writeAcknowledge t gen seq false) s = .next (s.setTile t { x with unacked := x.unacked.filter (fun v => v.n != u.n) }))
    ∧ (gen ≠ x.gen → x.execBySeq seq ≠ none → ∀ data bad err old,
      exec (.netOpComplete t gen seq data bad err) s = .next (s.fadd F.FLT_GEN_DROPS.COUNT 1)
      ∧ exec (.atomicReply t gen seq old err) s = .next (s.fadd F.FLT_GEN_DROPS.COUNT 1))

/-- R348, R350, R442: a request that ends with an error response, or with none in time, ends its operation; the step is dirty and the
report 0x4002 carries the first unit of the packet. -/
def FailedRequestsEndTheirOperation : Prop :=
  ∀ (s : State) (t : TileId) (seq : W16) (head : W64) (o : Op), let x := s.tile t
    x.execBySeq seq = some o → o.port = 5 → isAtom o = false → x.unacked = [] →
    exec (.fabricErrorResponse t x.gen seq head) s =
      .next ((s.setTile t (completed x o)).tileErr t 0x4002 false 0 5 o.opid (data2 0 head.toNat))
    ∧ exec (.requestTimeout t x.gen seq) s = .next ((s.setTile t (completed x o)).tileErr t 0x4002 false 0 5 o.opid (data2 0 0))

/-- Replies, acknowledgements, error responses and timeouts. -/
def Obligations.NetworkAnswersEndTheirOperation : Prop :=
  RepliesCompleteTheirOperation ∧ FailedRequestsEndTheirOperation

/-- R234 to R240, R443: a remote write into a window is merged into tile memory, its counter incremented and it is acknowledged; one
outside every window, or to a tile that does not answer, is dropped whole with an error response; one whose issuer has left its GEN
changes nothing. A narrow write waits in the gather buffer, and a flushed entry is merged and acknowledged. -/
def Obligations.RemoteWritesReachTileMemory : Prop :=
  ∀ (s : State) (t src : TileId) (gen : Byte) (seq : W16) (a : BitVec 21) (data : List Byte) (ctr : Option (BitVec 5)),
    let x := s.tile t
    (gen ≠ (s.tile src).gen → ∀ bad narrow, exec (.remoteWriteArrival t src gen seq a data ctr bad) s = .next s
      ∧ exec (.gatherWrite t src gen seq a data ctr narrow) s = .next s)
    ∧ (gen = (s.tile src).gen → (s.answersAt t && x.inWindow a.toNat data.length) = false → ∀ bad narrow,
      exec (.remoteWriteArrival t src gen seq a data ctr bad) s = .next (s.emit (.writeAck src gen seq true))
      ∧ exec (.gatherWrite t src gen seq a data ctr narrow) s = .next (s.emit (.writeAck src gen seq true)))
    ∧ (gen = (s.tile src).gen → s.answersAt t = true → x.inWindow a.toNat data.length = true → x.gather = [] →
      exec (.remoteWriteArrival t src gen seq a data none []) s =
        .next ((s.setTile t (x.writeMem a.toNat data)).emit (.writeAck src gen seq false))
      ∧ (∀ c : BitVec 5, mapGet 0 x.arr c.toNat < 2 ^ 32 - 1 → exec (.remoteWriteArrival t src gen seq a data (some c) []) s =
          .next ((s.setTile t { x.writeMem a.toNat data with arr := mapPut 0 c.toNat (mapGet 0 x.arr c.toNat + 1) x.arr }).emit
            (.writeAck src gen seq false)))
      ∧ (x.phase ≠ phRolling → exec (.gatherWrite t src gen seq a data ctr false) s = .next (s.setTile t { x with gather :=
          [⟨a.toNat / 256, insBytes (a.toNat % 256) data [], [(src, gen, seq, ctr)], ctr.isSome, []⟩] })))
    ∧ (∀ g : Gather, x.gather = [g] → g.acks = [(src, gen, seq, none)] → g.bad = [] → x.bad = [] →
      exec (.gatherFlush t .none) s = .next ((s.setTile t { x with
          gather := []
          mem := g.bytesOf.foldl (fun m p => mapPut 0 p.1 p.2 m) x.mem }).emit (.writeAck src gen seq false)))

/-- R246, R248, R249, R260: a slice whose half's mesh runs serves the one request at its two ports: a read's bytes reach the tile's memory, a
write reaches the Commons and is acknowledged. -/
def Obligations.CommonsSliceServesItsRequest : Prop :=
  ∀ (s : State) (k : BitVec 6) (r : SliceReq), let port := 2 * k.toNat + r.t.toNat / 64 / 16
    let other := 2 * k.toNat + 1 - r.t.toNat / 64 / 16
    mapGet [] s.sliceQ port = [r] → mapGet [] s.sliceQ other = [] → s.meshStopped (decide (32 ≤ k.toNat)) = false → s.commonsBad = [] →
    let base := k.toNat * 2 ^ 25 + r.off
    let x := s.tile r.t
    let q : State := { s with sliceQ := mapDel port s.sliceQ, sliceTurn := mapIns k.toNat r.t.toNat s.sliceTurn }
    (∀ o, r.data = none → x.execBySeq r.seq = some o → r.gen = x.gen →
      exec (.commonsSliceAccess k .none) s = .next (q.setTile r.t (x.writeMem r.taddr (readBytes 0 s.commons base r.len))))
    ∧ (∀ bs n, r.data = some (bs, []) → x.unackedBySeq r.seq = some n → r.gen = x.gen → exec (.commonsSliceAccess k .none) s =
        .next ({ q with commons := writeBytes 0 base bs s.commons }.putTile r.t (x.acknowledge n)))

/-! ## Steps, rollback and the counters of a tile (R118 to R125) -/

/-- R118, R119, R121, R124, R125: the start mark resumes a tile at the gate, clean, under the step's number; a drained tile that has
ended reports and is clean or dirty; a rollback empties the queues and moves GEN on, and its end returns the tile to the gate with its
load values; TIL_CTRL freezes the counters and clears them. Cycle counters take free values. -/
def Obligations.TileStepEventsMoveThePhase : Prop :=
  ∀ (s : State) (t : TileId), let x := s.tile t
    (s.markDue x = true → ∃ s', exec (.stepStartMark t) s = .next s' ∧ (x.resume ≠ .next → (s'.tile t).phase = phRunning
      ∧ (s'.tile t).dirty = false ∧ (s'.tile t).step = BitVec.ofNat 32 (s.fget F.STEP_CURRENT.STEP)
      ∧ (s'.tile t).core.pc = (if x.resume = .entry then x.img.entry else x.img.resume)))
    ∧ (x.phase = phEnding → x.drained = true → x.dupOwn = [] → x.freeze = true → exec (.endOfStepReport t) s =
        .next ((s.setTile t { x with phase := if x.dirty then phDirty else phClean }).emit (.tileReport t x.dirty)))
    ∧ (x.inStep = true → t ∈ s.rolling → ∃ s', exec (.tileRollback t) s = .next s' ∧ (s'.tile t).phase = phRolling
      ∧ (s'.tile t).fifo = [] ∧ (s'.tile t).unacked = [] ∧ (s'.tile t).gather = [] ∧ (s'.tile t).gen = x.gen + 1
      ∧ (s'.tile t).mem = x.mem)
    ∧ (x.phase = phRolling → x.exec = [] → (∀ u ∈ s.rolling, (s.tile u).inStep = false) → ∃ s', exec (.tileRollbackDone t) s = .next s' ∧ (s'.tile t).phase = phGate
      ∧ (s'.tile t).core = Core.load x.img ∧ (s'.tile t).resume = .resume ∧ (s'.tile t).arr = [] ∧ (s'.tile t).mem = x.mem)
    ∧ (s.tileServes t = true → x.counting = false → exec (.tilCtrlFreeze t true) s = .next (s.setTile t { x with freeze := true })
      ∧ exec (.tilCtrlClear t true) s = .next (s.setTile t { x with
          freeze := true
          opsDone := 0
          cntSeed := 0
          eps := x.eps.map (fun p => (p.1, { p.2 with msgs := 0, stalls := 0 })) }))

/-! ## Channels, probes and queue-depth sampling (R274 to R288, R334 to R336) -/

/-- R281, R288: a send that issues takes the credit of its whole record and its number, and the message leaves; its acknowledgement is
awaited. Returned credit is added. -/
def SendsTakeCreditAndReturnsGiveIt : Prop :=
  ∀ (s : State) (t : TileId), let x := s.tile t
    (∀ (o : Op) (ch : BitVec 6) (a : BitVec 21) (len : Nat) (h : BitVec 6), Issues s t 5 o → o.kind = .send ch a len h → 0 < len → x.bad = [] →
      let e := x.ep ch
      exec (.sendIssue t .none) s = .next ((s.setTile t { (issued x o).setEp ch { e with
            credit := e.credit - (1 + cdiv len 64)
            seq := e.seq + 1
            msgs := if x.counting then min (e.msgs + 1) (2 ^ 32 - 1) else e.msgs } with
          unacked := x.unacked ++ [⟨o.n, cdiv len 256, none, o⟩] }).emit
        (.message e.peerId ⟨⟨s.ord, t, ch⟩, x.gen, h, len, e.seq, BitVec.ofNat 32 (s.fget F.STEP_CURRENT.STEP), s.epochNow,
          x.readMem a.toNat len, []⟩)))
    ∧ (∀ (ep : BitVec 6) (units : W16) (epoch : BitVec 4), let e := x.ep ep
      e.valid = true → e.isRecv = false → (e.affected = true → epoch = s.epochNow) →
      (x.counting = false →
        exec (.creditReturnArrival t ep units epoch) s = .next (s.setTile t (x.setEp ep { e with credit := e.credit + units.toNat })))
      ∧ ∃ s', exec (.creditReturnArrival t ep units epoch) s = .next s' ∧ ((s'.tile t).ep ep).credit = e.credit + units.toNat)

/-- R274, R275, R277: a whole message that fits without a wrap is written to the ring of its endpoint, header unit first, WR moves past
its record, and each of its blocks of 256 bytes is acknowledged; the bytes after the payload are not stated. -/
def MessagePlacementFillsTheRing : Prop :=
  ∀ (s : State) (t : TileId) (ep : BitVec 6) (m : MsgIn), let x := s.tile t
    let e := x.ep ep
    let units := 1 + cdiv m.len 64
    s.staleBlock m.who m.gen = false → s.answersAt t = true → e.valid = true → e.isRecv = true → e.inCommons = false → e.affected = false →
    m.who ∈ e.senders → 0 < m.len →
    m.len ≤ e.maxMsg → m.data.length = m.len → units ≤ e.units - e.wr % e.units → e.used + units ≤ e.units → e.wr < 2 * e.units →
    x.skews = [] →
    ∃ s' pad, exec (.messagePlacement t ep [m]) s = .next s' ∧ pad.length = cdiv m.len 64 * 64 - m.len
      ∧ s'.out = s.out ++ List.replicate (cdiv m.len 256) (.messageAck m.who m.gen m.seq false) ∧ s'.commons = s.commons ∧ s'.mem = s.mem
      ∧ (s'.tile t).ep ep = { e with
          wr := (e.wr + units) % (2 * e.units)
          recs := e.recs ++ [⟨e.wr, units, 0, m.who, headerWord m.who m.hidx m.len, m.len, 0, m.epoch⟩] }
      ∧ (s'.tile t).mem = (((x.writeMem (e.unitAddr e.wr) (headerUnit m)).writeMem (e.unitAddr e.wr + 64) m.data).writeMem
          (e.unitAddr e.wr + 64 + m.len) pad).mem

/-- R277, R284, R324: a later block is written behind the blocks before it and is acknowledged; a block of no message begun is refused,
and both tiles' steps are dirty. -/
def LaterBlocksExtendTheirMessage : Prop :=
  ∀ (s : State) (t : TileId) (ep : BitVec 6) (who : EndpointId) (gen : Byte) (epoch : BitVec 4) (seq : W32) (at_ : Nat)
    (data : List Byte), let x := s.tile t
    let e := x.ep ep
    s.staleBlock who gen = false → s.answersAt t = true → e.affected = false → e.inCommons = false →
    (∀ r : Rec, e.partOf who = some r → at_ % 256 = 0 → 0 < data.length → at_ + data.length = min (at_ + 256) r.len → data.length ≤ r.left →
      exec (.messageBlockArrival t ep who gen epoch seq at_ data []) s = .next ((s.setTile t
        ((x.writeMem (e.unitAddr r.start + 64 + at_) data).setEp ep { e with
          recs := e.recs.map (fun q => if q = r then { q with left := r.left - data.length } else q) })).emit
        (.messageAck who gen seq false)))
    ∧ (e.partOf who = none → ∀ bad, exec (.messageBlockArrival t ep who gen epoch seq at_ data bad) s =
        .next ((s.tileErr t 0x1033 false 0 ep.toNat 0
          (data2 who.ep.toNat (who.ord.toNat + (s.tileLoc who.tile).toNat * 2 ^ 32))).emit (.messageAck who gen seq true)))

/-- R274, R275, R277, R284: a message and its later blocks. -/
def Obligations.MessagesFillTheRing : Prop :=
  MessagePlacementFillsTheRing ∧ LaterBlocksExtendTheirMessage

/-- R280, R285: a release that issues moves RD past its record and returns its units as credit; a stalled send is probed for, and a
probe that comes back to its origin stops the context, while another is forwarded with one more hop. -/
def ReleasesAndProbesTravel : Prop :=
  (∀ (s : State) (t : TileId) (o : Op) (ch : BitVec 6) (r : Rec) (rs : List Rec), let x := s.tile t
    let e := x.ep ch
    Issues s t 5 o → o.kind = .release ch → e.recs = r :: rs → exec (.releaseIssue t) s = .next ((s.setTile t
      ((completed (issued x o) o).setEp ch { e with
        rd := (r.start + r.units) % (2 * e.units)
        recs := rs
        msgs := if x.counting then min (e.msgs + 1) (2 ^ 32 - 1) else e.msgs })).emit
      (.credit (headerSender (x.header s.commons ch r)) r.units r.epoch)))
  ∧ (∀ (s : State) (t : TileId) (o : Op) (ch : BitVec 6) (p : Probe), let x := s.tile t
    let me : ProbeId := ⟨⟨s.ord, t, ch⟩, o.pc⟩
    (x.stalledSend = some (o, ch) → exec (.stallDetect t) s = .next (s.emit (.probe (x.ep ch).peerId ⟨me, me, 1⟩)))
    ∧ (x.blockedSend = some (o, ch) → p.origin = me → exec (.probeArrival t p) s = .next (s.tileErr t 0x1030 true 0 ch.toNat o.opid
        (data2 (probeWord p.origin 0) (probeWord p.forwarder p.hops))))
    ∧ (x.blockedSend = some (o, ch) → p.origin ≠ me → p.hops < 16 →
        exec (.probeArrival t p) s = .next (s.emit (.probe (x.ep ch).peerId ⟨p.origin, me, p.hops + 1⟩))))

/-- R280 to R288: credit and probes. -/
def Obligations.CreditMovesWithMessages : Prop := SendsTakeCreditAndReturnsGiveIt ∧ ReleasesAndProbesTravel

/-- R334 to R336: a sample adds 1 to one bin of each configured endpoint's histogram; CLEAR empties them and the peaks; a snapshot is
taken when it is asked for, and shown when it is done. -/
def Obligations.QueueDepthIsSampledAndShown : Prop :=
  ∀ s : State,
    (∀ t : TileId, s.fbit F.WV_QS_CTRL.EN = true → (s.tile t).phase = phRunning → exec (.queueDepthSample t) s =
      .next (s.setTile t { s.tile t with eps := (s.tile t).eps.map (fun p => (p.1, p.2.sample)) }))
    ∧ (∀ v : W32, let p := bits v.toNat 4 0
      8 ≤ p → p ≤ 24 → bit v.toNat 30 = true → ∃ s', exec (.qsClear v) s = .next s' ∧
        s'.regs = ((s.fset F.WV_QS_CTRL.EN (bits v.toNat 31 31)).fset F.WV_QS_CTRL.PERIOD_LOG2 p).regs
        ∧ ∀ q ∈ s'.tiles, (∀ e ∈ q.2.eps, e.2.hist = []) ∧ ∀ k ∈ q.2.skews, k.peak = 0)
    ∧ (∀ v : W32, bits v.toNat 31 30 = 0 → s.fbit F.WV_QS_STATUS.BUSY = false → ∃ s', exec (.qsSnapshot v) s = .next s'
      ∧ s'.snapshot = some (snapshotOf (s.tile (mkTile (bits v.toNat 29 24) (bits v.toNat 23 19))) 0 (bits v.toNat 5 0))
      ∧ s'.tiles = s.tiles)
    ∧ (∀ v : W32, s.fbit F.WV_QS_STATUS.BUSY = true → exec (.qsSnapshot v) s = .next (s.refuseWrite 0xF0044 v.toNat))
    ∧ (∀ ws empty sat, s.snapshot = some (ws, empty, sat) → ∃ s', exec (.qsSnapshotDone) s = .next s' ∧ s'.snapshot = none
      ∧ s'.fbit F.WV_QS_STATUS.BUSY = false ∧ s'.tiles = s.tiles)

/-! ## Registers (R4 to R11, R58, R69, R70, R392, R404) -/

/-- R9: a field that the hardware sets reads as it was set, and no other field changes. A written field takes the value, clears or sets
the bits written 1, or keeps what it held, by its access kind; a value out of range is refused. -/
def Obligations.RegisterFieldsTakeTheirAccessKind : Prop :=
  ∀ (s : State) (f : Fld) (v : Nat), Rising s.regs → v < 2 ^ f.width →
    (s.fset f v).fget f = v ∧ (∀ g : Fld, g.key ≠ f.key → (s.fset f v).fget g = s.fget g) ∧ Rising (s.fset f v).regs
    ∧ (f.acc = .rw ∨ f.acc = .rwl → s.writeFld f v = if f.lo ≤ v ∧ v ≤ f.hi then (true, s.fset f v) else (false, s))
    ∧ (f.acc = .w1c → s.fget f < 2 ^ f.width → ∀ i, ((s.writeFld f v).2.fget f).testBit i = ((s.fget f).testBit i && !v.testBit i))
    ∧ (f.acc = .w1s → s.fget f < 2 ^ f.width → ∀ i, ((s.writeFld f v).2.fget f).testBit i = ((s.fget f).testBit i || v.testBit i))
    ∧ (f.acc = .ro ∨ f.acc = .rc ∨ f.acc = .wo → (s.writeFld f v).2 = s)

/-- The host's accesses are served: the device is on, awake and READY, its host port is released, and this device is the lead. -/
def HostServed (s : State) : Prop :=
  s.isOff = false ∧ s.hostPort = true ∧ s.isLead = true ∧ s.fbit F.HQ_STATUS.READY = true ∧ (s.move 158).point = 0

/-- An access by `path` is served. -/
def Served (path : Path) (s : State) : Prop := path = .pcie → HostServed s

/-- The read `c` of the register at `off` returns `word` and leaves `after`. -/
def ReadsRegister (c : Instr) (off size : Nat) (word : State → Nat) (after : State → State) : Prop :=
  ∀ s : State, HostServed s → exec c s = .next ((after s).emit (.readData .pcie off (BitVec.ofNat 64 (word s % 2 ^ (8 * size)))))

/-- R9, R61, R92, R103, R261, R317, R344, R369, R385, R389, R427, R443, R523: a read returns the counts of its register and clears those
that are cleared by reading. -/
def CountingRegistersClearWhenRead : Prop :=
  ReadsRegister .stepStaleRead 0xB0028 4 (fun s => s.fget F.STEP_STALE.COUNT) (fun s => s.fset F.STEP_STALE.COUNT 0)
  ∧ ReadsRegister .homeStatusRead 0xA0004 4 (fun s => s.fget F.HOME_STATUS.POISON_HOLD * 2 ^ 31
      + s.fget F.HOME_STATUS.SWEEP_STALLS * 2 ^ 16 + s.fget F.HOME_STATUS.SWEEP_PASS_US) (fun s => s.fset F.HOME_STATUS.SWEEP_STALLS 0)
  ∧ (∀ k : BitVec 3, let n := k.toNat
      ReadsRegister (.nmErrRead k) (0xE0000 + 4 * n) 4 (fun s => s.fget (F.NM_ERR.CE.ix n) * 2 ^ 16
        + s.fget (F.NM_ERR.UE.ix n) * 2 ^ 8 + s.fget (F.NM_ERR.HOT.ix n) * 2 + s.fget (F.NM_ERR.TRAINED.ix n))
        (fun s => (s.fset (F.NM_ERR.CE.ix n) 0).fset (F.NM_ERR.UE.ix n) 0))
  ∧ (∀ p : PortNo, let n := p.toNat
      ReadsRegister (.olPortErrRead p) (0xC0110 + 0x20 * n) 8 (fun s => s.fget (F.OL_PORT_ERR.CW_CORR.ix n) * 2 ^ 48
        + s.fget (F.OL_PORT_ERR.CW_UNCORR.ix n) * 2 ^ 32 + s.fget (F.OL_PORT_ERR.CRC_FAIL.ix n) * 2 ^ 16 + s.fget (F.OL_PORT_ERR.REPLAYS.ix n))
        (fun s => (((s.fset (F.OL_PORT_ERR.CW_CORR.ix n) 0).fset (F.OL_PORT_ERR.CW_UNCORR.ix n) 0).fset (F.OL_PORT_ERR.CRC_FAIL.ix n) 0).fset
          (F.OL_PORT_ERR.REPLAYS.ix n) 0)
      ∧ ReadsRegister (.olPortTrafficRead p) (0xC0118 + 0x20 * n) 4
        (fun s => s.fget (F.OL_PORT_TRAFFIC.CM_MARKED.ix n) * 2 ^ 16 + s.fget (F.OL_PORT_TRAFFIC.DROPPED.ix n))
        (fun s => (s.fset (F.OL_PORT_TRAFFIC.CM_MARKED.ix n) 0).fset (F.OL_PORT_TRAFFIC.DROPPED.ix n) 0))
  ∧ ReadsRegister .wvFlushCntRead 0xF0018 4 (fun s => s.fget F.WV_FLUSH_CNT.COUNT) (fun s => s.fset F.WV_FLUSH_CNT.COUNT 0)
  ∧ ReadsRegister .stepVoteTimeRead 0xB0050 4 (fun s => s.fget F.STEP_VOTE_TIME.MAX * 2 ^ 16 + s.fget F.STEP_VOTE_TIME.LAST)
      (fun s => s.fset F.STEP_VOTE_TIME.MAX 0)
  ∧ ReadsRegister .stepDigestErrRead 0xB0054 4 (fun s => s.fget F.STEP_DIGEST_ERR.CRC * 2 ^ 24 + s.fget F.STEP_DIGEST_ERR.SUM * 2 ^ 16
        + s.fget F.STEP_DIGEST_ERR.NODE * 2 ^ 8 + s.fget F.STEP_DIGEST_ERR.RESULT)
      (fun s => (((s.fset F.STEP_DIGEST_ERR.CRC 0).fset F.STEP_DIGEST_ERR.SUM 0).fset F.STEP_DIGEST_ERR.NODE 0).fset F.STEP_DIGEST_ERR.RESULT 0)
  ∧ ReadsRegister .fltHardenRead 0x70038 4 (fun s => s.fget F.FLT_HARDEN.CORRECTED * 2 ^ 16 + s.fget F.FLT_HARDEN.SCRUB_US)
      (fun s => s.fset F.FLT_HARDEN.CORRECTED 0)
  ∧ ReadsRegister .fltGenDropsRead 0x7003C 4 (fun s => s.fget F.FLT_GEN_DROPS.COUNT) (fun s => s.fset F.FLT_GEN_DROPS.COUNT 0)
  ∧ ReadsRegister .evtSuppressRead 0x8002C 4 (fun s => s.fget F.EVT_SUPPRESS.COUNT) (fun s => s.fset F.EVT_SUPPRESS.COUNT 0)
  ∧ (∀ s : State, HostServed s → (∀ r : RegD, regAt 0x70218 = some (r, 0) → ∀ f ∈ r.fields, s.fget f = 0) →
      s.meshStopped (eastCol (s.fget F.FLT_MESH_CNT_SEL.PX)) = false →
      let key (n : Nat) : Nat := cntKey (s.fget F.FLT_MESH_CNT_SEL.PX) (s.fget F.FLT_MESH_CNT_SEL.PY) (8 * n)
      ∃ s', exec .fltMeshCntRead s = .next s' ∧ s' = { s with mesh := s'.mesh, out := s'.out }
        ∧ s'.out = s.out ++ [.readData .pcie 0x70218
            (BitVec.ofNat 64 ((List.range 8).map (fun n => mapGet 0 s.mesh.cnt (key n) * 256 ^ n)).sum)]
        ∧ ∀ k, mapGet 0 s'.mesh.cnt k = if (List.range 8).any (fun n => key n == k) then 0 else mapGet 0 s.mesh.cnt k)

/-- Offsets of the registers whose writes are commands of their own. -/
def hasItsRow : List Nat :=
  [0x10000, 0x10008, 0x10010, 0x10018, 0x1001C, 0x30000, 0x40000, 0x40004, 0x40008, 0x40010, 0x40400, 0x60008, 0x6000C, 0x60010, 0x60014,
    0x70000, 0x70004, 0x70028, 0x80030, 0x80040, 0xA0010, 0xB0018, 0xB0020, 0xB0040, 0xC0000, 0xF0040, 0xF0044]

/-- R6, R8, R404: a write sets a register as its table says; the halves of a 64-bit register go through its latches, a read clearing what
that half clears by reading; a misaligned read returns all ones and leaves one record. -/
def RegisterAccessesFollowTheirTable : Prop :=
  (∀ (s : State) (off : BitVec 26) (n : Nat), HostServed s → aligned off.toNat n = false → exec (.bar0MisalignedRead off n) s =
    .next ((s.barEvent 0 off.toNat).emit (.readData .pcie off.toNat (BitVec.ofNat 64 (2 ^ (if n = 4 then 32 else 64) - 1)))))
  ∧ ∀ (s : State) (path : Path) (off : BitVec 26) (r : RegD) (i : Nat), Served path s → regAt off.toNat = some (r, i) →
    regAt (r.at i) = some (r, i) → off.toNat < tilBase → off.toNat % 4 = 0 →
    let low := off.toNat = r.at i
    let high := off.toNat = r.at i + 4
    let base := r.at i
    (∀ v : W64, r.wide = false → low → r.off ∉ hasItsRow →
      exec (.registerWrite path off 4 v) s = .next (s.writeReg r i (v.toNat % 2 ^ 32) nothingLocked))
    ∧ (∀ v : W64, r.wide = true → low → off.toNat % 8 = 0 → r.off ∉ hasItsRow →
      exec (.registerWrite path off 8 v) s = .next (s.writeReg r i v.toNat nothingLocked))
    ∧ (∀ v : W32, r.wide = true → low → exec (.writeLatchLoad path off v) s = .next { s with wlatch := mapIns base v s.wlatch })
    ∧ (∀ v : W32, r.wide = true → high → r.off ∉ hasItsRow → exec (.upperHalfWrite path off v) s =
      .next ({ s with wlatch := mapDel base s.wlatch }.writeReg r i
        (v.toNat * 2 ^ 32 + ((mapFind s.wlatch base).map BitVec.toNat).getD (s.regValue r i % 2 ^ 32)) nothingLocked))
    ∧ (r.wide = true → low → base ≠ 0x70218 → exec (.lowerHalfRead path off) s =
      .next ((({ s with rlatch := mapIns base (BitVec.ofNat 32 (s.regValue r i / 2 ^ 32)) s.rlatch }).clearRc r i
          (if r.off = 0xC0110 then 63 else 31) 0).emit (.readData path off.toNat (BitVec.ofNat 64 (s.regValue r i % 2 ^ 32)))))
    ∧ (r.wide = true → high → base ≠ 0x70218 → exec (.upperHalfRead path off) s =
      .next (let cleared (t : State) : State := if r.off = 0xC0110 then t else t.clearRc r i 63 32
        match mapFind s.rlatch base with
        | some u => (cleared { s with rlatch := mapDel base s.rlatch }).emit (.readData path off.toNat (BitVec.ofNat 64 u.toNat))
        | none => (cleared s).emit (.readData path off.toNat (BitVec.ofNat 64 (s.regValue r i / 2 ^ 32)))))

/-- R6 to R9: register accesses. -/
def Obligations.RegistersAreReadAndWritten : Prop := CountingRegistersClearWhenRead ∧ RegisterAccessesFollowTheirTable

/-- R58, R69, R70, R392: the commit interval, the buddy and the coordinators take what is written, and refuse what they must. -/
def Obligations.StepRegistersTakeTheirValue : Prop :=
  ∀ (s : State) (v : W32),
    (v.toNat % 65536 ≠ 0 → exec (.stepIntervalWrite v) s = .next (s.fset F.STEP_INTERVAL.K (v.toNat % 65536)))
    ∧ (v.toNat % 65536 = 0 → exec (.stepIntervalWrite v) s = .next (s.refuseWrite 0xB0018 v.toNat))
    ∧ (bit v.toNat 31 = true → s.fbit F.STEP_BUDDY.EN = false → let b := s.setBuddy v.toNat
        (∀ a : BuddyAnswer, b.buddyOrd ≠ b.ord.toNat → a.domain.toNat ≠ b.fget F.STEP_DOMAIN.DOMAIN → a.sources.toNat < 4 → a.storeFull = false →
          ∃ s', exec (.buddyEnable v (some a)) s = .next s' ∧ s'.regs = (b.fset F.STEP_BUDDY.EN 1).regs ∧ s'.mirror.first = true
            ∧ s'.mem = s.mem ∧ s'.out = s.out)
        ∧ (b.buddyOrd ≠ b.ord.toNat → exec (.buddyEnable v none) s = .next (b.mirrorLost 2)))
    ∧ (bit v.toNat 31 = false → s.fbit F.STEP_BUDDY.EN = true → s.buddyDiffers v.toNat = false → exec (.buddyDisable v) s =
        .next { s.fset F.STEP_BUDDY.EN 0 with mirror := { s.mirror with former := some (s.buddyOrd, false), formerFirst := s.mirror.first } })
    ∧ (let sb := bits v.toNat 31 31
       let st := bits v.toNat 29 16
       let pr := bits v.toNat 13 0
       (s.stepPhase ≠ phStepIdle ∨ (sb = 1 ∧ st = pr) → exec (.stepCoordWrite v) s = .next (s.refuseWrite 0xB0040 v.toNat))
       ∧ (s.stepPhase = phStepIdle → ¬ (sb = 1 ∧ st = pr) → pr < s.devices → st < s.devices → s.fbit F.HQ_STATUS.JOB_HELD = false →
          ∃ s', exec (.stepCoordWrite v) s = .next s' ∧ s'.mem = s.mem
            ∧ s'.regs = (((s.fset F.STEP_COORD.SB_EN sb).fset F.STEP_COORD.STANDBY st).fset F.STEP_COORD.PRIMARY pr).regs))

/-! ## Memory at its home (R32 to R107, R551) -/

/-- R85, R94: device memory reads what was written last, the rest unchanged, and keeps its canonical form; so do the tile memories and
the Commons, which are kept in the same way. -/
def Obligations.MemoryReadsWhatWasWritten : Prop :=
  ∀ (m : List Host.Cell) (a : Nat) (bs : List Byte), Memory.wf m = true →
    Memory.wf (writeBytes 0 a bs m) = true ∧ readBytes 0 (writeBytes 0 a bs m) a bs.length = bs
    ∧ (∀ x, x < a ∨ a + bs.length ≤ x → mapGet 0 (writeBytes 0 a bs m) x = mapGet 0 m x)
    ∧ ∀ (src dst n x : Nat),
        mapGet 0 (copyCells src dst n m) x = if dst ≤ x ∧ x < dst + n then mapGet 0 m (src + (x - dst)) else mapGet 0 m x

/-- An access of `n` bytes at `a` lies in one sub-block of page `lpn`, homed here, with neither half in reset, and the entry that its
touch uses is `e`. -/
structure AtHome (s : State) (a n lpn sub : Nat) (e : Entry) : Prop where
  opened : s.homeClosed = false
  halves : ∀ h, s.halfClosed h = false
  one : partsOf a n = [(a, n)]
  placed : ∃ r : Range, s.place a = some (r, s.ord.toNat, lpn, sub)
  entry : (s.touch lpn).1 = e
  free : s.home.cowOf lpn sub = none

/-- R36, R54, R60, R65: a tile's write goes to the working frame of a sub-block that has been copied, to an unversioned page in place, and
is refused for a constant page; the first write of a sub-block starts its copy. The host's write goes to the committed frame. A half in
reset answers nothing but error responses (R260). -/
def HomeWritesLand : Prop :=
  ∀ (s : State) (req : Requester) (a : W64) (data : List Byte) (lpn sub : Nat) (e : Entry),
    (AtHome s a.toNat data.length lpn sub e →
      let s1 := (s.touch lpn).2
      let off := a.toNat % Config.subBytes
      let lands (t : State) (base : Nat) : State :=
        (t.memWrite (base + off) data).queueAcc lpn ⟨req, a.toNat, data.length, base + off, false, data, none⟩
      let go := exec (.jobMemoryWriteAtHome req a data) s
      (isHostReq req = false → e.kind = 1 → e.mask.getLsbD sub = true → go = .next (lands s1 (e.workingAt sub)))
      ∧ (isHostReq req = false → e.kind = 1 → e.mask.getLsbD sub = false →
          go = .next { s1 with home := { s1.home with cows := s1.home.cows ++ [⟨lpn, sub, [.write req a.toNat data]⟩] } })
      ∧ (e.kind = 2 → go = .next (lands (s1.setEntry lpn (e.markWritten sub s1.markSerial)) (e.committedAt sub)))
      ∧ (isHostReq req = false → e.kind = 3 → go = .next (s1.emit (.homeErr req a.toNat)))
      ∧ (isHostReq req = true → e.kind = 1 ∨ e.kind = 3 → (s1.entry lpn).poison = false → s1.hostMayWrite = true →
          go = .next (lands (s1.noteHostWrite e lpn sub) (e.committedAt sub)))
      ∧ (isHostReq req = true → e.kind = 1 ∨ e.kind = 3 → s1.hostMayWrite = false →
          go = .next ((s1.barEvent 2 a.toNat).emit (.homeAck req a.toNat data.length))))
    ∧ (∀ r : Range, s.homeClosed = false → partsOf a.toNat data.length = [(a.toNat, data.length)] →
        s.place a.toNat = some (r, s.ord.toNat, lpn, sub) → s.halfClosed (decide (32 ≤ lpn % 64)) = true →
        exec (.jobMemoryWriteAtHome req a data) s = .next (s.emit (.homeErr req a.toNat)))
    ∧ (s.homeClosed = true → exec (.jobMemoryWriteAtHome req a data) s = .next (s.emit (.homeErr req a.toNat)))

/-- R55, R57, R60, R64, R82: a read takes the copy that the mask names, the host's the committed one, which it waits for while the vote
runs; when memory completes it, data or acknowledgement returns. -/
def HomeReadsReturn : Prop :=
  ∀ (s : State) (req : Requester) (a : W64) (n lpn sub : Nat) (e : Entry), AtHome s a.toNat n lpn sub e →
    let s1 := (s.touch lpn).2
    let at_ := (if isHostReq req then e.committedAt sub else e.currentAt sub) + a.toNat % Config.subBytes
    let go := exec (.jobMemoryReadAtHome req a n) s
    (e.kind ≠ 0 → (e.kind = 2 → e.stale = false) → s1.holdsHostRead req e = false →
        go = .next (s1.queueAcc lpn ⟨req, a.toNat, n, at_, true, s.memRead at_ n, none⟩))
    ∧ (isHostReq req = true → e.kind = 1 → s1.fbit F.STEP_STATUS.COMMIT_BUSY = true →
        go = .next { s1 with home := { s1.home with hostReads := s1.home.hostReads ++ [(req, a.toNat, n)] } })
    ∧ (e.kind = 2 → e.stale = true → e.mask.getLsbD sub = false → isHostReq req = false → 0 < s1.fget F.STEP_STALE.COUNT →
        go = .next ({ s1.fadd F.STEP_STALE.COUNT 1 with free := s1.free + 1 }.queueAcc lpn
          ⟨req, a.toNat, n, at_, true, (List.range n).map (Config.freeByte (s1.free + 1)), none⟩))
    ∧ (e.kind = 2 → e.stale = true → e.mask.getLsbD sub = false → isHostReq req = true →
        go = .next (s1.queueAcc lpn ⟨req, a.toNat, n, at_, true, List.replicate n 0xFF#8, none⟩))

/-- R82, R103, R104: memory completes an access; one that it corrects is counted for its row, and a context's read of a lost unit that no
buddy restores ends with an error response. -/
def MemoryAccessesComplete : Prop :=
  ∀ (s : State) (req : Requester) (a : W64) (n bank row : Nat) (c : HomeAcc), s.home.accOf req a.toNat n = some c →
    let s1 : State := { s with home := { s.home with accs := dropOne c s.home.accs } }
    let reply (t : State) : State := t.emit (if c.read then .homeData c.req c.a c.data else .homeAck c.req c.a c.len)
    (s.accLost c = false → exec (.memoryAccessComplete req a n .clean bank row none) s = .next (reply s1))
    ∧ (s.accLost c = false → c.at_ / Config.pageBytes < 2 ^ 23 → exec (.memoryAccessComplete req a n .corrected bank row none) s =
        .next (reply (s1.countCorrected (c.at_ / Config.pageBytes % 8) bank row)))
    ∧ (∀ r o lpn sub, c.read = true → 0 < c.len → isHostReq c.req = false → s.place c.a = some (r, o, lpn, sub) → entryUnit lpn ≠ c.at_ / 64 → ∃ s',
        exec (.memoryAccessComplete req a n .uncorrectable bank row none) s = .next s' ∧ s'.out.getLast? = some (.homeErr c.req c.a)
          ∧ s'.home.accs = dropOne c s.home.accs ∧ c.at_ / 64 ∈ s'.memBad)

/-- R52, R53, R54: an atomic reads, computes and writes at once; on a sub-block of a versioned page that has not been copied it first
starts the copy. -/
def AtomicsExecute : Prop :=
  ∀ (s : State) (req : Requester) (a : W64) (aop : BitVec 4) (wide : Bool) (x ex : W64) (buddy : Option (List Byte)) (lpn sub : Nat)
    (e : Entry),
    let n := if wide then 8 else 4
    AtHome s a.toNat n lpn sub e → a.toNat % n = 0 → aop.toNat ≤ 11 → e.kind ≠ 0 → (e.kind = 3 → aop = 0) → (e.kind = 2 → e.stale = false) →
    let s1 := (s.touch lpn).2
    let at_ := e.currentAt sub + a.toNat % Config.subBytes
    let old := ofBytes (s.memRead at_ n)
    let t := if aop ≠ 1 ∨ 2 ^ 23 ≤ at_ / Config.pageBytes then s1.relayed lpn at_ a.toNat n true else s1
    s1.lostHere lpn at_ n = false →
    (∀ v, atomNew aop.toNat (8 * n) old (x.toNat % 2 ^ (8 * n)) (ex.toNat % 2 ^ (8 * n)) = some v →
      exec (.atomicExecute req a aop wide x ex .good buddy) s = .next
        (if e.kind = 2 then ((t.setEntry lpn (e.markWritten sub s1.markSerial)).memWrite at_ (toBytes n v)).emit (.homeOld req (BitVec.ofNat 64 old))
         else if e.mask.getLsbD sub then (t.memWrite at_ (toBytes n v)).emit (.homeOld req (BitVec.ofNat 64 old))
         else { t with home := { t.home with cows := t.home.cows ++ [⟨lpn, sub, [.atomic req a.toNat aop wide x ex]⟩] } }))
    ∧ (atomNew aop.toNat (8 * n) old (x.toNat % 2 ^ (8 * n)) (ex.toNat % 2 ^ (8 * n)) = none →
      exec (.atomicExecute req a aop wide x ex .good buddy) s = .next (t.emit (.homeOld req (BitVec.ofNat 64 old))))

/-- R51 to R53: what each atomic writes, on numbers of `w` bits: nothing for LOAD and for CAS where the values differ. -/
def AtomicsWriteTheirResult : Prop :=
  ∀ w old x ex : Nat, old < 2 ^ w → x < 2 ^ w →
    atomNew 0 w old x ex = none ∧ atomNew 1 w old x ex = some x ∧ atomNew 2 w old x ex = some x
    ∧ atomNew 3 w old x ex = (if old = ex then some x else none) ∧ atomNew 4 w old x ex = some ((old + x) % 2 ^ w)
    ∧ atomNew 5 w old x ex = some (if (BitVec.ofNat w old).toInt ≤ (BitVec.ofNat w x).toInt then old else x)
    ∧ atomNew 6 w old x ex = some (if (BitVec.ofNat w x).toInt ≤ (BitVec.ofNat w old).toInt then old else x)
    ∧ atomNew 7 w old x ex = some (min old x) ∧ atomNew 8 w old x ex = some (max old x)
    ∧ (∀ i, (atomNew 9 w old x ex).map (fun v => v.testBit i) = some (old.testBit i && x.testBit i))
    ∧ (∀ i, (atomNew 10 w old x ex).map (fun v => v.testBit i) = some (old.testBit i || x.testBit i))
    ∧ ∀ i, (atomNew 11 w old x ex).map (fun v => v.testBit i) = some (old.testBit i ^^ x.testBit i)

/-- R54, R55, R104: a copy-on-write copies the committed copy over the other, sets the mask bit, and then serves the requests that waited,
in order; where the copy is lost and no buddy restores it, they end with error responses. -/
def CopyOnWriteCompletes : Prop :=
  ∀ (s : State) (lpn : Lpn) (sub : BitVec 5) (c : Cow) (buddy : Option (List Byte)), s.home.cowOf lpn.toNat sub.toNat = some c →
    let e := (s.touch lpn.toNat).1
    let s1 := (s.touch lpn.toNat).2
    let at_ := e.committedAt sub.toNat
    let done (t : State) : State := { t with home := { t.home with cows := dropOne c t.home.cows } }
    (s1.lostHere lpn.toNat at_ Config.subBytes = false →
      let s2 := (done s1).memCopy at_ (e.workingAt sub.toNat) Config.subBytes
      let s3 := s2.setEntry lpn.toNat { e with mask := e.mask ||| BitVec.ofNat 32 (2 ^ sub.toNat), tag := s1.serial }
      exec (.copyOnWriteComplete lpn sub .good buddy) s = .next (c.held.foldl State.proceed s3))
    ∧ (s1.lostHere lpn.toNat at_ Config.subBytes = true → ∀ t,
        s1.lostPage lpn.toNat sub.toNat at_ (s1.addrOf lpn.toNat + sub.toNat * Config.subBytes) false buddy = (false, t) →
        exec (.copyOnWriteComplete lpn sub .good buddy) s = .next (c.held.foldl HomeReq.refused (done t)))

/-- R36 to R64, R82: job memory at its home. -/
def Obligations.HomeServesJobMemory : Prop :=
  HomeWritesLand ∧ HomeReadsReturn ∧ MemoryAccessesComplete ∧ AtomicsExecute ∧ AtomicsWriteTheirResult ∧ CopyOnWriteCompletes

/-- R57, R62 to R66, R405, R406: the host reads and writes job memory at the lead, BASE giving the bits above its offset. -/
def Obligations.HostReachesJobMemory : Prop :=
  ∀ (s : State) (off : BitVec 36), s.isLead = true → s.hostServes = true → s.hostSilent = false → s.deviceAsleep = false → (∀ h, s.halfClosed h = false) →
    let a := s.fget F.HQ_BAR2_BASE.BASE * 2 ^ 36 + off.toNat
    (∀ (len lpn sub : Nat) (r : Range) reply copies, partsOf a len = [(a, len)] → s.place a = some (r, s.ord.toNat, lpn, sub) →
      let e := (s.touch lpn).1
      let s1 := (s.touch lpn).2
      let at_ := e.committedAt sub + a % Config.subBytes
      (s.fbit F.STEP_STATUS.COMMIT_BUSY = true → r.kind = 1 → exec (.bar2Read off len reply [] copies) s =
          .next { s with home := { s.home with hostHeld := s.home.hostHeld ++ [(off.toNat, len, reply)] } })
      ∧ (s.fbit F.STEP_STATUS.COMMIT_BUSY = false ∨ r.kind ≠ 1 → e.kind ≠ 0 → s1.lostHere lpn at_ len = false →
          exec (.bar2Read off len reply [] copies) s = .next
            (if e.kind = 2 ∧ e.stale = true ∧ e.mask.getLsbD sub = false then s1.emit (.bar2Data off.toNat (List.replicate len 0xFF#8))
             else (s1.relayed lpn at_ a len false).emit (.bar2Data off.toNat (s.memRead at_ len)))))
    ∧ (∀ (len o lpn sub : Nat) (r : Range) bytes copies, partsOf a len = [(a, len)] → s.place a = some (r, o, lpn, sub) → o ≠ s.ord.toNat →
        s.fbit F.STEP_STATUS.COMMIT_BUSY = false ∨ r.kind ≠ 1 →
        exec (.bar2Read off len (some bytes) [] copies) s = .next ((s.emit (.bar2Read a len)).emit (.bar2Data off.toNat bytes)))
    ∧ (∀ (data : List Byte) (r : Range) (o lpn sub : Nat), partsOf a data.length = [(a, data.length)] → s.place a = some (r, o, lpn, sub) →
      (r.kind ≠ 2 → s.hostMayWrite = false → exec (.bar2Write off data) s = .next (s.barEvent 2 off.toNat))
      ∧ (r.kind = 2 ∨ s.hostMayWrite = true → o ≠ s.ord.toNat → exec (.bar2Write off data) s = .next (s.emit (.bar2Write a data)))
      ∧ (r.kind = 2 ∨ s.hostMayWrite = true → o = s.ord.toNat →
          exec (.bar2Write off data) s = .next (s.writePart (.host off.toNat) a data)))

/-- R87, R89, R92, R99 to R101: the sweeper, the interval serials and migration. -/
def HomeTableMovesForward : Prop :=
  ∀ s : State,
    (∀ (k : BitVec 6) (us : W16), mapGet 0 s.home.sweepPos k.toNat < 65535 →
      entryUnit (mapGet 0 s.home.sweepPos k.toNat * 64 + k.toNat) ∉ s.memBad → ∃ s', exec (.sweeperTouch k us) s = .next s'
      ∧ mapGet 0 s'.home.sweepPos k.toNat = mapGet 0 s.home.sweepPos k.toNat + 1 ∧ s'.mem = s.mem ∧ s'.regs = s.regs)
    ∧ (∀ (k : BitVec 6) (us : W16), mapGet 0 s.home.sweepPos k.toNat = 65535 → entryUnit (65535 * 64 + k.toNat) ∉ s.memBad → ∃ s', exec (.sweeperTouch k us) s = .next s'
      ∧ mapGet 0 s'.home.sweepPos k.toNat = 0 ∧ s'.mem = s.mem ∧ s'.regs = (s.fset F.HOME_STATUS.SWEEP_PASS_US us.toNat).regs)
    ∧ (s.home.closing = true → s.home.intervals + 1 < 32767 → let n := (s.fget F.HOME_SERIAL.CURRENT + 1) % 65536
        exec .intervalOpen s = .next { s.fset F.HOME_SERIAL.CURRENT n with home := { s.home with
          outcomes := mapDel n s.home.outcomes
          closing := false
          stalled := false
          intervals := s.home.intervals + 1 } })
    ∧ (∀ v : W64, bits v.toNat 57 56 < 2 → bit v.toNat 63 = true → let lpn := bits v.toNat 21 0
        let far := bits v.toNat 57 56 == 1
        (s.migrateCode lpn far = 0 → exec (.migrateRequest v) s = .next
          { s.fset F.HOME_MIGRATE_STATUS.QUEUED (s.home.migQ.length + 1) with home := { s.home with migQ := s.home.migQ ++ [(lpn, far)] } })
        ∧ (s.migrateCode lpn far ≠ 0 →
            exec (.migrateRequest v) s = .next (s.fset F.HOME_MIGRATE_STATUS.LAST_RESULT (s.migrateCode lpn far))))
    ∧ (∀ lpn far q f g, s.home.migNow = none → s.home.migQ = (lpn, far) :: q →
        s.allocPage s.usedFrames lpn (s.entry lpn).versioned (if far then 1 else 0) = some (f, g) →
        ∃ s', exec .migrationStart s = .next s' ∧ s'.home.migNow = some lpn ∧ s'.home.migQ = q ∧ s'.mem = s.mem
          ∧ s'.regs = ((s.fset F.HOME_MIGRATE_STATUS.QUEUED q.length).fset F.HOME_MIGRATE_STATUS.BUSY 1).regs
          ∧ s'.home.table = (s.setEntry lpn { s.entry lpn with
              new0 := BitVec.ofNat 24 f
              new1 := BitVec.ofNat 24 g
              migrating := true
              cursor := 0 }).home.table)
    ∧ (∀ lpn, s.home.migNow = some lpn → let s1 := (s.touch lpn).2
        let e := s1.entry lpn
        let off := e.cursor * Config.subBytes
        let src := e.frame0.toNat * Config.pageBytes + off
        let dst := e.new0.toNat * Config.pageBytes + off
        let t := (s1.relayed lpn src (s1.addrOf lpn + off) Config.subBytes false).relayed lpn dst (s1.addrOf lpn + off) Config.subBytes true
        (s1.home.cowOf lpn e.cursor = none → e.versioned = false → e.cursor < 31 → s1.migrationLost e e.cursor = none →
          exec (.migrationSubblockCopy .good false none) s = .next ((t.memCopy src dst Config.subBytes).setEntry lpn { e with cursor := e.cursor + 1 }))
        ∧ (s1.home.cowOf lpn e.cursor = none → ∀ buddy, ∃ s', exec (.migrationSubblockCopy .bad false buddy) s = .next s'
            ∧ s'.home.migNow = none ∧ s'.fget F.HOME_MIGRATE_STATUS.LAST_RESULT = 7 ∧ s'.fbit F.HOME_MIGRATE_STATUS.BUSY = false))

/-- R103 to R107: a patrol read counts what it corrects or cannot, the third corrected read of a row in a pass remaps it; an unanswered far
request is uncorrectable; an expander's records are copied; a far port goes down and comes back, or its pages are lost. -/
def MemoryErrorsAreCounted : Prop :=
  ∀ s : State,
    (∀ (st : BitVec 3) (bank row unit : Nat) buddy,
      let s1 : State := { s with home := { s.home with scrubAt := mapIns st.toNat (bank, row) s.home.scrubAt } }
      mapGet (0, 0) s.home.scrubAt st.toNat = (bank, row) →
      exec (.patrolScrubRead st bank row .clean unit buddy) s = .next s1
      ∧ (s.home.rowErrs = [] → exec (.patrolScrubRead st bank row .corrected unit buddy) s = .next
          { s1.fadd (F.NM_ERR.CE.ix st.toNat) 1 with home := { s1.home with rowErrs := [(st.toNat, bank, row, 1)] } })
      ∧ (s.home.rowErrs = [(st.toNat, bank, row, 2)] → ∃ s', exec (.patrolScrubRead st bank row .corrected unit buddy) s = .next s'
          ∧ s'.home.remapped = s.home.remapped ++ [(st.toNat, bank, row)] ∧ s'.home.rowErrs = [])
      ∧ (64 ≤ unit * 64 / Config.pageBytes → s.holderOf (unit * 64) = none → ∃ r : Report, r.code = 0x2011 ∧ r.unit = 3
          ∧ exec (.patrolScrubRead st bank row .uncorrectable unit buddy) s =
              .next (({ s1 with memBad := addTo unit s.memBad }.fadd (F.NM_ERR.UE.ix st.toNat) 1).emit (.report r false))))
    ∧ (∀ (port : BitVec 2) (req : Requester) (a : W64) (c : HomeAcc) buddy,
        s.home.accs.find? (fun c => c.req == req && c.a == a.toNat) = some c → s.portOf (c.at_ / Config.pageBytes) = some port.toNat →
        exec (.farRequestTimeout port req a buddy) s = .next (({ s.fset (F.CXL_PORT_STATUS.REASON.ix port.toNat) 8 with
          home := { s.home with accs := dropOne c s.home.accs }
          memBad := addTo (c.at_ / 64) s.memBad }).lost c buddy))
    ∧ (∀ (port : BitVec 2) (x : BitVec 96), exec (.expanderEventFetch port [x]) s =
        .next (s.event 0x9012 4 (BitVec.ofNat 32 (port.toNat * 2 ^ 13)) 0 (port.toNat + x.toNat * 2 ^ 32)))
    ∧ (∀ port : BitVec 2, let p := port.toNat
        (s.fbit (F.CXL_PORT_STATUS.LINK_UP.ix p) = true → s.fbit (F.CXL_PORT_STATUS.USED.ix p) = true → s.fbit F.WV_STATUS.LOADED = true →
          ∃ r : Report, r.code = 0x2012 ∧ r.unit = 4 ∧ exec (.cxlLinkDown port) s =
            .next ({ s.fset (F.CXL_PORT_STATUS.LINK_UP.ix p) 0 with
              endDirty := true
              home := { s.home with farLost := addTo p s.home.farLost } }.emit (.report r true)))
        ∧ (s.fbit (F.CXL_PORT_STATUS.USED.ix p) = true → ∃ s', exec (.cxlLinkRetrained port) s = .next s' ∧ p ∉ s'.home.farLost ∧ s'.fbit (F.CXL_PORT_STATUS.LINK_UP.ix p) = true
            ∧ s'.mem = s.mem)
        ∧ (s.fbit (F.CXL_PORT_STATUS.USED.ix p) = false → exec (.cxlLinkRetrained port) s = .next (s.fset (F.CXL_PORT_STATUS.LINK_UP.ix p) 1))
        ∧ (p ∈ s.home.farLost → s.buddyHolds = false → (∃ q ∈ s.home.table, s.onPort q.2 p = true) → ∀ copies, ∃ s', exec (.cxlRetrainTimeout port copies) s = .next s' ∧ p ∉ s'.home.farLost
            ∧ s'.mem = s.mem ∧ s'.fbit F.HQ_STATUS.JOB_UNREC = true
            ∧ ∀ l, (∃ q ∈ s.home.table, q.1 = l ∧ s.onPort q.2 p = true) → (s'.entry l).poison = true))

/-- R87 to R107: the home table and the memory behind it. -/
def Obligations.HomeTableAndMemoryAreKept : Prop := HomeTableMovesForward ∧ MemoryErrorsAreCounted

/-! ## The meshes (R260 to R271, R449) -/

/-- R261, R262, R264: a block with a good CRC whose number has not been accepted takes effect and is acknowledged, one accepted before is
acknowledged again, and one with a bad CRC is refused; an acknowledgement frees the block, and a refusal, or none in time, has a block
that its source still holds re-sent until the fourth re-send has failed too: then the path has failed, and the step of the owner's tile
is dirty. A bad broadcast is asked for again. -/
def MeshBlocksAreAnswered : Prop :=
  ∀ (s : State) (b : MeshBlock),
    (let answers (c : Instr) : Prop :=
        (blockGood b = true → s.mesh.hasSeen b = false → exec c s =
            .next (({ s with mesh := s.mesh.accept b }.emit (.meshAck b true)).emit (.accepted b)))
        ∧ (blockGood b = true → s.mesh.hasSeen b = true → exec c s = .next (s.emit (.meshAck b true)))
        ∧ (blockGood b = false → exec c s = .next (s.emit (.meshAck b false)))
     b.bcast = false → (b.ctrl = false → answers (.bulkBlockArrival b)) ∧ (b.ctrl = true → ∀ e, answers (.controlPacketArrival e b)))
    ∧ (∀ o, s.mesh.kept = [⟨b, 2, o⟩] → exec (.bulkAckArrival b) s = .next { s with mesh := { s.mesh with kept := [] } })
    ∧ (∀ c, c = Instr.bulkNakArrival b ∨ c = Instr.resendTimeout b →
        ((∀ k ∈ s.mesh.kept, sameBlock k.block b = false) → exec c s = .next s)
        ∧ (∀ n o, n < 4 → s.mesh.kept = [⟨b, n, o⟩] → ∃ s', exec c s = .next s' ∧ s'.mesh.kept = [⟨b, n + 1, o⟩] ∧ s'.out = s.out ++ [.meshResend b])
        ∧ (∀ o, s.mesh.kept = [⟨b, 4, o⟩] → b.ctrl = false →
            ∃ s' r, exec c s = .next s' ∧ s'.mesh.kept = [] ∧ s'.fbit F.FLT_MESH_STATUS.BULK_PATH = true ∧ r.code = 0x3001
              ∧ .report r false ∈ s'.out ∧ .pathFault b o ∈ s'.out ∧ ∀ w, o = some w → (s'.tile w.tile).dirty = true))
    ∧ (∀ e, s.mesh.asks = [] → b.ctrl = true → b.bcast = true → blockGood b = false → exec (.controlPacketArrival e b) s =
        .next ({ s with mesh := { s.mesh with asks := [(e, b, 1)] } }.emit (.bcastAgain e b)))

/-- R253, R261, R262, R266: a router whose half's mesh runs takes a block from its source's network interface, which numbers it, forms its
CRC and keeps it; and it forwards a block unchanged, counting a mismatch at its input, saturating; the 64th makes it suspect. -/
def RoutersForwardAndCountMismatches : Prop :=
  ∀ (s : State) (px : BitVec 7) (py : BitVec 5) (i : Side), px.toNat < 68 → (∀ e, s.meshStopped e = false) → s.bypassed px.toNat = false →
    let waits (t : State) (b : MeshBlock) : Prop :=
      (sideCode i, b) ∈ (mapGet MeshOut.empty t.mesh.outs (outKey b.ctrl px.toNat py.toNat (sideCode (s.sideTo px.toNat py.toNat b.dst)))).wait
    (∀ (src dst : W16) (vc : BitVec 2) (ctrl : Bool) (gen : Byte) (data : List Byte) (o : Option Owner),
      s.attach src = (px.toNat, py.toNat, i) → s.mesh.takes src vc ctrl false = true →
      ∃ s' b, exec (.routerInputCheck px py i (.inject src dst vc ctrl false gen data o)) s = .next s' ∧ blockGood b = true
        ∧ (b.src, b.dst, b.vc, b.ctrl, b.gen, b.data) = (src, dst, vc, ctrl, gen, data)
        ∧ b.seq = BitVec.ofNat 16 (mapGet 0 s.mesh.seqs (pairKey src dst ctrl)) ∧ s'.mesh.kept = s.mesh.kept ++ [⟨b, 0, o⟩] ∧ waits s' b)
    ∧ (∀ b : MeshBlock, b.bcast = false → ∃ s', exec (.routerInputCheck px py i (.block b)) s = .next s' ∧ waits s' b ∧ s'.mesh.kept = s.mesh.kept
      ∧ (blockGood b = true → s'.mesh.cnt = s.mesh.cnt)
      ∧ (blockGood b = false → let k := cntKey px.toNat py.toNat (if b.ctrl then ctrlLsb else bulkLsb i)
          mapGet 0 s'.mesh.cnt k = min 255 (mapGet 0 s.mesh.cnt k + 1)
          ∧ (mapGet 0 s.mesh.cnt k = 63 → s'.fbit F.FLT_MESH_STATUS.ROUTER_SUSPECT = true ∧ ∃ r, r.code = 0x3004 ∧ .report r false ∈ s'.out)))

/-- R253, R254, R259: a router output with one block sends it, a flit in a cycle: into the seam queue where that has room for the flit,
else, with the last flit, on to the next router; a seam queue lets a flit go in order while both halves' meshes run. -/
def RouterOutputsServeTheirBlocks : Prop :=
  (∀ (s : State) (k i : Nat) (b : MeshBlock), mapGet MeshOut.empty s.mesh.outs k = { MeshOut.empty with wait := [(i, b)] } →
      s.meshStopped (eastCol (keyCol k)) = false → s.canSend k b = true → blockFlits b = 2 →
      (mapGet MeshOut.empty (s.serveOut k).mesh.outs k).wait = [] ∧ (mapGet MeshOut.empty (s.serveOut k).mesh.outs k).hold = some (b, 1)
        ∧ (s.serveOut k).out = s.out)
  ∧ (∀ (o : MeshOut) (i j : Nat) (a b : MeshBlock), o.wait = [(i, a), (j, b)] → a.ctrl = false → b.ctrl = false → a.vc = 0 → b.vc = 1 →
      o.pick false (fun _ => true) = if 7 ≤ o.late then some (i, a) else some (j, b))
  ∧ (∀ (s : State) (q : Nat) (b : MeshBlock) (last : Bool) (rest : List (MeshBlock × Bool)), mapGet [] s.mesh.seam q = (b, last) :: rest → rest ≠ [] →
      mapGet [] (s.drainSeam q).mesh.seam q = rest ∧ (last = false → (s.drainSeam q).out = s.out))

/-- R259, R265: a sync message with good parity crosses a hop of the tree; one with bad parity is repeated, and the fourth failure in a row
is a sync fault. Between the roots it waits in a queue, and a full one takes nothing. -/
def SyncMessagesCross : Prop :=
  ∀ (s : State) (src dst : W16) (cls : BitVec 2) (msg : Byte), s.treeHop src dst = true →
    (eastCol (epCol src) = eastCol (epCol dst) →
      (s.mesh.hops = [(src, dst, cls, 2)] → exec (.syncMessageHop src dst cls msg (!parityHolds msg false)) s =
          .next { s with mesh := { s.mesh with hops := [] } })
      ∧ (s.mesh.hops = [] → ∃ s', exec (.syncMessageHop src dst cls msg (parityHolds msg false)) s = .next s' ∧ s'.mesh.hops = [(src, dst, cls, 1)]
          ∧ .syncRepeat src dst cls msg ∈ s'.out)
      ∧ (s.mesh.hops = [(src, dst, cls, 3)] → ∃ s' r, exec (.syncMessageHop src dst cls msg (parityHolds msg false)) s = .next s' ∧ s'.mesh.hops = []
          ∧ s'.fbit F.FLT_MESH_STATUS.SYNC_FAULT = true ∧ r.code = 0x3003 ∧ .report r false ∈ s'.out))
    ∧ (eastCol (epCol src) ≠ eastCol (epCol dst) → s.meshStopped (eastCol (epCol dst)) = false →
      let k := syncKey (eastCol (epCol dst)) cls
      (4 ≤ (mapGet [] s.mesh.syncSeam k).length → ∀ p, exec (.syncMessageHop src dst cls msg p) s = .next s)
      ∧ ((mapGet [] s.mesh.syncSeam k).length < 4 → ∃ s', exec (.syncMessageHop src dst cls msg (!parityHolds msg false)) s = .next s'
          ∧ mapGet [] s'.mesh.syncSeam k = mapGet [] s.mesh.syncSeam k ++ [(cls, msg)] ∧ s'.out = s.out))

/-- R268, R269: an arrival is counted, and when every member has arrived the departures go out; a departure lets its tile go on. Flag
updates are applied at the root and each is broadcast; a broadcast sets one flag of a tile's copy; either is discarded when a weave load or
a rollback came between (R271). -/
def BarriersAndFlagsComplete : Prop :=
  ∀ (s : State) (t : TileId), let x := s.tile t
    (∀ b : BitVec 4, let got := mapGet [] s.barriers b.toNat
      x.core.wait = .barrier b 1 → x.img.barmask.getLsbD b.toNat = true → t ∉ got → x.departs.getLsbD b.toNat = false →
      ((∃ m ∈ s.members b, m ≠ t ∧ m ∉ got) → exec (.barrierArrival t b) s = .next { s with barriers := mapIns b.toNat (t :: got) s.barriers })
      ∧ (s.members b = [t] → exec (.barrierArrival t b) s = .next (({ s with barriers := mapDel b.toNat s.barriers }.setTile t
          { x with departs := x.departs ||| BitVec.ofNat 16 (2 ^ b.toNat) }).emit (.barDepart t b))))
    ∧ (∀ b : BitVec 4, x.core.wait = .barrier b 1 → x.departs.getLsbD b.toNat = true → x.goes = true →
        let y := { x with core := { x.core with wait := .barrier b 2 }, departs := x.departs &&& ~~~(BitVec.ofNat 16 (2 ^ b.toNat)) }
        exec (.barDeparture t b) s = .next (s.putTile t (y.act (fenceGoes y))))
    ∧ (∀ (f : BitVec 6) (v : Bool) (era : Nat), era ≠ s.mesh.era → exec (.flagCopyUpdate t f v era) s = .next s)
    ∧ (∀ (f : BitVec 6) (v : Bool), ∃ s', exec (.flagCopyUpdate t f v s.mesh.era) s = .next s' ∧ (∀ u, u ≠ t → s'.tile u = s.tile u)
        ∧ s'.tile t = { x with flags := (s'.tile t).flags } ∧ s'.out = s.out
        ∧ ∀ i, i < 64 → (s'.tile t).flags.getLsbD i = if i = f.toNat then v else x.flags.getLsbD i)
    ∧ (∀ u : FlagUpdate, u.era ≠ s.mesh.era → exec (.flagUpdateAtRoot [u]) s = .next s)
    ∧ (∀ u : FlagUpdate, u.era = s.mesh.era → ∃ s', exec (.flagUpdateAtRoot [u]) s = .next s' ∧ s'.out = s.out ++ [.flagCast u.flag u.val u.era]
        ∧ s'.tiles = s.tiles
        ∧ ∀ i, i < 64 → s'.rootFlags.getLsbD i = if i = u.flag.toNat then u.val else s.rootFlags.getLsbD i)

/-- R270, R376: the device's result is dirty at once when a tile's is, clean when every one is; the STAG then casts END. -/
def DeviceResultIsCast : Prop :=
  ∀ s : State, s.stepPhase = phStepRunning →
    (s.result = none → (∃ p ∈ s.contexts, p.2.phase = phDirty) → ∃ s', exec .deviceVoteResult s = .next s' ∧ s'.result = some true)
    ∧ (s.result = none → (∀ p ∈ s.contexts, p.2.phase = phClean) → ∃ s', exec .deviceVoteResult s = .next s' ∧ s'.result = some false
        ∧ ∀ p ∈ s'.contexts, p.2.phase = phGate)
    ∧ (∀ d, s.result = some d → s.ended = false → d = true ∨ s.runsDone = true → s.needPrimary = false → exec .endCast s =
        .next ({ s with ended := true }.emit
          (.ctrl 0x09 (some s.aggOrd) (BitVec.ofNat 64 s.current) (if d = true ∨ s.endDirty = true then 1 else 0))))

/-- R253, R259 to R271, R449: the meshes. -/
def Obligations.MeshesCarryTheirTraffic : Prop :=
  MeshBlocksAreAnswered ∧ RoutersForwardAndCountMismatches ∧ RouterOutputsServeTheirBlocks ∧ SyncMessagesCross ∧ BarriersAndFlagsComplete ∧ DeviceResultIsCast

/-! ## The weave (R302, R307 to R321) -/

/-- A refusal changes the load, the WV registers and the recorder, and completes the command; nothing else (R307). -/
def Refuses (c : Instr) (s : State) (reason : Nat) : Prop :=
  ∃ s', exec c s = .next s' ∧ s'.load = none ∧ s'.fget F.WV_REFUSE.REASON = reason ∧ s'.fget F.WV_STATUS.LAST = 2
    ∧ s'.fbit F.WV_STATUS.BUSY = false ∧ s'.tiles = s.tiles ∧ s'.mem = s.mem ∧ s'.home = s.home ∧ s'.weave = s.weave ∧ s'.ranges = s.ranges

/-- R309, R311, R312, R318: the command begins a load, pass 1 and pass 2 read the weave, a device stores its portion and votes, and the
lead decides; a weave that a check refuses is refused with that check's code. -/
def Obligations.LoadsMoveThroughTheirPasses : Prop :=
  ∀ s : State, s.Inv →
    (∀ q cid addr len clear, s.mayStart q cid (.loadWeave addr.toNat len.toNat clear) = true → let b := s.begin q
      b.fbit F.HQ_STATUS.LINK_LOW = false → b.load = none → exec (.loadWeave q cid addr len clear) s =
        .next { (b.fset F.WV_STATUS.BUSY 1).fset F.WV_STATUS.PHASE 1 with
          undo := none, load := some ⟨true, some q, len.toNat, clear, b.stepPhase != phStepIdle, [], 0, [], none, none, 0, []⟩ })
    ∧ (∀ (l : Load) (bs : List Byte), s.load = some l → s.fget F.WV_STATUS.PHASE = 1 → bs.length = l.len →
        ((parseHeader bs).kind = 2 → s.fbit F.HQ_STATUS.JOB_UNREC = false ∧ s.fbit F.HQ_STATUS.JOB_HELD = false) →
        let p := if (parseHeader bs).full then s.fset F.WV_STORE.FRAMES 256 else s
        (firstFinding (p.pass1 bs l.len l.inStep) = none → exec (.weavePass1 (some bs)) s =
          .next { p.fset F.WV_STATUS.PHASE 2 with load := some { l with bytes := bs } })
        ∧ (∀ f, firstFinding (p.pass1 bs l.len l.inStep) = some f →
            Refuses (.weavePass1 (some bs)) s (f.refusal 0).reason.toNat))
    ∧ (∀ l : Load, s.load = some l → s.fget F.WV_STATUS.PHASE = 1 → Refuses (.weavePass1 none) s 9)
    ∧ (∀ (l : Load) (bs : List Byte), s.load = some l → l.lead = true → s.fget F.WV_STATUS.PHASE = 2 → l.hash = 0 →
        (bs = l.bytes → ∃ s', exec (.weavePass2 (some bs)) s = .next s' ∧ s'.load = some { l with hash := sha384 bs } ∧ s'.regs = s.regs
          ∧ s'.out = s.out ++ (List.range s.herdSize).map (fun i => .weavePortion (s.fget F.HQ_HERD.H * s.herdSize + i)
              (portionFor bs (parseHeader bs) (parseDir bs (parseHeader bs).nsect) (s.fget F.HQ_HERD.H * s.herdSize + i))))
        ∧ (bs ≠ l.bytes → Refuses (.weavePass2 (some bs)) s 8))
    ∧ (∀ (bytes : List Byte) asks answers, s.load = none → s.weave = none → ∃ s' l v, let p := parsePortion bytes
        exec (.weavePortionArrival bytes asks answers) s = .next s' ∧ s'.load = some l ∧ l.portion = bytes
          ∧ l.next = some (weaveOf p.1 p.2.1) ∧ s'.fget F.WV_STATUS.PHASE = 3 ∧ s'.tiles = s.tiles ∧ s'.home = s.home
          ∧ v.ord = s.ord ∧ v.refusal = l.refusal ∧ s'.out.getLast? = some (.weaveVote v))
    ∧ (∀ (l : Load) (w : Weave) (votes : List WeaveVote), s.load = some l → l.next = some w → s.fget F.WV_STATUS.PHASE = 3 →
        s.votesIn votes l = true →
        (lowestRefusal votes = none → weavesDiffer votes = false → exec (.weaveVote votes) s =
          .next ((if l.lead then s.emit (.weaveResult none) else s).fset F.WV_STATUS.PHASE (if w.hdr.full then 5 else 4)))
        ∧ (∀ r, lowestRefusal votes = some r → Refuses (.weaveVote votes) s r.reason.toNat))
    ∧ (∀ (l : Load) (w : Weave), s.load = some l → l.next = some w → s.fget F.WV_STATUS.PHASE = 4 → w.hdr.mode = 0 →
        w.hdr.drain ≤ l.waited → s.partialReady = false → Refuses .drainLimitExpired s 0x25)

/-- R32, R302, R309, R320: applying a full weave places its pages, begins the steps and the serials anew, images the tiles, and comes into
force; CLEAR zeroes the frames. A partial weave applies at a commit boundary and replaces what it names; abandoning one restores the
weave and the epoch before it, gives the replaced tiles their old images, and rolls the job back. -/
def Obligations.WeavesComeIntoForce : Prop :=
  ∀ s : State, s.Inv →
    (∀ (l : Load) (w : Weave) (us : W32), s.load = some l → l.next = some w → s.fget F.WV_STATUS.PHASE = 5 → w.hdr.full = true →
      ∃ s', exec (.weaveApply us) s = .next s' ∧ s'.weave = some w ∧ s'.load = none ∧ s'.ranges = w.ranges ∧ s'.seed = w.hdr.seed
        ∧ s'.fget F.STEP_CURRENT.STEP = 0 ∧ s'.fget F.STEP_COMMITTED.STEP = 0 ∧ s'.fget F.STEP_DURABLE.STEP = 0
        ∧ s'.fget F.HOME_SERIAL.CURRENT = 1 ∧ s'.fbit F.WV_STATUS.LOADED = true ∧ s'.fget F.WV_STATUS.EPOCH = w.hdr.epoch % 16
        ∧ s'.fget F.WV_WEAVE_ID.ID = w.hdr.id.toNat ∧ s'.home.outcomes = [(0, 1)]
        ∧ (∀ t : TileId, (s'.tile t).img = w.imageAt t ∧ (s'.tile t).imem = (w.imageAt t).code ∧ (s'.tile t).eps = w.endpointsOf t
            ∧ (s'.tile t).phase = if (s.tile t).phase = phReset then phReset else if (w.imageAt t).ctx then phGate else phNoContext)
        ∧ (l.clear = false → s'.mem = s.mem)
        ∧ (l.clear = true → ∀ a, a / Config.pageBytes ∈ s'.usedFrames → a / Config.pageBytes ∉ s.mirrorFrames → mapGet 0 s'.mem a = 0))
    ∧ (∀ (l : Load) (w : Weave) (us : W32), s.load = some l → l.next = some w → s.partialReady = true →
      ∃ s', exec (.partialApply us) s = .next s' ∧ s'.weave = some w ∧ s'.load = none ∧ s'.mem = s.mem ∧ s'.home = s.home
        ∧ s'.portion = mergePortion s.portion l.portion ∧ s'.fget F.WV_STATUS.EPOCH = w.hdr.epoch % 16 ∧ s'.fget F.WV_WEAVE_ID.ID = w.hdr.id.toNat
        ∧ ∀ t : TileId, (s'.tile t).img = if w.replaced t then w.imageAt t else (s.tile t).img)
    ∧ (∀ u : Undo, s.undo = some u → ∃ s', exec .applyAbandon s = .next s' ∧ s'.weave = u.weave ∧ s'.portion = u.portion
        ∧ (∀ old new, u.weave = some old → s.weave = some new → ∀ t : TileId,
            (s'.tile t).img = if new.replaced t then old.imageAt t else (s.tile t).img)
        ∧ (s.coordinates = true → s.coord.stage = .none → s'.coord.stage = .rolling
            ∧ s'.out.getLast? = some (.ctrl 0x0C none (BitVec.ofNat 64 (s.fget F.STEP_CURRENT.STEP)) 2))
        ∧ s'.fget F.WV_STATUS.EPOCH = u.epoch % 16 ∧ s'.fget F.WV_WEAVE_ID.ID = u.id % 2 ^ 64 ∧ s'.fget F.WV_REFUSE.REASON = 0x26
        ∧ s'.load = none ∧ s'.undo = none ∧ s'.mem = s.mem)

/-! ## The fabric (R337 to R372, R509) -/

/-- R340 to R346, R351: a good block in order is taken and the 32nd acknowledged; one that fails, or that the decoder cannot correct, is asked
for once and units are discarded; a resent block is acknowledged again; acknowledgements free blocks, refusals and timeouts replay from the
oldest block, and the link is lost when its fourth replay has failed; credit is added up to the channel's room. -/
def LinksReplayTheirBlocks : Prop :=
  ∀ (s : State) (p : PortNo), let n := p.toNat
    let x := s.port n
    (s.linkUp n = true → ∀ (h : BitVec 20) (q : LinkBody),
      (let s0 := if h.getLsbD 19 then s.setPort n { x with waitRs := false } else s
       let y := s0.port n
       y.waitRs = false →
        (y.blockGood q = true → q.lseq.toNat = y.rxNext → exec (.linkBlockReceive p ⟨0, h, [q]⟩) s = .next (s0.setPort n { y.store q with
          rxNext := (y.rxNext + 1) % 4096, fails := 0, good := y.good + 1, ackDue := y.ackDue || decide (31 ≤ y.good) }))
        ∧ (y.blockGood q = true → q.lseq.toNat ≠ y.rxNext → exec (.linkBlockReceive p ⟨0, h, [q]⟩) s = .next (s0.setPort n { y with ackDue := true }))
        ∧ (y.blockGood q = false → exec (.linkBlockReceive p ⟨0, h, [q]⟩) s = .next ((s0.fadd (F.OL_PORT_ERR.CRC_FAIL.ix n) 1).setPort n
            { y with waitRs := true, fails := y.fails + 1, nakDue := some y.rxNext, lost := y.lost || decide (4 ≤ y.fails) })))
      ∧ (∀ e : Nat, 15 < e → x.waitRs = false → exec (.linkBlockReceive p ⟨e, h, [q]⟩) s =
          .next (((s.fadd (F.OL_PORT_ERR.CW_UNCORR.ix n) 1).fadd (F.OL_PORT_ERR.CRC_FAIL.ix n) 1).setPort n
            { x with waitRs := true, fails := x.fails + 1, nakDue := some x.rxNext, lost := x.lost || decide (4 ≤ x.fails) }))
      ∧ (h.getLsbD 19 = false → x.waitRs = true → exec (.linkBlockReceive p ⟨0, h, [q]⟩) s = .next s)
      ∧ exec (.ackTimer p) s = .next (s.setPort n { x with ackDue := true }))
    ∧ (∀ (h : BitVec 20) (pre post : List LinkBody) (b : LinkBody), x.replay = pre ++ b :: post → hdrSeq h = b.lseq.toNat →
        (∀ c ∈ pre, c.lseq ≠ b.lseq) →
        (hdrKind h = 1 → exec (.ackReceived p h) s = .next (s.setPort n { x with replay := post, tries := 0 }))
        ∧ (hdrKind h = 2 → (if pre = [] then x.tries else 0) < 4 → ∃ s', exec (.nakReceived p h) s = .next s' ∧ (s'.port n).replay = b :: post
            ∧ (s'.port n).tx = b :: post ∧ (s'.port n).off = 0 ∧ (s'.port n).rs = true ∧ s'.out = s.out ++ [.linkReplay n b.lseq.toNat]
            ∧ (s'.port n).tries = (if pre = [] then x.tries else 0) + 1))
    ∧ (∀ b bs, x.replay = b :: bs →
        (x.tries < 4 → exec (.replayTimeout p) s = .next (((s.setPort n { x with tries := x.tries + 1, tx := x.replay, off := 0, rs := true }).fadd
            (F.OL_PORT_ERR.REPLAYS.ix n) 1).emit (.linkReplay n b.lseq.toNat)))
        ∧ (4 ≤ x.tries → exec (.replayTimeout p) s = .next (s.setPort n { x with lost := true })))
    ∧ (∀ h : BitVec 20, hdrKind h = 3 → let vc := bits h.toNat 16 14
        exec (.linkCreditReceived p h) s = .next (s.setPort n { x with
          credit := mapPut 0 vc (min (vcRoom vc) (mapGet 0 x.credit vc + bits h.toNat 13 0)) x.credit }))
    ∧ (s.portState n = tsActive → exec (.lockLoss p) s = .next (s.setPort n { x with lost := true }))

/-- R340, R341, R344, R352: a codeword carries the link control that is due, NAK before CREDIT before ACK; on an active port that is free a
control packet of this device goes in the first unit with its LSEQ and HCRC, takes its credit and stays for a replay. -/
def CodewordsCarryTheirUnits : Prop :=
  ∀ (s : State) (n : Nat), let x := s.port n
    s.linkUp n = true → x.tx = [] → x.off = 0 → x.rs = false →
    (s.portState n ≠ tsActive →
      (∀ q, x.nakDue = some q → s.portCycle n = (s.setPort n { x with nakDue := none }).emit (codewordOut n (s.portLanes n) (linkHdr false 2 (q * 32)) []))
      ∧ (∀ vc u rest, x.nakDue = none → x.credDue = (vc, u) :: rest → u < 2 ^ 14 → s.portCycle n =
          (s.setPort n { x with credDue := rest }).emit (codewordOut n (s.portLanes n) (linkHdr false 3 (vc * 2 ^ 14 + u)) []))
      ∧ (x.nakDue = none → x.credDue = [] → x.ackDue = true → s.portCycle n = (s.setPort n { x with ackDue := false, good := 0 }).emit
          (codewordOut n (s.portLanes n) (linkHdr false 1 ((x.rxNext + 4095) % 4096 * 32)) []))
      ∧ (x.nakDue = none → x.credDue = [] → x.ackDue = false → s.portCycle n = s))
    ∧ (∀ k : Packet, s.portState n = tsActive → n < 16 → s.ports = [(n, x)] → x.inq = [] → x.inj = [k] → x.hold = none → x.replay = [] → x.nakDue = none →
        x.credDue = [] → x.ackDue = false → pktData k = false → let dl := s.fbit (F.OL_PORT_STATUS.WRAP.ix n)
        let vc := 2 * k.cls.toNat + if dl then 1 else 0
        let k' := { k with hops := k.hops + 1, dl := dl }
        1 ≤ mapGet 0 x.credit vc → (s.portCycle n).out = s.out ++ [codewordOut n (s.portLanes n) 0 [firstUnit k' (x.txNext % 4096) (hcrcOf k' x.txNext)]]
          ∧ ((s.portCycle n).port n).replay = [headBody k' x.txNext] ∧ ((s.portCycle n).port n).txNext = (x.txNext + 1) % 4096
          ∧ ((s.portCycle n).port n).credit = mapPut 0 vc (mapGet 0 x.credit vc - 1) x.credit)

/-- R347 to R360, R370, R371: a packet at an input is delivered here, discarded and answered, or routed to its output, and its room is credit
again; a packet that carries an output of this device waits at its output's link block; a delivered packet is checked again and handed to its
target; a CNE cuts a rate by an eighth, and it rises by one in time. -/
def PacketsMoveOn : Prop :=
  ∀ (s : State),
    (∀ (p : PortNo) (vc : BitVec 3) (e : InPkt), (s.port p.toNat).front vc.toNat = some e → e.begun = false → pktDefined e.pkt = true →
      (s.isHere e.pkt = true → e.left = 0 → exec (.packetRoute (.port p vc)) s = .next ((s.emit (.deliver e.pkt)).freeInput p.toNat vc.toNat))
      ∧ (s.isHere e.pkt = false → e.left = 0 → 15 ≤ e.pkt.hops.toNat ∨ s.outPort e.pkt = none →
          exec (.packetRoute (.port p vc)) s = .next ((s.dropPacket (some p.toNat) e.pkt).freeInput p.toNat vc.toNat))
      ∧ (∀ q, s.isHere e.pkt = false → e.pkt.hops.toNat < 15 → s.outPort e.pkt = some q → p.toNat % 2 = q % 2 →
          exec (.packetRoute (.port p vc)) s = .next (s.setFront p.toNat vc.toNat { e with out := some q }))
      ∧ (∀ q, s.isHere e.pkt = false → e.pkt.hops.toNat < 15 → s.outPort e.pkt = some q → p.toNat % 2 ≠ q % 2 → e.out = none →
          exec (.packetRoute (.port p vc)) s =
            .next ((s.emit (.acrossSeam p.toNat q e.pkt)).setFront p.toNat vc.toNat { e with out := some q })))
    ∧ (∀ (n i : Nat) (k : Packet), mapGet 0 s.routed n = i → (s.packetsOf n)[i]? = some k → let s1 : State := { s with routed := mapIns n (i + 1) s.routed }
        (s.outPort k = none → exec (.packetRoute (.own n i)) s = .next (s1.dropPacket none k))
        ∧ (∀ q, s.outPort k = some q → ∃ s', exec (.packetRoute (.own n i)) s = .next s' ∧ (s'.port q).inj = (s.port q).inj ++ [k]
            ∧ ∀ (d : EndpointId) (m : MsgIn), s.out[n]? = some (.message d m) →
                s'.out = s.out ++ [.toLink (linkPlace (q % 2 == 1) (tileY m.who.tile)) q k] ∧ k.typ = 0x80 ∧ k.cls = 2
                  ∧ k.flow = Config.flow (epKey m.who)))
    ∧ (∀ (k : Packet) (now : Nat), s.now ≤ now → s.deviceAsleep = false → pktDefined k = true → let s1 : State := { s with now := now }
        (pktSound k = false → exec (.packetDeliver k now) s = .next (s1.emit (.fabricErr k.src k)))
        ∧ (pktSound k = true → k.cm = false → k.typ ≠ 4 → exec (.packetDeliver k now) s = .next (s1.emit (.handed k))))
    ∧ (∀ (o : DevOrd) (now : Nat), s.now ≤ now →
        (mapFind s.rates o.toNat = none → s.rates.length < 256 → exec (.cneReceived o now) s =
          .next { s with now := now, rates := mapIns o.toNat ⟨56, now, 33792, now⟩ s.rates })
        ∧ (∀ r : Rate, mapFind s.rates o.toNat = some r → r.cut + 4000 ≤ now → ∃ s' r', exec (.cneReceived o now) s = .next s'
            ∧ mapFind s'.rates o.toNat = some r' ∧ r'.rate = max 1 (r.rate - (r.rate + 7) / 8) ∧ r'.cut = now)
        ∧ (∀ r : Rate, mapFind s.rates o.toNat = some r → now < r.cut + 4000 → exec (.cneReceived o now) s = .next { s with now := now })
        ∧ (∀ r : Rate, mapFind s.rates o.toNat = some r → ∃ s', exec (.rateRecoveryTimer o) s = .next s'
            ∧ (63 ≤ r.rate → s'.rates = mapDel o.toNat s.rates)
            ∧ (r.rate < 63 → ∃ r', s'.rates = mapIns o.toNat r' s.rates ∧ r'.rate = r.rate + 1 ∧ r'.cut = r.cut)))

/-- R347, R349, R350: what the source seals meets its checks at the destination, whatever the hops have changed. -/
def SealedPacketsAreSound : Prop :=
  ∀ (k : Packet) (hops : BitVec 4) (dl cm : Bool), k.payload.length ≤ 2048 → (pktData k = true → 1 ≤ k.payload.length) →
    pktSound { pktSeal k with hops := hops, dl := dl, cm := cm } = true ∧ (pktSeal k).payload = (if pktData k then k.payload else [])

/-- R361 to R367: a port moves from state to state of its training when 16 good words with ACK of that state have come, or answers them with
ACK; it fails with the result of the state whose bound it passed; its width is the widest that the lanes good at both ends give. -/
def PortsTrain : Prop :=
  ∀ (s : State) (p : PortNo), let n := p.toNat
    let st := s.portState n
    let x := s.port n
    (∀ (lane : BitVec 3) (ws : List (BitVec 128)) (errs : List Nat), ws.length = 16 → (∀ w ∈ ws, twGood lane w = true ∧ twState w = st) →
      let w := ws.getLastD 0
      let y : Port := { x with presets := mapIns lane.toNat (twPreset w) x.presets, rxPeer := twRxGood w }
      ((∀ w ∈ ws, twAck w = true) →
        (st = 1 ∨ st = 2 → exec (.trainingStateAdvance p lane ws errs) s = .next ((s.setPort n y).enterTraining n (st + 1) false))
        ∧ (st = 3 ∨ st = 10 → exec (.trainingStateAdvance p lane ws errs) s =
            .next ((s.setPort n { y with lanesHere := goodLanes st errs }).enterTraining n 4 false))
        ∧ (st = 4 → let m := x.lanesHere &&& twRxGood w
            let t := ((s.setPort n y).fset (F.OL_PORT_STATUS.LANES.ix n) m.toNat).fset (F.OL_PORT_STATUS.WIDTH.ix n) (widthOf m)
            exec (.trainingStateAdvance p lane ws errs) s = .next (if widthOf m = 0 then (t.setPortState n 11).setResult n 6 else t.setPortState n 5)))
      ∧ (st = 1 ∨ st = 2 ∨ st = 4 → (∃ w ∈ ws, twAck w = false) →
          exec (.trainingStateAdvance p lane ws errs) s = .next ((s.setPort n y).sendTraining n true)))
    ∧ (∀ (errs : List Nat) (l : Nat), l < 8 → ((goodLanes 3 errs).getLsbD l = true ↔ ∃ e, errs[l]? = some e ∧ e < 21475)
        ∧ ((goodLanes 10 errs).getLsbD l = true ↔ ∃ e, errs[l]? = some e ∧ e < 2685))
    ∧ (st = 1 → exec (.detectTimeout p) s = .next ((s.setPortState n 11).setResult n 4))
    ∧ (∀ r, (st, r) ∈ [(2, 5), (3, 6), (5, 10), (6, 8), (7, 10), (10, 5)] →
        exec (.trainingTimeout p) s = .next ((s.setPortState n 11).setResult n r))
    ∧ (st = 4 → exec (.trainingTimeout p) s = .next ((s.setPortState n 11).setResult n (if widthOf (x.lanesHere &&& x.rxPeer) = 0 then 6 else 7)))
    ∧ (st = 5 → exec (.identTimer p) s = .next (s.emit (.ident n (s.identContent n))))
    ∧ (∀ c : BitVec 256, st = 5 → let t := (s.setPort n { x with ident := c }).fset (F.OL_PORT_PEER.IDENT.ix n) (bits c.toNat 63 0)
        let t6 := t.setPortState n 6
        exec (.identReceived p c) s = .next (if s.checkIdent n c.toNat = 0
          then (t6.setPortState n 7).emit (.creditInit n [16, 16, 132, 132, 132, 132, 66, 66])
          else (t6.setPortState n 11).setResult n (s.checkIdent n c.toNat)))
    ∧ (∀ us : List Nat, st = 7 → ∃ s', exec (.creditInitReceived p us) s = .next s' ∧ s'.portState n = 8 ∧ (s'.port n).replay = []
        ∧ (s'.port n).rxNext = 0 ∧ (s'.port n).txNext = 0 ∧ ∀ i u, us[i]? = some u → mapGet 0 (s'.port n).credit i = u)

/-- R355: with every link alive the route of a dimension is the shorter way, the + way on a tie. -/
def ShorterWayIsTaken : Prop :=
  ∀ size a b : Nat, a < size → b < size → let up := (b + size - a) % size
    dimRoute (fun _ _ => true) size a b = some (decide (2 * up ≤ size), min up (size - up))

/-- R355, R359, R364, R367: link-state advertisements are flooded, kept and passed on; routes are computed from them and installed in a
rollback, when the ports that stand by become active. -/
def RoutesAreComputedAndInstalled : Prop :=
  ∀ s : State, s.Inv →
    ((∀ p < 16, s.portState p < tsDetect ∨ tsCredit < s.portState p) → ∃ s' l, exec .lsaFlood s = .next s' ∧ l.num = s.lsaNum + 1
        ∧ l.coord = s.selfWord ∧ s'.lsaNum = s.lsaNum + 1 ∧ mapFind s'.lsas (s.wordPos l.coord) = some l
        ∧ s'.out = s.out ++ s.upPorts.map (fun p => .lsa p l))
    ∧ (∀ (p : PortNo) (l : Lsa), let n := s.wordPos l.coord
        (∀ o, mapFind s.lsas n = some o → o.num.toNat < l.num.toNat) → bits l.coord.toNat 31 24 = bits s.selfWord.toNat 31 24 →
        ∃ s', exec (.lsaReceived p l) s = .next s' ∧ mapFind s'.lsas n = some l
          ∧ s'.out = s.out ++ (s.upPorts.filter (fun q => q != p.toNat)).map (fun q => .lsa q l))
    ∧ (∀ e : Bool, e = true ∨ (∀ q < s.topoN, mapFind s.lsas q ≠ none) → ∃ s', exec (.routeCompute e) s = .next s'
        ∧ s'.routes = some ((List.range s.topoN).map (s.routeTo s.topoN)) ∧ (s.heldTopology = false → s'.out = s.out))
    ∧ (∀ rs : List Route, s.routes = some rs → s.stepPhase = phStepRolling → s.topoOutcome ≠ 3 → rs.length ≤ 64 →
        ∃ s', exec .routeInstall s = .next s' ∧ s'.routes = none ∧ s'.fget F.OL_TOPO_STATUS.OUTCOME = s.topoOutcome
          ∧ (∀ p ∈ s.upPorts, s'.portState p = tsActive ∧ mapGet 0 s'.weights p = lanesOf (s.fget (F.OL_PORT_STATUS.WIDTH.ix p)))
          ∧ ∀ n (r : Route), rs[n]? = some r → s'.fbit (F.OL_RT.VALID.ix n) = r.valid ∧ s'.fget (F.OL_RT.DIR.ix n) = r.dir % 8)
    ∧ (∀ (v : W32) (r : RegD), regAt 0xC0000 = some (r, 0) → let w := s.writeFlds r 0 v.toNat nothingLocked
        let reroutes := bit v.toNat 31 = true ∧ s.stepPhase = phStepIdle
        let retrains := bit v.toNat 30 = true ∧ s.fbit F.WV_STATUS.LOADED = false
        let t := if w.1 = true ∧ (bit v.toNat 31 = true → reroutes) ∧ (bit v.toNat 30 = true → retrains) then w.2 else w.2.refuseWrite 0xC0000 v.toNat
        let u := if reroutes then t.computeRoutes.installRoutes else t
        (bit v.toNat 31 = true → exec (.reroute v) s = .next (if retrains then u.startTraining else u))
        ∧ (bit v.toNat 30 = true → exec (.retrainAll v) s = .next (if retrains then u.startTraining else u)))
    ∧ (∀ v : W32, bit v.toNat 30 = true → bit v.toNat 31 = false →
        (s.fbit F.WV_STATUS.LOADED = false → let d := if descValid s.descrFlash then s.descrFlash else s.descr
            ∃ s', exec (.retrainAll v) s = .next s' ∧ s'.descr = d ∧ s'.lsas = [] ∧ ∀ p < 16, s'.portState p =
              if descValid d && entryUse (descEntry d p) != 0 && !bit (s.fget F.FLT_ESC_STATE.OOS_PORTS) p then tsDetect else tsDisabled))

/-- R345, R368, R509: a port that has lost its link leaves ACTIVE with its buffers empty, makes a running step dirty and is reported; when
its peer said that it goes dark it trains again without a report. -/
def LostPortsRetrain : Prop :=
  ∀ (s : State) (p : PortNo) (now : Nat), let n := p.toNat
    let x := s.port n
    s.portState n = tsActive → x.lost = true → s.now ≤ now →
    (x.bye = none → mapFind s.charges (0x40000 + n) = none → ∃ s' r, exec (.portLeavesActive p now) s = .next s' ∧ s'.portState n = tsRetrain
        ∧ s'.fget (F.OL_PORT_STATUS.RESULT.ix n) = 11 ∧ (s'.port n).replay = [] ∧ (s'.port n).lost = false
        ∧ s'.endDirty = (s.endDirty || s.stepRunning) ∧ r.code = 0x4001 ∧ ∃ ws, s'.out = s.out ++ [.training n ws, .report r true])
    ∧ (∀ t, x.bye = some t → now ≤ t + 1000000 → exec (.portLeavesActive p now) s =
        .next ((({ s with now := now }.setPort n (Port.fresh x)).setResult n 0).enterTraining n tsDetect false))

/-- R337 to R372: the fabric. -/
def FabricCarriesItsPackets : Prop := LinksReplayTheirBlocks ∧ CodewordsCarryTheirUnits ∧ PacketsMoveOn ∧ SealedPacketsAreSound
def FabricPortsTrainAndRoute : Prop := PortsTrain ∧ ShorterWayIsTaken ∧ RoutesAreComputedAndInstalled ∧ LostPortsRetrain

/-- R337 to R372: the fabric. -/
def Obligations.FabricTrainsRoutesAndCarries : Prop := FabricCarriesItsPackets ∧ FabricPortsTrainAndRoute

/-! ## Collectives (R373 to R386) -/

/-- R375 to R386: CSTART starts a run, and is discarded with an error while its plan runs; a piece whose run has not started is kept, and
one that a node awaits is combined and sent on with its digest; a digest that agrees marks its piece checked, one that does not or is not
there in time makes the step dirty; a written result is signalled and its digest goes to member 0, which compares it. -/
def Obligations.CollectivesCombineTheirPieces : Prop :=
  ∀ s : State,
    (∀ (t : TileId) (o : Op) (w0 w1 : W64), Issues s t 5 o → o.kind = .net w0 w1 → netOpc 9 none o = true → let n := bits w0.toNat 59 44
      let s1 := s.setTile t (((s.tile t).toExec o).complete o)
      ((∃ r ∈ s.runs, r.plan = n ∧ r.started = true ∧ r.written = false) → exec (.cstart t) s = .next (s1.tileErr t 0x1035 false 0 n o.opid 0))
      ∧ (∀ p, s.runs = [] → s.plan n = some p → ∃ s', exec (.cstart t) s = .next s'
          ∧ mapGet 0 s'.runCount p.plan = mapGet 0 s.runCount p.plan + 1
          ∧ ∃ r ∈ s'.runs, r.plan = p.plan ∧ r.run = mapGet 0 s.runCount p.plan ∧ r.started = true))
    ∧ (∀ (plan : W16) (run : Byte) (level : BitVec 4) (m : DevOrd) (data : List Byte) (p : Plan), s.plan plan.toNat = some p →
        plan ∈ s.member → s.stepPhase ≠ phStepRolling → m ≠ s.ord → let n := mapGet 0 s.runCount plan.toNat
        let q : Piece := ⟨level.toNat, m.toNat, data, false, none⟩
        (s.runs = [] → exec (.collectivePayloadReceive plan run level m data none) s = .next { s with
          runs := [{ Run.new plan.toNat (n + (run.toNat + 256 - n % 256) % 256) with pieces := [q] }] })
        ∧ (∀ (r : Run) (j dst : Nat) (v : List Byte), s.runs = [r] → r.plan = plan.toNat → r.run % 256 = run.toNat → r.started = true →
            r.have_ = true → r.result = none → r.written = false → r.piece level.toNat m.toNat = none → p.reduces = true →
            r.level = level.toNat → r.level < 15 → p.turn (p.index s.ord.toNat) r.level = .recv j → p.member j = m.toNat →
            p.turn (p.index s.ord.toNat) (r.level + 1) = .send dst → p.node r.part data none = (v, true) →
            exec (.collectivePayloadReceive plan run level m data none) s = .next ({ s with runs := [{ r with
              pieces := r.pieces ++ [q]
              part := v
              level := 16 }] }.emits [.piece (p.member dst) p.plan r.run (r.level + 1) v,
                .digest (p.member dst) p.plan r.run (r.level + 1)
                  (digestOf p.plan r.run (r.level + 1) p.partFmt (s.fget F.STEP_CURRENT.STEP) v)])))
    ∧ (∀ (plan : W16) (run : Byte) (level : BitVec 4) (m : DevOrd) (p : Plan) (i : Nat) (r : Run) (q : Piece), s.plan plan.toNat = some p →
        s.unchecked plan.toNat run.toNat level.toNat m.toNat = some (i, r, q) →
        let mine := digestOf p.plan r.run q.level (if q.level = 15 then p.fmt else p.partFmt) (s.fget F.STEP_CURRENT.STEP) q.data
        exec (.collectiveDigestReceive plan run level m mine) s = .next (s.checkedPiece i q.level q.who)
        ∧ (∀ d, digestFails mine d ≠ [] → ∃ s', exec (.collectiveDigestReceive plan run level m d) s = .next s' ∧ s'.endDirty = true
            ∧ s'.tiles = s.tiles ∧ s'.mem = s.mem)
        ∧ ∃ s', exec (.digestTimeout plan run level m) s = .next s' ∧ s'.endDirty = true
            ∧ (r.reported = false → ∃ x : Report, x.code = 0x5001 ∧ s'.out = s.out ++ [.report x false]))
    ∧ (∀ (plan : W16) (p : Plan) (r : Run) (bs : List Byte), s.plan plan.toNat = some p → s.runs = [r] → r.plan = plan.toNat →
        r.result = some bs → r.written = false → s.engineBusy plan = false → p.index s.ord.toNat ≠ 0 → p.sigKind = 0 →
        exec (.collectiveResultWritten plan) s = .next ({ s with
          runs := [{ r with written := true, awaits := [], early := [] }]
          rootFlags := s.rootFlags ||| BitVec.ofNat 64 (2 ^ p.sig) }.emits [.flagCast (BitVec.ofNat 6 p.sig) true s.mesh.era,
            .resultDigest (p.member 0) p.plan r.run (digestOf p.plan r.run 15 p.fmt (s.fget F.STEP_CURRENT.STEP) bs)]))
    ∧ (∀ (plan : W16) (run : Byte) (m : DevOrd) (d : List Byte) (p : Plan) (r : Run), s.plan plan.toNat = some p → p.index s.ord.toNat = 0 →
        p.op ≠ 2 → s.runs = [r] → r.plan = plan.toNat → r.run % 256 = run.toNat → m.toNat ∈ r.awaits →
        let left := { r with awaits := r.awaits.filter (fun o => o != m.toNat) }
        let mine := digestOf p.plan r.run 15 p.fmt (s.fget F.STEP_CURRENT.STEP) (r.result.getD [])
        (resultAgrees mine d = true → exec (.resultDigestReceive plan run m d) s = .next { s with runs := [left] })
        ∧ (resultAgrees mine d = false → r.reported = false → ∃ s' x, exec (.resultDigestReceive plan run m d) s = .next s' ∧ s'.endDirty = true
            ∧ x.code = 0x5004 ∧ s'.out = s.out ++ [.report x false]))

/-! ## Steps and the commit vote (R24, R33 to R35, R57 to R63, R72, R331, R332, R376, R388 to R394) -/

/-- R33, R92, R118, R316, R389, R501: a START that the device may take begins its step; one whose interval is not open yet, or that a
reconfiguration keeps back, waits; one that reaches a sleeping device sets ACCESS and STEP and waits. -/
def StartsBeginTheirStep : Prop :=
  ∀ (s : State) (n : W64), s.Inv →
    (s.stepFits n.toNat = true → s.mayStartStep n.toNat = false → s.deviceAsleep = false →
      exec (.startMsg n) s = .next { s with startWait := some n.toNat })
    ∧ (s.stepFits n.toNat = true → s.deviceAsleep = true → ∃ s', exec (.startMsg n) s = .next s' ∧ s'.startWait = some n.toNat
        ∧ (2, 0) ∈ s'.hwLimits 158 ∧ (0, 0) ∈ s'.hwLimits 158 ∧ s'.stepPhase = s.stepPhase)
    ∧ (s.mayStartStep n.toNat = true → s.stepPhase = phStepIdle →
    ∃ s', exec (.startMsg n) s = .next s' ∧ s'.fget F.STEP_CURRENT.STEP = n.toNat ∧ s'.stepPhase = phStepRunning ∧ s'.result = none
      ∧ s'.ended = false ∧ s'.prepared = none ∧ s'.endDirty = s.askRollback ∧ s'.tiles = s.tiles ∧ s'.mem = s.mem
      ∧ s'.fget F.STEP_COMMITTED.STEP = s.fget F.STEP_COMMITTED.STEP
      ∧ s'.startWait = none ∧ s'.undo = none ∧ (s.cmdCtrl = [] → s'.out = s.out))

/-- R388, R391: ENDs are combined: a dirty one aborts the step at the coordinator; the last clean one brings PREPARE. -/
def EndsAreCombined : Prop :=
  ∀ (s : State) (o : DevOrd) (n : W64), s.coord.stage = .running → n.toNat = s.current → o.toNat ∈ s.expected →
    (s.coordinates = true → s.coord.rollLead = none → exec (.endMsg o n true) s = .next (s.abort 1 o.toNat))
    ∧ (∀ l, s.coordinates = true → s.coord.rollLead = some l → exec (.endMsg o n true) s = .next (s.abort 7 l))
    ∧ (s.combines = true → s.coordinates = false → exec (.endMsg o n true) s =
        .next ({ s with coord := { s.coord with stage := .none } }.emit (.ctrl 0x09 (some s.primaryOrd) n 1)))
    ∧ (s.combines = true → (∃ e ∈ s.expected, e ≠ o.toNat ∧ e ∉ s.coord.ends) → exec (.endMsg o n false) s =
        .next { s with coord := { s.coord with ends := addTo o.toNat s.coord.ends } })
    ∧ (s.coordinates = true → (∀ e ∈ s.expected, e = o.toNat ∨ e ∈ s.coord.ends) → exec (.endMsg o n false) s =
        .next ({ s with coord := { s.coord with
            ends := addTo o.toNat s.coord.ends
            stage := if s.commitStep then .voting else .boundary
            votes := []
            t0 := s.now } }.emit (.ctrl 0x0A none (BitVec.ofNat 64 n.toNat) (if s.commitStep then 1 else 0))))

/-- R331, R332, R57, R389: PREPARE finds residue at tiles and, at a commit step, begins the vote; the VOTE says what was found. -/
def PreparesAreAnswered : Prop :=
  ∀ (s : State) (n : W64),
    (s.mayPrepare n.toNat = true → s.combines = false → (∀ p ∈ s.contexts, p.2.residue = none) →
      exec (.prepareBoundary n) s = .next { s with prepared := some (1, false) }
      ∧ exec (.prepareCommit n) s =
          .next { (s.fset F.STEP_STATUS.PHASE phStepVoting).fset F.STEP_STATUS.COMMIT_BUSY 1 with prepared := some (2, false) })
    ∧ (s.mayPrepare n.toNat = true → (∃ p ∈ s.contexts, p.2.residue ≠ none) → ∃ s' r, exec (.prepareBoundary n) s = .next s'
        ∧ s'.prepared = some (1, true) ∧ r.code = 0x1032 ∧ .report r false ∈ s'.out)
    ∧ (∀ kind residue, s.prepared = some (kind, residue) → s.home.cows = [] → s.needPrimary = false → exec .voteSend s =
        .next ({ s with prepared := none, result := none }.emit (.ctrl 0x0B (some s.aggOrd) (BitVec.ofNat 64 s.current)
          (if residue then 1 else if s.endDirty then 2 else 0))))

/-- R24, R389, R391: the last VOTE brings the decision, through the standby where one is enabled, and the next step at a boundary; a no
vote aborts before the decision point. -/
def VotesAreDecided : Prop :=
  ∀ (s : State) (o : DevOrd) (n : W64), n.toNat = s.current →
    (s.coordinates = true → s.coord.stage = .boundary ∨ s.coord.stage = .voting → o.toNat ∈ s.expected →
      (∀ code : Byte, code = 1 ∨ code = 2 → exec (.vote o n code) s = .next (s.abort (code.toNat + 1) o.toNat))
      ∧ ((∀ e ∈ s.expected, e = o.toNat ∨ e ∈ s.coord.votes) → let t := { s with coord := { s.coord with votes := addTo o.toNat s.coord.votes } }
          (s.coord.stage = .boundary → exec (.vote o n 0) s =
            .next ({ t with coord := { t.coord with stage := .starting, step := s.current + 1, acks := [] } }.emit
              (.ctrl 0x08 none (BitVec.ofNat 64 (s.current + 1)) 0)))
          ∧ (s.coord.stage = .voting → s.coord.acting = false → s.fbit F.STEP_COORD.SB_EN = true → exec (.vote o n 0) s =
            .next ({ t with coord := { t.coord with stage := .standby } }.emit (.ctrl 0x0C (some s.standbyOrd) n 1)))
          ∧ (s.coord.stage = .voting → s.fbit F.STEP_COORD.SB_EN = false → exec (.vote o n 0) s = .next (t.takeDecision 0 0))))
    ∧ (s.isStandby = true → s.stepPhase = phStepVoting → exec (.decideAtStandby n) s =
        .next ({ s.decision n.toNat 1 0 0 with decided := some n.toNat }.emit (.ctrl 0x0D (some s.primaryOrd) n 3)))
    ∧ (s.coordinates = true → s.coord.stage = .standby → exec (.standbyAck n) s = .next (s.takeDecision 0 0))

/-- R87, R89, R90, R59, R63, R72, R121, R394: a commit decision makes the step the committed one and records its interval as committed, and
is durable at once where no device mirrors; a rollback takes the step back to the committed one, drops flags, barriers, runs and held
requests, and records its interval as rolled back; a revert takes the last commit back too. -/
def DecisionsTakeEffect : Prop :=
  ∀ (s : State) (n : W64), s.Inv →
    ((s.stepPhase = phStepVoting ∧ s.prepared = none) ∨ s.undecided = some n.toNat → n.toNat = s.current → s.mirrorOn = false → ∃ s', exec (.decideCommit n false) s = .next s'
      ∧ s'.fget F.STEP_COMMITTED.STEP = n.toNat ∧ s'.fget F.STEP_DURABLE.STEP = n.toNat ∧ s'.stepPhase = phStepFlipping
      ∧ mapGet 0 s'.home.outcomes s.serial.toNat = 1 ∧ s'.home.lastCommit = s.serial ∧ s'.home.closing = true ∧ s'.mem = s.mem
      ∧ s'.home.table = s.home.table ∧ s'.tiles = s.tiles)
    ∧ (s.mayRoll = true → n.toNat = s.current → s.home.closing = false → ∃ s', exec (.decideAbort n) s = .next s'
      ∧ s'.fget F.STEP_CURRENT.STEP = s.committed % 2 ^ 64 ∧ s'.committed = s.committed ∧ (s'.rolling ≠ [] → s'.stepPhase = phStepRolling)
      ∧ s'.fbit F.STEP_STATUS.ROLLBACK = true ∧ s'.fbit F.STEP_STATUS.COMMIT_BUSY = false ∧ s'.rootFlags = 0 ∧ s'.barriers = []
      ∧ s'.runs = [] ∧ s'.home.cows = [] ∧ s'.home.hostHeld = [] ∧ s'.home.hostReads = [] ∧ mapGet 0 s'.home.outcomes s.serial.toNat = 2 ∧ s'.mem = s.mem
      ∧ (∀ t, s'.tile t = (s.tile t).leftBehind) ∧ (s.home.hostHeld = [] → s.home.hostReads = [] → s'.home.table = s.home.table))
    ∧ (s.mayRoll = true → n.toNat = s.current → s.home.closing = true → s.home.hostHeld = [] → s.home.hostReads = [] → ∃ s',
      exec (.decideAbort n) s = .next s' ∧ s'.home.outcomes = s.home.outcomes
        ∧ ∀ p ∈ s'.home.table, p.2.kind = 2 → p.2.stale = true ∧ p.2.mask = 0)
    ∧ (s.fbit F.WV_STATUS.LOADED = true → s.stepPhase = phStepFlipping ∨ s.stepPhase = phStepMirroring → n.toNat = s.committed →
      s.durable = false → (s.home.closing = false → s.serial ≠ s.home.lastCommit) → ∃ s', exec (.decideRevert n) s = .next s'
      ∧ s'.committed = s.beforeCommit % 2 ^ 64 ∧ s'.current = s.beforeCommit % 2 ^ 64 ∧ (s'.rolling ≠ [] → s'.stepPhase = phStepRolling)
      ∧ mapGet 0 s'.home.outcomes s.home.lastCommit.toNat = 3
      ∧ (s.home.closing = false → mapGet 0 s'.home.outcomes s.serial.toNat = 2) ∧ s'.mem = s.mem ∧ (∀ t, s'.tile t = (s.tile t).leftBehind)
      ∧ (s.home.hostHeld = [] → s.home.hostReads = [] →
          if s.home.closing then s'.home.table = s.home.table
          else ∀ p ∈ s'.home.table, p.2.kind = 2 → p.2.stale = true ∧ p.2.mask = 0))

/-- R389, R394, R398, R408: the last ACK brings DONE, which carries START while the run-steps commands of every lead go on, or the next
step after a rollback; DONE ends the commit here, makes it durable, or holds
the job. -/
def CommitsEnd : Prop :=
  ∀ (s : State) (n : W64), s.Inv →
    (∀ (o : DevOrd) (us : W16), s.coordinates = true → o.toNat ∈ s.expected → (∀ e ∈ s.expected, e = o.toNat ∨ e ∈ s.coord.acks) →
      (s.coord.stage = .flipping → s.jobMirror = false → s.coord.rollAfter = 0 → ∃ s', exec (.ack o n 1 us) s = .next s'
        ∧ (if s.stepWanted (n.toNat + 1) then s'.coord.stage = .starting ∧ s'.out = s.out ++ [.doneStart n 1]
           else s'.coord.stage = .none ∧ s'.out = s.out ++ [.ctrl 0x0E none (BitVec.ofNat 64 n.toNat) 1])
        ∧ s'.fget F.STEP_VOTE_TIME.LAST = us.toNat
        ∧ s'.fget F.STEP_VOTE_TIME.MAX = max (s.fget F.STEP_VOTE_TIME.MAX) us.toNat % 65536)
      ∧ (s.coord.stage = .mirroring → s.coord.rollAfter = 0 → ∃ s', exec (.ack o n 1 us) s = .next s'
        ∧ (if s.stepWanted (n.toNat + 1) then s'.coord.stage = .starting ∧ s'.out = s.out ++ [.doneStart n 2]
           else s'.coord.stage = .none ∧ s'.out = s.out ++ [.ctrl 0x0E none (BitVec.ofNat 64 n.toNat) 2]))
      ∧ (s.coord.stage = .rolling → s.coord.resets = [] → s.fbit F.HQ_STATUS.JOB_UNREC = false → s.outUnits = [] → s.heldTopology = false →
          s.coord.acting = false → ∃ s', exec (.ack o n 2 us) s = .next s'
        ∧ (if s.stepWanted (s.committed + 1) then s'.coord.stage = .starting
              ∧ s'.out = s.out ++ [.ctrl 0x08 none (BitVec.ofNat 64 (s.committed + 1)) 0]
           else s'.coord.stage = .none ∧ s'.out = s.out)))
    ∧ (s.stepPhase = phStepFlipping → n.toNat = s.committed → s.jobMirror = false → ∃ s', exec (.doneCommitted n false) s = .next s'
        ∧ s'.stepPhase = phStepIdle ∧ s'.fbit F.STEP_STATUS.COMMIT_BUSY = false ∧ s'.home.hostHeld = [] ∧ s'.committed = s.committed ∧ s'.mem = s.mem)
    ∧ (s.stepPhase = phStepFlipping → n.toNat = s.committed → s.jobMirror = true → ∃ s', exec (.doneCommitted n false) s = .next s'
        ∧ s'.stepPhase = phStepMirroring ∧ s'.fbit F.STEP_STATUS.COMMIT_BUSY = false ∧ s'.mirror.due = (s.mirror.due || s.mirrorOn))
    ∧ (s.stepPhase = phStepMirroring → n.toNat = s.committed → ∃ s', exec (.doneDurable n false) s = .next s' ∧ s'.stepPhase = phStepIdle
        ∧ s'.fget F.STEP_DURABLE.STEP = n.toNat ∧ s'.fbit F.STEP_STATUS.MIRROR_PENDING = false ∧ s'.mem = s.mem)
    ∧ (∀ top : Bool, s.fbit F.WV_STATUS.LOADED = true → s.stepPhase = phStepIdle → s.ackStep = none → ∃ s', exec (.doneHeld top) s = .next s'
        ∧ s'.stepPhase = phStepIdle ∧ (s.fbit F.HQ_STATUS.JOB_UNREC = false → s'.fbit F.HQ_STATUS.JOB_HELD = true) ∧ s'.heldTopology = (s.heldTopology || top) ∧ s'.cmdRun = none)

/-- R391, R392, R440: a VOTE or an ACK that does not come names its device; the standby takes over and commits or aborts by what it holds,
and a device answers its query. -/
def SilenceIsHandled : Prop :=
  ∀ s : State,
    (∀ o, s.coordinates = true → s.coord.stage = .boundary ∨ s.coord.stage = .voting → firstMissing s.expected s.coord.votes = some o →
        exec .voteTimeout s = .next (s.abort 5 o))
    ∧ (∀ o, s.coordinates = true → s.coord.stage = .rolling → firstMissing s.expected s.coord.acks = some o → ∃ s' r, exec .voteTimeout s = .next s'
        ∧ o ∈ s'.coord.resets ∧ r.code = 0x6006 ∧ .report r false ∈ s'.out)
    ∧ (∀ rs : List QueryAnswer, s.isStandby = true → s.coord.acting = false → s.stepPhase = phStepVoting → ∃ s', exec (.standbyTakeover rs) s = .next s'
        ∧ s'.coord.acting = true ∧ s'.needPrimary = true ∧ s'.fget F.STEP_LAST_VOTE.REASON = 6
        ∧ s'.fget F.STEP_LAST_VOTE.OUTCOME =
            (if s.decided = some s.current ∨ ∃ r ∈ rs, r.code = 1 ∧ r.step.toNat = s.current then 1 else 2))
    ∧ (∀ o : DevOrd, s.fbit F.STEP_COORD.SB_EN = true → o.toNat = s.standbyOrd → ∃ s' a, exec (.queryReply o) s = .next s'
        ∧ s'.needPrimary = true ∧ a.ord = s.ord ∧ a.code = BitVec.ofNat 8 (s.fget F.STEP_LAST_VOTE.OUTCOME)
        ∧ a.step = BitVec.ofNat 64 (s.fget F.STEP_LAST_VOTE.STEP) ∧ s'.out = s.out ++ .queryAnswer o.toNat a ::
          (if s.afterRoll && s.ackStep.isNone then [.ctrl 0x0D (some (s.fget F.STEP_COORD.STANDBY)) (BitVec.ofNat 64 s.committed) 2] else []))

/-- R388 to R394: the vote. -/
def StepsEndInADecision : Prop :=
  StartsBeginTheirStep ∧ EndsAreCombined ∧ PreparesAreAnswered ∧ VotesAreDecided ∧ SilenceIsHandled
def DecisionsMoveTheCommit : Prop := DecisionsTakeEffect ∧ CommitsEnd

/-- R388 to R394: the vote and the commit. -/
def Obligations.VotesDecideAndTheCommitFollows : Prop := StepsEndInADecision ∧ DecisionsMoveTheCommit

/-! ## Mirroring (R69 to R74, R395 to R398) -/

/-- R70, R395 to R398: the source streams every sub-block of the commit and then its count; the buddy writes each chunk into the frame that
is not selected, and turns the selection when the count matches; acceptance lets the source answer for its durability, and a refusal ends
the mirroring; a release frees what a source holds. -/
def Obligations.MirrorsFollowTheirSource : Prop :=
  ∀ s : State,
    (s.mirror.due = true → s.mirror.streaming = false → s.fbit F.STEP_BUDDY.EN = true → s.mirror.former = none →
      let news := s.mirror.hostWrote.foldl (fun l n => addTo n l) s.mirror.todo
      let subs := if s.mirror.first then s.allCommitted else news
      exec .mirrorStream s = .next { s with
        out := s.out ++ subs.flatMap (s.mirrorPackets s.buddyOrd) ++ [.mirrorCtl s.buddyOrd 1 subs.length]
        mirror := { s.mirror with todo := [], hostWrote := [], sent := news, streaming := true, due := false } })
    ∧ (s.mirror.streaming = true → s.mirror.former = none → s.needPrimary = false →
        exec .mirrorAccepted s = .next ({ s with mirror := { s.mirror with streaming := false, sent := [], first := false } }.emit
          (.ctrl 0x0D (some s.aggOrd) (BitVec.ofNat 64 (s.fget F.STEP_COMMITTED.STEP)) 1))
        ∧ (s.Inv → ∃ s', exec .mirrorRefused s = .next s' ∧ s'.fbit F.STEP_BUDDY.EN = false ∧ s'.fbit F.STEP_STATUS.MIRROR_ERR = true
            ∧ s'.mirror.streaming = false ∧ s'.mem = s.mem))
    ∧ (∀ o, s.mirror.streaming = true → s.mirror.former = some (o, true) → s.fbit F.STEP_BUDDY.EN = true → exec .mirrorAccepted s =
        .next ({ s with mirror := { s.mirror with
          streaming := false
          sent := []
          former := none
          formerFirst := false
          due := true } }.emit (.mirrorCtl o 4 0)))
    ∧ (∀ (o : DevOrd) (x : Source), mapFind s.sources o.toNat = some x →
        (∀ (k : W16) (lpn : Lpn) (sub ch : BitVec 5) (data : List Byte) (e : MirrorEntry), x.refused = false → mapFind x.pages lpn.toNat = some e →
          let f := if e.sel.getLsbD sub.toNat then e.frameA else e.frameB
          exec (.mirrorData o k lpn sub ch data) s = .next ((s.memWrite
            (f * Config.pageBytes + sub.toNat * Config.subBytes + ch.toNat * 2048) (data.take 2048)).setSource o.toNat { x with
              pages := mapIns lpn.toNat { e with pend := e.pend ||| BitVec.ofNat 32 (2 ^ sub.toNat) } x.pages
              got := addTo (lpn.toNat * 1024 + sub.toNat * 32 + ch.toNat) x.got }))
        ∧ (∀ (n : W32) (bs : List Byte), x.refused = false → x.got.length = n.toNat * 32 →
          exec (.mirrorEndOfStream o n (some bs)) s = .next ((s.setSource o.toNat { x with
            pages := x.pages.map (fun p => (p.1, { p.2 with sel := p.2.sel ^^^ p.2.pend, pend := 0 }))
            got := []
            portion := bs
            accepted := true }).emit (.mirrorCtl o.toNat 2 0)))
        ∧ (∀ (n : W32) p, x.refused = false → x.got.length ≠ n.toNat * 32 →
          exec (.mirrorEndOfStream o n p) s = .next (s.setSource o.toNat { x with
            pages := x.pages.map (fun p => (p.1, { p.2 with pend := 0 }))
            got := []
            refused := false }))
        ∧ (∃ s', exec (.mirrorRelease o) s = .next s' ∧ s'.sources = mapDel o.toNat s.sources ∧ s'.mem = s.mem
            ∧ ∀ f, f ∈ s'.mirrorFrames ↔ f ∈ s.mirrorFrames ∧ f ∉ x.frames))

/-! ## The host queues (R399, R410 to R420) -/

/-- R401, R410, R413, R420: a completed command leaves its entry at the next slot of its CQ, with the PHASE of this lap, while there is room
and the host's memory takes it; a write that fails stops the queue; the completion of a command that a reset of the HQ block has overtaken is
discarded. -/
def CompletionsArePosted : Prop :=
  ∀ (s : State) (q : BitVec 4) (f : Fetched) (result status detail : Nat), let n := q.toNat
    let x := s.queue n
    x.busy = some f → x.held = [] → x.fetched = [] → s.cqFull n = false →
    let t := s.complete (some q) result status detail
    let e := cqEntry n f result status detail
    (f.live = false → (t.queue n).busy = none ∧ (t.queue n).tail = x.tail ∧ t.out = s.out)
    ∧ (f.live = true → s.hostCut = true → s.Inv → t.fbit (F.HQ_Q_STATUS.ERR.ix n) = true ∧ t.fget (F.HQ_Q_STATUS.ERRCODE.ix n) = 3
        ∧ (t.queue n).tail = x.tail)
    ∧ (f.live = true → s.hostCut = false → (t.queue n).busy = none ∧ (t.queue n).tail = (x.tail + 1) % s.cqSize n
    ∧ (t.queue n).lap = (if (x.tail + 1) % s.cqSize n = 0 then !x.lap else x.lap)
    ∧ ∃ rest, t.out = s.out ++ .cqWrite (s.fget (F.HQ_CQ_BASE.ADDR.ix n) * 4096 + x.tail * 16)
        (e.dropLast ++ [if x.lap then e.getLastD 0 ||| 0x80#8 else e.getLastD 0]) :: rest
      ∧ (s.isLead = true → (s.msixWord (s.fget (F.HQ_Q_CFG.VECTOR.ix n) * 4 + 3)).getLsbD 0 = false → rest ≠ []))

/-- R410, R411, R414, R420: doorbells move the indices, entries are fetched in turn, a failed fetch and an index out of range stop the
queue, and a write of EN = 0 clears its error. -/
def QueuesMoveTheirIndices : Prop :=
  ∀ (s : State) (q : BitVec 4) (v : W32), let n := q.toNat
    (s.fbit (F.HQ_Q_CFG.EN.ix n) = true → v.toNat < 4096 →
      (v.toNat < s.sqSize n → exec (.doorbellWrite q v) s = .next (s.fset (F.HQ_DOORBELL.INDEX.ix n) v.toNat))
      ∧ (s.sqSize n ≤ v.toNat → exec (.doorbellWrite q v) s = .next (s.stopQueue n 1))
      ∧ (v.toNat < s.cqSize n → (s.queue n).held = [] → (∀ f ∈ (s.queue n).fetched, (spell f.words).isSome = true) → exec (.cqHeadWrite q v) s = .next (s.fset (F.HQ_CQ_HEAD.INDEX.ix n) v.toNat)))
    ∧ (s.fbit (F.HQ_Q_CFG.EN.ix n) = false → exec (.doorbellWrite q v) s = .next (s.refuseWrite (0x10018 + 0x40 * n) v.toNat)
      ∧ exec (.cqHeadWrite q v) s = .next (s.refuseWrite (0x1001C + 0x40 * n) v.toNat))
    ∧ exec (.queueDisable q) s = .next (((s.fset (F.HQ_Q_CFG.EN.ix n) 0).fset (F.HQ_Q_STATUS.ERR.ix n) 0).fset (F.HQ_Q_STATUS.ERRCODE.ix n) 0)
    ∧ (∀ k, s.fetchTurn = some k → exec (.sqEntryFetch none) s = .next ({ s with nextQ := (k + 1) % 16 }.stopQueue k 2)
      ∧ ∀ (ws : List W64) (c : HostCmd), ws.length = 8 → spell ws = some c → (∀ f ∈ (s.queue k).fetched, (spell f.words).isSome = true) →
          let head := (s.fget (F.HQ_Q_STATUS.SQ_HEAD.ix k) + 1) % s.sqSize k
          exec (.sqEntryFetch (some ws)) s = .next (({ s with nextQ := (k + 1) % 16, fetches := s.fetches + 1 }.fset
            (F.HQ_Q_STATUS.SQ_HEAD.ix k) head).setQueue k { s.queue k with fetched := (s.queue k).fetched ++ [(⟨ws, head, s.fetches + 1, true⟩ : Fetched)] }))

/-- R415 to R419: the commands of the host, once they may start. -/
def HostCommandsRun : Prop :=
  ∀ (s : State) (q : BitVec 4) (cid : W16), let b := s.begin q
    (∀ (first : W64) (count : W32), s.mayStart q cid (.runSteps first.toNat count.toNat) = true → s.cmdRun = none → s.loadAllowsRun = true →
      s.needPrimary = false → s.earlierRun (((s.queue q.toNat).fetched.head?.map Fetched.order).getD 0) = false →
      s.runStatus first.toNat true = 0 → s.coordinates = true → s.herds ≤ 1 → 1 ≤ count.toNat → s.stepPhase = phStepIdle →
      s.coord.stage = .none ∨ s.coord.stage = .held →
      exec (.runSteps s.ord q cid first count true) s = .next ({ b with
        cmdRun := some ⟨some q, first.toNat, count.toNat, false⟩
        coord := { b.coord with windows := (s.ord.toNat, first.toNat, first.toNat + count.toNat - 1) ::
          b.coord.windows.filter (fun w => w.1 != s.ord.toNat) }
        out := b.out ++ [Output.runWindow first.toNat (first.toNat + count.toNat - 1)] }.sendStart first.toNat))
    ∧ (∀ (lead : DevOrd) (first : W64) (count : W32) (agree : Bool), lead ≠ s.ord →
        exec (.runSteps lead q cid first count agree) s =
          .next (if s.coordinates then s.openWindow lead.toNat first.toNat (first.toNat + count.toNat - 1) else s))
    ∧ (∀ r, b.cmdRun = some r → b.fbit F.HQ_STATUS.JOB_UNREC = false → b.fbit F.HQ_STATUS.JOB_HELD = false → b.coordinates = true →
        let n := b.ctrlStep
        (s.mayStart q cid (.commitCtrl 1) = true → exec (.commitCtrlCommit s.ord q cid) s = .next
          ({ b with cmdCtrl := b.cmdCtrl ++ [(⟨some q, 1, n⟩ : CtrlCmd)] }.askCommitAt n))
        ∧ (s.mayStart q cid (.commitCtrl 2) = true → n < r.last → ∃ s', exec (.commitCtrlStop s.ord q cid) s = .next s'
            ∧ s'.cmdRun = some { r with count := n + 1 - r.first, stop := true } ∧ s'.cmdCtrl = b.cmdCtrl ++ [(⟨some q, 2, n⟩ : CtrlCmd)]
            ∧ s'.regs = b.regs ∧ s'.out = b.out)
        ∧ (s.mayStart q cid (.commitCtrl 3) = true → exec (.commitCtrlRollback s.ord q cid) s = .next { b with
            cmdCtrl := b.cmdCtrl ++ [(⟨some q, 3, n⟩ : CtrlCmd)]
            askRollback := true
            endDirty := b.endDirty || n == b.current
            coord := { b.coord with rollLead := some s.ord.toNat } }))
    ∧ (∀ lead : DevOrd, lead ≠ s.ord → s.coordinates = true → let n := s.ctrlStep
        exec (.commitCtrlCommit lead q cid) s = .next (s.askCommitAt n)
        ∧ exec (.commitCtrlStop lead q cid) s = .next ((s.askCommitAt n).stopAfter n)
        ∧ exec (.commitCtrlRollback lead q cid) s = .next { s with
            askRollback := true
            endDirty := s.endDirty || n == s.current
            coord := { s.coord with rollLead := some lead.toNat } })
    ∧ (∀ (host a : W64) (len : W32) (r : Range) (lpn sub : Nat), partsOf a.toNat len.toNat = [(a.toNat, len.toNat)] →
        s.place a.toNat = some (r, s.ord.toNat, lpn, sub) → r.kind = 2 → s.hostServes = true → s.fbit F.HQ_STATUS.LINK_LOW = false →
        (∀ bs : List Byte, s.frontCmd q cid = some (.copy host.toNat a.toNat len.toNat false) →
          exec (.copyHostToJob q cid a len (some bs)) s =
            .next ((b.writePart (.host a.toNat) a.toNat (bs.take len.toNat)).complete (some q) len.toNat 0 0))
        ∧ (∀ remote copies bs t, s.frontCmd q cid = some (.copy host.toNat a.toNat len.toNat true) →
          b.hostPart [] copies a.toNat len.toNat = (bs, t) →
          exec (.copyJobToHost q cid host a len remote [] copies) s = .next (if s.hostCut then b.complete (some q) 0 0x09 0
            else (t.emit (.hostWrite host.toNat bs)).complete (some q) len.toNat 0 0)))
    ∧ (∀ (buf : W64) (from_ : BitVec 48) (n : BitVec 23) (pos : BitVec 6) far,
        s.frontCmd q cid = some (.readEvents buf.toNat from_.toNat n.toNat pos.toNat) → pos.toNat = s.pos →
        let rs := s.recorder.deliver from_.toNat (n.toNat / 128)
        exec (.readEvents q cid buf from_ n pos far) s = .next (if s.hostCut then b.complete (some q) 0 0x09 0
          else (b.emit (.hostWrite buf.toNat rs.flatten)).complete (some q) (nextAfter from_.toNat rs % 2 ^ 48 + rs.length * 2 ^ 48) 0 0))
    ∧ (∀ (us : W32) (mask : W64), s.frontCmd q cid = some (.setTolerance us.toNat mask.toNat) → s.pos < 64 → mask.toNat = 2 ^ s.pos →
        exec (.setTolerance q cid us mask) s = .next ((b.setTol us.toNat).complete (some q) 0 0 0))

/-- R409 to R420: queues and commands. -/
def Obligations.HostQueuesRunTheirCommands : Prop := CompletionsArePosted ∧ QueuesMoveTheirIndices ∧ HostCommandsRun

/-! ## The host port, the mailbox and SMBus (R366, R400, R401, R409, R422, R423, R461, R464, R541) -/

/-- R400, R401, R461: the link settles; PERST_N, a hot reset and an FLR reset the host port and the HQ block, and nothing else; commands already
fetched go on, their completions to be discarded. -/
def HostPortIsReset : Prop :=
  ∀ s : State, s.hostPort = true →
    (∀ (rate width : BitVec 2) (flit : Bool), s.pins.perstLow = false → rate ≠ 0 → width ≠ 0 → exec (.hostLinkTrained rate width flit) s =
      .next ((((s.fset F.HQ_STATUS.RATE rate.toNat).fset F.HQ_STATUS.WIDTH width.toNat).fset F.HQ_STATUS.FLIT (if flit then 1 else 0)).fset
        F.HQ_STATUS.LINK_LOW 0))
    ∧ exec .hotReset s = .next s.resetHq ∧ exec .flr s = .next s.resetHq ∧ exec .rstBlkHq s = .next s.resetHq
    ∧ (s.isLead = true → exec (.perstN true) s = .next { s with pins := { s.pins with perstLow := true } }.resetHq
      ∧ exec (.perstN false) s = .next ({ s with pins := { s.pins with perstLow := false } }.emit (.hostLink true)))
    ∧ (s.isLead = false → ∀ low, exec (.perstN low) s = .next s)
    ∧ (let t := s.resetHq
       (∀ q, (t.queue q).held = [] ∧ (t.queue q).tail = 0 ∧ (t.queue q).fetched.map Fetched.words = (s.queue q).fetched.map Fetched.words
         ∧ (∀ f ∈ (t.queue q).fetched, f.live = false) ∧ ∀ f, (t.queue q).busy = some f → f.live = false)
       ∧ t.cmdRun = s.cmdRun ∧ t.msix = [] ∧ t.home.hostHeld = [] ∧ t.mem = s.mem ∧ t.tiles = s.tiles ∧ t.current = s.current
       ∧ ∀ q < 16, t.fbit (F.HQ_Q_CFG.EN.ix q) = false ∧ t.fget (F.HQ_DOORBELL.INDEX.ix q) = 0)

/-- R409: an access through the member window reaches the member that POS names, whose answer the host gets; without one FAIL is set. -/
def MemberWindowReachesItsMember : Prop :=
  ∀ (s : State) (off : BitVec 25) (n : Nat), HostServed s → aligned off.toNat n = true → off.toNat / 0x10000 ≠ 2 →
    let pos := s.fget F.HQ_MEMBER_SEL.POS
    let at_ := 0x2000000 + off.toNat
    s.present pos = true → pos ≠ s.pos → let t := s.emit (.memberAccess pos off.toNat n none)
    (∀ v : W64, exec (.memberWindowAccess off n none (some v)) s = .next (t.emit (.readData .pcie at_ v)))
    ∧ exec (.memberWindowAccess off n none none) s =
        .next ((t.fset F.HQ_MEMBER_SEL.FAIL 1).emit (.readData .pcie at_ (BitVec.ofNat 64 (2 ^ (8 * n) - 1))))
    ∧ ∀ v w : W64, exec (.memberWindowAccess off n (some v) (some w)) s = .next (s.emit (.memberAccess pos off.toNat n (some v)))

/-- The mailbox command runs: BUSY is set, OWNER tells SMBus from the host, and `result` and `out` wait for its end. -/
def Runs (c : Instr) (s t : State) (path : Path) (code result : Nat) (out : List Byte) : Prop :=
  exec c s = .next { ((t.fset F.MBX_CMD.CODE code).fset F.MBX_STATUS.BUSY 1).fset F.MBX_STATUS.OWNER (if path = .smbus then 1 else 0) with
    mbxRun := some (result, out) }

/-- R366, R422: the mailbox commands. The values of GET_INFO and the key of slot 0 are the implementation's (log entry 9). -/
def MailboxCommandsRun : Prop :=
  ∀ (s : State) (path : Path), (path = .pcie → s.isLead = true) → s.fbit F.MBX_STATUS.BUSY = false →
    Runs (.getInfo path) s s path 1 0 (toBytes 8 Config.firmwareVersion.toNat ++ toBytes 16 Config.serialNumber.toNat)
    ∧ (descValid (s.mbxBytes 0 160) = true → Runs (.topoWrite path true) s { s with descrFlash := s.mbxBytes 0 160 } path 2 0 []
        ∧ Runs (.topoWrite path false) s s path 2 3 [])
    ∧ (descValid (s.mbxBytes 0 160) = false → ∀ ok, Runs (.topoWrite path ok) s s path 2 2 [])
    ∧ (s.descr.length = 160 → Runs (.topoRead path) s s path 3 0 s.descr)
    ∧ (∀ slot : Nat, s.mbxBytes 0 1 = [BitVec.ofNat 8 slot] → slot < 256 →
        (1 ≤ slot → slot ≤ 7 →
          ((s.mbxBytes 1 97).head? = some 4 → if slot0Signed (s.mbxBytes 0 98) (s.mbxBytes 98 104) then
            Runs (.keyWrite path true) s { s with keys := mapIns slot (.key (keyOf (s.mbxBytes 1 97))) s.keys } path 0x10 0 []
            ∧ Runs (.keyWrite path false) s s path 0x10 3 []
            else ∀ ok, Runs (.keyWrite path ok) s s path 0x10 2 [])
          ∧ (if slot0Signed (s.mbxBytes 0 1) (s.mbxBytes 1 104) then
              Runs (.keyRevoke path true) s { s with keys := mapIns slot .revoked s.keys } path 0x11 0 []
              ∧ Runs (.keyRevoke path false) s s path 0x11 3 []
            else ∀ ok, Runs (.keyRevoke path ok) s s path 0x11 2 [])
          ∧ (∀ k, mapGet KeySlot.empty s.keys slot = .key k → Runs (.keyRead path) s s path 0x12 0 (1 :: keyBytes k))
          ∧ (mapGet KeySlot.empty s.keys slot = .revoked → Runs (.keyRead path) s s path 0x12 0 (2 :: List.replicate 97 0)))
        ∧ (slot = 0 → ∀ ok, Runs (.keyWrite path ok) s s path 0x10 2 [] ∧ Runs (.keyRevoke path ok) s s path 0x11 2 []))

/-- R422, R464: the end of a command shows its result and output and sets the MBX cause; recovery firmware is taken in stage 1 under its
strap codes. -/
def MailboxCommandsEnd : Prop :=
  ∀ s : State, s.Inv →
    (∀ result out, s.mbxRun = some (result, out) → ∃ s', exec .mailboxCommandEnd s = .next s' ∧ s'.fbit F.MBX_STATUS.BUSY = false
      ∧ s'.fget F.MBX_STATUS.RESULT = result % 256 ∧ s'.fget F.MBX_STATUS.LEN = out.length % 65536 ∧ s'.fbit F.HQ_IRQ_CAUSE.MBX = true
      ∧ s'.mbxBuf = writeBytes 0 0 out s.mbxBuf ∧ s'.mbxRun = none ∧ s'.mem = s.mem)
    ∧ (∀ path fw, s.fbit F.RST_CFGSEL.VALID = true → s.bring.active = true → s.bring.next = 1 →
        (s.fget F.RST_CFGSEL.CODE = 8 ∧ path = .pcie) ∨ (s.fget F.RST_CFGSEL.CODE = 9 ∧ path = .smbus) →
        exec (.recoveryFirmwareWrite path fw) s = .next { s with recoveryFw := fw })

/-- R423, R473, R541: the SMBus codes answer while the STAG does; a write without a valid PEC is refused; a stuck clock releases the bus. -/
def SmbusIsServed : Prop :=
  ∀ s : State,
    exec .smbusReadId s = .next (s.emit (.smbData (s.peek 0 10)))
    ∧ (s.smbOpen = true →
        exec .smbusReadStatus s = .next (s.emit (.smbData (s.peek 0x11000 2)))
        ∧ exec .smbusReadPower s = .next (s.emit (.smbData (toBytes 2 s.watts.toNat)))
        ∧ (∀ off : W32, off.toNat < 0x2000000 → off.toNat % 4 = 0 → exec (.smbusBar0Read off true) s =
            .next ((s.read32 off.toNat).2.emit (.smbData (toBytes 4 (s.read32 off.toNat).1))))
        ∧ ∀ off v : W32, off.toNat < 0x10000 → off.toNat % 4 = 0 →
            exec (.smbusMbxWrite off v true) s = .next (s.write32 .smbus (0x30000 + off.toNat) v.toNat))
    ∧ (s.temps = [] → exec .smbusReadTemperature s = .next (s.emit (.smbData [0x00, 0x80])))
    ∧ (∀ (off v : W32) (w : W16), exec (.smbusBar0Read off false) s = .next (s.emit .smbNak)
        ∧ exec (.smbusMbxWrite off v false) s = .next (s.emit .smbNak) ∧ exec (.smbusContinue w false) s = .next (s.emit .smbNak))
    ∧ (s.fbit F.RST_STAGE_CTRL.HELD = true → exec (.smbusContinue 0x5A01 true) s = .next s.release)
    ∧ exec .smbusTimeout s = .next (s.emit .smbRelease)
    ∧ (∀ a : BitVec 7, exec (.smbusArp a) s = .next { s with smbAddr := a })
    ∧ exec .rstBlkSmb s = .next { s with smbAddr := 0x5A }

/-- R366, R400, R401, R409, R422, R423: the host's and the board's ways into the device. -/
def Obligations.HostAndBoardReachTheDevice : Prop :=
  HostPortIsReset ∧ MemberWindowReachesItsMember ∧ MailboxCommandsRun ∧ MailboxCommandsEnd ∧ SmbusIsServed

/-! ## Faults (R424 to R440, R447 to R451) -/

/-- R425, R431, R435, R437: a report is recorded and queued, makes a running step dirty, and has its reset asked for; one that stops a
context goes to the coordinators as a FAULT notice. The queue is popped and cleared by writes. -/
def ReportsReachTheirQueue : Prop :=
  ∀ (s : State) (r : Report),
    (faultReport r = false → reportAsk r = 0 → r.code ∉ ([0x4001, 0x2012, 0x6006, 0x3004] : List W16) →
      exec (.errorReport r) s = .next (({ s with
        endDirty := s.endDirty || (r.unit != 0 && r.flags.getLsbD 0 && s.stepRunning) }.record r).queueReport r))
    ∧ (r.unit = 0 → faultReport r = true → reportAsk r = 1 → r.code ∉ ([0x4001, 0x2012, 0x6006, 0x3004, 0x1014] : List W16) →
      let t := reportTile r
      s.covered (.tile t) = false → mapFind s.charges (s.physOf t) = none → 2 ≤ s.fget F.FLT_ESC_CFG.TILE_N →
      ∃ s' n m, exec (.errorReport r) s = .next s' ∧ Domain.tile t ∈ s'.resetAsk ∧ .notice 0x10 n m ∈ s'.out ∧ n.code = r.code
        ∧ s'.tiles = s.tiles ∧ s'.mem = s.mem)
    ∧ (s.reports.length < 64 → (s.queueReport r).reports = s.reports ++ [r]
        ∧ (s.queueReport r).fget F.FLT_REPORT_STATUS.COUNT = s.reports.length + 1)
    ∧ (64 ≤ s.reports.length → (s.queueReport r).reports = s.reports ∧ (s.queueReport r).fbit F.FLT_REPORT_STATUS.OVERFLOW = true)
    ∧ (∀ (v : W32), bit v.toNat 0 = true →
        (∀ rs, s.reports = r :: rs → exec (.fltReportPop v) s = .next ({ s with reports := rs }.fset F.FLT_REPORT_STATUS.COUNT rs.length))
        ∧ (s.reports = [] → exec (.fltReportPop v) s = .next (s.refuseWrite 0x70004 v.toNat)))
    ∧ (∀ v : W32, bit v.toNat 31 = true → exec (.fltReportStatusClear v) s =
        .next ((s.fset F.FLT_REPORT_STATUS.OVERFLOW 0).fset F.FLT_REPORT_STATUS.LOST 0))

/-- R433, R434: a watched wait that makes no progress is a hang fault, which names what it waited for. -/
def HangsAreReported : Prop :=
  ∀ (s : State) (t : TileId), s.watching = true → s.watchedTile t = true → let x := s.tile t
    (∀ k n, waitKind x.core.wait = some (k, n) → exec (.hangWindowExpired (.context t)) s =
      .next (s.tileErr t 0x6001 true 1 n (opid x.enq x.core.pc) (hangData k n 0 0)))
    ∧ (∀ (p : BitVec 3) (o : Op), x.head p.toNat = some o → x.canIssue o = false → exec (.hangWindowExpired (.port t p)) s =
      .next (s.tileErr t 0x6002 true 1 p.toNat o.opid (hangData 9 0 (x.firstFail o) (x.firstBusy o))))
    ∧ (∀ (ch : BitVec 6) (o : Op), x.stalledSend = some (o, ch) → let e := (x.ep ch).peerId
      exec (.hangWindowExpired (.send t ch)) s =
        .next (s.tileErr t 0x6003 true 0 ch.toNat o.opid (hangData 11 ch.toNat e.ord.toNat (peerWord e))))

/-- R427: the scrub of a hardened register finds its copies equal, rewrites one, or finds no majority, which is an error. -/
def HardenedRegistersAreVoted : Prop :=
  ∀ (s : State) (r : HardReg) (a b c : W64) (us : W16), hardExists r = true → let t := s.fset F.FLT_HARDEN.SCRUB_US us.toNat
    exec (.hardenedScrub r a a a true true true us) s = .next t
    ∧ exec (.hardenedScrub r a a a true false true us) s = .next (t.fadd F.FLT_HARDEN.CORRECTED 1)
    ∧ (a ≠ b → exec (.hardenedScrub r a a b true true true us) s = .next (t.fadd F.FLT_HARDEN.CORRECTED 1)
        ∧ exec (.hardenedScrub r a b a true true true us) s = .next (t.fadd F.FLT_HARDEN.CORRECTED 1)
        ∧ exec (.hardenedScrub r b a a true true true us) s = .next (t.fadd F.FLT_HARDEN.CORRECTED 1))
    ∧ (a ≠ b → b ≠ c → a ≠ c → ∃ s' x, exec (.hardenedScrub r a b c true true true us) s = .next s' ∧ x.code = 0x7001
        ∧ s'.out = s.out ++ [.report x false] ∧ s'.mem = s.mem)

/-- R416, R435, R437, R439, R440, R449, R451, R455, R485: a notice counts once; FAULT aborts a running step at its coordinator, STOT has a reset awaited,
RECOVERED ends it, OUT holds a device out of the job, and READMITTED lets it in; a tile's hold ends with the reset that returns its column, and
a device that mirrored into a device that is lost or replaced streams everything anew. -/
def NoticesAreHeeded : Prop :=
  ∀ (s : State) (n : Notice),
    (∀ c ∈ [Instr.faultNotice n, .stot n, .recovered n, .outNotice n, .readmitted n], (n.subject, n.nseq) ∈ s.seen → exec c s = .next s)
    ∧ ((n.subject, n.nseq) ∉ s.seen → let o := s.wordOrd n.subject
      (s.coordinates = true → s.coord.stage = .running → ∃ s', exec (.faultNotice n) s = .next s' ∧ s'.coord.stage = .rolling
        ∧ .ctrl 0x0C none (BitVec.ofNat 64 s.current) 2 ∈ s'.out ∧ (n.subject, n.nseq) ∈ s'.seen)
      ∧ (s.coordinates = true → n.level = 3 → n.code ≠ 0x6006 → ∃ s', exec (.stot n) s = .next s' ∧ o ∈ s'.coord.resets
        ∧ (n.subject, n.nseq) ∈ s'.seen)
      ∧ (∃ s', exec (.recovered n) s = .next s' ∧ o ∉ s'.coord.resets ∧ (n.subject, n.nseq) ∈ s'.seen)
      ∧ (n.unit = 8 → ∃ s', exec (.outNotice n) s = .next s' ∧ (n.subject, n.unit, n.loc) ∈ s'.outUnits)
      ∧ (n.unit = 8 → ∃ s', exec (.readmitted n) s = .next s' ∧ ∀ u ∈ s'.outUnits, ¬ (u.1 = n.subject ∧ u.2.1 = 8))
      ∧ (n.unit = 0 → ∀ u ∈ s.outUnits, u.1 = n.subject → u.2.1 = 0 → bits u.2.2.toNat 19 8 = bits n.loc.toNat 19 8 →
          ∃ s', exec (.readmitted n) s = .next s' ∧ s'.outUnits = s.outUnits ∧ u ∈ s'.backUnits)
      ∧ (3 ≤ n.level.toNat → ∃ s', exec (.recovered n) s = .next s' ∧ ∀ u ∈ s.backUnits, u.1 = n.subject → u ∉ s'.outUnits)
      ∧ (n.unit = 8 → s.fbit F.STEP_BUDDY.EN = true → s.buddyOrd = o → s.ord.toNat ≠ o →
          ∀ c ∈ [Instr.outNotice n, .readmitted n], ∃ s', exec c s = .next s' ∧ s'.mirror.first = true))

/-- R451, R455, R485: a port, a tile and a device out of service come back when they are readmitted. -/
def UnitsAreReadmitted : Prop :=
  ∀ s : State,
    (∀ p : PortNo, bit (s.fget F.FLT_ESC_STATE.OOS_PORTS) p.toNat = true → ∃ s', exec (.readmitPort p) s = .next s' ∧ p.toNat ∈ s'.portsBack
      ∧ (s.Inv → bit (s'.fget F.FLT_ESC_STATE.OOS_PORTS) p.toNat = false) ∧ ∃ n m, .notice 0x14 n m ∈ s'.out)
    ∧ (∀ (px : BitVec 7) (py : BitVec 5), px.toNat < 68 → physKey px.toNat py.toNat ∈ s.soft.oosTiles →
      ∃ s', exec (.readmitTile px py) s = .next s' ∧ physKey px.toNat py.toNat ∉ s'.soft.oosTiles
        ∧ s'.fenced = s.fenced ∧ (∀ m ∈ s'.soft.marks, ¬ (m.col = px.toNat ∧ m.row = py.toNat))
        ∧ ∃ n m, .notice 0x14 n m ∈ s'.out)
    ∧ (∀ (pos : BitVec 6) portion copies (com dur : W64) (co : W32), pos.toNat = s.pos → s.fbit F.HQ_STATUS.READY = true →
      ∃ s' n m, exec (.readmitDevice pos portion copies com dur co) s = .next s' ∧ s'.soft.oosDevice = false ∧ .notice 0x14 n m ∈ s'.out
        ∧ (∀ w, s.fbit F.WV_STATUS.LOADED = false → storedWeave portion.length none portion = some w → s'.weave = some w
            ∧ s'.portion = portion))

/-- R424 to R440, R447 to R451: faults and notices. -/
def Obligations.FaultsAreReportedAndHeeded : Prop :=
  ReportsReachTheirQueue ∧ HangsAreReported ∧ HardenedRegistersAreVoted ∧ NoticesAreHeeded ∧ UnitsAreReadmitted

/-! ## Resets (R441 to R446, R456 to R462, R474 to R476, R537) -/

/-- The command resets the device with the cause `cause`: its tiles, Commons and queues are as a device reset leaves them, the memory
stacks are kept, and bring-up is to run. -/
def DeviceResets (c : Instr) (s : State) (cause : Fld) : Prop :=
  ∃ s', exec c s = .next s' ∧ s'.fbit cause = true ∧ s'.resetRun = [.device] ∧ s'.fbit F.HQ_STATUS.READY = false
    ∧ (∀ t : TileId, (s'.tile t).phase = phReset ∧ (s'.tile t).gen = (s.tile t).gen + 1 ∧ (s'.tile t).mem = []) ∧ s'.commons = []
    ∧ s'.queues = [] ∧ s'.mem = s.mem ∧ s'.stagUp = false ∧ (s.hostPort = true → .hostLink false ∈ s'.out) ∧ (s.soft.oosDevice = true → s'.bring.active = false)

/-- R446, R456 to R461, R464, R475, R537: what resets the device. -/
def DeviceResetSourcesReset : Prop :=
  ∀ (s : State) (now : Nat), s.now ≤ now → s.isOff = false → s.shutdown = false →
    (s.pins.resetLow = false → ∀ cfg, DeviceResets (.resetN true cfg now) s F.RST_CAUSE.PIN)
    ∧ (s.stagUp = true → s.stagHalted = false → s.fbit F.RST_WDT.EN = true → s.wdtFrom + s.fget F.RST_WDT.PERIOD_MS * 1000000 ≤ now →
        DeviceResets (.wdt now) s F.RST_CAUSE.WDT)
    ∧ (s.fbit F.RST_CFGSEL.DEBUG = true → s.pins.trstLow = false → ∀ hold, DeviceResets (.dbg hold now) s F.RST_CAUSE.DBG)
    ∧ (∀ pll idx, DeviceResets (.ckf pll idx now) s F.RST_CAUSE.CKF)
    ∧ (s.stagUp = true → ∀ q, DeviceResets (.lku q now) s F.RST_CAUSE.LKU)
    ∧ (s.fbit F.HQ_STATUS.READY = true → Domain.device ∉ s.resetRun → DeviceResets .rstSwDevice s F.RST_CAUSE.SWR)
    ∧ (Domain.device ∈ s.resetAsk → s.stepPhase = phStepIdle → DeviceResets (.domainResetBegin .device) s F.RST_CAUSE.FAULT)

/-- R446, R456, R457: power-on keeps what flash and fuses hold and nothing else; brown-out keeps the always-on domain too. -/
def PowerOnStartsAnew : Prop :=
  ∀ (s : State) (cfg : Byte),
    (∃ s', exec (.por cfg) s = .next s' ∧ s'.tiles = [] ∧ s'.mem = [] ∧ s'.commons = [] ∧ s'.now = 0 ∧ s'.soft = s.soft
      ∧ s'.fuses = s.fuses ∧ s'.keys = s.keys ∧ s'.descrFlash = s.descrFlash ∧ s'.fbit F.RST_CAUSE.POR = true
      ∧ s'.fbit F.RST_CAUSE.WDT = false ∧ s'.bring.cfgRaw = cfg ∧ s'.out = s.out)
    ∧ (s.shutdown = false → ∃ s', exec (.bo cfg) s = .next s' ∧ s'.tiles = [] ∧ s'.mem = [] ∧ s'.commons = [] ∧ s'.now = s.now
      ∧ s'.recorder = s.recorder ∧ s'.charges = s.charges ∧ s'.fuses = s.fuses ∧ s'.keys = s.keys ∧ s'.fbit F.RST_CAUSE.BO = true
      ∧ s'.fget F.RST_CAUSE.WDT = s.fget F.RST_CAUSE.WDT)

/-- R436, R442 to R445, R474, R475: a reset of a tile, a cluster or a half is asked for, begins once no step holds it, clears what it
reaches and no more, and ends with its tiles at the gate and RECOVERED sent. -/
def DomainResetsRun : Prop :=
  ∀ (s : State),
    (∀ (x : BitVec 6) (y : BitVec 5), s.fbit F.HQ_STATUS.READY = true → s.stepPhase = phStepIdle → s.resetRun = [] → s.resetAsk = [] →
      let t := mkTile x.toNat y.toNat
      (∃ s', exec (.rstSwTile x y) s = .next s' ∧ s'.resetAsk = [.tile t])
      ∧ (∃ s', exec (.rstSwCluster x y) s = .next s' ∧ s'.resetAsk = [.cluster (BitVec.ofNat 7 (clusterOf t))])
      ∧ (∃ s', exec (.rstSwHalf x y) s = .next s' ∧ s'.resetAsk = [.half (isEast t)]))
    ∧ (s.stepPhase = phStepIdle →
      (∀ t : TileId, Domain.tile t ∈ s.resetAsk → ∃ s', exec (.domainResetBegin (.tile t)) s = .next s' ∧ Domain.tile t ∈ s'.resetRun
        ∧ Domain.tile t ∉ s'.resetAsk ∧ (s'.tile t).phase = phReset ∧ (s'.tile t).gen = (s.tile t).gen + 1 ∧ (s'.tile t).mem = []
        ∧ (∀ u, u ≠ t → s'.tile u = s.tile u) ∧ s'.mem = s.mem ∧ s'.commons = s.commons)
      ∧ (∀ e : Bool, Domain.half e ∈ s.resetAsk → s.bring.active = false → ∃ s', exec (.domainResetBegin (.half e)) s = .next s'
        ∧ (∀ t : TileId, isEast t = e → (s'.tile t).phase = phReset) ∧ s'.bring.active = true ∧ s'.mem = s.mem
        ∧ ∀ a, mapGet 0 s'.commons a = if byteEast a = e then 0 else mapGet 0 s.commons a))
    ∧ (∀ t : TileId, Domain.tile t ∈ s.resetRun → s.weave = none → ∃ s' n m, exec (.domainResetEnd (.tile t)) s = .next s'
        ∧ Domain.tile t ∉ s'.resetRun ∧ (s'.tile t).phase = phIdle ∧ .notice 0x12 n m ∈ s'.out ∧ (∀ u, u ≠ t → s'.tile u = s.tile u))
    ∧ (∀ (t : TileId) (w : Weave), Domain.tile t ∈ s.resetRun → s.weave = some w → (w.imageAt t).ctx = true →
        ∃ s', exec (.domainResetEnd (.tile t)) s = .next s' ∧ (s'.tile t).phase = phGate ∧ (s'.tile t).img = w.imageAt t)

/-- R456, R461, R476, R537: the watchdog is kicked by the STAG only; RESET_N rising measures CFGSEL; blocks are reset alone; references and
PLLs are lost and come back. -/
def BlocksAndReferencesAreFollowed : Prop :=
  ∀ s : State,
    exec (.kick .stag) s = .next { s with wdtFrom := s.now }
    ∧ exec (.kick .smbus) s = .next (s.refuseWrite 0x60010 (2 ^ 30))
    ∧ (∀ (cfg : Byte) (now : Nat), s.Inv → s.pins.resetLow = true → s.shutdown = false → s.isOff = false → ∃ s', exec (.resetN false cfg now) s = .next s'
        ∧ s'.pins.resetLow = false ∧ s'.fget F.RST_CFGSEL.RAW = cfg.toNat ∧ s'.fget F.RST_CFGSEL.CODE = (cfgCode cfg.toNat).getD 0
        ∧ s'.fbit F.RST_CFGSEL.VALID = (cfgCode cfg.toNat).isSome ∧ s'.bring.active = s.bring.active)
    ∧ exec .refclkSysRestored s = .next { s with pins := { s.pins with clkLost := false } }
    ∧ (∀ ports : BitVec 4, s.fbit F.WV_STATUS.LOADED = false → s.Inv → ∃ s', exec (.rstBlkCxl ports) s = .next s'
        ∧ ∀ p < 4, s'.fbit (F.CXL_PORT_STATUS.LINK_UP.ix p) = (s.fbit (F.CXL_PORT_STATUS.LINK_UP.ix p) && !bit ports.toNat p))
    ∧ (∀ p : PortNo, s.portState p.toNat ≠ tsActive → s.portState p.toNat ≠ tsDisabled → exec (.rstBlkOl (BitVec.ofNat 16 (2 ^ p.toNat))) s =
        .next (((s.setPort p.toNat (Port.fresh (s.port p.toNat))).setResult p.toNat 0).enterTraining p.toNat tsDetect false))
    ∧ (let lost := (s.fset F.CLK_REF_LOSS.PCIE 1).fset F.CLK_REF_STATUS.PCIE_OK 0
       exec .refclkPcieLoss s = .next (if s.hostPort then lost.emit (.hostLink false) else lost))
    ∧ (let back := s.fset F.CLK_REF_STATUS.PCIE_OK 1
       exec .refclkPcieRestored s = .next (if s.hostPort && !s.pins.perstLow then back.emit (.hostLink true) else back))
    ∧ (s.Inv → ∃ s', exec .refclkCxlLoss s = .next s' ∧ s'.fbit F.CLK_REF_LOSS.CXL = true ∧ s'.fbit F.CLK_REF_STATUS.CXL_OK = false
        ∧ ∀ p < 4, s.fbit (F.CXL_PORT_STATUS.USED.ix p) = true → s'.fbit (F.CXL_PORT_STATUS.LINK_UP.ix p) = false)
    ∧ (∀ p : PortNo, bit (s.fget F.CLK_REF_STATUS.LINK_LOCK) p.toNat = true → exec (.linkPllLoss p) s =
        .next ((s.fset F.CLK_REF_STATUS.LINK_LOCK (s.fget F.CLK_REF_STATUS.LINK_LOCK - 2 ^ p.toNat)).setPort p.toNat
          { s.port p.toNat with lost := true }))
    ∧ exec .xtalAonLoss s = .next ((({ s with pins := { s.pins with xtalLost := true } }.fset F.CLK_REF_LOSS.AON 1).fset
        F.CLK_REF_STATUS.AON_OK 0).fset F.CLK_REF_STATUS.AON_INT 1)

/-- R441 to R446, R456 to R462, R474 to R476, R537: resets. -/
def Obligations.ResetsClearWhatTheyReach : Prop :=
  DeviceResetSourcesReset ∧ PowerOnStartsAnew ∧ DomainResetsRun ∧ BlocksAndReferencesAreFollowed

/-! ## Bring-up (R462 to R474, R478 to R494, R544) -/

/-- R467, R472 to R474: the end of a stage writes its register and moves on; a stage that fails halts bring-up. -/
def StageEndsAreRecorded : Prop :=
  ∀ (s : State) (n result fail detail us : Nat), s.Inv → n < 10 → result < 16 → fail < 256 → detail < 2 ^ 20 → us < 2 ^ 32 →
    let t := s.endStage n result fail detail us
    (t.fget (F.RST_STAGE.RESULT.ix n) = result ∧ t.fget (F.RST_STAGE.FAIL.ix n) = fail ∧ t.fget (F.RST_STAGE.DETAIL.ix n) = detail
      ∧ t.fget (F.RST_STAGE.TIME_US.ix n) = us)
    ∧ (result = 3 → s.wholePath = true → t.fbit F.RST_STAGE_CTRL.HALTED = true ∧ t.bring = s.bring)
    ∧ (result ≠ 3 → n = 9 ∨ n = 8 ∧ s.wholePath = false → t.bring = { s.bring with active := false })
    ∧ (result ≠ 3 → n < 8 ∨ n = 8 ∧ s.wholePath = true → t.bring = { s.bring with next := s.stageAfter n }
        ∧ t.fget F.RST_STAGE_CTRL.STAGE = s.stageAfter n
        ∧ (s.fbit F.RST_STAGE_CTRL.HOLD_EN = true → t.fbit F.RST_STAGE_CTRL.HELD = true))

/-- R463, R464: what the measurement of CFGSEL shows. -/
def StrapIsMeasured : Prop :=
  ∀ s : State, s.Inv → let raw := s.bring.cfgRaw.toNat
    s.measure.fget F.RST_CFGSEL.RAW = raw ∧ s.measure.fbit F.RST_CFGSEL.VALID = (cfgCode raw).isSome
    ∧ s.measure.fget F.RST_CFGSEL.CODE = (cfgCode raw).getD 0
    ∧ s.measure.fbit F.RST_CFGSEL.DEBUG = ((cfgCode raw).isSome && cfgOpen ((cfgCode raw).getD 0) && s.lifeCycle != 1)

/-- R464, R465, R535: stages 0 to 2, with the STAG's start and the references. -/
def EarlyStagesEnd : Prop :=
  ∀ (s : State) (us : W32) (f : StageFinding),
    (s.stageReady 0 = true → exec (.stage0 us f) s = .next (s.measure.toStage 1))
    ∧ (s.stageReady 1 = true → let code := s.fget F.RST_CFGSEL.CODE
      (s.fbit F.RST_CFGSEL.VALID = false ∨ code = 14 → exec (.stage1 us f) s = .next (s.endStage 1 3 0x13 (code * 2 ^ 16) us.toNat))
      ∧ (s.fbit F.RST_CFGSEL.VALID = true → code ≠ 14 → ((code = 8 ∨ code = 9) → s.recoveryFw ≠ []) →
          ((f.fail = 0x11 ∨ f.fail = 0x12) → exec (.stage1 us f) s = .next (s.endStage 1 3 f.fail.toNat (code * 2 ^ 16) us.toNat))
          ∧ (f.fail = 0 → exec (.stage1 us f) s = .next ((({ s with stagUp := true, wdtFrom := s.now }.fset F.HQ_HERD.LEAD
              (if cfgLead code then 1 else 0)).fset F.RST_WDT.EN 1).endStage 1 1 0 (code * 2 ^ 16) us.toNat))))
    ∧ (s.stageReady 2 = true → s.Inv → s.wholePath = true →
      (0 ∈ f.wires → ∃ s', exec (.stage2 us f) s = .next s' ∧ s'.fget (F.RST_STAGE.FAIL.ix 2) = 0x22
        ∧ s'.fbit F.RST_STAGE_CTRL.HALTED = true ∧ s'.fbit F.CLK_REF_STATUS.SYS_OK = false)
      ∧ (0 ∉ f.wires → f.detail ≠ 0 → ∃ s', exec (.stage2 us f) s = .next s' ∧ s'.fget (F.RST_STAGE.FAIL.ix 2) = 0x21
          ∧ s'.fget (F.RST_STAGE.DETAIL.ix 2) = f.detail.toNat ∧ s'.fbit F.RST_STAGE_CTRL.HALTED = true)
      ∧ (f.wires = [1] → f.detail = 0 → s.isLead = true → ∃ s', exec (.stage2 us f) s = .next s'
          ∧ s'.fget (F.RST_STAGE.FAIL.ix 2) = 0x23 ∧ s'.fbit F.RST_STAGE_CTRL.HALTED = true)
      ∧ (f.wires = [] → f.detail = 0 → ∃ s', exec (.stage2 us f) s = .next s' ∧ s'.fget (F.RST_STAGE.RESULT.ix 2) = 1
          ∧ s'.hostPort = true ∧ s'.bring.next = 3 ∧ s'.fbit F.CLK_REF_STATUS.SYS_OK = true ∧ s'.fbit F.CLK_REF_STATUS.PCIE_OK = true
          ∧ s'.fbit F.CLK_REF_STATUS.CXL_OK = true ∧ (s.pins.perstLow = false → .hostLink true ∈ s'.out))
      ∧ (f.wires = [2] → f.detail = 0 → ∃ s', exec (.stage2 us f) s = .next s' ∧ s'.fget (F.RST_STAGE.RESULT.ix 2) = 2
          ∧ s'.fget (F.RST_STAGE.FAIL.ix 2) = 0x2A ∧ s'.bring.next = 3 ∧ s'.fbit F.CLK_REF_STATUS.CXL_OK = false))

/-- R478, R482, R483: the map of a half serves its logical columns in ascending order from the columns without a mark; with too few it is
not changed. -/
def MapsServeTheirColumns : Prop :=
  ∀ (s : State) (east : Bool), s.Inv → let free := s.freeCols east
    (free.length < 32 → s.loadMap east = (false, s))
    ∧ (32 ≤ free.length → (s.loadMap east).1 = true ∧ let t := (s.loadMap east).2
      (∀ n c, free[n]? = some c → t.fbit (F.MAP_COL.PENDING.ix c) = false ∧
        if n < 32 then t.fget (F.MAP_COL.STATE.ix c) = 0 ∧ t.fget (F.MAP_COL.LOGICAL.ix c) = (if east then 32 else 0) + n
        else t.fget (F.MAP_COL.STATE.ix c) = 1)
      ∧ (∀ c ∈ halfCols east, c ∉ free → t.fget (F.MAP_COL.STATE.ix c) = 2 ∨ t.fget (F.MAP_COL.STATE.ix c) = 3)
      ∧ ∀ m ∈ t.soft.marks, colEast m.col = east → m.loaded = true)

/-- R471, R480, R488: stages 3 and 4 load the maps, fence what fails and put queued repairs in force. -/
def MeshAndMemoryStagesEnd : Prop :=
  ∀ (s : State) (us : W32) (f : StageFinding), s.Inv →
    (s.stageReady 3 = true →
      (f.fail = 0x31 → s.wholePath = true → ∃ s', exec (.stage3 us f) s = .next s' ∧ s'.fget (F.RST_STAGE.FAIL.ix 3) = 0x31
        ∧ s'.fbit F.RST_STAGE_CTRL.HALTED = true ∧ s'.fbit F.MAP_STATUS.FUSED_OK = false)
      ∧ (∀ k < 32 * 68, fixedCol (k % 68) = true → f.fails = [k] → f.fail = 0 → s.wholePath = true → ∃ s', exec (.stage3 us f) s = .next s'
        ∧ s'.fget (F.RST_STAGE.FAIL.ix 3) = 0x32 ∧ s'.fbit F.RST_STAGE_CTRL.HALTED = true)
      ∧ (f.fail = 0 → f.fails = [] → f.wires = [] → (∀ e ∈ s.pathHalves, 32 ≤ (s.freeCols e).length) → ∃ s', exec (.stage3 us f) s = .next s'
        ∧ s'.fget (F.RST_STAGE.RESULT.ix 3) = 1 ∧ s'.bring.next = 4 ∧ s'.fbit F.MAP_STATUS.FUSED_OK = true
        ∧ s'.fbit F.MAP_STATUS.SOFT_OK = true)
      ∧ (f.fail = 0 → f.fails = [] → s.bring.path = 1 → 0 ∈ f.wires → 1 ∈ f.wires → ∃ s', exec (.stage3 us f) s = .next s'
        ∧ s'.fget (F.RST_STAGE.RESULT.ix 3) = 1 ∧ s'.fbit F.MAP_STATUS.SOFT_OK = false ∧ s'.soft = Soft.first))
    ∧ (s.stageReady 4 = true → f.wires = [] →
      (f.fails = [] → (∀ e ∈ s.pathHalves, 32 ≤ (s.freeCols e).length) → ∃ s', exec (.stage4 us f) s = .next s'
        ∧ s'.fget (F.RST_STAGE.RESULT.ix 4) = 1 ∧ s'.bring.next = (if s.wholePath then 5 else 8)
        ∧ (s.wholePath = true → s'.soft.queued = [] ∧ ∀ q ∈ s.soft.queued, q ∈ s'.soft.repairs))
      ∧ (∀ k < 32 * 68, f.fails = [k] → (∀ e ∈ s.pathHalves, 33 ≤ (s.freeCols e).length) → ∃ s', exec (.stage4 us f) s = .next s'
        ∧ s'.fget (F.RST_STAGE.RESULT.ix 4) = 2 ∧ s'.fget (F.RST_STAGE.FAIL.ix 4) = 0x4A ∧ k ∈ s'.fenced))
    ∧ (s.stageReady 4 = true → s.wholePath = true → f.fails = [] → (∀ e : Bool, 32 ≤ (s.freeCols e).length) → ∀ k ks, f.wires = k :: ks →
      ∃ s', exec (.stage4 us f) s = .next s' ∧ s'.fget (F.RST_STAGE.FAIL.ix 4) = 0x42 ∧ s'.fbit F.RST_STAGE_CTRL.HALTED = true)

/-- R95, R105, R361 to R367: memory stacks, fabric links and far ports. -/
def LinkStagesEnd : Prop :=
  ∀ (s : State) (us : W32) (f : StageFinding), s.Inv → s.wholePath = true →
    (s.stageReady 5 = true →
      (∀ k < 8, k ∈ f.fails → ∃ s', exec (.stage5 us f) s = .next s' ∧ s'.fget (F.RST_STAGE.FAIL.ix 5) = 0x51
        ∧ s'.fbit (F.NM_ERR.TRAINED.ix k) = false ∧ s'.fbit F.RST_STAGE_CTRL.HALTED = true)
      ∧ (f.fails = [] → f.fail = 0 → ∃ s', exec (.stage5 us f) s = .next s' ∧ s'.fget (F.RST_STAGE.RESULT.ix 5) = 1
          ∧ (∀ k < 8, s'.fbit (F.NM_ERR.TRAINED.ix k) = true) ∧ s'.bring.next = if s.standalone then 7 else 6))
    ∧ (s.stageReady 6 = true → let u := if s.routes.isSome then s else s.computeRoutes
      ∃ s', exec (.stage6 us f) s = .next s' ∧ s'.fget (F.RST_STAGE.RESULT.ix 6) = u.topoOutcome
        ∧ s'.fget F.HQ_HERD.N = u.topoN % 256 ∧ s'.fget F.HQ_HERD.POS = u.wordPos u.selfWord % 64
        ∧ (u.topoOutcome ≠ 3 → s'.bring.next = 7 ∧ ∀ p ∈ u.upPorts, s'.portState p = tsActive)
        ∧ (u.topoOutcome = 3 → s'.fbit F.RST_STAGE_CTRL.HALTED = true ∧ s'.fget (F.RST_STAGE.FAIL.ix 6) = 0x61))
    ∧ (s.stageReady 7 = true → s.bring.path = 1 → ∃ s', exec (.stage7 us f) s = .next s' ∧ s'.bring.next = 8
        ∧ (s.fbit F.CLK_REF_STATUS.CXL_OK = false → s'.fget (F.RST_STAGE.RESULT.ix 7) = 1
            ∧ ∀ p < 4, s'.fbit (F.CXL_PORT_STATUS.USED.ix p) = false ∧ s'.fget (F.CXL_PORT_STATUS.REASON.ix p) = 1)
        ∧ (s.fbit F.CLK_REF_STATUS.CXL_OK = true → ∀ p < 4, ∀ w n, f.wires[3 * p]? = some w → f.wires[3 * p + 1]? = some n →
            f.wires[3 * p + 2]? = some 0 → 0 < w → w < 4 → 0 < n → n / 512 < 2 ^ 13 →
            s'.fbit (F.CXL_PORT_STATUS.USED.ix p) = true ∧ s'.fbit (F.CXL_PORT_STATUS.LINK_UP.ix p) = true
              ∧ s'.fget (F.CXL_PORT_STATUS.WIDTH.ix p) = w ∧ s'.fget (F.CXL_PORT_STATUS.CAP_GIB.ix p) = n / 512
              ∧ s'.fget (F.CXL_PORT_STATUS.REASON.ix p) = 0 ∧ mapGet 0 s'.home.farCap p = n))

/-- R470, R471: a tile whose signature is wrong or does not come is fenced; tiles come up, and the device is ready. -/
def TilesComeUp : Prop :=
  ∀ (s : State),
    (∀ (t : TileId) (sig : W32), s.testing t = true →
      (sig = Config.selfTestSig → exec (.tileSelfTestReport t sig) s =
          .next { s with bring := { s.bring with heard := addTo t s.bring.heard } })
      ∧ (sig ≠ Config.selfTestSig → ∃ s', exec (.tileSelfTestReport t sig) s = .next s' ∧ s.physOf t ∈ s'.fenced
          ∧ s.physOf t ∈ s'.bring.bad)
      ∧ ∃ s', exec (.selfTestReportTimeout t) s = .next s' ∧ s.physOf t ∈ s'.fenced ∧ s.physOf t ∈ s'.bring.bad)
    ∧ (∀ (us : W32) (f : StageFinding), s.Inv → s.stageReady 8 = true →
      (f.fail = 0x81 → s.wholePath = true → ∃ s', exec (.stage8 us f) s = .next s' ∧ s'.fget (F.RST_STAGE.FAIL.ix 8) = 0x81
        ∧ s'.fbit F.RST_STAGE_CTRL.HALTED = true)
      ∧ (f.fail = 0 → f.fails = [] → s.bring.bad = [] → s.weave = none → (∀ e ∈ s.pathHalves, 32 ≤ (s.freeCols e).length) →
        ∃ s', exec (.stage8 us f) s = .next s' ∧ s'.fget (F.RST_STAGE.RESULT.ix 8) = 1
          ∧ (∀ t : TileId, isEast t ∈ s.pathHalves → (s'.tile t).phase = phIdle)
          ∧ (s.wholePath = true → s'.bring.next = 9) ∧ (s.wholePath = false → s'.bring.active = false)))
    ∧ (∀ (us : W32) (f : StageFinding), s.stageReady 9 = true → ∃ s', exec (.stage9 us f) s = .next s'
        ∧ s'.fbit F.HQ_STATUS.READY = true ∧ s'.bring = { s.bring with active := false, done9 := true }
        ∧ s'.fget (F.RST_STAGE.RESULT.ix 9) =
            (if (List.range 9).any (fun n => n != 0 && s.fget (F.RST_STAGE.RESULT.ix n) == 2) then 2 else 1))

/-- R464, R473, R544: a held stage is released, the debugger halts the STAG, and the test access port keeps its instruction. -/
def StagesAreReleased : Prop :=
  ∀ s : State,
    (s.fbit F.RST_STAGE_CTRL.HELD = true → s.bring.next ≠ 6 → exec (.continueStage .stag) s = .next (s.fset F.RST_STAGE_CTRL.HELD 0)
      ∧ (s.fbit F.RST_CFGSEL.DEBUG = true → s.pins.trstLow = false →
          exec (.debuggerHalt .release) s = .next (s.fset F.RST_STAGE_CTRL.HELD 0)))
    ∧ (s.fbit F.RST_STAGE_CTRL.HELD = false → exec (.continueStage .smbus) s = .next (s.refuseWrite 0x60014 (2 ^ 30)))
    ∧ (s.fbit F.RST_CFGSEL.DEBUG = true → s.pins.trstLow = false →
      (s.stagHalted = false → exec (.debuggerHalt .halt) s = .next { s with stagHalted := true, wdtFrom := s.now - s.wdtFrom })
      ∧ (s.stagHalted = true → exec (.debuggerHalt .resume) s = .next { s with stagHalted := false, wdtFrom := s.now - s.wdtFrom }))
    ∧ (s.fbit F.RST_CFGSEL.DEBUG = false → ∀ a, exec (.debuggerHalt a) s = .next s)
    ∧ (s.pins.trstLow = false →
      exec (.tapInstruction .bypass) s = .next { s with pins := { s.pins with tap := .bypass } }
      ∧ exec (.tapInstruction .idcode) s = .next ({ s with pins := { s.pins with tap := .idcode } }.emit (.tapData .idcode idcode))
      ∧ exec (.tapInstruction .extest) s =
          .next { s with pins := { s.pins with tap := if s.pins.resetLow then .extest else .bypass } })
    ∧ exec (.trstN true) s = .next { s with pins := { s.pins with trstLow := true, tap := .idcode } }
    ∧ exec (.trstN false) s = .next { s with pins := { s.pins with trstLow := false } }

/-- R489 to R494: slices, scrubs, the test engine and the life cycle. -/
def SelfTestFindsFaults : Prop :=
  ∀ s : State,
    (∀ (t : TileId) (kind : BitVec 2), kind.toNat < 3 → let x := s.tile t
      s.fbit F.MAP_ST_CTRL.EN = true → s.slicing t = true → x.phase ≠ phReset → x.phase ≠ phRolling → s.inRun t = true → x.exec = [] →
      exec (.testSlice t kind true) s = .next (let n := 4 * t.toNat + kind.toNat
        { s with slices := mapIns n (mapGet 0 s.slices n + 1) s.slices }.endPass)
      ∧ (s.fbit F.MAP_ST_STATUS.FAIL = false → (∀ m ∈ s.soft.marks, m.col ≠ s.physCol (tileX t)) → s.Inv →
        ∃ s', exec (.testSlice t kind false) s = .next s' ∧ s'.fbit F.MAP_ST_STATUS.FAIL = true
          ∧ s'.fget F.MAP_ST_FAIL.PX = s.physCol (tileX t) % 128 ∧ s'.fget F.MAP_ST_FAIL.PY = tileY t
          ∧ s'.fget F.MAP_ST_FAIL.TEST = kind.toNat + 1 ∧ s'.fbit (F.MAP_COL.PENDING.ix (s.physCol (tileX t))) = true
          ∧ (⟨s.physCol (tileX t), tileY t, 3, false⟩ : ColMark) ∈ s'.soft.marks))
    ∧ (s.fbit F.MAP_ST_CTRL.EN = false → ∀ t kind ok, exec (.testSlice t kind ok) s = .next s)
    ∧ (s.fbit F.MAP_ST_CTRL.SCRUB = false → (∀ t row e, exec (.tileMemoryScrub t row e) s = .next s)
        ∧ ∀ k row e, exec (.commonsScrub k row e) s = .next s)
    ∧ (s.fbit F.MAP_ST_CTRL.SCRUB = true →
      (∀ (t : TileId) row, (s.tile t).phase ≠ phReset → ∃ s', exec (.tileMemoryScrub t row .uncorrectable) s = .next s'
        ∧ (s.physOf t, row) ∈ s'.soft.queued ∧ s'.tiles = s.tiles)
      ∧ (∀ (k : BitVec 6) row, mapGet [] s.sliceQ (2 * k.toNat) = [] → mapGet [] s.sliceQ (2 * k.toNat + 1) = [] → (∃ s', exec (.commonsScrub k row .uncorrectable) s = .next s'
          ∧ (sliceArray k.toNat, row) ∈ s'.soft.queued ∧ s'.commons = s.commons)
        ∧ (mapGet 0 s.scrubPos (sliceArray k.toNat) ≤ row → ∀ rest, s.scrubErrs = (sliceArray k.toNat, row, 2) :: rest →
            ∃ s', exec (.commonsScrub k row .corrected) s = .next s' ∧ (sliceArray k.toNat, row) ∈ s'.soft.queued)
        ∧ (s.scrubErrs = [] → ∃ s', exec (.commonsScrub k row .corrected) s = .next s' ∧ s'.soft = s.soft
            ∧ s'.scrubErrs = [(sliceArray k.toNat, row, 1)])))
    ∧ (s.lifeCycle = 1 → ∀ a, exec (.testEngineAccess a) s = .next s)
    ∧ (s.lifeCycle = 0 ∨ s.lifeCycle = 2 → ∀ (px : BitVec 7), px.toNat < 68 →
      (∀ py : BitVec 5, exec (.testEngineAccess (.march px py)) s = .next (s.emit (.march px.toNat py.toNat)))
      ∧ (∀ i, exec (.testEngineAccess (.fuse i)) s = .next { s with fuses := addTo i s.fuses })
      ∧ (∀ st : BitVec 2, s.Inv → ∃ s', exec (.testEngineAccess (.column px st)) s = .next s'
          ∧ s'.fget (F.MAP_COL.STATE.ix px.toNat) = st.toNat
          ∧ (s.lifeCycle = 2 → s'.soft.oosTiles = [] ∧ s'.soft.oosDevice = false)))
    ∧ (∀ r q : BitVec 384, (s.lifeCycle = 0 → exec (.lifeCycleTransition false r q) s = .next (s.fset F.MAP_STATUS.LC 1))
      ∧ (s.lifeCycle ≠ 0 → exec (.lifeCycleTransition false r q) s = .next s)
      ∧ (s.lifeCycle ≠ 1 → exec (.lifeCycleTransition true r q) s = .next s)
      ∧ (s.lifeCycle = 1 → ∃ s', exec (.lifeCycleTransition true r q) s = .next s' ∧
          if ecdsaOk Config.slot0Key Config.rmaHash r.toNat q.toNat then s'.lifeCycle = 2 ∧ s'.keys = [] ∧ s'.portion = [] ∧ s'.weave = none
            ∧ ∀ c, c ∈ s'.mem ↔ c ∈ s.mem ∧ 2 ^ 23 * Config.pageBytes ≤ c.1
          else s' = s))

/-- R462 to R474: bring-up. -/
def StagesBringTheDeviceUp : Prop :=
  StageEndsAreRecorded ∧ StrapIsMeasured ∧ EarlyStagesEnd ∧ MapsServeTheirColumns ∧ MeshAndMemoryStagesEnd ∧ LinkStagesEnd
  ∧ TilesComeUp ∧ StagesAreReleased

/-- R489 to R494: self-test. -/
def SelfTestMarksWhatFails : Prop := SelfTestFindsFaults

/-- R462 to R494, R544: bring-up, self-test and the test engine. -/
def Obligations.BringUpAndSelfTestFindFaults : Prop := StagesBringTheDeviceUp ∧ SelfTestMarksWhatFails

/-! ## Power (R495 to R517, R533, R541 to R543, R547) -/

/-- The command completes the entry action that ends at abort point `point` (R502, R504). -/
def ActionReaches (c : Byte → Instr) (point : Nat) : Prop :=
  ∀ (s : State) (d : Byte), s.Inv → d.toNat ≤ 158 → let m := s.move d.toNat
    m.waking = 0 → m.point + 1 = point →
      (m.abort = false → s.goesDeeper none d.toNat = true → ∃ s', exec (c d) s = .next s' ∧ (s'.move d.toNat).point = point
        ∧ s'.fget (F.PWR_STATE.STATE.ix d.toNat) = stateAt (domKind d.toNat) s.bigHerd point)
      ∧ (m.abort = true → (point = 4 → d.toNat < 158) → ∃ s', exec (c d) s = .next s'
          ∧ s'.fget (F.PWR_STATE.ABORTS.ix d.toNat) = min (s.fget (F.PWR_STATE.ABORTS.ix d.toNat) + 1) 0xFFFF
          ∧ s'.fget (F.PWR_STATE.ABORT_PT.ix d.toNat) = point ∧ (s'.move d.toNat).abort = false
          ∧ (s'.move d.toNat).waking = firstWake point)
      ∧ (m.abort = false → s.fbit F.HQ_STATUS.READY = false → exec (c d) s = .next s)

/-- R502, R504: the four entry actions; a domain that is off has lost what it held. -/
def DomainsEnterTheirState : Prop :=
  ActionReaches .quiesce 1 ∧ ActionReaches .stopOscillators 2 ∧ ActionReaches .retainMemory 3 ∧ ActionReaches .regulatorsOff 4
  ∧ (∀ (s : State) (d : Byte), (s.move d.toNat).waking = 0 → (s.move d.toNat).point = 3 → s.goesDeeper none d.toNat = true →
      (d.toNat < 128 → ∃ s', exec (.regulatorsOff d) s = .next s' ∧ ∀ t : TileId,
        (clusterOf t = d.toNat → (s'.tile t).phase = phReset ∧ (s'.tile t).mem = []) ∧ (clusterOf t ≠ d.toNat → s'.tile t = s.tile t))
      ∧ (146 ≤ d.toNat → d.toNat < 154 → ∃ s', exec (.regulatorsOff d) s = .next s' ∧ s'.tiles = s.tiles
          ∧ ∀ c, c ∈ s'.mem ↔ c ∈ s.mem ∧ ¬ (c.1 / Config.pageBytes < 2 ^ 23 ∧ c.1 / Config.pageBytes % 8 = d.toNat - 146))
      ∧ (d.toNat = 158 → ∃ s', exec (.regulatorsOff d) s = .next s' ∧ s'.tiles = [] ∧ s'.commons = [] ∧ s'.recorder = s.recorder
          ∧ ∀ c, c ∈ s'.mem ↔ c ∈ s.mem ∧ 2 ^ 23 ≤ c.1 / Config.pageBytes))

/-- R503 to R505, R541: wake events start a wake, or stop an entry; the ready signals take it on, and the last one puts the domain in RUN,
through the reset or training that it needs from OFF. -/
def DomainsWake : Prop :=
  ∀ (s : State) (d : Byte), d.toNat ≤ 158 → let n := d.toNat
    let m := s.move n
    let woken := s.setMove n { m with abort := false, waking := firstWake m.point }
    (m.waking = 0 → m.abort = false →
      (pointOf (s.target n) < m.point → n ≠ 158 → exec (.wakeEvent d none) s = .next woken)
      ∧ (∀ c : BitVec 4, c ≠ 2 → (∃ l, (c.toNat, l) ∈ s.limits n) →
          (s.goesDeeper (some c.toNat) n = false → pointOf (s.target n) < m.point → n ≠ 158 → exec (.wakeEvent d (some c)) s = .next woken)
          ∧ (s.goesDeeper (some c.toNat) n = true → pointOf (s.target n) < m.point + 1 → ∃ s', exec (.wakeEvent d (some c)) s = .next s'
              ∧ (s'.move n).abort = true ∧ (s'.move n).point = m.point
              ∧ (c.toNat ∈ m.cleared → s.Inv → s'.fbit (F.PWR_STATE.REENABLE.ix n) = true
                  ∧ s'.fget (F.PWR_STATE.REENABLE_CLIENT.ix n) = c.toNat)))
      ∧ (m.point ≠ 0 → s.goesDeeper (some 2) n = false → ∃ s', exec (.wakeEvent d (some 2)) s = .next s' ∧ n ∈ s'.access
          ∧ (s'.move n).waking = firstWake m.point))
    ∧ (m.waking = 1 → exec (.regulatorReady d) s = .next (s.setMove n { m with waking := 2 }))
    ∧ (m.waking = 2 → exec (.oscillatorReady d) s = .next (s.setMove n { m with waking := if m.point ≤ 2 then 4 else 3 }))
    ∧ (m.waking = 3 → exec (.memoryReady d) s = .next (s.setMove n { m with waking := 4 }))
    ∧ (m.waking = 4 → s.Inv → Rising s.moves →
      (m.point < 4 → ∃ s', exec (.logicReady d) s = .next s' ∧ (s'.move n).point = 0 ∧ (s'.move n).waking = 0
        ∧ s'.fget (F.PWR_STATE.STATE.ix n) = 0 ∧ (n ≠ 158 ∨ s.heldReqs = [] → n ∉ s'.access) ∧ s'.tiles = s.tiles)
      ∧ (m.point = 4 → n < 128 → s.weave = none → ∃ s', exec (.logicReady d) s = .next s'
          ∧ (∀ t : TileId, clusterOf t = n → (s'.tile t).phase = phIdle) ∧ s'.fget (F.PWR_STATE.STATE.ix n) = 0)
      ∧ (m.point = 4 → 130 ≤ n → n < 146 → ∃ s', exec (.logicReady d) s = .next s' ∧ s'.portState (n - 130) = tsRetrain)
      ∧ (m.point = 4 → n = 128 ∨ n = 129 → s.bring.active = false → ∃ s', exec (.logicReady d) s = .next s'
          ∧ s'.bring.active = true ∧ s'.bring.path = (if n = 129 then 4 else 3) ∧ s'.bring.next = 3)
      ∧ (m.point = 4 → n = 158 → ∃ s', exec (.logicReady d) s = .next s' ∧ s'.bring.active = true ∧ s'.bring.path = 1))
    ∧ exec (.wakeN false) s = .next { s with pins := { s.pins with wakeLow := false } }
    ∧ (s.shutdown = true → (∀ p ∈ s.temps, p.2 < 720) → ∃ s', exec (.wakeN true) s = .next s' ∧ s'.shutdown = false
        ∧ s'.bring.active = true ∧ s'.pins.thermLow = false)
    ∧ (s.shutdown = false → s.domState 158 = 5 → (s.move 158).waking = 0 → (s.move 158).abort = false → (s.move 158).point = 4 →
        exec (.wakeN true) s = .next ({ s with pins := { s.pins with wakeLow := true } }.setMove 158
          { s.move 158 with abort := false, waking := 1 }))

/-- The request joins those that the device holds, ACCESS is set, and nothing else has happened. -/
def Holds (s s' : State) (r : HeldReq) : Prop :=
  s'.heldReqs = s.heldReqs ++ [r] ∧ (2, 0) ∈ s'.hwLimits 158 ∧ s'.regs = s.regs ∧ s'.mem = s.mem ∧ s'.out = s.out

/-- R502, R504, R507, R510: a sleeping device holds what the host asks of it, but for reads of the ID block and HQ_STATUS, and the packets that
are addressed to it; ACCESS is set, and at a tick after the wake they are served in order. -/
def RequestsWaitForTheWake : Prop :=
  (∀ s : State, s.deviceAsleep = true → s.isOff = false → s.hostPort = true →
    (∀ off : BitVec 26, 0x1000 ≤ off.toNat → off.toNat ≠ 0x11000 →
      (∃ s', exec (.lowerHalfRead .pcie off) s = .next s' ∧ Holds s s' (.read off.toNat 4))
      ∧ ∀ v : W32, ∃ s', exec (.upperHalfWrite .pcie off v) s = .next s' ∧ Holds s s' (.write off.toNat 4 v.toNat))
    ∧ (∀ (off : BitVec 36) data, ∃ s', exec (.bar2Write off data) s = .next s' ∧ Holds s s' (.bar2Write off data))
    ∧ (∀ (off : BitVec 36) n reply found copies, ∃ s', exec (.bar2Read off n reply found copies) s = .next s'
        ∧ Holds s s' (.bar2Read off n reply found copies))
    ∧ (∀ k now, s.now ≤ now → ∃ s', exec (.packetDeliver k now) s = .next s' ∧ s'.heldReqs = s.heldReqs ++ [.packet k now] ∧ 158 ∈ s'.access))
  ∧ ∀ s : State, s.pending = [] → s.deviceAsleep = false → s.heldReqs ≠ [] →
      step s = .next
        (s.heldReqs.foldl State.serve { s with heldReqs := [], access := s.access.filter (fun d => d != 158) }).meshCycle.fabricCycle.startWaiting

/-- R508: the Browse sequencer wakes the device when its sample differs from the last. -/
def BrowseSequencerSamples : Prop :=
  ∀ (s : State) (x : Snapshot), s.domState 158 = 3 → (s.move 158).waking = 0 → (s.move 158).point = 3 →
    (s.snap = none → exec (.browseSample x) s = .next { s with snap := some x })
    ∧ (s.snap = some x → exec (.browseSample x) s = .next s)
    ∧ (∀ y, s.snap = some y → y ≠ x → ∃ s', exec (.browseSample x) s = .next s' ∧ s'.fget F.PWR_BROWSE.CAUSE = snapCause y x
        ∧ 158 ∈ s'.access ∧ (s'.move 158).waking = 1)

/-- R499, R501: the tolerance and the host's votes take what is written. -/
def VotesAreWritten : Prop :=
  ∀ (s : State) (v : W32), s.Inv →
    (∃ s', exec (.pwrTolWrite v) s = .next s' ∧ s'.fget F.PWR_TOL.US = v.toNat ∧ s'.tiles = s.tiles ∧ s'.mem = s.mem)
    ∧ (∀ d : Byte, d.toNat ≤ 158 → ∃ s', exec (.pwrVoteWrite d v) s = .next s'
        ∧ s'.fget (F.PWR_VOTE.HOST.ix d.toNat) = bits v.toNat 15 8 ∧ s'.tiles = s.tiles ∧ s'.mem = s.mem)

/-- R512 to R514: a Pronk burst begins when each condition holds, ends for a reason that PWR_PRONK keeps, and three thermal trips lock it
out. -/
def BurstsBeginAndEnd : Prop :=
  (∀ (s : State) (now : Nat), let u := s.at now
    s.fbit F.PWR_STATUS.PRONK = false → s.fget F.PWR_MODE.MODE = 2 → s.fbit F.HQ_STATUS.READY = true → (s.move 158).point = 0 →
    (∃ l, (0, l) ∈ u.hwLimits 158) → u.halfTemp false < 760 → u.halfTemp true < 760 →
    (∀ x, s.pronk.lastEnd = some x → x + 1700000000 ≤ now) → s.Inv →
      (s.fbit F.PWR_PRONK.LOCKOUT = true → exec (.pronkBegin now) s = .next u)
      ∧ (s.fbit F.PWR_PRONK.LOCKOUT = false → ∃ s', exec (.pronkBegin now) s = .next s' ∧ s'.fbit F.PWR_STATUS.PRONK = true
          ∧ s'.pronk.since = some u.now
          ∧ (s.fbit F.PWR_STATUS.W_THROTTLE = false → s'.fget F.PWR_STATUS.W_CLK = 170)
          ∧ (s.fbit F.PWR_STATUS.E_THROTTLE = true → s'.fget F.PWR_STATUS.E_CLK = 100)))
  ∧ (∀ (s : State) (why : Nat), s.Inv → s.fbit F.PWR_STATUS.PRONK = true → why < 4 → let t := s.endBurst why
      t.fbit F.PWR_STATUS.PRONK = false ∧ t.fget F.PWR_PRONK.LAST_END = why ∧ t.pronk.since = none ∧ t.pronk.lastEnd = some s.now
      ∧ (why ≠ 2 → t.pronk.trips = s.pronk.trips)
      ∧ (why = 2 → t.pronk.trips = s.pronk.trips.filter (fun x => decide (s.now < x + 60000000000)) ++ [s.now]
          ∧ (3 ≤ t.pronk.trips.length → t.fbit F.PWR_PRONK.LOCKOUT = true))
      ∧ (s.fbit F.PWR_STATUS.W_THROTTLE = false → t.fget F.PWR_STATUS.W_CLK = if s.fget F.PWR_MODE.MODE = 0 then 100 else 140))
  ∧ (∀ (s : State) (now t : Nat), s.pronk.since = some t → exec (.pronkBudgetEnd now) s =
      .next (if t + 300000000 ≤ (s.at now).now then (s.at now).endBurst 1 else s.at now))
  ∧ (∀ (s : State) (now : Nat), s.fbit F.PWR_STATUS.PRONK = true → exec (.currentTrip now) s = .next ((s.at now).endBurst 3))
  ∧ (∀ (s : State) (v : W32), s.Inv → bit v.toNat 31 = true → ∃ s', exec (.lockoutClear v) s = .next s'
      ∧ s'.fbit F.PWR_PRONK.LOCKOUT = false ∧ s'.fget F.PWR_PRONK.TRIPS = 0 ∧ s'.pronk.trips = [])

/-- R511, R515, R533: the mode sets the clock; power above the limit, or a current trip, takes both tile clocks one step down, not below the
floor, and power below it lets them rise. -/
def ClocksFollowModeAndPower : Prop :=
  ∀ s : State, s.Inv → s.fbit F.PWR_STATUS.PRONK = false → s.fbit F.HQ_STATUS.READY = true → s.fbit F.PWR_STATUS.W_THROTTLE = false →
    s.fbit F.PWR_STATUS.E_THROTTLE = false → s.fget F.PWR_STATUS.W_CLK = s.fget F.PWR_STATUS.E_CLK →
    let clk := s.fget F.PWR_STATUS.W_CLK
    let floor := if s.fget F.PWR_MODE.MODE = 0 then 70 else 100
    let top := if s.fget F.PWR_MODE.MODE = 0 then 100 else 140
    clk ≤ 170 →
    (∀ w : W16, (if s.fget F.PWR_MODE.MODE = 0 then 1050 else 1800) < w.toNat → ∃ s', exec (.powerMeasure w) s = .next s' ∧ s'.watts = w
      ∧ s'.fget F.PWR_STATUS.W_CLK = max floor (clk - 10) ∧ s'.fget F.PWR_STATUS.E_CLK = max floor (clk - 10)
      ∧ s'.fbit F.PWR_STATUS.LIMITING = true)
    ∧ (∀ w : W16, w.toNat < (if s.fget F.PWR_MODE.MODE = 0 then 1050 else 1800) → s.fbit F.PWR_STATUS.LIMITING = true →
      ∃ s', exec (.powerMeasure w) s = .next s' ∧ s'.fget F.PWR_STATUS.W_CLK = min top (clk + 10)
        ∧ s'.fbit F.PWR_STATUS.LIMITING = decide (min top (clk + 10) ≠ top))
    ∧ (∀ now, ∃ s', exec (.currentTrip now) s = .next s' ∧ s'.fget F.PWR_STATUS.E_CLK = max floor (clk - 10) ∧ s'.tripped = true)
    ∧ (∀ (v : W32) now, (bits v.toNat 31 30 = 3 → exec (.pwrModeWrite v now) s = .next ((s.at now).refuseWrite 0x40008 v.toNat))
      ∧ (bits v.toNat 31 30 ≠ 3 → ∃ s', exec (.pwrModeWrite v now) s = .next s' ∧ s'.fget F.PWR_MODE.MODE = bits v.toNat 31 30
          ∧ s'.fget F.PWR_STATUS.W_CLK = (if bits v.toNat 31 30 = 0 then 100 else 140) ∧ s'.fbit F.PWR_STATUS.LIMITING = false))

/-- R516, R517, R543, R547: a sample is taken, and its hottest valid sensor throttles a half, brings it to the junction limit, ends a burst,
or shuts the device down. -/
def SensorsAct : Prop :=
  ∀ (s : State) (temps stackTemps : List Int) (mv : List Nat) (now : Nat), s.Inv → s.shutdown = false → s.isOff = false →
    let u := (s.at now).sampled temps mv
    let top := hottest (u.readings false ++ u.readings true)
    (∀ (i : Nat) (x : Int), i < 48 → temps[i]? = some x → mapGet 0 u.temps i = x)
    ∧ (∀ i x, top = some (i, x) → 920 ≤ x → ∃ s', exec (.sensorSample temps stackTemps mv now) s = .next s' ∧ s'.shutdown = true
        ∧ s'.pins.thermLow = true ∧ s'.tiles = [] ∧ s'.domState 158 = 5 ∧ s'.recorder.flushing = true
        ∧ ∀ c ∈ s'.mem, 2 ^ 23 ≤ c.1 / Config.pageBytes)
    ∧ ((∀ i x, top = some (i, x) → x < 920) → ∃ s', exec (.sensorSample temps stackTemps mv now) s = .next s' ∧ s'.shutdown = false
        ∧ s'.mem = s.mem ∧ s'.tiles = s.tiles
        ∧ (∀ e : Bool, 824 ≤ u.halfTemp e → s'.fbit (throttle e) = true
            ∧ s'.fget (if e then F.PWR_STATUS.E_CLK else F.PWR_STATUS.W_CLK) ≤ 100)
        ∧ (∀ e : Bool, u.halfTemp e < 784 → s'.fbit (throttle e) = false ∧ s'.fbit (jLimit e) = false)
        ∧ (∀ e : Bool, 840 ≤ u.halfTemp e → s'.fbit (jLimit e) = true ∧ s'.fbit (meshSlow e) = true ∧ s'.pins.thermLow = true)
        ∧ (∀ i x, top = some (i, x) → 800 ≤ x → s'.fbit F.PWR_STATUS.PRONK = false))
    ∧ (∀ e : Bool, (u.readings e).length < 12 → u.halfTemp e = 824)

/-- R495 to R508: power domains. -/
def Obligations.PowerDomainsEnterAndWake : Prop := DomainsEnterTheirState ∧ DomainsWake ∧ RequestsWaitForTheWake ∧ BrowseSequencerSamples ∧ VotesAreWritten

/-- R511 to R517, R533, R547: performance modes and thermal limits. -/
def Obligations.ClocksAndLimitsAreKept : Prop := BurstsBeginAndEnd ∧ ClocksFollowModeAndPower ∧ SensorsAct

/-! ## The event recorder (R518 to R528) -/

/-- Records of CODE `c` written in the second of OPTIME to which `o` belongs. -/
def writtenOf (r : Recorder) (o : BitVec 48) (c : Nat) : Nat := mapGet 0 (r.roll (o.toNat / 1024)).written c

/-- R518, R522, R523, R525: a report or an event takes the next SEQ in the ring, or in the staging area while a flush runs; one that may be
merged is; the 65th of its CODE in a second, or one that finds the staging area full, is dropped and counted. -/
def RecordsTakeTheirPlace : Prop :=
  ∀ (s : State) (b : Report), let r := s.recorder
    r.pfHold = false →
    (b.code.toNat < 0x9000 ∨ 0xCFFF < b.code.toNat → writtenOf r b.optime b.code.toNat < 64 ∨ mustKeep b = true →
      let q : Record := { seq := r.nextSeq, ver := 0, pcc := r.pcc, again := 0, last := b.optime, body := b }
      (r.flushing = false → ∃ s', exec (.recordWrite b) s = .next s' ∧ s'.recorder.ring = mapIns (ringSlot r.ring) q r.ring
        ∧ s'.recorder.nextSeq = r.nextSeq + 1 ∧ s'.recorder.staging = r.staging ∧ (b.code.toNat < 0x9000 → s'.recorder.wanted = true)
        ∧ s'.regs = s.regs ∧ s'.out = s.out)
      ∧ (r.flushing = true → r.staging.length < Config.stageSlots → ∃ s', exec (.recordWrite b) s = .next s' ∧ s'.recorder.ring = r.ring
          ∧ s'.recorder.staging = r.staging ++ [q] ∧ s'.recorder.nextSeq = r.nextSeq + 1 ∧ s'.regs = s.regs)
      ∧ (r.flushing = true → Config.stageSlots ≤ r.staging.length → ∃ s', exec (.recordWrite b) s = .next s'
          ∧ s'.recorder.ring = r.ring ∧ s'.recorder.staging = r.staging
          ∧ (s.fget F.EVT_SUPPRESS.COUNT < 2 ^ 32 - 1 → s'.fget F.EVT_SUPPRESS.COUNT = s.fget F.EVT_SUPPRESS.COUNT + 1)))
    ∧ (0xCFFF < b.code.toNat → 64 ≤ writtenOf r b.optime b.code.toNat → ∃ s', exec (.recordWrite b) s = .next s' ∧ s'.recorder.ring = r.ring
        ∧ s'.recorder.staging = r.staging ∧ s'.recorder.nextSeq = r.nextSeq ∧ (b.code.toNat, mapGet 0 r.dropped b.code.toNat + 1) ∈ s'.recorder.dropped
        ∧ (s.fget F.EVT_SUPPRESS.COUNT < 2 ^ 32 - 1 → s'.fget F.EVT_SUPPRESS.COUNT = s.fget F.EVT_SUPPRESS.COUNT + 1))
    ∧ (∀ k q, r.ring = [(k, q)] → r.staging = [] → r.flushing = false → canMerge r.nextSeq.toNat q b = true →
        ∃ s', exec (.recordWrite b) s = .next s' ∧ s'.recorder.nextSeq = r.nextSeq
          ∧ s'.recorder.ring = [(k, { q with ver := q.ver + 1, again := q.again + 1, last := b.optime })])

/-- R526: while PWRFAIL_N is low nothing is recorded. -/
def NothingIsRecordedOnPowerFail : Prop :=
  ∀ (s : State) (b : Report), s.recorder.pfHold = true → ∃ s', exec (.recordWrite b) s = .next s' ∧ s'.recorder.ring = s.recorder.ring
    ∧ s'.recorder.staging = s.recorder.staging ∧ s'.recorder.nextSeq = s.recorder.nextSeq ∧ s'.regs = s.regs

/-- R524, R525: a flush that is wanted starts once a second has passed since the last one, and ends with the new copy, staged records in the
ring and the older copy in erasure. -/
def FlushesRun : Prop :=
  ∀ s : State, let r := s.recorder
    (∀ v : W32, v.getLsbD 31 = true → exec (.evtFlushRequest v) s = .next { s with recorder := { r with wanted := true } })
    ∧ (∀ v : W32, v.getLsbD 31 = false → exec (.evtFlushRequest v) s = .next s)
    ∧ (∀ now, let u := s.at now
        (r.wanted = true → r.flushing = false → r.erasing = false → (∀ x, r.lastEnd = some x → x + 1000000000 ≤ u.now) →
          exec (.flushStart now) s = .next { u with recorder :=
            { r with flushing := true, wanted := false, image := some ⟨0, r.pcc, u.optime, false, r.ring, []⟩ } })
        ∧ (r.wanted = false ∨ r.flushing = true ∨ r.erasing = true ∨ (∃ x, r.lastEnd = some x ∧ u.now < x + 1000000000) →
            exec (.flushStart now) s = .next u))
    ∧ (∀ now im, r.image = some im →
        (∃ s' f, exec (.flushComplete true now) s = .next s' ∧ s'.recorder.flushing = false ∧ s'.recorder.erasing = true
          ∧ s'.recorder.image = none ∧ s'.recorder.staging = [] ∧ s'.recorder.win = !r.win ∧ s'.recorder.copy (!r.win) = some f
          ∧ s'.recorder.copy r.win = none ∧ f.ring = im.ring ∧ f.clean = im.clean ∧ s'.recorder.lastEnd = some (s.at now).now)
        ∧ (∃ s', exec (.flushComplete false now) s = .next s' ∧ s'.recorder.flushing = false ∧ s'.recorder.win = r.win
            ∧ s'.recorder.copy r.win = r.copy r.win ∧ s'.recorder.copy (!r.win) = none))
    ∧ exec .eraseComplete s = .next { s with recorder := { r with erasing := false } }

/-- R523, R526 to R528: the end of a second, power failure, the checkpoint and the reader's selection. -/
def RecorderKeepsItsHistory : Prop :=
  ∀ s : State, let r := s.recorder
    (r.dropped = [] → exec .suppressSecondEnd s = .next { s with recorder :=
        { r with written := [], second := max r.second (s.optime.toNat / 1024) } })
    ∧ (∀ c n, r.dropped = [(c, n)] → r.pfHold = false → r.flushing = false → ∃ s' k q, exec .suppressSecondEnd s = .next s'
        ∧ s'.recorder.dropped = [] ∧ (k, q) ∈ s'.recorder.ring ∧ q.body.code = 0xD002 ∧ q.seq = r.nextSeq
        ∧ q.body.data = BitVec.ofNat 128 (c % 2 ^ 16 + n % 2 ^ 32 * 2 ^ 32))
    ∧ (r.pfHold = true → exec .pwrfailN s = .next s)
    ∧ (r.pfHold = false → writtenOf r s.optime 0xD001 < 64 →
        (∃ s', exec .pwrfailN s = .next s' ∧ s'.recorder.pfHold = true)
        ∧ (r.flushing = false → ∃ s' k q, exec .pwrfailN s = .next s' ∧ (k, q) ∈ s'.recorder.ring ∧ q.body.code = 0xD001
            ∧ (r.erasing = false → ∃ f, s'.recorder.flushing = true ∧ s'.recorder.image = some f ∧ f.clean = true))
        ∧ (∀ im, r.flushing = true → r.image = some im → ∃ s', exec .pwrfailN s = .next s'
            ∧ s'.recorder.image = some { im with clean := true }))
    ∧ exec .pwrfailNRelease s = .next { s with recorder := { r with pfHold := false } }
    ∧ exec .optimeCheckpoint s = .next { s with recorder := { r with ckptOptime := s.optime, ckptPcc := r.pcc } }
    ∧ (∀ v : W64, s.Inv → let q := v.toNat % 2 ^ 48
        (∀ k x, (k, x) ∈ r.ring → x.seq.toNat = q → ∃ s' j y, exec (.evtReadSelWrite v) s = .next s' ∧ s'.fget F.EVT_READ_SEL.SEQ = q
          ∧ s'.fbit F.EVT_READ_STATUS.GONE = false ∧ s'.recorder.shown = some j ∧ (j, y) ∈ r.ring ∧ y.seq.toNat = q)
        ∧ ((∀ p ∈ r.ring, p.2.seq.toNat ≠ q) → ∃ s', exec (.evtReadSelWrite v) s = .next s' ∧ s'.fget F.EVT_READ_SEL.SEQ = q
          ∧ s'.fbit F.EVT_READ_STATUS.GONE = true ∧ s'.recorder.shown = none))

/-- R518 to R528: the event recorder. -/
def Obligations.RecorderKeepsEventsThroughPowerLoss : Prop :=
  RecordsTakeTheirPlace ∧ NothingIsRecordedOnPowerFail ∧ FlushesRun ∧ RecorderKeepsItsHistory

/-! ## What a tile's commands leave alone (R199 to R227) -/

/-- The instructions that change no more of their tile than its core, what an error sets, and the cycle counter's free value. -/
def coreCommands (t : TileId) (e : CoreErr) : List Instr :=
  ([.br t e, .call t e, .jr t e, .loopi t e, .loopr t e, .lidx t e, .cmp t e, .cmpi t e, .plog t e, .prd t e, .add t e, .sub t e, .mul t e,
   .andS t e, .orS t e, .xorS t e, .shl t e, .shr t e, .sar t e, .addi t e, .andi t e, .ori t e, .shli t e, .shri t e, .li t e, .lik t e,
   .ins t e, .extS t e, .adda t e, .addas t e, .movsa t e, .movas t e, .lds t e .none, .waitc t e, .bar t e, .flagset t e, .flagwait t e] : List Instr)
  ++ ([.fenceRelease t e, .fenceAcquire t e, .fenceFull t e, .rdsys t e, .trap t e, .illegalInstruction t e, .waitcResume t,
   .flagwaitResume t] : List Instr)

/-- The other commands of a tile's sequencer and engines that store nothing to its memory. -/
def memoryKeepers (t : TileId) (e : CoreErr) (b : BankErr) (v : LaneErr) (m : WordErr) (par : List (Bool × Nat)) : List Instr :=
  ([.issueFillA t e, .issueFillB t e, .issueIbex t e, .issueDrain t e, .issueTahr t e, .issueNet t e, .stalledEnqueue t, .send t e,
   .recv t e, .release t e, .dispatch t e, .hret t e, .atomLoad t e, .atomStore t e, .atomSwap t e, .atomCas t e, .atomAdd t e,
   .atomMin t e, .atomMax t e, .atomAnd t e, .atomOr t e, .atomXor t e, .csub t e, .fenceComplete t, .stepend t e] : List Instr)
  ++ ([.lds t e m, .fill t false m, .fill t true m, .fillComplete t false, .fillComplete t true, .mma t b none par, .rawacc t b par, .clear t, .ibexOpComplete t,
   .drainToVector t b, .drainComplete t, .chkr t v, .chkp t v, .ld t v m, .ldmx t v m, .tahrOpComplete t] : List Instr)
  ++ ([.fadd t v, .fsub t v, .fmul t v, .fma t v, .fmin t v, .fmax t v, .fabs t v, .fneg t v, .fcmp t v, .sel t v, .clamp t v, .fdiv t v,
   .cvtfi t v, .cvtif t v, .rcp t v, .sqrt t v, .rsqrt t v, .exp2 t v, .log2 t v, .sinpi t v, .cospi t v, .expT t v, .ln t v,
   .sigmoid t v, .tanh t v, .gelus t v, .silu t v] : List Instr)
  ++ ([.iadd t v, .isub t v, .imul t v, .tahrAnd t v, .tahrOr t v, .tahrXor t v, .tahrShl t v, .tahrShr t v, .tahrSar t v, .icmp t v,
   .laneid t v, .shuf t v, .rand t v, .rsum t v, .rsumsq t v, .rmax t v, .rmin t v] : List Instr)

/-- Byte `a` of the tile's memory is as it was. -/
def KeepsByte (t : TileId) (s s' : State) (a : Nat) : Prop := (s'.tile t).readMem a 1 = (s.tile t).readMem a 1

/-- R199 to R227: a command of tile t changes nothing of any other tile, of job memory, the Commons or the registers but the recorder's
drop count; most change no byte of tile memory, and those that store change the bytes of their operands only. -/
def Obligations.TileCommandsChangeOnlyTheirTile : Prop :=
  ∀ (t : TileId) (e : CoreErr) (b : BankErr) (v : LaneErr) (m : WordErr) (par : List (Bool × Nat)) (s s' : State),
    (∀ c ∈ coreCommands t e, exec c s = .next s' → s.TileFrame t s' ∧ let x := s'.tile t
      x = { s.tile t with core := x.core, dirty := x.dirty, once := x.once, cntSeed := x.cntSeed })
    ∧ (∀ c ∈ memoryKeepers t e b v m par, exec c s = .next s' → s.TileFrame t s' ∧ (s'.tile t).mem = (s.tile t).mem)
    ∧ (exec (.sts t e) s = .next s' → s.TileFrame t s' ∧ let p := ldsAddr (s.tile t) (s.tile t).word
        ∀ a, a < p ∨ p + 8 ≤ a → KeepsByte t s s' a)
    ∧ (∀ (o : Op) (w0 w1 : W64) (xb : Byte), Issues s t 3 o → o.kind = .two w0 w1 xb → let f := drainF w0 w1
      exec (.drainToTileMemory t b) s = .next s' → s.TileFrame t s' ∧ ∀ a, (∀ i < f.m, let p := f.dst + i * f.stride * 64
        a < p ∨ p + f.n * f.w ≤ a) → (f.sum = true → let p := f.dst + f.m * f.stride * 64; a < p ∨ p + 32 ≤ a) → KeepsByte t s s' a)
    ∧ (∀ (o : Op) (w0 w1 : W64) (xb : Byte), Issues s t 4 o → o.kind = .two w0 w1 xb → let f := tahrF w0 w1
      (∀ c ∈ [Instr.st t v, .stmx t v], exec c s = .next s' → s.TileFrame t s' ∧ ∀ a, (a < f.addr ∨ f.addr + f.elemBytes ≤ a) →
        (a < f.saddr ∨ f.saddr + f.scaleBytes ≤ a) → KeepsByte t s s' a))

/-! ## After reset (R9, R11, R16, R125, R479) -/

/-- R9, R479: reset leaves every register field at its table's value but the spare columns, the life cycle and the identity map of the
columns. -/
def Obligations.ResetLeavesTheTableValues : Prop :=
  (∀ f : Fld, f.key ∉ resetRegs.map Prod.fst → State.reset.fget f = f.rst)
  ∧ State.reset.fget F.ID_PART.PART = 0x7264 ∧ State.reset.fbit F.RST_CAUSE.POR = true ∧ State.reset.fget F.RST_WDT.PERIOD_MS = 1000
  ∧ State.reset.fget F.PWR_MODE.MODE = 1 ∧ State.reset.fbit F.HQ_STATUS.READY = false
  ∧ (∀ n < 34, State.reset.fget (F.MAP_COL.STATE.ix n) = (if n < 32 then 0 else 1)
      ∧ (n < 32 → State.reset.fget (F.MAP_COL.LOGICAL.ix n) = n ∧ State.reset.fget (F.MAP_COL.LOGICAL.ix (n + 34)) = n + 32))
  ∧ (∀ t : TileId, (State.reset.tile t).phase = phReset ∧ (State.reset.tile t).mem = [] ∧ (State.reset.tile t).gen = 0)
  ∧ State.reset.recorder.ring.map (fun p => p.2.body.code) = [0xD003] ∧ State.reset.tiles = [] ∧ State.reset.mem = []
  ∧ State.reset.queues = [] ∧ State.reset.pending = []
end

