-- ==== Sys2Proof/Laws/Maps.lean ====
section
/-! SUPPORT. Sparse maps: what listing, taking off and writing do, and that memory keeps its canonical form. -/

namespace Sys2Proof.Machine

variable {V : Type}

/-! ## Lookup -/

@[simp] theorem mapFind_mapIns_self (x : Nat) (v : V) (m : SMap V) : mapFind (mapIns x v m) x = some v := by
  induction m with
  | nil => simp [mapIns, mapFind]
  | cons c m ih => obtain ⟨k, w⟩ := c; simp only [mapIns]; split <;> [simp [mapFind]; (split <;> simp_all [mapFind])]

theorem mapFind_mapIns_ne {x y : Nat} (h : y ≠ x) (v : V) (m : SMap V) : mapFind (mapIns x v m) y = mapFind m y := by
  induction m with
  | nil => simp [mapIns, mapFind, h]
  | cons c m ih =>
    obtain ⟨k, w⟩ := c
    simp only [mapIns]
    split
    · simp [mapFind, h]
    · split
      · rename_i e; subst e; simp [mapFind, h]
      · simp [mapFind, ih]

theorem mapFind_mapDel_ne {x y : Nat} (h : y ≠ x) (m : SMap V) : mapFind (mapDel x m) y = mapFind m y := by
  induction m with
  | nil => rfl
  | cons c m ih =>
    obtain ⟨k, w⟩ := c
    simp only [mapDel]
    split
    · rename_i e; subst e; simp [mapFind, h, ih]
    · simp [mapFind, ih]

theorem mapFind_none_of_lt {x : Nat} {m : SMap V} (h : ∀ c ∈ m, x < c.1) : mapFind m x = none := by
  induction m with
  | nil => rfl
  | cons c m ih =>
    have := h c (.head _)
    simp only [mapFind]
    rw [if_neg (by omega), ih (fun d hd => h d (.tail _ hd))]

@[simp] theorem mapFind_mapDel_self (x : Nat) (m : SMap V) : mapFind (mapDel x m) x = none := by
  induction m with
  | nil => rfl
  | cons c m ih =>
    simp only [mapDel]
    split
    · exact ih
    · rename_i e; simp [mapFind, e, ih]

theorem mapGet_mapIns (d : V) (x y : Nat) (v : V) (m : SMap V) :
    mapGet d (mapIns x v m) y = if y = x then v else mapGet d m y := by
  unfold mapGet
  split
  · rename_i h; subst h; simp
  · rename_i h; rw [mapFind_mapIns_ne h]

theorem mapGet_mapPut [DecidableEq V] (d : V) (m : SMap V) (x y : Nat) (v : V) :
    mapGet d (mapPut d x v m) y = if y = x then v else mapGet d m y := by
  unfold mapPut
  split
  · rename_i e
    subst e
    unfold mapGet
    split
    · rename_i e; subst e; simp
    · rename_i e; rw [mapFind_mapDel_ne e]
  · exact mapGet_mapIns d x y v m

theorem mapFind_mapPut_ne [DecidableEq V] {d : V} {x y : Nat} (h : y ≠ x) (v : V) (m : SMap V) :
    mapFind (mapPut d x v m) y = mapFind m y := by
  unfold mapPut; split <;> [exact mapFind_mapDel_ne h m; exact mapFind_mapIns_ne h v m]

/-- Another key reads as before, whatever the order of the list. -/
theorem mapGet_mapPut_ne [DecidableEq V] (d : V) {x y : Nat} (h : y ≠ x) (v : V) (m : SMap V) :
    mapGet d (mapPut d x v m) y = mapGet d m y := by
  unfold mapGet; rw [mapFind_mapPut_ne h]

/-! ## Order -/

theorem mem_mapIns {x : Nat} {v : V} {m : SMap V} {p : Nat × V} (h : p ∈ mapIns x v m) : p = (x, v) ∨ p ∈ m := by
  induction m with
  | nil => simpa [mapIns] using h
  | cons c m ih =>
    obtain ⟨k, w⟩ := c
    simp only [mapIns] at h
    split at h
    · simpa using h
    · split at h
      · simp only [List.mem_cons] at h ⊢; rcases h with h | h <;> simp [h]
      · simp only [List.mem_cons] at h ⊢
        rcases h with h | h
        · simp [h]
        · rcases ih h with h | h <;> simp [h]

theorem rising_mapIns (x : Nat) (v : V) {m : SMap V} (h : Rising m) : Rising (mapIns x v m) := by
  induction m with
  | nil => simp [mapIns, Rising]
  | cons c m ih =>
    obtain ⟨k, w⟩ := c
    have ⟨h1, h2⟩ := List.pairwise_cons.1 h
    simp only [mapIns]
    split
    · rename_i hx
      refine List.pairwise_cons.2 ⟨fun a ha => ?_, h⟩
      rcases List.mem_cons.1 ha with rfl | ha
      · exact hx
      · exact hx.trans (h1 _ ha)
    · split
      · rename_i hx; subst hx; exact List.pairwise_cons.2 ⟨h1, h2⟩
      · refine List.pairwise_cons.2 ⟨fun p hp => ?_, ih h2⟩
        rcases mem_mapIns hp with rfl | hp
        · show k < x; omega
        · exact h1 _ hp

theorem mapDel_sublist (x : Nat) (m : SMap V) : (mapDel x m).Sublist m := by
  induction m with
  | nil => exact .slnil
  | cons c m ih => obtain ⟨k, w⟩ := c; simp only [mapDel]; split <;> [exact ih.cons _; exact ih.cons_cons _]

theorem rising_mapDel (x : Nat) {m : SMap V} (h : Rising m) : Rising (mapDel x m) := List.Pairwise.sublist (mapDel_sublist x m) h

theorem rising_mapPut [DecidableEq V] (d : V) (x : Nat) (v : V) {m : SMap V} (h : Rising m) : Rising (mapPut d x v m) := by
  unfold mapPut; split <;> [exact rising_mapDel x h; exact rising_mapIns x v h]

theorem rising_filter (p : Nat × V → Bool) {m : SMap V} (h : Rising m) : Rising (m.filter p) :=
  List.Pairwise.sublist List.filter_sublist h

/-! ## Memory (R85, R94): every operation keeps the canonical form -/

theorem memWf_iff (m : List Host.Cell) : Memory.wf m = true ↔ Rising m ∧ ∀ c ∈ m, c.2 ≠ 0 := by
  unfold Rising
  induction m with
  | nil => simp [Memory.wf]
  | cons c m ih =>
    cases m with
    | nil => simp [Memory.wf]
    | cons d m =>
      rw [Memory.wf]
      simp only [Bool.and_eq_true, ih, decide_eq_true_eq, bne_iff_ne, List.pairwise_cons, List.mem_cons]
      constructor
      · rintro ⟨⟨h1, h2⟩, ⟨h3, h4⟩, h5⟩
        refine ⟨⟨?_, h3, h4⟩, ?_⟩
        · rintro a (rfl | ha)
          · exact h2
          · exact h2.trans (h3 _ ha)
        · rintro a (rfl | ha)
          · exact h1
          · exact h5 _ ha
      · rintro ⟨⟨h1, h2, h3⟩, h4⟩
        exact ⟨⟨h4 _ (.inl rfl), h1 _ (.inl rfl)⟩, ⟨h2, h3⟩, fun a ha => h4 _ (.inr ha)⟩

/-- Taking cells off keeps the form: what a filter, a reset of one half or the loss of a stack does. -/
theorem memWf_sublist {m n : List Host.Cell} (h : Memory.wf m = true) (g : n.Sublist m) : Memory.wf n = true := by
  rw [memWf_iff] at *
  exact ⟨List.Pairwise.sublist g h.1, fun c hc => h.2 c (g.subset hc)⟩

theorem memWf_mapPut {m : List Host.Cell} (h : Memory.wf m = true) (a : Nat) (b : Byte) : Memory.wf (mapPut 0 a b m) = true := by
  unfold mapPut
  split
  · exact memWf_sublist h (mapDel_sublist _ _)
  · rename_i hb
    rw [memWf_iff] at *
    exact ⟨rising_mapIns a b h.1, fun c hc => (mem_mapIns hc).elim (fun e => by rw [e]; exact hb) (h.2 c)⟩

theorem memWf_writeBytes {m : List Host.Cell} (a : Nat) (bs : List Byte) (h : Memory.wf m = true) :
    Memory.wf (writeBytes 0 a bs m) = true := by
  induction bs generalizing a m with
  | nil => exact h
  | cons b bs ih => exact ih _ (memWf_mapPut h _ _)

theorem memWf_puts (f : Host.Cell → Nat) (l : List Host.Cell) {k : List Host.Cell} (h : Memory.wf k = true) :
    Memory.wf (l.foldl (fun acc c => mapPut 0 (f c) c.2 acc) k) = true := by
  induction l generalizing k with
  | nil => exact h
  | cons c l ih => exact ih (memWf_mapPut h _ _)

theorem memWf_copyCells {m : List Host.Cell} (a b n : Nat) (h : Memory.wf m = true) : Memory.wf (copyCells a b n m) = true :=
  memWf_puts _ _ (memWf_sublist h List.filter_sublist)

end Sys2Proof.Machine
end

