-- ==== Sys2Proof/Laws/State.lean ====
section
/-! SUPPORT. One lemma per field for each update of the state that the meanings share: what the update leaves and what it sets. -/

namespace Sys2Proof.Machine

variable (s : State)

/-! ## State.fset -/

@[simp] theorem State.fset_pending (f : Fld) (v : Nat) : (s.fset f v).pending = s.pending := rfl
@[simp] theorem State.fset_out (f : Fld) (v : Nat) : (s.fset f v).out = s.out := rfl
@[simp] theorem State.fset_free (f : Fld) (v : Nat) : (s.fset f v).free = s.free := rfl
@[simp] theorem State.fset_now (f : Fld) (v : Nat) : (s.fset f v).now = s.now := rfl
@[simp] theorem State.fset_optime0 (f : Fld) (v : Nat) : (s.fset f v).optime0 = s.optime0 := rfl
@[simp] theorem State.fset_wlatch (f : Fld) (v : Nat) : (s.fset f v).wlatch = s.wlatch := rfl
@[simp] theorem State.fset_rlatch (f : Fld) (v : Nat) : (s.fset f v).rlatch = s.rlatch := rfl
@[simp] theorem State.fset_tiles (f : Fld) (v : Nat) : (s.fset f v).tiles = s.tiles := rfl
@[simp] theorem State.fset_recorder (f : Fld) (v : Nat) : (s.fset f v).recorder = s.recorder := rfl
@[simp] theorem State.fset_reports (f : Fld) (v : Nat) : (s.fset f v).reports = s.reports := rfl
@[simp] theorem State.fset_nseq (f : Fld) (v : Nat) : (s.fset f v).nseq = s.nseq := rfl
@[simp] theorem State.fset_temps (f : Fld) (v : Nat) : (s.fset f v).temps = s.temps := rfl
@[simp] theorem State.fset_volts (f : Fld) (v : Nat) : (s.fset f v).volts = s.volts := rfl
@[simp] theorem State.fset_commons (f : Fld) (v : Nat) : (s.fset f v).commons = s.commons := rfl
@[simp] theorem State.fset_commonsBad (f : Fld) (v : Nat) : (s.fset f v).commonsBad = s.commonsBad := rfl
@[simp] theorem State.fset_sliceQ (f : Fld) (v : Nat) : (s.fset f v).sliceQ = s.sliceQ := rfl
@[simp] theorem State.fset_sliceOnce (f : Fld) (v : Nat) : (s.fset f v).sliceOnce = s.sliceOnce := rfl
@[simp] theorem State.fset_sliceTurn (f : Fld) (v : Nat) : (s.fset f v).sliceTurn = s.sliceTurn := rfl
@[simp] theorem State.fset_ranges (f : Fld) (v : Nat) : (s.fset f v).ranges = s.ranges := rfl
@[simp] theorem State.fset_home (f : Fld) (v : Nat) : (s.fset f v).home = s.home := rfl
@[simp] theorem State.fset_mem (f : Fld) (v : Nat) : (s.fset f v).mem = s.mem := rfl
@[simp] theorem State.fset_memBad (f : Fld) (v : Nat) : (s.fset f v).memBad = s.memBad := rfl
@[simp] theorem State.fset_mirrorFrames (f : Fld) (v : Nat) : (s.fset f v).mirrorFrames = s.mirrorFrames := rfl
@[simp] theorem State.fset_endDirty (f : Fld) (v : Nat) : (s.fset f v).endDirty = s.endDirty := rfl
@[simp] theorem State.fset_mesh (f : Fld) (v : Nat) : (s.fset f v).mesh = s.mesh := rfl
@[simp] theorem State.fset_result (f : Fld) (v : Nat) : (s.fset f v).result = s.result := rfl
@[simp] theorem State.fset_snapshot (f : Fld) (v : Nat) : (s.fset f v).snapshot = s.snapshot := rfl
@[simp] theorem State.fset_rootFlags (f : Fld) (v : Nat) : (s.fset f v).rootFlags = s.rootFlags := rfl
@[simp] theorem State.fset_heardGen (f : Fld) (v : Nat) : (s.fset f v).heardGen = s.heardGen := rfl
@[simp] theorem State.fset_barriers (f : Fld) (v : Nat) : (s.fset f v).barriers = s.barriers := rfl
@[simp] theorem State.fset_member (f : Fld) (v : Nat) : (s.fset f v).member = s.member := rfl
@[simp] theorem State.fset_seed (f : Fld) (v : Nat) : (s.fset f v).seed = s.seed := rfl
@[simp] theorem State.fset_queues (f : Fld) (v : Nat) : (s.fset f v).queues = s.queues := rfl
@[simp] theorem State.fset_nextQ (f : Fld) (v : Nat) : (s.fset f v).nextQ = s.nextQ := rfl
@[simp] theorem State.fset_fetches (f : Fld) (v : Nat) : (s.fset f v).fetches = s.fetches := rfl
@[simp] theorem State.fset_msix (f : Fld) (v : Nat) : (s.fset f v).msix = s.msix := rfl
@[simp] theorem State.fset_msixPend (f : Fld) (v : Nat) : (s.fset f v).msixPend = s.msixPend := rfl
@[simp] theorem State.fset_weave (f : Fld) (v : Nat) : (s.fset f v).weave = s.weave := rfl
@[simp] theorem State.fset_portion (f : Fld) (v : Nat) : (s.fset f v).portion = s.portion := rfl
@[simp] theorem State.fset_kNow (f : Fld) (v : Nat) : (s.fset f v).kNow = s.kNow := rfl
@[simp] theorem State.fset_load (f : Fld) (v : Nat) : (s.fset f v).load = s.load := rfl
@[simp] theorem State.fset_undo (f : Fld) (v : Nat) : (s.fset f v).undo = s.undo := rfl
@[simp] theorem State.fset_runs (f : Fld) (v : Nat) : (s.fset f v).runs = s.runs := rfl
@[simp] theorem State.fset_runCount (f : Fld) (v : Nat) : (s.fset f v).runCount = s.runCount := rfl
@[simp] theorem State.fset_coord (f : Fld) (v : Nat) : (s.fset f v).coord = s.coord := rfl
@[simp] theorem State.fset_decided (f : Fld) (v : Nat) : (s.fset f v).decided = s.decided := rfl
@[simp] theorem State.fset_cmdRun (f : Fld) (v : Nat) : (s.fset f v).cmdRun = s.cmdRun := rfl
@[simp] theorem State.fset_cmdCtrl (f : Fld) (v : Nat) : (s.fset f v).cmdCtrl = s.cmdCtrl := rfl
@[simp] theorem State.fset_askCommit (f : Fld) (v : Nat) : (s.fset f v).askCommit = s.askCommit := rfl
@[simp] theorem State.fset_askRollback (f : Fld) (v : Nat) : (s.fset f v).askRollback = s.askRollback := rfl
@[simp] theorem State.fset_needPrimary (f : Fld) (v : Nat) : (s.fset f v).needPrimary = s.needPrimary := rfl
@[simp] theorem State.fset_jobMirror (f : Fld) (v : Nat) : (s.fset f v).jobMirror = s.jobMirror := rfl
@[simp] theorem State.fset_heldTopology (f : Fld) (v : Nat) : (s.fset f v).heldTopology = s.heldTopology := rfl
@[simp] theorem State.fset_outUnits (f : Fld) (v : Nat) : (s.fset f v).outUnits = s.outUnits := rfl
@[simp] theorem State.fset_beforeCommit (f : Fld) (v : Nat) : (s.fset f v).beforeCommit = s.beforeCommit := rfl
@[simp] theorem State.fset_ended (f : Fld) (v : Nat) : (s.fset f v).ended = s.ended := rfl
@[simp] theorem State.fset_prepared (f : Fld) (v : Nat) : (s.fset f v).prepared = s.prepared := rfl
@[simp] theorem State.fset_rolling (f : Fld) (v : Nat) : (s.fset f v).rolling = s.rolling := rfl
@[simp] theorem State.fset_ackStep (f : Fld) (v : Nat) : (s.fset f v).ackStep = s.ackStep := rfl
@[simp] theorem State.fset_afterRoll (f : Fld) (v : Nat) : (s.fset f v).afterRoll = s.afterRoll := rfl
@[simp] theorem State.fset_undecided (f : Fld) (v : Nat) : (s.fset f v).undecided = s.undecided := rfl
@[simp] theorem State.fset_startWait (f : Fld) (v : Nat) : (s.fset f v).startWait = s.startWait := rfl
@[simp] theorem State.fset_resetAsk (f : Fld) (v : Nat) : (s.fset f v).resetAsk = s.resetAsk := rfl
@[simp] theorem State.fset_resetRun (f : Fld) (v : Nat) : (s.fset f v).resetRun = s.resetRun := rfl
@[simp] theorem State.fset_causes (f : Fld) (v : Nat) : (s.fset f v).causes = s.causes := rfl
@[simp] theorem State.fset_mirror (f : Fld) (v : Nat) : (s.fset f v).mirror = s.mirror := rfl
@[simp] theorem State.fset_sources (f : Fld) (v : Nat) : (s.fset f v).sources = s.sources := rfl
@[simp] theorem State.fset_descr (f : Fld) (v : Nat) : (s.fset f v).descr = s.descr := rfl
@[simp] theorem State.fset_descrFlash (f : Fld) (v : Nat) : (s.fset f v).descrFlash = s.descrFlash := rfl
@[simp] theorem State.fset_keys (f : Fld) (v : Nat) : (s.fset f v).keys = s.keys := rfl
@[simp] theorem State.fset_ports (f : Fld) (v : Nat) : (s.fset f v).ports = s.ports := rfl
@[simp] theorem State.fset_lsas (f : Fld) (v : Nat) : (s.fset f v).lsas = s.lsas := rfl
@[simp] theorem State.fset_lsaNum (f : Fld) (v : Nat) : (s.fset f v).lsaNum = s.lsaNum := rfl
@[simp] theorem State.fset_routes (f : Fld) (v : Nat) : (s.fset f v).routes = s.routes := rfl
@[simp] theorem State.fset_weights (f : Fld) (v : Nat) : (s.fset f v).weights = s.weights := rfl
@[simp] theorem State.fset_rates (f : Fld) (v : Nat) : (s.fset f v).rates = s.rates := rfl
@[simp] theorem State.fset_routed (f : Fld) (v : Nat) : (s.fset f v).routed = s.routed := rfl
@[simp] theorem State.fset_cneSent (f : Fld) (v : Nat) : (s.fset f v).cneSent = s.cneSent := rfl
@[simp] theorem State.fset_portsBack (f : Fld) (v : Nat) : (s.fset f v).portsBack = s.portsBack := rfl
@[simp] theorem State.fset_charges (f : Fld) (v : Nat) : (s.fset f v).charges = s.charges := rfl
@[simp] theorem State.fset_seen (f : Fld) (v : Nat) : (s.fset f v).seen = s.seen := rfl
@[simp] theorem State.fset_mbxBuf (f : Fld) (v : Nat) : (s.fset f v).mbxBuf = s.mbxBuf := rfl
@[simp] theorem State.fset_mbxRun (f : Fld) (v : Nat) : (s.fset f v).mbxRun = s.mbxRun := rfl
@[simp] theorem State.fset_smbAddr (f : Fld) (v : Nat) : (s.fset f v).smbAddr = s.smbAddr := rfl
@[simp] theorem State.fset_watts (f : Fld) (v : Nat) : (s.fset f v).watts = s.watts := rfl
@[simp] theorem State.fset_soft (f : Fld) (v : Nat) : (s.fset f v).soft = s.soft := rfl
@[simp] theorem State.fset_fuses (f : Fld) (v : Nat) : (s.fset f v).fuses = s.fuses := rfl
@[simp] theorem State.fset_fenced (f : Fld) (v : Nat) : (s.fset f v).fenced = s.fenced := rfl
@[simp] theorem State.fset_physGen (f : Fld) (v : Nat) : (s.fset f v).physGen = s.physGen := rfl
@[simp] theorem State.fset_bring (f : Fld) (v : Nat) : (s.fset f v).bring = s.bring := rfl
@[simp] theorem State.fset_pins (f : Fld) (v : Nat) : (s.fset f v).pins = s.pins := rfl
@[simp] theorem State.fset_stagUp (f : Fld) (v : Nat) : (s.fset f v).stagUp = s.stagUp := rfl
@[simp] theorem State.fset_stagHalted (f : Fld) (v : Nat) : (s.fset f v).stagHalted = s.stagHalted := rfl
@[simp] theorem State.fset_recoveryFw (f : Fld) (v : Nat) : (s.fset f v).recoveryFw = s.recoveryFw := rfl
@[simp] theorem State.fset_hostPort (f : Fld) (v : Nat) : (s.fset f v).hostPort = s.hostPort := rfl
@[simp] theorem State.fset_wdtFrom (f : Fld) (v : Nat) : (s.fset f v).wdtFrom = s.wdtFrom := rfl
@[simp] theorem State.fset_slices (f : Fld) (v : Nat) : (s.fset f v).slices = s.slices := rfl
@[simp] theorem State.fset_scrubErrs (f : Fld) (v : Nat) : (s.fset f v).scrubErrs = s.scrubErrs := rfl
@[simp] theorem State.fset_scrubPos (f : Fld) (v : Nat) : (s.fset f v).scrubPos = s.scrubPos := rfl
@[simp] theorem State.fset_moves (f : Fld) (v : Nat) : (s.fset f v).moves = s.moves := rfl
@[simp] theorem State.fset_access (f : Fld) (v : Nat) : (s.fset f v).access = s.access := rfl
@[simp] theorem State.fset_snap (f : Fld) (v : Nat) : (s.fset f v).snap = s.snap := rfl
@[simp] theorem State.fset_pronk (f : Fld) (v : Nat) : (s.fset f v).pronk = s.pronk := rfl
@[simp] theorem State.fset_tripped (f : Fld) (v : Nat) : (s.fset f v).tripped = s.tripped := rfl
@[simp] theorem State.fset_shutdown (f : Fld) (v : Nat) : (s.fset f v).shutdown = s.shutdown := rfl
@[simp] theorem State.fset_oddSensors (f : Fld) (v : Nat) : (s.fset f v).oddSensors = s.oddSensors := rfl
@[simp] theorem State.fset_backUnits (f : Fld) (v : Nat) : (s.fset f v).backUnits = s.backUnits := rfl
@[simp] theorem State.fset_softOld (f : Fld) (v : Nat) : (s.fset f v).softOld = s.softOld := rfl
@[simp] theorem State.fset_heldReqs (f : Fld) (v : Nat) : (s.fset f v).heldReqs = s.heldReqs := rfl

/-! ## State.fsetb -/

@[simp] theorem State.fsetb_pending (f : Fld) (v : Bool) : (s.fsetb f v).pending = s.pending := rfl
@[simp] theorem State.fsetb_out (f : Fld) (v : Bool) : (s.fsetb f v).out = s.out := rfl
@[simp] theorem State.fsetb_free (f : Fld) (v : Bool) : (s.fsetb f v).free = s.free := rfl
@[simp] theorem State.fsetb_now (f : Fld) (v : Bool) : (s.fsetb f v).now = s.now := rfl
@[simp] theorem State.fsetb_optime0 (f : Fld) (v : Bool) : (s.fsetb f v).optime0 = s.optime0 := rfl
@[simp] theorem State.fsetb_wlatch (f : Fld) (v : Bool) : (s.fsetb f v).wlatch = s.wlatch := rfl
@[simp] theorem State.fsetb_rlatch (f : Fld) (v : Bool) : (s.fsetb f v).rlatch = s.rlatch := rfl
@[simp] theorem State.fsetb_tiles (f : Fld) (v : Bool) : (s.fsetb f v).tiles = s.tiles := rfl
@[simp] theorem State.fsetb_recorder (f : Fld) (v : Bool) : (s.fsetb f v).recorder = s.recorder := rfl
@[simp] theorem State.fsetb_reports (f : Fld) (v : Bool) : (s.fsetb f v).reports = s.reports := rfl
@[simp] theorem State.fsetb_nseq (f : Fld) (v : Bool) : (s.fsetb f v).nseq = s.nseq := rfl
@[simp] theorem State.fsetb_temps (f : Fld) (v : Bool) : (s.fsetb f v).temps = s.temps := rfl
@[simp] theorem State.fsetb_volts (f : Fld) (v : Bool) : (s.fsetb f v).volts = s.volts := rfl
@[simp] theorem State.fsetb_commons (f : Fld) (v : Bool) : (s.fsetb f v).commons = s.commons := rfl
@[simp] theorem State.fsetb_commonsBad (f : Fld) (v : Bool) : (s.fsetb f v).commonsBad = s.commonsBad := rfl
@[simp] theorem State.fsetb_sliceQ (f : Fld) (v : Bool) : (s.fsetb f v).sliceQ = s.sliceQ := rfl
@[simp] theorem State.fsetb_sliceOnce (f : Fld) (v : Bool) : (s.fsetb f v).sliceOnce = s.sliceOnce := rfl
@[simp] theorem State.fsetb_sliceTurn (f : Fld) (v : Bool) : (s.fsetb f v).sliceTurn = s.sliceTurn := rfl
@[simp] theorem State.fsetb_ranges (f : Fld) (v : Bool) : (s.fsetb f v).ranges = s.ranges := rfl
@[simp] theorem State.fsetb_home (f : Fld) (v : Bool) : (s.fsetb f v).home = s.home := rfl
@[simp] theorem State.fsetb_mem (f : Fld) (v : Bool) : (s.fsetb f v).mem = s.mem := rfl
@[simp] theorem State.fsetb_memBad (f : Fld) (v : Bool) : (s.fsetb f v).memBad = s.memBad := rfl
@[simp] theorem State.fsetb_mirrorFrames (f : Fld) (v : Bool) : (s.fsetb f v).mirrorFrames = s.mirrorFrames := rfl
@[simp] theorem State.fsetb_endDirty (f : Fld) (v : Bool) : (s.fsetb f v).endDirty = s.endDirty := rfl
@[simp] theorem State.fsetb_mesh (f : Fld) (v : Bool) : (s.fsetb f v).mesh = s.mesh := rfl
@[simp] theorem State.fsetb_result (f : Fld) (v : Bool) : (s.fsetb f v).result = s.result := rfl
@[simp] theorem State.fsetb_snapshot (f : Fld) (v : Bool) : (s.fsetb f v).snapshot = s.snapshot := rfl
@[simp] theorem State.fsetb_rootFlags (f : Fld) (v : Bool) : (s.fsetb f v).rootFlags = s.rootFlags := rfl
@[simp] theorem State.fsetb_heardGen (f : Fld) (v : Bool) : (s.fsetb f v).heardGen = s.heardGen := rfl
@[simp] theorem State.fsetb_barriers (f : Fld) (v : Bool) : (s.fsetb f v).barriers = s.barriers := rfl
@[simp] theorem State.fsetb_member (f : Fld) (v : Bool) : (s.fsetb f v).member = s.member := rfl
@[simp] theorem State.fsetb_seed (f : Fld) (v : Bool) : (s.fsetb f v).seed = s.seed := rfl
@[simp] theorem State.fsetb_queues (f : Fld) (v : Bool) : (s.fsetb f v).queues = s.queues := rfl
@[simp] theorem State.fsetb_nextQ (f : Fld) (v : Bool) : (s.fsetb f v).nextQ = s.nextQ := rfl
@[simp] theorem State.fsetb_fetches (f : Fld) (v : Bool) : (s.fsetb f v).fetches = s.fetches := rfl
@[simp] theorem State.fsetb_msix (f : Fld) (v : Bool) : (s.fsetb f v).msix = s.msix := rfl
@[simp] theorem State.fsetb_msixPend (f : Fld) (v : Bool) : (s.fsetb f v).msixPend = s.msixPend := rfl
@[simp] theorem State.fsetb_weave (f : Fld) (v : Bool) : (s.fsetb f v).weave = s.weave := rfl
@[simp] theorem State.fsetb_portion (f : Fld) (v : Bool) : (s.fsetb f v).portion = s.portion := rfl
@[simp] theorem State.fsetb_kNow (f : Fld) (v : Bool) : (s.fsetb f v).kNow = s.kNow := rfl
@[simp] theorem State.fsetb_load (f : Fld) (v : Bool) : (s.fsetb f v).load = s.load := rfl
@[simp] theorem State.fsetb_undo (f : Fld) (v : Bool) : (s.fsetb f v).undo = s.undo := rfl
@[simp] theorem State.fsetb_runs (f : Fld) (v : Bool) : (s.fsetb f v).runs = s.runs := rfl
@[simp] theorem State.fsetb_runCount (f : Fld) (v : Bool) : (s.fsetb f v).runCount = s.runCount := rfl
@[simp] theorem State.fsetb_coord (f : Fld) (v : Bool) : (s.fsetb f v).coord = s.coord := rfl
@[simp] theorem State.fsetb_decided (f : Fld) (v : Bool) : (s.fsetb f v).decided = s.decided := rfl
@[simp] theorem State.fsetb_cmdRun (f : Fld) (v : Bool) : (s.fsetb f v).cmdRun = s.cmdRun := rfl
@[simp] theorem State.fsetb_cmdCtrl (f : Fld) (v : Bool) : (s.fsetb f v).cmdCtrl = s.cmdCtrl := rfl
@[simp] theorem State.fsetb_askCommit (f : Fld) (v : Bool) : (s.fsetb f v).askCommit = s.askCommit := rfl
@[simp] theorem State.fsetb_askRollback (f : Fld) (v : Bool) : (s.fsetb f v).askRollback = s.askRollback := rfl
@[simp] theorem State.fsetb_needPrimary (f : Fld) (v : Bool) : (s.fsetb f v).needPrimary = s.needPrimary := rfl
@[simp] theorem State.fsetb_jobMirror (f : Fld) (v : Bool) : (s.fsetb f v).jobMirror = s.jobMirror := rfl
@[simp] theorem State.fsetb_heldTopology (f : Fld) (v : Bool) : (s.fsetb f v).heldTopology = s.heldTopology := rfl
@[simp] theorem State.fsetb_outUnits (f : Fld) (v : Bool) : (s.fsetb f v).outUnits = s.outUnits := rfl
@[simp] theorem State.fsetb_beforeCommit (f : Fld) (v : Bool) : (s.fsetb f v).beforeCommit = s.beforeCommit := rfl
@[simp] theorem State.fsetb_ended (f : Fld) (v : Bool) : (s.fsetb f v).ended = s.ended := rfl
@[simp] theorem State.fsetb_prepared (f : Fld) (v : Bool) : (s.fsetb f v).prepared = s.prepared := rfl
@[simp] theorem State.fsetb_rolling (f : Fld) (v : Bool) : (s.fsetb f v).rolling = s.rolling := rfl
@[simp] theorem State.fsetb_ackStep (f : Fld) (v : Bool) : (s.fsetb f v).ackStep = s.ackStep := rfl
@[simp] theorem State.fsetb_afterRoll (f : Fld) (v : Bool) : (s.fsetb f v).afterRoll = s.afterRoll := rfl
@[simp] theorem State.fsetb_undecided (f : Fld) (v : Bool) : (s.fsetb f v).undecided = s.undecided := rfl
@[simp] theorem State.fsetb_startWait (f : Fld) (v : Bool) : (s.fsetb f v).startWait = s.startWait := rfl
@[simp] theorem State.fsetb_resetAsk (f : Fld) (v : Bool) : (s.fsetb f v).resetAsk = s.resetAsk := rfl
@[simp] theorem State.fsetb_resetRun (f : Fld) (v : Bool) : (s.fsetb f v).resetRun = s.resetRun := rfl
@[simp] theorem State.fsetb_causes (f : Fld) (v : Bool) : (s.fsetb f v).causes = s.causes := rfl
@[simp] theorem State.fsetb_mirror (f : Fld) (v : Bool) : (s.fsetb f v).mirror = s.mirror := rfl
@[simp] theorem State.fsetb_sources (f : Fld) (v : Bool) : (s.fsetb f v).sources = s.sources := rfl
@[simp] theorem State.fsetb_descr (f : Fld) (v : Bool) : (s.fsetb f v).descr = s.descr := rfl
@[simp] theorem State.fsetb_descrFlash (f : Fld) (v : Bool) : (s.fsetb f v).descrFlash = s.descrFlash := rfl
@[simp] theorem State.fsetb_keys (f : Fld) (v : Bool) : (s.fsetb f v).keys = s.keys := rfl
@[simp] theorem State.fsetb_ports (f : Fld) (v : Bool) : (s.fsetb f v).ports = s.ports := rfl
@[simp] theorem State.fsetb_lsas (f : Fld) (v : Bool) : (s.fsetb f v).lsas = s.lsas := rfl
@[simp] theorem State.fsetb_lsaNum (f : Fld) (v : Bool) : (s.fsetb f v).lsaNum = s.lsaNum := rfl
@[simp] theorem State.fsetb_routes (f : Fld) (v : Bool) : (s.fsetb f v).routes = s.routes := rfl
@[simp] theorem State.fsetb_weights (f : Fld) (v : Bool) : (s.fsetb f v).weights = s.weights := rfl
@[simp] theorem State.fsetb_rates (f : Fld) (v : Bool) : (s.fsetb f v).rates = s.rates := rfl
@[simp] theorem State.fsetb_routed (f : Fld) (v : Bool) : (s.fsetb f v).routed = s.routed := rfl
@[simp] theorem State.fsetb_cneSent (f : Fld) (v : Bool) : (s.fsetb f v).cneSent = s.cneSent := rfl
@[simp] theorem State.fsetb_portsBack (f : Fld) (v : Bool) : (s.fsetb f v).portsBack = s.portsBack := rfl
@[simp] theorem State.fsetb_charges (f : Fld) (v : Bool) : (s.fsetb f v).charges = s.charges := rfl
@[simp] theorem State.fsetb_seen (f : Fld) (v : Bool) : (s.fsetb f v).seen = s.seen := rfl
@[simp] theorem State.fsetb_mbxBuf (f : Fld) (v : Bool) : (s.fsetb f v).mbxBuf = s.mbxBuf := rfl
@[simp] theorem State.fsetb_mbxRun (f : Fld) (v : Bool) : (s.fsetb f v).mbxRun = s.mbxRun := rfl
@[simp] theorem State.fsetb_smbAddr (f : Fld) (v : Bool) : (s.fsetb f v).smbAddr = s.smbAddr := rfl
@[simp] theorem State.fsetb_watts (f : Fld) (v : Bool) : (s.fsetb f v).watts = s.watts := rfl
@[simp] theorem State.fsetb_soft (f : Fld) (v : Bool) : (s.fsetb f v).soft = s.soft := rfl
@[simp] theorem State.fsetb_fuses (f : Fld) (v : Bool) : (s.fsetb f v).fuses = s.fuses := rfl
@[simp] theorem State.fsetb_fenced (f : Fld) (v : Bool) : (s.fsetb f v).fenced = s.fenced := rfl
@[simp] theorem State.fsetb_physGen (f : Fld) (v : Bool) : (s.fsetb f v).physGen = s.physGen := rfl
@[simp] theorem State.fsetb_bring (f : Fld) (v : Bool) : (s.fsetb f v).bring = s.bring := rfl
@[simp] theorem State.fsetb_pins (f : Fld) (v : Bool) : (s.fsetb f v).pins = s.pins := rfl
@[simp] theorem State.fsetb_stagUp (f : Fld) (v : Bool) : (s.fsetb f v).stagUp = s.stagUp := rfl
@[simp] theorem State.fsetb_stagHalted (f : Fld) (v : Bool) : (s.fsetb f v).stagHalted = s.stagHalted := rfl
@[simp] theorem State.fsetb_recoveryFw (f : Fld) (v : Bool) : (s.fsetb f v).recoveryFw = s.recoveryFw := rfl
@[simp] theorem State.fsetb_hostPort (f : Fld) (v : Bool) : (s.fsetb f v).hostPort = s.hostPort := rfl
@[simp] theorem State.fsetb_wdtFrom (f : Fld) (v : Bool) : (s.fsetb f v).wdtFrom = s.wdtFrom := rfl
@[simp] theorem State.fsetb_slices (f : Fld) (v : Bool) : (s.fsetb f v).slices = s.slices := rfl
@[simp] theorem State.fsetb_scrubErrs (f : Fld) (v : Bool) : (s.fsetb f v).scrubErrs = s.scrubErrs := rfl
@[simp] theorem State.fsetb_scrubPos (f : Fld) (v : Bool) : (s.fsetb f v).scrubPos = s.scrubPos := rfl
@[simp] theorem State.fsetb_moves (f : Fld) (v : Bool) : (s.fsetb f v).moves = s.moves := rfl
@[simp] theorem State.fsetb_access (f : Fld) (v : Bool) : (s.fsetb f v).access = s.access := rfl
@[simp] theorem State.fsetb_snap (f : Fld) (v : Bool) : (s.fsetb f v).snap = s.snap := rfl
@[simp] theorem State.fsetb_pronk (f : Fld) (v : Bool) : (s.fsetb f v).pronk = s.pronk := rfl
@[simp] theorem State.fsetb_tripped (f : Fld) (v : Bool) : (s.fsetb f v).tripped = s.tripped := rfl
@[simp] theorem State.fsetb_shutdown (f : Fld) (v : Bool) : (s.fsetb f v).shutdown = s.shutdown := rfl
@[simp] theorem State.fsetb_oddSensors (f : Fld) (v : Bool) : (s.fsetb f v).oddSensors = s.oddSensors := rfl
@[simp] theorem State.fsetb_backUnits (f : Fld) (v : Bool) : (s.fsetb f v).backUnits = s.backUnits := rfl
@[simp] theorem State.fsetb_softOld (f : Fld) (v : Bool) : (s.fsetb f v).softOld = s.softOld := rfl
@[simp] theorem State.fsetb_heldReqs (f : Fld) (v : Bool) : (s.fsetb f v).heldReqs = s.heldReqs := rfl

/-! ## State.fadd -/

@[simp] theorem State.fadd_pending (f : Fld) (n : Nat) : (s.fadd f n).pending = s.pending := rfl
@[simp] theorem State.fadd_out (f : Fld) (n : Nat) : (s.fadd f n).out = s.out := rfl
@[simp] theorem State.fadd_free (f : Fld) (n : Nat) : (s.fadd f n).free = s.free := rfl
@[simp] theorem State.fadd_now (f : Fld) (n : Nat) : (s.fadd f n).now = s.now := rfl
@[simp] theorem State.fadd_optime0 (f : Fld) (n : Nat) : (s.fadd f n).optime0 = s.optime0 := rfl
@[simp] theorem State.fadd_wlatch (f : Fld) (n : Nat) : (s.fadd f n).wlatch = s.wlatch := rfl
@[simp] theorem State.fadd_rlatch (f : Fld) (n : Nat) : (s.fadd f n).rlatch = s.rlatch := rfl
@[simp] theorem State.fadd_tiles (f : Fld) (n : Nat) : (s.fadd f n).tiles = s.tiles := rfl
@[simp] theorem State.fadd_recorder (f : Fld) (n : Nat) : (s.fadd f n).recorder = s.recorder := rfl
@[simp] theorem State.fadd_reports (f : Fld) (n : Nat) : (s.fadd f n).reports = s.reports := rfl
@[simp] theorem State.fadd_nseq (f : Fld) (n : Nat) : (s.fadd f n).nseq = s.nseq := rfl
@[simp] theorem State.fadd_temps (f : Fld) (n : Nat) : (s.fadd f n).temps = s.temps := rfl
@[simp] theorem State.fadd_volts (f : Fld) (n : Nat) : (s.fadd f n).volts = s.volts := rfl
@[simp] theorem State.fadd_commons (f : Fld) (n : Nat) : (s.fadd f n).commons = s.commons := rfl
@[simp] theorem State.fadd_commonsBad (f : Fld) (n : Nat) : (s.fadd f n).commonsBad = s.commonsBad := rfl
@[simp] theorem State.fadd_sliceQ (f : Fld) (n : Nat) : (s.fadd f n).sliceQ = s.sliceQ := rfl
@[simp] theorem State.fadd_sliceOnce (f : Fld) (n : Nat) : (s.fadd f n).sliceOnce = s.sliceOnce := rfl
@[simp] theorem State.fadd_sliceTurn (f : Fld) (n : Nat) : (s.fadd f n).sliceTurn = s.sliceTurn := rfl
@[simp] theorem State.fadd_ranges (f : Fld) (n : Nat) : (s.fadd f n).ranges = s.ranges := rfl
@[simp] theorem State.fadd_home (f : Fld) (n : Nat) : (s.fadd f n).home = s.home := rfl
@[simp] theorem State.fadd_mem (f : Fld) (n : Nat) : (s.fadd f n).mem = s.mem := rfl
@[simp] theorem State.fadd_memBad (f : Fld) (n : Nat) : (s.fadd f n).memBad = s.memBad := rfl
@[simp] theorem State.fadd_mirrorFrames (f : Fld) (n : Nat) : (s.fadd f n).mirrorFrames = s.mirrorFrames := rfl
@[simp] theorem State.fadd_endDirty (f : Fld) (n : Nat) : (s.fadd f n).endDirty = s.endDirty := rfl
@[simp] theorem State.fadd_mesh (f : Fld) (n : Nat) : (s.fadd f n).mesh = s.mesh := rfl
@[simp] theorem State.fadd_result (f : Fld) (n : Nat) : (s.fadd f n).result = s.result := rfl
@[simp] theorem State.fadd_snapshot (f : Fld) (n : Nat) : (s.fadd f n).snapshot = s.snapshot := rfl
@[simp] theorem State.fadd_rootFlags (f : Fld) (n : Nat) : (s.fadd f n).rootFlags = s.rootFlags := rfl
@[simp] theorem State.fadd_heardGen (f : Fld) (n : Nat) : (s.fadd f n).heardGen = s.heardGen := rfl
@[simp] theorem State.fadd_barriers (f : Fld) (n : Nat) : (s.fadd f n).barriers = s.barriers := rfl
@[simp] theorem State.fadd_member (f : Fld) (n : Nat) : (s.fadd f n).member = s.member := rfl
@[simp] theorem State.fadd_seed (f : Fld) (n : Nat) : (s.fadd f n).seed = s.seed := rfl
@[simp] theorem State.fadd_queues (f : Fld) (n : Nat) : (s.fadd f n).queues = s.queues := rfl
@[simp] theorem State.fadd_nextQ (f : Fld) (n : Nat) : (s.fadd f n).nextQ = s.nextQ := rfl
@[simp] theorem State.fadd_fetches (f : Fld) (n : Nat) : (s.fadd f n).fetches = s.fetches := rfl
@[simp] theorem State.fadd_msix (f : Fld) (n : Nat) : (s.fadd f n).msix = s.msix := rfl
@[simp] theorem State.fadd_msixPend (f : Fld) (n : Nat) : (s.fadd f n).msixPend = s.msixPend := rfl
@[simp] theorem State.fadd_weave (f : Fld) (n : Nat) : (s.fadd f n).weave = s.weave := rfl
@[simp] theorem State.fadd_portion (f : Fld) (n : Nat) : (s.fadd f n).portion = s.portion := rfl
@[simp] theorem State.fadd_kNow (f : Fld) (n : Nat) : (s.fadd f n).kNow = s.kNow := rfl
@[simp] theorem State.fadd_load (f : Fld) (n : Nat) : (s.fadd f n).load = s.load := rfl
@[simp] theorem State.fadd_undo (f : Fld) (n : Nat) : (s.fadd f n).undo = s.undo := rfl
@[simp] theorem State.fadd_runs (f : Fld) (n : Nat) : (s.fadd f n).runs = s.runs := rfl
@[simp] theorem State.fadd_runCount (f : Fld) (n : Nat) : (s.fadd f n).runCount = s.runCount := rfl
@[simp] theorem State.fadd_coord (f : Fld) (n : Nat) : (s.fadd f n).coord = s.coord := rfl
@[simp] theorem State.fadd_decided (f : Fld) (n : Nat) : (s.fadd f n).decided = s.decided := rfl
@[simp] theorem State.fadd_cmdRun (f : Fld) (n : Nat) : (s.fadd f n).cmdRun = s.cmdRun := rfl
@[simp] theorem State.fadd_cmdCtrl (f : Fld) (n : Nat) : (s.fadd f n).cmdCtrl = s.cmdCtrl := rfl
@[simp] theorem State.fadd_askCommit (f : Fld) (n : Nat) : (s.fadd f n).askCommit = s.askCommit := rfl
@[simp] theorem State.fadd_askRollback (f : Fld) (n : Nat) : (s.fadd f n).askRollback = s.askRollback := rfl
@[simp] theorem State.fadd_needPrimary (f : Fld) (n : Nat) : (s.fadd f n).needPrimary = s.needPrimary := rfl
@[simp] theorem State.fadd_jobMirror (f : Fld) (n : Nat) : (s.fadd f n).jobMirror = s.jobMirror := rfl
@[simp] theorem State.fadd_heldTopology (f : Fld) (n : Nat) : (s.fadd f n).heldTopology = s.heldTopology := rfl
@[simp] theorem State.fadd_outUnits (f : Fld) (n : Nat) : (s.fadd f n).outUnits = s.outUnits := rfl
@[simp] theorem State.fadd_beforeCommit (f : Fld) (n : Nat) : (s.fadd f n).beforeCommit = s.beforeCommit := rfl
@[simp] theorem State.fadd_ended (f : Fld) (n : Nat) : (s.fadd f n).ended = s.ended := rfl
@[simp] theorem State.fadd_prepared (f : Fld) (n : Nat) : (s.fadd f n).prepared = s.prepared := rfl
@[simp] theorem State.fadd_rolling (f : Fld) (n : Nat) : (s.fadd f n).rolling = s.rolling := rfl
@[simp] theorem State.fadd_ackStep (f : Fld) (n : Nat) : (s.fadd f n).ackStep = s.ackStep := rfl
@[simp] theorem State.fadd_afterRoll (f : Fld) (n : Nat) : (s.fadd f n).afterRoll = s.afterRoll := rfl
@[simp] theorem State.fadd_undecided (f : Fld) (n : Nat) : (s.fadd f n).undecided = s.undecided := rfl
@[simp] theorem State.fadd_startWait (f : Fld) (n : Nat) : (s.fadd f n).startWait = s.startWait := rfl
@[simp] theorem State.fadd_resetAsk (f : Fld) (n : Nat) : (s.fadd f n).resetAsk = s.resetAsk := rfl
@[simp] theorem State.fadd_resetRun (f : Fld) (n : Nat) : (s.fadd f n).resetRun = s.resetRun := rfl
@[simp] theorem State.fadd_causes (f : Fld) (n : Nat) : (s.fadd f n).causes = s.causes := rfl
@[simp] theorem State.fadd_mirror (f : Fld) (n : Nat) : (s.fadd f n).mirror = s.mirror := rfl
@[simp] theorem State.fadd_sources (f : Fld) (n : Nat) : (s.fadd f n).sources = s.sources := rfl
@[simp] theorem State.fadd_descr (f : Fld) (n : Nat) : (s.fadd f n).descr = s.descr := rfl
@[simp] theorem State.fadd_descrFlash (f : Fld) (n : Nat) : (s.fadd f n).descrFlash = s.descrFlash := rfl
@[simp] theorem State.fadd_keys (f : Fld) (n : Nat) : (s.fadd f n).keys = s.keys := rfl
@[simp] theorem State.fadd_ports (f : Fld) (n : Nat) : (s.fadd f n).ports = s.ports := rfl
@[simp] theorem State.fadd_lsas (f : Fld) (n : Nat) : (s.fadd f n).lsas = s.lsas := rfl
@[simp] theorem State.fadd_lsaNum (f : Fld) (n : Nat) : (s.fadd f n).lsaNum = s.lsaNum := rfl
@[simp] theorem State.fadd_routes (f : Fld) (n : Nat) : (s.fadd f n).routes = s.routes := rfl
@[simp] theorem State.fadd_weights (f : Fld) (n : Nat) : (s.fadd f n).weights = s.weights := rfl
@[simp] theorem State.fadd_rates (f : Fld) (n : Nat) : (s.fadd f n).rates = s.rates := rfl
@[simp] theorem State.fadd_routed (f : Fld) (n : Nat) : (s.fadd f n).routed = s.routed := rfl
@[simp] theorem State.fadd_cneSent (f : Fld) (n : Nat) : (s.fadd f n).cneSent = s.cneSent := rfl
@[simp] theorem State.fadd_portsBack (f : Fld) (n : Nat) : (s.fadd f n).portsBack = s.portsBack := rfl
@[simp] theorem State.fadd_charges (f : Fld) (n : Nat) : (s.fadd f n).charges = s.charges := rfl
@[simp] theorem State.fadd_seen (f : Fld) (n : Nat) : (s.fadd f n).seen = s.seen := rfl
@[simp] theorem State.fadd_mbxBuf (f : Fld) (n : Nat) : (s.fadd f n).mbxBuf = s.mbxBuf := rfl
@[simp] theorem State.fadd_mbxRun (f : Fld) (n : Nat) : (s.fadd f n).mbxRun = s.mbxRun := rfl
@[simp] theorem State.fadd_smbAddr (f : Fld) (n : Nat) : (s.fadd f n).smbAddr = s.smbAddr := rfl
@[simp] theorem State.fadd_watts (f : Fld) (n : Nat) : (s.fadd f n).watts = s.watts := rfl
@[simp] theorem State.fadd_soft (f : Fld) (n : Nat) : (s.fadd f n).soft = s.soft := rfl
@[simp] theorem State.fadd_fuses (f : Fld) (n : Nat) : (s.fadd f n).fuses = s.fuses := rfl
@[simp] theorem State.fadd_fenced (f : Fld) (n : Nat) : (s.fadd f n).fenced = s.fenced := rfl
@[simp] theorem State.fadd_physGen (f : Fld) (n : Nat) : (s.fadd f n).physGen = s.physGen := rfl
@[simp] theorem State.fadd_bring (f : Fld) (n : Nat) : (s.fadd f n).bring = s.bring := rfl
@[simp] theorem State.fadd_pins (f : Fld) (n : Nat) : (s.fadd f n).pins = s.pins := rfl
@[simp] theorem State.fadd_stagUp (f : Fld) (n : Nat) : (s.fadd f n).stagUp = s.stagUp := rfl
@[simp] theorem State.fadd_stagHalted (f : Fld) (n : Nat) : (s.fadd f n).stagHalted = s.stagHalted := rfl
@[simp] theorem State.fadd_recoveryFw (f : Fld) (n : Nat) : (s.fadd f n).recoveryFw = s.recoveryFw := rfl
@[simp] theorem State.fadd_hostPort (f : Fld) (n : Nat) : (s.fadd f n).hostPort = s.hostPort := rfl
@[simp] theorem State.fadd_wdtFrom (f : Fld) (n : Nat) : (s.fadd f n).wdtFrom = s.wdtFrom := rfl
@[simp] theorem State.fadd_slices (f : Fld) (n : Nat) : (s.fadd f n).slices = s.slices := rfl
@[simp] theorem State.fadd_scrubErrs (f : Fld) (n : Nat) : (s.fadd f n).scrubErrs = s.scrubErrs := rfl
@[simp] theorem State.fadd_scrubPos (f : Fld) (n : Nat) : (s.fadd f n).scrubPos = s.scrubPos := rfl
@[simp] theorem State.fadd_moves (f : Fld) (n : Nat) : (s.fadd f n).moves = s.moves := rfl
@[simp] theorem State.fadd_access (f : Fld) (n : Nat) : (s.fadd f n).access = s.access := rfl
@[simp] theorem State.fadd_snap (f : Fld) (n : Nat) : (s.fadd f n).snap = s.snap := rfl
@[simp] theorem State.fadd_pronk (f : Fld) (n : Nat) : (s.fadd f n).pronk = s.pronk := rfl
@[simp] theorem State.fadd_tripped (f : Fld) (n : Nat) : (s.fadd f n).tripped = s.tripped := rfl
@[simp] theorem State.fadd_shutdown (f : Fld) (n : Nat) : (s.fadd f n).shutdown = s.shutdown := rfl
@[simp] theorem State.fadd_oddSensors (f : Fld) (n : Nat) : (s.fadd f n).oddSensors = s.oddSensors := rfl
@[simp] theorem State.fadd_backUnits (f : Fld) (n : Nat) : (s.fadd f n).backUnits = s.backUnits := rfl
@[simp] theorem State.fadd_softOld (f : Fld) (n : Nat) : (s.fadd f n).softOld = s.softOld := rfl
@[simp] theorem State.fadd_heldReqs (f : Fld) (n : Nat) : (s.fadd f n).heldReqs = s.heldReqs := rfl

/-! ## State.emit -/

@[simp] theorem State.emit_pending (o : Output) : (s.emit o).pending = s.pending := rfl
@[simp] theorem State.emit_free (o : Output) : (s.emit o).free = s.free := rfl
@[simp] theorem State.emit_now (o : Output) : (s.emit o).now = s.now := rfl
@[simp] theorem State.emit_optime0 (o : Output) : (s.emit o).optime0 = s.optime0 := rfl
@[simp] theorem State.emit_regs (o : Output) : (s.emit o).regs = s.regs := rfl
@[simp] theorem State.emit_wlatch (o : Output) : (s.emit o).wlatch = s.wlatch := rfl
@[simp] theorem State.emit_rlatch (o : Output) : (s.emit o).rlatch = s.rlatch := rfl
@[simp] theorem State.emit_tiles (o : Output) : (s.emit o).tiles = s.tiles := rfl
@[simp] theorem State.emit_recorder (o : Output) : (s.emit o).recorder = s.recorder := rfl
@[simp] theorem State.emit_reports (o : Output) : (s.emit o).reports = s.reports := rfl
@[simp] theorem State.emit_nseq (o : Output) : (s.emit o).nseq = s.nseq := rfl
@[simp] theorem State.emit_temps (o : Output) : (s.emit o).temps = s.temps := rfl
@[simp] theorem State.emit_volts (o : Output) : (s.emit o).volts = s.volts := rfl
@[simp] theorem State.emit_commons (o : Output) : (s.emit o).commons = s.commons := rfl
@[simp] theorem State.emit_commonsBad (o : Output) : (s.emit o).commonsBad = s.commonsBad := rfl
@[simp] theorem State.emit_sliceQ (o : Output) : (s.emit o).sliceQ = s.sliceQ := rfl
@[simp] theorem State.emit_sliceOnce (o : Output) : (s.emit o).sliceOnce = s.sliceOnce := rfl
@[simp] theorem State.emit_sliceTurn (o : Output) : (s.emit o).sliceTurn = s.sliceTurn := rfl
@[simp] theorem State.emit_ranges (o : Output) : (s.emit o).ranges = s.ranges := rfl
@[simp] theorem State.emit_home (o : Output) : (s.emit o).home = s.home := rfl
@[simp] theorem State.emit_mem (o : Output) : (s.emit o).mem = s.mem := rfl
@[simp] theorem State.emit_memBad (o : Output) : (s.emit o).memBad = s.memBad := rfl
@[simp] theorem State.emit_mirrorFrames (o : Output) : (s.emit o).mirrorFrames = s.mirrorFrames := rfl
@[simp] theorem State.emit_endDirty (o : Output) : (s.emit o).endDirty = s.endDirty := rfl
@[simp] theorem State.emit_mesh (o : Output) : (s.emit o).mesh = s.mesh := rfl
@[simp] theorem State.emit_result (o : Output) : (s.emit o).result = s.result := rfl
@[simp] theorem State.emit_snapshot (o : Output) : (s.emit o).snapshot = s.snapshot := rfl
@[simp] theorem State.emit_rootFlags (o : Output) : (s.emit o).rootFlags = s.rootFlags := rfl
@[simp] theorem State.emit_heardGen (o : Output) : (s.emit o).heardGen = s.heardGen := rfl
@[simp] theorem State.emit_barriers (o : Output) : (s.emit o).barriers = s.barriers := rfl
@[simp] theorem State.emit_member (o : Output) : (s.emit o).member = s.member := rfl
@[simp] theorem State.emit_seed (o : Output) : (s.emit o).seed = s.seed := rfl
@[simp] theorem State.emit_queues (o : Output) : (s.emit o).queues = s.queues := rfl
@[simp] theorem State.emit_nextQ (o : Output) : (s.emit o).nextQ = s.nextQ := rfl
@[simp] theorem State.emit_fetches (o : Output) : (s.emit o).fetches = s.fetches := rfl
@[simp] theorem State.emit_msix (o : Output) : (s.emit o).msix = s.msix := rfl
@[simp] theorem State.emit_msixPend (o : Output) : (s.emit o).msixPend = s.msixPend := rfl
@[simp] theorem State.emit_weave (o : Output) : (s.emit o).weave = s.weave := rfl
@[simp] theorem State.emit_portion (o : Output) : (s.emit o).portion = s.portion := rfl
@[simp] theorem State.emit_kNow (o : Output) : (s.emit o).kNow = s.kNow := rfl
@[simp] theorem State.emit_load (o : Output) : (s.emit o).load = s.load := rfl
@[simp] theorem State.emit_undo (o : Output) : (s.emit o).undo = s.undo := rfl
@[simp] theorem State.emit_runs (o : Output) : (s.emit o).runs = s.runs := rfl
@[simp] theorem State.emit_runCount (o : Output) : (s.emit o).runCount = s.runCount := rfl
@[simp] theorem State.emit_coord (o : Output) : (s.emit o).coord = s.coord := rfl
@[simp] theorem State.emit_decided (o : Output) : (s.emit o).decided = s.decided := rfl
@[simp] theorem State.emit_cmdRun (o : Output) : (s.emit o).cmdRun = s.cmdRun := rfl
@[simp] theorem State.emit_cmdCtrl (o : Output) : (s.emit o).cmdCtrl = s.cmdCtrl := rfl
@[simp] theorem State.emit_askCommit (o : Output) : (s.emit o).askCommit = s.askCommit := rfl
@[simp] theorem State.emit_askRollback (o : Output) : (s.emit o).askRollback = s.askRollback := rfl
@[simp] theorem State.emit_needPrimary (o : Output) : (s.emit o).needPrimary = s.needPrimary := rfl
@[simp] theorem State.emit_jobMirror (o : Output) : (s.emit o).jobMirror = s.jobMirror := rfl
@[simp] theorem State.emit_heldTopology (o : Output) : (s.emit o).heldTopology = s.heldTopology := rfl
@[simp] theorem State.emit_outUnits (o : Output) : (s.emit o).outUnits = s.outUnits := rfl
@[simp] theorem State.emit_beforeCommit (o : Output) : (s.emit o).beforeCommit = s.beforeCommit := rfl
@[simp] theorem State.emit_ended (o : Output) : (s.emit o).ended = s.ended := rfl
@[simp] theorem State.emit_prepared (o : Output) : (s.emit o).prepared = s.prepared := rfl
@[simp] theorem State.emit_rolling (o : Output) : (s.emit o).rolling = s.rolling := rfl
@[simp] theorem State.emit_ackStep (o : Output) : (s.emit o).ackStep = s.ackStep := rfl
@[simp] theorem State.emit_afterRoll (o : Output) : (s.emit o).afterRoll = s.afterRoll := rfl
@[simp] theorem State.emit_undecided (o : Output) : (s.emit o).undecided = s.undecided := rfl
@[simp] theorem State.emit_startWait (o : Output) : (s.emit o).startWait = s.startWait := rfl
@[simp] theorem State.emit_resetAsk (o : Output) : (s.emit o).resetAsk = s.resetAsk := rfl
@[simp] theorem State.emit_resetRun (o : Output) : (s.emit o).resetRun = s.resetRun := rfl
@[simp] theorem State.emit_causes (o : Output) : (s.emit o).causes = s.causes := rfl
@[simp] theorem State.emit_mirror (o : Output) : (s.emit o).mirror = s.mirror := rfl
@[simp] theorem State.emit_sources (o : Output) : (s.emit o).sources = s.sources := rfl
@[simp] theorem State.emit_descr (o : Output) : (s.emit o).descr = s.descr := rfl
@[simp] theorem State.emit_descrFlash (o : Output) : (s.emit o).descrFlash = s.descrFlash := rfl
@[simp] theorem State.emit_keys (o : Output) : (s.emit o).keys = s.keys := rfl
@[simp] theorem State.emit_ports (o : Output) : (s.emit o).ports = s.ports := rfl
@[simp] theorem State.emit_lsas (o : Output) : (s.emit o).lsas = s.lsas := rfl
@[simp] theorem State.emit_lsaNum (o : Output) : (s.emit o).lsaNum = s.lsaNum := rfl
@[simp] theorem State.emit_routes (o : Output) : (s.emit o).routes = s.routes := rfl
@[simp] theorem State.emit_weights (o : Output) : (s.emit o).weights = s.weights := rfl
@[simp] theorem State.emit_rates (o : Output) : (s.emit o).rates = s.rates := rfl
@[simp] theorem State.emit_routed (o : Output) : (s.emit o).routed = s.routed := rfl
@[simp] theorem State.emit_cneSent (o : Output) : (s.emit o).cneSent = s.cneSent := rfl
@[simp] theorem State.emit_portsBack (o : Output) : (s.emit o).portsBack = s.portsBack := rfl
@[simp] theorem State.emit_charges (o : Output) : (s.emit o).charges = s.charges := rfl
@[simp] theorem State.emit_seen (o : Output) : (s.emit o).seen = s.seen := rfl
@[simp] theorem State.emit_mbxBuf (o : Output) : (s.emit o).mbxBuf = s.mbxBuf := rfl
@[simp] theorem State.emit_mbxRun (o : Output) : (s.emit o).mbxRun = s.mbxRun := rfl
@[simp] theorem State.emit_smbAddr (o : Output) : (s.emit o).smbAddr = s.smbAddr := rfl
@[simp] theorem State.emit_watts (o : Output) : (s.emit o).watts = s.watts := rfl
@[simp] theorem State.emit_soft (o : Output) : (s.emit o).soft = s.soft := rfl
@[simp] theorem State.emit_fuses (o : Output) : (s.emit o).fuses = s.fuses := rfl
@[simp] theorem State.emit_fenced (o : Output) : (s.emit o).fenced = s.fenced := rfl
@[simp] theorem State.emit_physGen (o : Output) : (s.emit o).physGen = s.physGen := rfl
@[simp] theorem State.emit_bring (o : Output) : (s.emit o).bring = s.bring := rfl
@[simp] theorem State.emit_pins (o : Output) : (s.emit o).pins = s.pins := rfl
@[simp] theorem State.emit_stagUp (o : Output) : (s.emit o).stagUp = s.stagUp := rfl
@[simp] theorem State.emit_stagHalted (o : Output) : (s.emit o).stagHalted = s.stagHalted := rfl
@[simp] theorem State.emit_recoveryFw (o : Output) : (s.emit o).recoveryFw = s.recoveryFw := rfl
@[simp] theorem State.emit_hostPort (o : Output) : (s.emit o).hostPort = s.hostPort := rfl
@[simp] theorem State.emit_wdtFrom (o : Output) : (s.emit o).wdtFrom = s.wdtFrom := rfl
@[simp] theorem State.emit_slices (o : Output) : (s.emit o).slices = s.slices := rfl
@[simp] theorem State.emit_scrubErrs (o : Output) : (s.emit o).scrubErrs = s.scrubErrs := rfl
@[simp] theorem State.emit_scrubPos (o : Output) : (s.emit o).scrubPos = s.scrubPos := rfl
@[simp] theorem State.emit_moves (o : Output) : (s.emit o).moves = s.moves := rfl
@[simp] theorem State.emit_access (o : Output) : (s.emit o).access = s.access := rfl
@[simp] theorem State.emit_snap (o : Output) : (s.emit o).snap = s.snap := rfl
@[simp] theorem State.emit_pronk (o : Output) : (s.emit o).pronk = s.pronk := rfl
@[simp] theorem State.emit_tripped (o : Output) : (s.emit o).tripped = s.tripped := rfl
@[simp] theorem State.emit_shutdown (o : Output) : (s.emit o).shutdown = s.shutdown := rfl
@[simp] theorem State.emit_oddSensors (o : Output) : (s.emit o).oddSensors = s.oddSensors := rfl
@[simp] theorem State.emit_backUnits (o : Output) : (s.emit o).backUnits = s.backUnits := rfl
@[simp] theorem State.emit_softOld (o : Output) : (s.emit o).softOld = s.softOld := rfl
@[simp] theorem State.emit_heldReqs (o : Output) : (s.emit o).heldReqs = s.heldReqs := rfl
@[simp] theorem State.emit_out (o : Output) : (s.emit o).out = s.out ++ [o] := rfl

/-! ## State.emits -/

@[simp] theorem State.emits_pending (os : List Output) : (s.emits os).pending = s.pending := rfl
@[simp] theorem State.emits_free (os : List Output) : (s.emits os).free = s.free := rfl
@[simp] theorem State.emits_now (os : List Output) : (s.emits os).now = s.now := rfl
@[simp] theorem State.emits_optime0 (os : List Output) : (s.emits os).optime0 = s.optime0 := rfl
@[simp] theorem State.emits_regs (os : List Output) : (s.emits os).regs = s.regs := rfl
@[simp] theorem State.emits_wlatch (os : List Output) : (s.emits os).wlatch = s.wlatch := rfl
@[simp] theorem State.emits_rlatch (os : List Output) : (s.emits os).rlatch = s.rlatch := rfl
@[simp] theorem State.emits_tiles (os : List Output) : (s.emits os).tiles = s.tiles := rfl
@[simp] theorem State.emits_recorder (os : List Output) : (s.emits os).recorder = s.recorder := rfl
@[simp] theorem State.emits_reports (os : List Output) : (s.emits os).reports = s.reports := rfl
@[simp] theorem State.emits_nseq (os : List Output) : (s.emits os).nseq = s.nseq := rfl
@[simp] theorem State.emits_temps (os : List Output) : (s.emits os).temps = s.temps := rfl
@[simp] theorem State.emits_volts (os : List Output) : (s.emits os).volts = s.volts := rfl
@[simp] theorem State.emits_commons (os : List Output) : (s.emits os).commons = s.commons := rfl
@[simp] theorem State.emits_commonsBad (os : List Output) : (s.emits os).commonsBad = s.commonsBad := rfl
@[simp] theorem State.emits_sliceQ (os : List Output) : (s.emits os).sliceQ = s.sliceQ := rfl
@[simp] theorem State.emits_sliceOnce (os : List Output) : (s.emits os).sliceOnce = s.sliceOnce := rfl
@[simp] theorem State.emits_sliceTurn (os : List Output) : (s.emits os).sliceTurn = s.sliceTurn := rfl
@[simp] theorem State.emits_ranges (os : List Output) : (s.emits os).ranges = s.ranges := rfl
@[simp] theorem State.emits_home (os : List Output) : (s.emits os).home = s.home := rfl
@[simp] theorem State.emits_mem (os : List Output) : (s.emits os).mem = s.mem := rfl
@[simp] theorem State.emits_memBad (os : List Output) : (s.emits os).memBad = s.memBad := rfl
@[simp] theorem State.emits_mirrorFrames (os : List Output) : (s.emits os).mirrorFrames = s.mirrorFrames := rfl
@[simp] theorem State.emits_endDirty (os : List Output) : (s.emits os).endDirty = s.endDirty := rfl
@[simp] theorem State.emits_mesh (os : List Output) : (s.emits os).mesh = s.mesh := rfl
@[simp] theorem State.emits_result (os : List Output) : (s.emits os).result = s.result := rfl
@[simp] theorem State.emits_snapshot (os : List Output) : (s.emits os).snapshot = s.snapshot := rfl
@[simp] theorem State.emits_rootFlags (os : List Output) : (s.emits os).rootFlags = s.rootFlags := rfl
@[simp] theorem State.emits_heardGen (os : List Output) : (s.emits os).heardGen = s.heardGen := rfl
@[simp] theorem State.emits_barriers (os : List Output) : (s.emits os).barriers = s.barriers := rfl
@[simp] theorem State.emits_member (os : List Output) : (s.emits os).member = s.member := rfl
@[simp] theorem State.emits_seed (os : List Output) : (s.emits os).seed = s.seed := rfl
@[simp] theorem State.emits_queues (os : List Output) : (s.emits os).queues = s.queues := rfl
@[simp] theorem State.emits_nextQ (os : List Output) : (s.emits os).nextQ = s.nextQ := rfl
@[simp] theorem State.emits_fetches (os : List Output) : (s.emits os).fetches = s.fetches := rfl
@[simp] theorem State.emits_msix (os : List Output) : (s.emits os).msix = s.msix := rfl
@[simp] theorem State.emits_msixPend (os : List Output) : (s.emits os).msixPend = s.msixPend := rfl
@[simp] theorem State.emits_weave (os : List Output) : (s.emits os).weave = s.weave := rfl
@[simp] theorem State.emits_portion (os : List Output) : (s.emits os).portion = s.portion := rfl
@[simp] theorem State.emits_kNow (os : List Output) : (s.emits os).kNow = s.kNow := rfl
@[simp] theorem State.emits_load (os : List Output) : (s.emits os).load = s.load := rfl
@[simp] theorem State.emits_undo (os : List Output) : (s.emits os).undo = s.undo := rfl
@[simp] theorem State.emits_runs (os : List Output) : (s.emits os).runs = s.runs := rfl
@[simp] theorem State.emits_runCount (os : List Output) : (s.emits os).runCount = s.runCount := rfl
@[simp] theorem State.emits_coord (os : List Output) : (s.emits os).coord = s.coord := rfl
@[simp] theorem State.emits_decided (os : List Output) : (s.emits os).decided = s.decided := rfl
@[simp] theorem State.emits_cmdRun (os : List Output) : (s.emits os).cmdRun = s.cmdRun := rfl
@[simp] theorem State.emits_cmdCtrl (os : List Output) : (s.emits os).cmdCtrl = s.cmdCtrl := rfl
@[simp] theorem State.emits_askCommit (os : List Output) : (s.emits os).askCommit = s.askCommit := rfl
@[simp] theorem State.emits_askRollback (os : List Output) : (s.emits os).askRollback = s.askRollback := rfl
@[simp] theorem State.emits_needPrimary (os : List Output) : (s.emits os).needPrimary = s.needPrimary := rfl
@[simp] theorem State.emits_jobMirror (os : List Output) : (s.emits os).jobMirror = s.jobMirror := rfl
@[simp] theorem State.emits_heldTopology (os : List Output) : (s.emits os).heldTopology = s.heldTopology := rfl
@[simp] theorem State.emits_outUnits (os : List Output) : (s.emits os).outUnits = s.outUnits := rfl
@[simp] theorem State.emits_beforeCommit (os : List Output) : (s.emits os).beforeCommit = s.beforeCommit := rfl
@[simp] theorem State.emits_ended (os : List Output) : (s.emits os).ended = s.ended := rfl
@[simp] theorem State.emits_prepared (os : List Output) : (s.emits os).prepared = s.prepared := rfl
@[simp] theorem State.emits_rolling (os : List Output) : (s.emits os).rolling = s.rolling := rfl
@[simp] theorem State.emits_ackStep (os : List Output) : (s.emits os).ackStep = s.ackStep := rfl
@[simp] theorem State.emits_afterRoll (os : List Output) : (s.emits os).afterRoll = s.afterRoll := rfl
@[simp] theorem State.emits_undecided (os : List Output) : (s.emits os).undecided = s.undecided := rfl
@[simp] theorem State.emits_startWait (os : List Output) : (s.emits os).startWait = s.startWait := rfl
@[simp] theorem State.emits_resetAsk (os : List Output) : (s.emits os).resetAsk = s.resetAsk := rfl
@[simp] theorem State.emits_resetRun (os : List Output) : (s.emits os).resetRun = s.resetRun := rfl
@[simp] theorem State.emits_causes (os : List Output) : (s.emits os).causes = s.causes := rfl
@[simp] theorem State.emits_mirror (os : List Output) : (s.emits os).mirror = s.mirror := rfl
@[simp] theorem State.emits_sources (os : List Output) : (s.emits os).sources = s.sources := rfl
@[simp] theorem State.emits_descr (os : List Output) : (s.emits os).descr = s.descr := rfl
@[simp] theorem State.emits_descrFlash (os : List Output) : (s.emits os).descrFlash = s.descrFlash := rfl
@[simp] theorem State.emits_keys (os : List Output) : (s.emits os).keys = s.keys := rfl
@[simp] theorem State.emits_ports (os : List Output) : (s.emits os).ports = s.ports := rfl
@[simp] theorem State.emits_lsas (os : List Output) : (s.emits os).lsas = s.lsas := rfl
@[simp] theorem State.emits_lsaNum (os : List Output) : (s.emits os).lsaNum = s.lsaNum := rfl
@[simp] theorem State.emits_routes (os : List Output) : (s.emits os).routes = s.routes := rfl
@[simp] theorem State.emits_weights (os : List Output) : (s.emits os).weights = s.weights := rfl
@[simp] theorem State.emits_rates (os : List Output) : (s.emits os).rates = s.rates := rfl
@[simp] theorem State.emits_routed (os : List Output) : (s.emits os).routed = s.routed := rfl
@[simp] theorem State.emits_cneSent (os : List Output) : (s.emits os).cneSent = s.cneSent := rfl
@[simp] theorem State.emits_portsBack (os : List Output) : (s.emits os).portsBack = s.portsBack := rfl
@[simp] theorem State.emits_charges (os : List Output) : (s.emits os).charges = s.charges := rfl
@[simp] theorem State.emits_seen (os : List Output) : (s.emits os).seen = s.seen := rfl
@[simp] theorem State.emits_mbxBuf (os : List Output) : (s.emits os).mbxBuf = s.mbxBuf := rfl
@[simp] theorem State.emits_mbxRun (os : List Output) : (s.emits os).mbxRun = s.mbxRun := rfl
@[simp] theorem State.emits_smbAddr (os : List Output) : (s.emits os).smbAddr = s.smbAddr := rfl
@[simp] theorem State.emits_watts (os : List Output) : (s.emits os).watts = s.watts := rfl
@[simp] theorem State.emits_soft (os : List Output) : (s.emits os).soft = s.soft := rfl
@[simp] theorem State.emits_fuses (os : List Output) : (s.emits os).fuses = s.fuses := rfl
@[simp] theorem State.emits_fenced (os : List Output) : (s.emits os).fenced = s.fenced := rfl
@[simp] theorem State.emits_physGen (os : List Output) : (s.emits os).physGen = s.physGen := rfl
@[simp] theorem State.emits_bring (os : List Output) : (s.emits os).bring = s.bring := rfl
@[simp] theorem State.emits_pins (os : List Output) : (s.emits os).pins = s.pins := rfl
@[simp] theorem State.emits_stagUp (os : List Output) : (s.emits os).stagUp = s.stagUp := rfl
@[simp] theorem State.emits_stagHalted (os : List Output) : (s.emits os).stagHalted = s.stagHalted := rfl
@[simp] theorem State.emits_recoveryFw (os : List Output) : (s.emits os).recoveryFw = s.recoveryFw := rfl
@[simp] theorem State.emits_hostPort (os : List Output) : (s.emits os).hostPort = s.hostPort := rfl
@[simp] theorem State.emits_wdtFrom (os : List Output) : (s.emits os).wdtFrom = s.wdtFrom := rfl
@[simp] theorem State.emits_slices (os : List Output) : (s.emits os).slices = s.slices := rfl
@[simp] theorem State.emits_scrubErrs (os : List Output) : (s.emits os).scrubErrs = s.scrubErrs := rfl
@[simp] theorem State.emits_scrubPos (os : List Output) : (s.emits os).scrubPos = s.scrubPos := rfl
@[simp] theorem State.emits_moves (os : List Output) : (s.emits os).moves = s.moves := rfl
@[simp] theorem State.emits_access (os : List Output) : (s.emits os).access = s.access := rfl
@[simp] theorem State.emits_snap (os : List Output) : (s.emits os).snap = s.snap := rfl
@[simp] theorem State.emits_pronk (os : List Output) : (s.emits os).pronk = s.pronk := rfl
@[simp] theorem State.emits_tripped (os : List Output) : (s.emits os).tripped = s.tripped := rfl
@[simp] theorem State.emits_shutdown (os : List Output) : (s.emits os).shutdown = s.shutdown := rfl
@[simp] theorem State.emits_oddSensors (os : List Output) : (s.emits os).oddSensors = s.oddSensors := rfl
@[simp] theorem State.emits_backUnits (os : List Output) : (s.emits os).backUnits = s.backUnits := rfl
@[simp] theorem State.emits_softOld (os : List Output) : (s.emits os).softOld = s.softOld := rfl
@[simp] theorem State.emits_heldReqs (os : List Output) : (s.emits os).heldReqs = s.heldReqs := rfl
@[simp] theorem State.emits_out (os : List Output) : (s.emits os).out = s.out ++ os := rfl

/-! ## State.at -/

@[simp] theorem State.at_pending (n : Nat) : (s.at n).pending = s.pending := rfl
@[simp] theorem State.at_out (n : Nat) : (s.at n).out = s.out := rfl
@[simp] theorem State.at_free (n : Nat) : (s.at n).free = s.free := rfl
@[simp] theorem State.at_optime0 (n : Nat) : (s.at n).optime0 = s.optime0 := rfl
@[simp] theorem State.at_regs (n : Nat) : (s.at n).regs = s.regs := rfl
@[simp] theorem State.at_wlatch (n : Nat) : (s.at n).wlatch = s.wlatch := rfl
@[simp] theorem State.at_rlatch (n : Nat) : (s.at n).rlatch = s.rlatch := rfl
@[simp] theorem State.at_tiles (n : Nat) : (s.at n).tiles = s.tiles := rfl
@[simp] theorem State.at_recorder (n : Nat) : (s.at n).recorder = s.recorder := rfl
@[simp] theorem State.at_reports (n : Nat) : (s.at n).reports = s.reports := rfl
@[simp] theorem State.at_nseq (n : Nat) : (s.at n).nseq = s.nseq := rfl
@[simp] theorem State.at_temps (n : Nat) : (s.at n).temps = s.temps := rfl
@[simp] theorem State.at_volts (n : Nat) : (s.at n).volts = s.volts := rfl
@[simp] theorem State.at_commons (n : Nat) : (s.at n).commons = s.commons := rfl
@[simp] theorem State.at_commonsBad (n : Nat) : (s.at n).commonsBad = s.commonsBad := rfl
@[simp] theorem State.at_sliceQ (n : Nat) : (s.at n).sliceQ = s.sliceQ := rfl
@[simp] theorem State.at_sliceOnce (n : Nat) : (s.at n).sliceOnce = s.sliceOnce := rfl
@[simp] theorem State.at_sliceTurn (n : Nat) : (s.at n).sliceTurn = s.sliceTurn := rfl
@[simp] theorem State.at_ranges (n : Nat) : (s.at n).ranges = s.ranges := rfl
@[simp] theorem State.at_home (n : Nat) : (s.at n).home = s.home := rfl
@[simp] theorem State.at_mem (n : Nat) : (s.at n).mem = s.mem := rfl
@[simp] theorem State.at_memBad (n : Nat) : (s.at n).memBad = s.memBad := rfl
@[simp] theorem State.at_mirrorFrames (n : Nat) : (s.at n).mirrorFrames = s.mirrorFrames := rfl
@[simp] theorem State.at_endDirty (n : Nat) : (s.at n).endDirty = s.endDirty := rfl
@[simp] theorem State.at_mesh (n : Nat) : (s.at n).mesh = s.mesh := rfl
@[simp] theorem State.at_result (n : Nat) : (s.at n).result = s.result := rfl
@[simp] theorem State.at_snapshot (n : Nat) : (s.at n).snapshot = s.snapshot := rfl
@[simp] theorem State.at_rootFlags (n : Nat) : (s.at n).rootFlags = s.rootFlags := rfl
@[simp] theorem State.at_heardGen (n : Nat) : (s.at n).heardGen = s.heardGen := rfl
@[simp] theorem State.at_barriers (n : Nat) : (s.at n).barriers = s.barriers := rfl
@[simp] theorem State.at_member (n : Nat) : (s.at n).member = s.member := rfl
@[simp] theorem State.at_seed (n : Nat) : (s.at n).seed = s.seed := rfl
@[simp] theorem State.at_queues (n : Nat) : (s.at n).queues = s.queues := rfl
@[simp] theorem State.at_nextQ (n : Nat) : (s.at n).nextQ = s.nextQ := rfl
@[simp] theorem State.at_fetches (n : Nat) : (s.at n).fetches = s.fetches := rfl
@[simp] theorem State.at_msix (n : Nat) : (s.at n).msix = s.msix := rfl
@[simp] theorem State.at_msixPend (n : Nat) : (s.at n).msixPend = s.msixPend := rfl
@[simp] theorem State.at_weave (n : Nat) : (s.at n).weave = s.weave := rfl
@[simp] theorem State.at_portion (n : Nat) : (s.at n).portion = s.portion := rfl
@[simp] theorem State.at_kNow (n : Nat) : (s.at n).kNow = s.kNow := rfl
@[simp] theorem State.at_load (n : Nat) : (s.at n).load = s.load := rfl
@[simp] theorem State.at_undo (n : Nat) : (s.at n).undo = s.undo := rfl
@[simp] theorem State.at_runs (n : Nat) : (s.at n).runs = s.runs := rfl
@[simp] theorem State.at_runCount (n : Nat) : (s.at n).runCount = s.runCount := rfl
@[simp] theorem State.at_coord (n : Nat) : (s.at n).coord = s.coord := rfl
@[simp] theorem State.at_decided (n : Nat) : (s.at n).decided = s.decided := rfl
@[simp] theorem State.at_cmdRun (n : Nat) : (s.at n).cmdRun = s.cmdRun := rfl
@[simp] theorem State.at_cmdCtrl (n : Nat) : (s.at n).cmdCtrl = s.cmdCtrl := rfl
@[simp] theorem State.at_askCommit (n : Nat) : (s.at n).askCommit = s.askCommit := rfl
@[simp] theorem State.at_askRollback (n : Nat) : (s.at n).askRollback = s.askRollback := rfl
@[simp] theorem State.at_needPrimary (n : Nat) : (s.at n).needPrimary = s.needPrimary := rfl
@[simp] theorem State.at_jobMirror (n : Nat) : (s.at n).jobMirror = s.jobMirror := rfl
@[simp] theorem State.at_heldTopology (n : Nat) : (s.at n).heldTopology = s.heldTopology := rfl
@[simp] theorem State.at_outUnits (n : Nat) : (s.at n).outUnits = s.outUnits := rfl
@[simp] theorem State.at_beforeCommit (n : Nat) : (s.at n).beforeCommit = s.beforeCommit := rfl
@[simp] theorem State.at_ended (n : Nat) : (s.at n).ended = s.ended := rfl
@[simp] theorem State.at_prepared (n : Nat) : (s.at n).prepared = s.prepared := rfl
@[simp] theorem State.at_rolling (n : Nat) : (s.at n).rolling = s.rolling := rfl
@[simp] theorem State.at_ackStep (n : Nat) : (s.at n).ackStep = s.ackStep := rfl
@[simp] theorem State.at_afterRoll (n : Nat) : (s.at n).afterRoll = s.afterRoll := rfl
@[simp] theorem State.at_undecided (n : Nat) : (s.at n).undecided = s.undecided := rfl
@[simp] theorem State.at_startWait (n : Nat) : (s.at n).startWait = s.startWait := rfl
@[simp] theorem State.at_resetAsk (n : Nat) : (s.at n).resetAsk = s.resetAsk := rfl
@[simp] theorem State.at_resetRun (n : Nat) : (s.at n).resetRun = s.resetRun := rfl
@[simp] theorem State.at_causes (n : Nat) : (s.at n).causes = s.causes := rfl
@[simp] theorem State.at_mirror (n : Nat) : (s.at n).mirror = s.mirror := rfl
@[simp] theorem State.at_sources (n : Nat) : (s.at n).sources = s.sources := rfl
@[simp] theorem State.at_descr (n : Nat) : (s.at n).descr = s.descr := rfl
@[simp] theorem State.at_descrFlash (n : Nat) : (s.at n).descrFlash = s.descrFlash := rfl
@[simp] theorem State.at_keys (n : Nat) : (s.at n).keys = s.keys := rfl
@[simp] theorem State.at_ports (n : Nat) : (s.at n).ports = s.ports := rfl
@[simp] theorem State.at_lsas (n : Nat) : (s.at n).lsas = s.lsas := rfl
@[simp] theorem State.at_lsaNum (n : Nat) : (s.at n).lsaNum = s.lsaNum := rfl
@[simp] theorem State.at_routes (n : Nat) : (s.at n).routes = s.routes := rfl
@[simp] theorem State.at_weights (n : Nat) : (s.at n).weights = s.weights := rfl
@[simp] theorem State.at_rates (n : Nat) : (s.at n).rates = s.rates := rfl
@[simp] theorem State.at_routed (n : Nat) : (s.at n).routed = s.routed := rfl
@[simp] theorem State.at_cneSent (n : Nat) : (s.at n).cneSent = s.cneSent := rfl
@[simp] theorem State.at_portsBack (n : Nat) : (s.at n).portsBack = s.portsBack := rfl
@[simp] theorem State.at_charges (n : Nat) : (s.at n).charges = s.charges := rfl
@[simp] theorem State.at_seen (n : Nat) : (s.at n).seen = s.seen := rfl
@[simp] theorem State.at_mbxBuf (n : Nat) : (s.at n).mbxBuf = s.mbxBuf := rfl
@[simp] theorem State.at_mbxRun (n : Nat) : (s.at n).mbxRun = s.mbxRun := rfl
@[simp] theorem State.at_smbAddr (n : Nat) : (s.at n).smbAddr = s.smbAddr := rfl
@[simp] theorem State.at_watts (n : Nat) : (s.at n).watts = s.watts := rfl
@[simp] theorem State.at_soft (n : Nat) : (s.at n).soft = s.soft := rfl
@[simp] theorem State.at_fuses (n : Nat) : (s.at n).fuses = s.fuses := rfl
@[simp] theorem State.at_fenced (n : Nat) : (s.at n).fenced = s.fenced := rfl
@[simp] theorem State.at_physGen (n : Nat) : (s.at n).physGen = s.physGen := rfl
@[simp] theorem State.at_bring (n : Nat) : (s.at n).bring = s.bring := rfl
@[simp] theorem State.at_pins (n : Nat) : (s.at n).pins = s.pins := rfl
@[simp] theorem State.at_stagUp (n : Nat) : (s.at n).stagUp = s.stagUp := rfl
@[simp] theorem State.at_stagHalted (n : Nat) : (s.at n).stagHalted = s.stagHalted := rfl
@[simp] theorem State.at_recoveryFw (n : Nat) : (s.at n).recoveryFw = s.recoveryFw := rfl
@[simp] theorem State.at_hostPort (n : Nat) : (s.at n).hostPort = s.hostPort := rfl
@[simp] theorem State.at_wdtFrom (n : Nat) : (s.at n).wdtFrom = s.wdtFrom := rfl
@[simp] theorem State.at_slices (n : Nat) : (s.at n).slices = s.slices := rfl
@[simp] theorem State.at_scrubErrs (n : Nat) : (s.at n).scrubErrs = s.scrubErrs := rfl
@[simp] theorem State.at_scrubPos (n : Nat) : (s.at n).scrubPos = s.scrubPos := rfl
@[simp] theorem State.at_moves (n : Nat) : (s.at n).moves = s.moves := rfl
@[simp] theorem State.at_access (n : Nat) : (s.at n).access = s.access := rfl
@[simp] theorem State.at_snap (n : Nat) : (s.at n).snap = s.snap := rfl
@[simp] theorem State.at_pronk (n : Nat) : (s.at n).pronk = s.pronk := rfl
@[simp] theorem State.at_tripped (n : Nat) : (s.at n).tripped = s.tripped := rfl
@[simp] theorem State.at_shutdown (n : Nat) : (s.at n).shutdown = s.shutdown := rfl
@[simp] theorem State.at_oddSensors (n : Nat) : (s.at n).oddSensors = s.oddSensors := rfl
@[simp] theorem State.at_backUnits (n : Nat) : (s.at n).backUnits = s.backUnits := rfl
@[simp] theorem State.at_softOld (n : Nat) : (s.at n).softOld = s.softOld := rfl
@[simp] theorem State.at_heldReqs (n : Nat) : (s.at n).heldReqs = s.heldReqs := rfl
@[simp] theorem State.at_now (n : Nat) : (s.at n).now = max s.now n := rfl

/-! ## State.setTile -/

@[simp] theorem State.setTile_pending (t : TileId) (x : Tile) : (s.setTile t x).pending = s.pending := rfl
@[simp] theorem State.setTile_out (t : TileId) (x : Tile) : (s.setTile t x).out = s.out := rfl
@[simp] theorem State.setTile_free (t : TileId) (x : Tile) : (s.setTile t x).free = s.free := rfl
@[simp] theorem State.setTile_now (t : TileId) (x : Tile) : (s.setTile t x).now = s.now := rfl
@[simp] theorem State.setTile_optime0 (t : TileId) (x : Tile) : (s.setTile t x).optime0 = s.optime0 := rfl
@[simp] theorem State.setTile_regs (t : TileId) (x : Tile) : (s.setTile t x).regs = s.regs := rfl
@[simp] theorem State.setTile_wlatch (t : TileId) (x : Tile) : (s.setTile t x).wlatch = s.wlatch := rfl
@[simp] theorem State.setTile_rlatch (t : TileId) (x : Tile) : (s.setTile t x).rlatch = s.rlatch := rfl
@[simp] theorem State.setTile_recorder (t : TileId) (x : Tile) : (s.setTile t x).recorder = s.recorder := rfl
@[simp] theorem State.setTile_reports (t : TileId) (x : Tile) : (s.setTile t x).reports = s.reports := rfl
@[simp] theorem State.setTile_nseq (t : TileId) (x : Tile) : (s.setTile t x).nseq = s.nseq := rfl
@[simp] theorem State.setTile_temps (t : TileId) (x : Tile) : (s.setTile t x).temps = s.temps := rfl
@[simp] theorem State.setTile_volts (t : TileId) (x : Tile) : (s.setTile t x).volts = s.volts := rfl
@[simp] theorem State.setTile_commons (t : TileId) (x : Tile) : (s.setTile t x).commons = s.commons := rfl
@[simp] theorem State.setTile_commonsBad (t : TileId) (x : Tile) : (s.setTile t x).commonsBad = s.commonsBad := rfl
@[simp] theorem State.setTile_sliceQ (t : TileId) (x : Tile) : (s.setTile t x).sliceQ = s.sliceQ := rfl
@[simp] theorem State.setTile_sliceOnce (t : TileId) (x : Tile) : (s.setTile t x).sliceOnce = s.sliceOnce := rfl
@[simp] theorem State.setTile_sliceTurn (t : TileId) (x : Tile) : (s.setTile t x).sliceTurn = s.sliceTurn := rfl
@[simp] theorem State.setTile_ranges (t : TileId) (x : Tile) : (s.setTile t x).ranges = s.ranges := rfl
@[simp] theorem State.setTile_home (t : TileId) (x : Tile) : (s.setTile t x).home = s.home := rfl
@[simp] theorem State.setTile_mem (t : TileId) (x : Tile) : (s.setTile t x).mem = s.mem := rfl
@[simp] theorem State.setTile_memBad (t : TileId) (x : Tile) : (s.setTile t x).memBad = s.memBad := rfl
@[simp] theorem State.setTile_mirrorFrames (t : TileId) (x : Tile) : (s.setTile t x).mirrorFrames = s.mirrorFrames := rfl
@[simp] theorem State.setTile_endDirty (t : TileId) (x : Tile) : (s.setTile t x).endDirty = s.endDirty := rfl
@[simp] theorem State.setTile_mesh (t : TileId) (x : Tile) : (s.setTile t x).mesh = s.mesh := rfl
@[simp] theorem State.setTile_result (t : TileId) (x : Tile) : (s.setTile t x).result = s.result := rfl
@[simp] theorem State.setTile_snapshot (t : TileId) (x : Tile) : (s.setTile t x).snapshot = s.snapshot := rfl
@[simp] theorem State.setTile_rootFlags (t : TileId) (x : Tile) : (s.setTile t x).rootFlags = s.rootFlags := rfl
@[simp] theorem State.setTile_heardGen (t : TileId) (x : Tile) : (s.setTile t x).heardGen = s.heardGen := rfl
@[simp] theorem State.setTile_barriers (t : TileId) (x : Tile) : (s.setTile t x).barriers = s.barriers := rfl
@[simp] theorem State.setTile_member (t : TileId) (x : Tile) : (s.setTile t x).member = s.member := rfl
@[simp] theorem State.setTile_seed (t : TileId) (x : Tile) : (s.setTile t x).seed = s.seed := rfl
@[simp] theorem State.setTile_queues (t : TileId) (x : Tile) : (s.setTile t x).queues = s.queues := rfl
@[simp] theorem State.setTile_nextQ (t : TileId) (x : Tile) : (s.setTile t x).nextQ = s.nextQ := rfl
@[simp] theorem State.setTile_fetches (t : TileId) (x : Tile) : (s.setTile t x).fetches = s.fetches := rfl
@[simp] theorem State.setTile_msix (t : TileId) (x : Tile) : (s.setTile t x).msix = s.msix := rfl
@[simp] theorem State.setTile_msixPend (t : TileId) (x : Tile) : (s.setTile t x).msixPend = s.msixPend := rfl
@[simp] theorem State.setTile_weave (t : TileId) (x : Tile) : (s.setTile t x).weave = s.weave := rfl
@[simp] theorem State.setTile_portion (t : TileId) (x : Tile) : (s.setTile t x).portion = s.portion := rfl
@[simp] theorem State.setTile_kNow (t : TileId) (x : Tile) : (s.setTile t x).kNow = s.kNow := rfl
@[simp] theorem State.setTile_load (t : TileId) (x : Tile) : (s.setTile t x).load = s.load := rfl
@[simp] theorem State.setTile_undo (t : TileId) (x : Tile) : (s.setTile t x).undo = s.undo := rfl
@[simp] theorem State.setTile_runs (t : TileId) (x : Tile) : (s.setTile t x).runs = s.runs := rfl
@[simp] theorem State.setTile_runCount (t : TileId) (x : Tile) : (s.setTile t x).runCount = s.runCount := rfl
@[simp] theorem State.setTile_coord (t : TileId) (x : Tile) : (s.setTile t x).coord = s.coord := rfl
@[simp] theorem State.setTile_decided (t : TileId) (x : Tile) : (s.setTile t x).decided = s.decided := rfl
@[simp] theorem State.setTile_cmdRun (t : TileId) (x : Tile) : (s.setTile t x).cmdRun = s.cmdRun := rfl
@[simp] theorem State.setTile_cmdCtrl (t : TileId) (x : Tile) : (s.setTile t x).cmdCtrl = s.cmdCtrl := rfl
@[simp] theorem State.setTile_askCommit (t : TileId) (x : Tile) : (s.setTile t x).askCommit = s.askCommit := rfl
@[simp] theorem State.setTile_askRollback (t : TileId) (x : Tile) : (s.setTile t x).askRollback = s.askRollback := rfl
@[simp] theorem State.setTile_needPrimary (t : TileId) (x : Tile) : (s.setTile t x).needPrimary = s.needPrimary := rfl
@[simp] theorem State.setTile_jobMirror (t : TileId) (x : Tile) : (s.setTile t x).jobMirror = s.jobMirror := rfl
@[simp] theorem State.setTile_heldTopology (t : TileId) (x : Tile) : (s.setTile t x).heldTopology = s.heldTopology := rfl
@[simp] theorem State.setTile_outUnits (t : TileId) (x : Tile) : (s.setTile t x).outUnits = s.outUnits := rfl
@[simp] theorem State.setTile_beforeCommit (t : TileId) (x : Tile) : (s.setTile t x).beforeCommit = s.beforeCommit := rfl
@[simp] theorem State.setTile_ended (t : TileId) (x : Tile) : (s.setTile t x).ended = s.ended := rfl
@[simp] theorem State.setTile_prepared (t : TileId) (x : Tile) : (s.setTile t x).prepared = s.prepared := rfl
@[simp] theorem State.setTile_rolling (t : TileId) (x : Tile) : (s.setTile t x).rolling = s.rolling := rfl
@[simp] theorem State.setTile_ackStep (t : TileId) (x : Tile) : (s.setTile t x).ackStep = s.ackStep := rfl
@[simp] theorem State.setTile_afterRoll (t : TileId) (x : Tile) : (s.setTile t x).afterRoll = s.afterRoll := rfl
@[simp] theorem State.setTile_undecided (t : TileId) (x : Tile) : (s.setTile t x).undecided = s.undecided := rfl
@[simp] theorem State.setTile_startWait (t : TileId) (x : Tile) : (s.setTile t x).startWait = s.startWait := rfl
@[simp] theorem State.setTile_resetAsk (t : TileId) (x : Tile) : (s.setTile t x).resetAsk = s.resetAsk := rfl
@[simp] theorem State.setTile_resetRun (t : TileId) (x : Tile) : (s.setTile t x).resetRun = s.resetRun := rfl
@[simp] theorem State.setTile_causes (t : TileId) (x : Tile) : (s.setTile t x).causes = s.causes := rfl
@[simp] theorem State.setTile_mirror (t : TileId) (x : Tile) : (s.setTile t x).mirror = s.mirror := rfl
@[simp] theorem State.setTile_sources (t : TileId) (x : Tile) : (s.setTile t x).sources = s.sources := rfl
@[simp] theorem State.setTile_descr (t : TileId) (x : Tile) : (s.setTile t x).descr = s.descr := rfl
@[simp] theorem State.setTile_descrFlash (t : TileId) (x : Tile) : (s.setTile t x).descrFlash = s.descrFlash := rfl
@[simp] theorem State.setTile_keys (t : TileId) (x : Tile) : (s.setTile t x).keys = s.keys := rfl
@[simp] theorem State.setTile_ports (t : TileId) (x : Tile) : (s.setTile t x).ports = s.ports := rfl
@[simp] theorem State.setTile_lsas (t : TileId) (x : Tile) : (s.setTile t x).lsas = s.lsas := rfl
@[simp] theorem State.setTile_lsaNum (t : TileId) (x : Tile) : (s.setTile t x).lsaNum = s.lsaNum := rfl
@[simp] theorem State.setTile_routes (t : TileId) (x : Tile) : (s.setTile t x).routes = s.routes := rfl
@[simp] theorem State.setTile_weights (t : TileId) (x : Tile) : (s.setTile t x).weights = s.weights := rfl
@[simp] theorem State.setTile_rates (t : TileId) (x : Tile) : (s.setTile t x).rates = s.rates := rfl
@[simp] theorem State.setTile_routed (t : TileId) (x : Tile) : (s.setTile t x).routed = s.routed := rfl
@[simp] theorem State.setTile_cneSent (t : TileId) (x : Tile) : (s.setTile t x).cneSent = s.cneSent := rfl
@[simp] theorem State.setTile_portsBack (t : TileId) (x : Tile) : (s.setTile t x).portsBack = s.portsBack := rfl
@[simp] theorem State.setTile_charges (t : TileId) (x : Tile) : (s.setTile t x).charges = s.charges := rfl
@[simp] theorem State.setTile_seen (t : TileId) (x : Tile) : (s.setTile t x).seen = s.seen := rfl
@[simp] theorem State.setTile_mbxBuf (t : TileId) (x : Tile) : (s.setTile t x).mbxBuf = s.mbxBuf := rfl
@[simp] theorem State.setTile_mbxRun (t : TileId) (x : Tile) : (s.setTile t x).mbxRun = s.mbxRun := rfl
@[simp] theorem State.setTile_smbAddr (t : TileId) (x : Tile) : (s.setTile t x).smbAddr = s.smbAddr := rfl
@[simp] theorem State.setTile_watts (t : TileId) (x : Tile) : (s.setTile t x).watts = s.watts := rfl
@[simp] theorem State.setTile_soft (t : TileId) (x : Tile) : (s.setTile t x).soft = s.soft := rfl
@[simp] theorem State.setTile_fuses (t : TileId) (x : Tile) : (s.setTile t x).fuses = s.fuses := rfl
@[simp] theorem State.setTile_fenced (t : TileId) (x : Tile) : (s.setTile t x).fenced = s.fenced := rfl
@[simp] theorem State.setTile_physGen (t : TileId) (x : Tile) : (s.setTile t x).physGen = s.physGen := rfl
@[simp] theorem State.setTile_bring (t : TileId) (x : Tile) : (s.setTile t x).bring = s.bring := rfl
@[simp] theorem State.setTile_pins (t : TileId) (x : Tile) : (s.setTile t x).pins = s.pins := rfl
@[simp] theorem State.setTile_stagUp (t : TileId) (x : Tile) : (s.setTile t x).stagUp = s.stagUp := rfl
@[simp] theorem State.setTile_stagHalted (t : TileId) (x : Tile) : (s.setTile t x).stagHalted = s.stagHalted := rfl
@[simp] theorem State.setTile_recoveryFw (t : TileId) (x : Tile) : (s.setTile t x).recoveryFw = s.recoveryFw := rfl
@[simp] theorem State.setTile_hostPort (t : TileId) (x : Tile) : (s.setTile t x).hostPort = s.hostPort := rfl
@[simp] theorem State.setTile_wdtFrom (t : TileId) (x : Tile) : (s.setTile t x).wdtFrom = s.wdtFrom := rfl
@[simp] theorem State.setTile_slices (t : TileId) (x : Tile) : (s.setTile t x).slices = s.slices := rfl
@[simp] theorem State.setTile_scrubErrs (t : TileId) (x : Tile) : (s.setTile t x).scrubErrs = s.scrubErrs := rfl
@[simp] theorem State.setTile_scrubPos (t : TileId) (x : Tile) : (s.setTile t x).scrubPos = s.scrubPos := rfl
@[simp] theorem State.setTile_moves (t : TileId) (x : Tile) : (s.setTile t x).moves = s.moves := rfl
@[simp] theorem State.setTile_access (t : TileId) (x : Tile) : (s.setTile t x).access = s.access := rfl
@[simp] theorem State.setTile_snap (t : TileId) (x : Tile) : (s.setTile t x).snap = s.snap := rfl
@[simp] theorem State.setTile_pronk (t : TileId) (x : Tile) : (s.setTile t x).pronk = s.pronk := rfl
@[simp] theorem State.setTile_tripped (t : TileId) (x : Tile) : (s.setTile t x).tripped = s.tripped := rfl
@[simp] theorem State.setTile_shutdown (t : TileId) (x : Tile) : (s.setTile t x).shutdown = s.shutdown := rfl
@[simp] theorem State.setTile_oddSensors (t : TileId) (x : Tile) : (s.setTile t x).oddSensors = s.oddSensors := rfl
@[simp] theorem State.setTile_backUnits (t : TileId) (x : Tile) : (s.setTile t x).backUnits = s.backUnits := rfl
@[simp] theorem State.setTile_softOld (t : TileId) (x : Tile) : (s.setTile t x).softOld = s.softOld := rfl
@[simp] theorem State.setTile_heldReqs (t : TileId) (x : Tile) : (s.setTile t x).heldReqs = s.heldReqs := rfl
@[simp] theorem State.setTile_tiles (t : TileId) (x : Tile) : (s.setTile t x).tiles = mapIns t.toNat x s.tiles := rfl

/-! ## State.setPort -/

@[simp] theorem State.setPort_pending (p : Nat) (x : Port) : (s.setPort p x).pending = s.pending := rfl
@[simp] theorem State.setPort_out (p : Nat) (x : Port) : (s.setPort p x).out = s.out := rfl
@[simp] theorem State.setPort_free (p : Nat) (x : Port) : (s.setPort p x).free = s.free := rfl
@[simp] theorem State.setPort_now (p : Nat) (x : Port) : (s.setPort p x).now = s.now := rfl
@[simp] theorem State.setPort_optime0 (p : Nat) (x : Port) : (s.setPort p x).optime0 = s.optime0 := rfl
@[simp] theorem State.setPort_regs (p : Nat) (x : Port) : (s.setPort p x).regs = s.regs := rfl
@[simp] theorem State.setPort_wlatch (p : Nat) (x : Port) : (s.setPort p x).wlatch = s.wlatch := rfl
@[simp] theorem State.setPort_rlatch (p : Nat) (x : Port) : (s.setPort p x).rlatch = s.rlatch := rfl
@[simp] theorem State.setPort_tiles (p : Nat) (x : Port) : (s.setPort p x).tiles = s.tiles := rfl
@[simp] theorem State.setPort_recorder (p : Nat) (x : Port) : (s.setPort p x).recorder = s.recorder := rfl
@[simp] theorem State.setPort_reports (p : Nat) (x : Port) : (s.setPort p x).reports = s.reports := rfl
@[simp] theorem State.setPort_nseq (p : Nat) (x : Port) : (s.setPort p x).nseq = s.nseq := rfl
@[simp] theorem State.setPort_temps (p : Nat) (x : Port) : (s.setPort p x).temps = s.temps := rfl
@[simp] theorem State.setPort_volts (p : Nat) (x : Port) : (s.setPort p x).volts = s.volts := rfl
@[simp] theorem State.setPort_commons (p : Nat) (x : Port) : (s.setPort p x).commons = s.commons := rfl
@[simp] theorem State.setPort_commonsBad (p : Nat) (x : Port) : (s.setPort p x).commonsBad = s.commonsBad := rfl
@[simp] theorem State.setPort_sliceQ (p : Nat) (x : Port) : (s.setPort p x).sliceQ = s.sliceQ := rfl
@[simp] theorem State.setPort_sliceOnce (p : Nat) (x : Port) : (s.setPort p x).sliceOnce = s.sliceOnce := rfl
@[simp] theorem State.setPort_sliceTurn (p : Nat) (x : Port) : (s.setPort p x).sliceTurn = s.sliceTurn := rfl
@[simp] theorem State.setPort_ranges (p : Nat) (x : Port) : (s.setPort p x).ranges = s.ranges := rfl
@[simp] theorem State.setPort_home (p : Nat) (x : Port) : (s.setPort p x).home = s.home := rfl
@[simp] theorem State.setPort_mem (p : Nat) (x : Port) : (s.setPort p x).mem = s.mem := rfl
@[simp] theorem State.setPort_memBad (p : Nat) (x : Port) : (s.setPort p x).memBad = s.memBad := rfl
@[simp] theorem State.setPort_mirrorFrames (p : Nat) (x : Port) : (s.setPort p x).mirrorFrames = s.mirrorFrames := rfl
@[simp] theorem State.setPort_endDirty (p : Nat) (x : Port) : (s.setPort p x).endDirty = s.endDirty := rfl
@[simp] theorem State.setPort_mesh (p : Nat) (x : Port) : (s.setPort p x).mesh = s.mesh := rfl
@[simp] theorem State.setPort_result (p : Nat) (x : Port) : (s.setPort p x).result = s.result := rfl
@[simp] theorem State.setPort_snapshot (p : Nat) (x : Port) : (s.setPort p x).snapshot = s.snapshot := rfl
@[simp] theorem State.setPort_rootFlags (p : Nat) (x : Port) : (s.setPort p x).rootFlags = s.rootFlags := rfl
@[simp] theorem State.setPort_heardGen (p : Nat) (x : Port) : (s.setPort p x).heardGen = s.heardGen := rfl
@[simp] theorem State.setPort_barriers (p : Nat) (x : Port) : (s.setPort p x).barriers = s.barriers := rfl
@[simp] theorem State.setPort_member (p : Nat) (x : Port) : (s.setPort p x).member = s.member := rfl
@[simp] theorem State.setPort_seed (p : Nat) (x : Port) : (s.setPort p x).seed = s.seed := rfl
@[simp] theorem State.setPort_queues (p : Nat) (x : Port) : (s.setPort p x).queues = s.queues := rfl
@[simp] theorem State.setPort_nextQ (p : Nat) (x : Port) : (s.setPort p x).nextQ = s.nextQ := rfl
@[simp] theorem State.setPort_fetches (p : Nat) (x : Port) : (s.setPort p x).fetches = s.fetches := rfl
@[simp] theorem State.setPort_msix (p : Nat) (x : Port) : (s.setPort p x).msix = s.msix := rfl
@[simp] theorem State.setPort_msixPend (p : Nat) (x : Port) : (s.setPort p x).msixPend = s.msixPend := rfl
@[simp] theorem State.setPort_weave (p : Nat) (x : Port) : (s.setPort p x).weave = s.weave := rfl
@[simp] theorem State.setPort_portion (p : Nat) (x : Port) : (s.setPort p x).portion = s.portion := rfl
@[simp] theorem State.setPort_kNow (p : Nat) (x : Port) : (s.setPort p x).kNow = s.kNow := rfl
@[simp] theorem State.setPort_load (p : Nat) (x : Port) : (s.setPort p x).load = s.load := rfl
@[simp] theorem State.setPort_undo (p : Nat) (x : Port) : (s.setPort p x).undo = s.undo := rfl
@[simp] theorem State.setPort_runs (p : Nat) (x : Port) : (s.setPort p x).runs = s.runs := rfl
@[simp] theorem State.setPort_runCount (p : Nat) (x : Port) : (s.setPort p x).runCount = s.runCount := rfl
@[simp] theorem State.setPort_coord (p : Nat) (x : Port) : (s.setPort p x).coord = s.coord := rfl
@[simp] theorem State.setPort_decided (p : Nat) (x : Port) : (s.setPort p x).decided = s.decided := rfl
@[simp] theorem State.setPort_cmdRun (p : Nat) (x : Port) : (s.setPort p x).cmdRun = s.cmdRun := rfl
@[simp] theorem State.setPort_cmdCtrl (p : Nat) (x : Port) : (s.setPort p x).cmdCtrl = s.cmdCtrl := rfl
@[simp] theorem State.setPort_askCommit (p : Nat) (x : Port) : (s.setPort p x).askCommit = s.askCommit := rfl
@[simp] theorem State.setPort_askRollback (p : Nat) (x : Port) : (s.setPort p x).askRollback = s.askRollback := rfl
@[simp] theorem State.setPort_needPrimary (p : Nat) (x : Port) : (s.setPort p x).needPrimary = s.needPrimary := rfl
@[simp] theorem State.setPort_jobMirror (p : Nat) (x : Port) : (s.setPort p x).jobMirror = s.jobMirror := rfl
@[simp] theorem State.setPort_heldTopology (p : Nat) (x : Port) : (s.setPort p x).heldTopology = s.heldTopology := rfl
@[simp] theorem State.setPort_outUnits (p : Nat) (x : Port) : (s.setPort p x).outUnits = s.outUnits := rfl
@[simp] theorem State.setPort_beforeCommit (p : Nat) (x : Port) : (s.setPort p x).beforeCommit = s.beforeCommit := rfl
@[simp] theorem State.setPort_ended (p : Nat) (x : Port) : (s.setPort p x).ended = s.ended := rfl
@[simp] theorem State.setPort_prepared (p : Nat) (x : Port) : (s.setPort p x).prepared = s.prepared := rfl
@[simp] theorem State.setPort_rolling (p : Nat) (x : Port) : (s.setPort p x).rolling = s.rolling := rfl
@[simp] theorem State.setPort_ackStep (p : Nat) (x : Port) : (s.setPort p x).ackStep = s.ackStep := rfl
@[simp] theorem State.setPort_afterRoll (p : Nat) (x : Port) : (s.setPort p x).afterRoll = s.afterRoll := rfl
@[simp] theorem State.setPort_undecided (p : Nat) (x : Port) : (s.setPort p x).undecided = s.undecided := rfl
@[simp] theorem State.setPort_startWait (p : Nat) (x : Port) : (s.setPort p x).startWait = s.startWait := rfl
@[simp] theorem State.setPort_resetAsk (p : Nat) (x : Port) : (s.setPort p x).resetAsk = s.resetAsk := rfl
@[simp] theorem State.setPort_resetRun (p : Nat) (x : Port) : (s.setPort p x).resetRun = s.resetRun := rfl
@[simp] theorem State.setPort_causes (p : Nat) (x : Port) : (s.setPort p x).causes = s.causes := rfl
@[simp] theorem State.setPort_mirror (p : Nat) (x : Port) : (s.setPort p x).mirror = s.mirror := rfl
@[simp] theorem State.setPort_sources (p : Nat) (x : Port) : (s.setPort p x).sources = s.sources := rfl
@[simp] theorem State.setPort_descr (p : Nat) (x : Port) : (s.setPort p x).descr = s.descr := rfl
@[simp] theorem State.setPort_descrFlash (p : Nat) (x : Port) : (s.setPort p x).descrFlash = s.descrFlash := rfl
@[simp] theorem State.setPort_keys (p : Nat) (x : Port) : (s.setPort p x).keys = s.keys := rfl
@[simp] theorem State.setPort_lsas (p : Nat) (x : Port) : (s.setPort p x).lsas = s.lsas := rfl
@[simp] theorem State.setPort_lsaNum (p : Nat) (x : Port) : (s.setPort p x).lsaNum = s.lsaNum := rfl
@[simp] theorem State.setPort_routes (p : Nat) (x : Port) : (s.setPort p x).routes = s.routes := rfl
@[simp] theorem State.setPort_weights (p : Nat) (x : Port) : (s.setPort p x).weights = s.weights := rfl
@[simp] theorem State.setPort_rates (p : Nat) (x : Port) : (s.setPort p x).rates = s.rates := rfl
@[simp] theorem State.setPort_routed (p : Nat) (x : Port) : (s.setPort p x).routed = s.routed := rfl
@[simp] theorem State.setPort_cneSent (p : Nat) (x : Port) : (s.setPort p x).cneSent = s.cneSent := rfl
@[simp] theorem State.setPort_portsBack (p : Nat) (x : Port) : (s.setPort p x).portsBack = s.portsBack := rfl
@[simp] theorem State.setPort_charges (p : Nat) (x : Port) : (s.setPort p x).charges = s.charges := rfl
@[simp] theorem State.setPort_seen (p : Nat) (x : Port) : (s.setPort p x).seen = s.seen := rfl
@[simp] theorem State.setPort_mbxBuf (p : Nat) (x : Port) : (s.setPort p x).mbxBuf = s.mbxBuf := rfl
@[simp] theorem State.setPort_mbxRun (p : Nat) (x : Port) : (s.setPort p x).mbxRun = s.mbxRun := rfl
@[simp] theorem State.setPort_smbAddr (p : Nat) (x : Port) : (s.setPort p x).smbAddr = s.smbAddr := rfl
@[simp] theorem State.setPort_watts (p : Nat) (x : Port) : (s.setPort p x).watts = s.watts := rfl
@[simp] theorem State.setPort_soft (p : Nat) (x : Port) : (s.setPort p x).soft = s.soft := rfl
@[simp] theorem State.setPort_fuses (p : Nat) (x : Port) : (s.setPort p x).fuses = s.fuses := rfl
@[simp] theorem State.setPort_fenced (p : Nat) (x : Port) : (s.setPort p x).fenced = s.fenced := rfl
@[simp] theorem State.setPort_physGen (p : Nat) (x : Port) : (s.setPort p x).physGen = s.physGen := rfl
@[simp] theorem State.setPort_bring (p : Nat) (x : Port) : (s.setPort p x).bring = s.bring := rfl
@[simp] theorem State.setPort_pins (p : Nat) (x : Port) : (s.setPort p x).pins = s.pins := rfl
@[simp] theorem State.setPort_stagUp (p : Nat) (x : Port) : (s.setPort p x).stagUp = s.stagUp := rfl
@[simp] theorem State.setPort_stagHalted (p : Nat) (x : Port) : (s.setPort p x).stagHalted = s.stagHalted := rfl
@[simp] theorem State.setPort_recoveryFw (p : Nat) (x : Port) : (s.setPort p x).recoveryFw = s.recoveryFw := rfl
@[simp] theorem State.setPort_hostPort (p : Nat) (x : Port) : (s.setPort p x).hostPort = s.hostPort := rfl
@[simp] theorem State.setPort_wdtFrom (p : Nat) (x : Port) : (s.setPort p x).wdtFrom = s.wdtFrom := rfl
@[simp] theorem State.setPort_slices (p : Nat) (x : Port) : (s.setPort p x).slices = s.slices := rfl
@[simp] theorem State.setPort_scrubErrs (p : Nat) (x : Port) : (s.setPort p x).scrubErrs = s.scrubErrs := rfl
@[simp] theorem State.setPort_scrubPos (p : Nat) (x : Port) : (s.setPort p x).scrubPos = s.scrubPos := rfl
@[simp] theorem State.setPort_moves (p : Nat) (x : Port) : (s.setPort p x).moves = s.moves := rfl
@[simp] theorem State.setPort_access (p : Nat) (x : Port) : (s.setPort p x).access = s.access := rfl
@[simp] theorem State.setPort_snap (p : Nat) (x : Port) : (s.setPort p x).snap = s.snap := rfl
@[simp] theorem State.setPort_pronk (p : Nat) (x : Port) : (s.setPort p x).pronk = s.pronk := rfl
@[simp] theorem State.setPort_tripped (p : Nat) (x : Port) : (s.setPort p x).tripped = s.tripped := rfl
@[simp] theorem State.setPort_shutdown (p : Nat) (x : Port) : (s.setPort p x).shutdown = s.shutdown := rfl
@[simp] theorem State.setPort_oddSensors (p : Nat) (x : Port) : (s.setPort p x).oddSensors = s.oddSensors := rfl
@[simp] theorem State.setPort_backUnits (p : Nat) (x : Port) : (s.setPort p x).backUnits = s.backUnits := rfl
@[simp] theorem State.setPort_softOld (p : Nat) (x : Port) : (s.setPort p x).softOld = s.softOld := rfl
@[simp] theorem State.setPort_heldReqs (p : Nat) (x : Port) : (s.setPort p x).heldReqs = s.heldReqs := rfl
@[simp] theorem State.setPort_ports (p : Nat) (x : Port) : (s.setPort p x).ports = mapIns p x s.ports := rfl

/-! ## State.setMove -/

@[simp] theorem State.setMove_pending (d : Nat) (m : PowerMove) : (s.setMove d m).pending = s.pending := rfl
@[simp] theorem State.setMove_out (d : Nat) (m : PowerMove) : (s.setMove d m).out = s.out := rfl
@[simp] theorem State.setMove_free (d : Nat) (m : PowerMove) : (s.setMove d m).free = s.free := rfl
@[simp] theorem State.setMove_now (d : Nat) (m : PowerMove) : (s.setMove d m).now = s.now := rfl
@[simp] theorem State.setMove_optime0 (d : Nat) (m : PowerMove) : (s.setMove d m).optime0 = s.optime0 := rfl
@[simp] theorem State.setMove_regs (d : Nat) (m : PowerMove) : (s.setMove d m).regs = s.regs := rfl
@[simp] theorem State.setMove_wlatch (d : Nat) (m : PowerMove) : (s.setMove d m).wlatch = s.wlatch := rfl
@[simp] theorem State.setMove_rlatch (d : Nat) (m : PowerMove) : (s.setMove d m).rlatch = s.rlatch := rfl
@[simp] theorem State.setMove_tiles (d : Nat) (m : PowerMove) : (s.setMove d m).tiles = s.tiles := rfl
@[simp] theorem State.setMove_recorder (d : Nat) (m : PowerMove) : (s.setMove d m).recorder = s.recorder := rfl
@[simp] theorem State.setMove_reports (d : Nat) (m : PowerMove) : (s.setMove d m).reports = s.reports := rfl
@[simp] theorem State.setMove_nseq (d : Nat) (m : PowerMove) : (s.setMove d m).nseq = s.nseq := rfl
@[simp] theorem State.setMove_temps (d : Nat) (m : PowerMove) : (s.setMove d m).temps = s.temps := rfl
@[simp] theorem State.setMove_volts (d : Nat) (m : PowerMove) : (s.setMove d m).volts = s.volts := rfl
@[simp] theorem State.setMove_commons (d : Nat) (m : PowerMove) : (s.setMove d m).commons = s.commons := rfl
@[simp] theorem State.setMove_commonsBad (d : Nat) (m : PowerMove) : (s.setMove d m).commonsBad = s.commonsBad := rfl
@[simp] theorem State.setMove_sliceQ (d : Nat) (m : PowerMove) : (s.setMove d m).sliceQ = s.sliceQ := rfl
@[simp] theorem State.setMove_sliceOnce (d : Nat) (m : PowerMove) : (s.setMove d m).sliceOnce = s.sliceOnce := rfl
@[simp] theorem State.setMove_sliceTurn (d : Nat) (m : PowerMove) : (s.setMove d m).sliceTurn = s.sliceTurn := rfl
@[simp] theorem State.setMove_ranges (d : Nat) (m : PowerMove) : (s.setMove d m).ranges = s.ranges := rfl
@[simp] theorem State.setMove_home (d : Nat) (m : PowerMove) : (s.setMove d m).home = s.home := rfl
@[simp] theorem State.setMove_mem (d : Nat) (m : PowerMove) : (s.setMove d m).mem = s.mem := rfl
@[simp] theorem State.setMove_memBad (d : Nat) (m : PowerMove) : (s.setMove d m).memBad = s.memBad := rfl
@[simp] theorem State.setMove_mirrorFrames (d : Nat) (m : PowerMove) : (s.setMove d m).mirrorFrames = s.mirrorFrames := rfl
@[simp] theorem State.setMove_endDirty (d : Nat) (m : PowerMove) : (s.setMove d m).endDirty = s.endDirty := rfl
@[simp] theorem State.setMove_mesh (d : Nat) (m : PowerMove) : (s.setMove d m).mesh = s.mesh := rfl
@[simp] theorem State.setMove_result (d : Nat) (m : PowerMove) : (s.setMove d m).result = s.result := rfl
@[simp] theorem State.setMove_snapshot (d : Nat) (m : PowerMove) : (s.setMove d m).snapshot = s.snapshot := rfl
@[simp] theorem State.setMove_rootFlags (d : Nat) (m : PowerMove) : (s.setMove d m).rootFlags = s.rootFlags := rfl
@[simp] theorem State.setMove_heardGen (d : Nat) (m : PowerMove) : (s.setMove d m).heardGen = s.heardGen := rfl
@[simp] theorem State.setMove_barriers (d : Nat) (m : PowerMove) : (s.setMove d m).barriers = s.barriers := rfl
@[simp] theorem State.setMove_member (d : Nat) (m : PowerMove) : (s.setMove d m).member = s.member := rfl
@[simp] theorem State.setMove_seed (d : Nat) (m : PowerMove) : (s.setMove d m).seed = s.seed := rfl
@[simp] theorem State.setMove_queues (d : Nat) (m : PowerMove) : (s.setMove d m).queues = s.queues := rfl
@[simp] theorem State.setMove_nextQ (d : Nat) (m : PowerMove) : (s.setMove d m).nextQ = s.nextQ := rfl
@[simp] theorem State.setMove_fetches (d : Nat) (m : PowerMove) : (s.setMove d m).fetches = s.fetches := rfl
@[simp] theorem State.setMove_msix (d : Nat) (m : PowerMove) : (s.setMove d m).msix = s.msix := rfl
@[simp] theorem State.setMove_msixPend (d : Nat) (m : PowerMove) : (s.setMove d m).msixPend = s.msixPend := rfl
@[simp] theorem State.setMove_weave (d : Nat) (m : PowerMove) : (s.setMove d m).weave = s.weave := rfl
@[simp] theorem State.setMove_portion (d : Nat) (m : PowerMove) : (s.setMove d m).portion = s.portion := rfl
@[simp] theorem State.setMove_kNow (d : Nat) (m : PowerMove) : (s.setMove d m).kNow = s.kNow := rfl
@[simp] theorem State.setMove_load (d : Nat) (m : PowerMove) : (s.setMove d m).load = s.load := rfl
@[simp] theorem State.setMove_undo (d : Nat) (m : PowerMove) : (s.setMove d m).undo = s.undo := rfl
@[simp] theorem State.setMove_runs (d : Nat) (m : PowerMove) : (s.setMove d m).runs = s.runs := rfl
@[simp] theorem State.setMove_runCount (d : Nat) (m : PowerMove) : (s.setMove d m).runCount = s.runCount := rfl
@[simp] theorem State.setMove_coord (d : Nat) (m : PowerMove) : (s.setMove d m).coord = s.coord := rfl
@[simp] theorem State.setMove_decided (d : Nat) (m : PowerMove) : (s.setMove d m).decided = s.decided := rfl
@[simp] theorem State.setMove_cmdRun (d : Nat) (m : PowerMove) : (s.setMove d m).cmdRun = s.cmdRun := rfl
@[simp] theorem State.setMove_cmdCtrl (d : Nat) (m : PowerMove) : (s.setMove d m).cmdCtrl = s.cmdCtrl := rfl
@[simp] theorem State.setMove_askCommit (d : Nat) (m : PowerMove) : (s.setMove d m).askCommit = s.askCommit := rfl
@[simp] theorem State.setMove_askRollback (d : Nat) (m : PowerMove) : (s.setMove d m).askRollback = s.askRollback := rfl
@[simp] theorem State.setMove_needPrimary (d : Nat) (m : PowerMove) : (s.setMove d m).needPrimary = s.needPrimary := rfl
@[simp] theorem State.setMove_jobMirror (d : Nat) (m : PowerMove) : (s.setMove d m).jobMirror = s.jobMirror := rfl
@[simp] theorem State.setMove_heldTopology (d : Nat) (m : PowerMove) : (s.setMove d m).heldTopology = s.heldTopology := rfl
@[simp] theorem State.setMove_outUnits (d : Nat) (m : PowerMove) : (s.setMove d m).outUnits = s.outUnits := rfl
@[simp] theorem State.setMove_beforeCommit (d : Nat) (m : PowerMove) : (s.setMove d m).beforeCommit = s.beforeCommit := rfl
@[simp] theorem State.setMove_ended (d : Nat) (m : PowerMove) : (s.setMove d m).ended = s.ended := rfl
@[simp] theorem State.setMove_prepared (d : Nat) (m : PowerMove) : (s.setMove d m).prepared = s.prepared := rfl
@[simp] theorem State.setMove_rolling (d : Nat) (m : PowerMove) : (s.setMove d m).rolling = s.rolling := rfl
@[simp] theorem State.setMove_ackStep (d : Nat) (m : PowerMove) : (s.setMove d m).ackStep = s.ackStep := rfl
@[simp] theorem State.setMove_afterRoll (d : Nat) (m : PowerMove) : (s.setMove d m).afterRoll = s.afterRoll := rfl
@[simp] theorem State.setMove_undecided (d : Nat) (m : PowerMove) : (s.setMove d m).undecided = s.undecided := rfl
@[simp] theorem State.setMove_startWait (d : Nat) (m : PowerMove) : (s.setMove d m).startWait = s.startWait := rfl
@[simp] theorem State.setMove_resetAsk (d : Nat) (m : PowerMove) : (s.setMove d m).resetAsk = s.resetAsk := rfl
@[simp] theorem State.setMove_resetRun (d : Nat) (m : PowerMove) : (s.setMove d m).resetRun = s.resetRun := rfl
@[simp] theorem State.setMove_causes (d : Nat) (m : PowerMove) : (s.setMove d m).causes = s.causes := rfl
@[simp] theorem State.setMove_mirror (d : Nat) (m : PowerMove) : (s.setMove d m).mirror = s.mirror := rfl
@[simp] theorem State.setMove_sources (d : Nat) (m : PowerMove) : (s.setMove d m).sources = s.sources := rfl
@[simp] theorem State.setMove_descr (d : Nat) (m : PowerMove) : (s.setMove d m).descr = s.descr := rfl
@[simp] theorem State.setMove_descrFlash (d : Nat) (m : PowerMove) : (s.setMove d m).descrFlash = s.descrFlash := rfl
@[simp] theorem State.setMove_keys (d : Nat) (m : PowerMove) : (s.setMove d m).keys = s.keys := rfl
@[simp] theorem State.setMove_ports (d : Nat) (m : PowerMove) : (s.setMove d m).ports = s.ports := rfl
@[simp] theorem State.setMove_lsas (d : Nat) (m : PowerMove) : (s.setMove d m).lsas = s.lsas := rfl
@[simp] theorem State.setMove_lsaNum (d : Nat) (m : PowerMove) : (s.setMove d m).lsaNum = s.lsaNum := rfl
@[simp] theorem State.setMove_routes (d : Nat) (m : PowerMove) : (s.setMove d m).routes = s.routes := rfl
@[simp] theorem State.setMove_weights (d : Nat) (m : PowerMove) : (s.setMove d m).weights = s.weights := rfl
@[simp] theorem State.setMove_rates (d : Nat) (m : PowerMove) : (s.setMove d m).rates = s.rates := rfl
@[simp] theorem State.setMove_routed (d : Nat) (m : PowerMove) : (s.setMove d m).routed = s.routed := rfl
@[simp] theorem State.setMove_cneSent (d : Nat) (m : PowerMove) : (s.setMove d m).cneSent = s.cneSent := rfl
@[simp] theorem State.setMove_portsBack (d : Nat) (m : PowerMove) : (s.setMove d m).portsBack = s.portsBack := rfl
@[simp] theorem State.setMove_charges (d : Nat) (m : PowerMove) : (s.setMove d m).charges = s.charges := rfl
@[simp] theorem State.setMove_seen (d : Nat) (m : PowerMove) : (s.setMove d m).seen = s.seen := rfl
@[simp] theorem State.setMove_mbxBuf (d : Nat) (m : PowerMove) : (s.setMove d m).mbxBuf = s.mbxBuf := rfl
@[simp] theorem State.setMove_mbxRun (d : Nat) (m : PowerMove) : (s.setMove d m).mbxRun = s.mbxRun := rfl
@[simp] theorem State.setMove_smbAddr (d : Nat) (m : PowerMove) : (s.setMove d m).smbAddr = s.smbAddr := rfl
@[simp] theorem State.setMove_watts (d : Nat) (m : PowerMove) : (s.setMove d m).watts = s.watts := rfl
@[simp] theorem State.setMove_soft (d : Nat) (m : PowerMove) : (s.setMove d m).soft = s.soft := rfl
@[simp] theorem State.setMove_fuses (d : Nat) (m : PowerMove) : (s.setMove d m).fuses = s.fuses := rfl
@[simp] theorem State.setMove_fenced (d : Nat) (m : PowerMove) : (s.setMove d m).fenced = s.fenced := rfl
@[simp] theorem State.setMove_physGen (d : Nat) (m : PowerMove) : (s.setMove d m).physGen = s.physGen := rfl
@[simp] theorem State.setMove_bring (d : Nat) (m : PowerMove) : (s.setMove d m).bring = s.bring := rfl
@[simp] theorem State.setMove_pins (d : Nat) (m : PowerMove) : (s.setMove d m).pins = s.pins := rfl
@[simp] theorem State.setMove_stagUp (d : Nat) (m : PowerMove) : (s.setMove d m).stagUp = s.stagUp := rfl
@[simp] theorem State.setMove_stagHalted (d : Nat) (m : PowerMove) : (s.setMove d m).stagHalted = s.stagHalted := rfl
@[simp] theorem State.setMove_recoveryFw (d : Nat) (m : PowerMove) : (s.setMove d m).recoveryFw = s.recoveryFw := rfl
@[simp] theorem State.setMove_hostPort (d : Nat) (m : PowerMove) : (s.setMove d m).hostPort = s.hostPort := rfl
@[simp] theorem State.setMove_wdtFrom (d : Nat) (m : PowerMove) : (s.setMove d m).wdtFrom = s.wdtFrom := rfl
@[simp] theorem State.setMove_slices (d : Nat) (m : PowerMove) : (s.setMove d m).slices = s.slices := rfl
@[simp] theorem State.setMove_scrubErrs (d : Nat) (m : PowerMove) : (s.setMove d m).scrubErrs = s.scrubErrs := rfl
@[simp] theorem State.setMove_scrubPos (d : Nat) (m : PowerMove) : (s.setMove d m).scrubPos = s.scrubPos := rfl
@[simp] theorem State.setMove_access (d : Nat) (m : PowerMove) : (s.setMove d m).access = s.access := rfl
@[simp] theorem State.setMove_snap (d : Nat) (m : PowerMove) : (s.setMove d m).snap = s.snap := rfl
@[simp] theorem State.setMove_pronk (d : Nat) (m : PowerMove) : (s.setMove d m).pronk = s.pronk := rfl
@[simp] theorem State.setMove_tripped (d : Nat) (m : PowerMove) : (s.setMove d m).tripped = s.tripped := rfl
@[simp] theorem State.setMove_shutdown (d : Nat) (m : PowerMove) : (s.setMove d m).shutdown = s.shutdown := rfl
@[simp] theorem State.setMove_oddSensors (d : Nat) (m : PowerMove) : (s.setMove d m).oddSensors = s.oddSensors := rfl
@[simp] theorem State.setMove_backUnits (d : Nat) (m : PowerMove) : (s.setMove d m).backUnits = s.backUnits := rfl
@[simp] theorem State.setMove_softOld (d : Nat) (m : PowerMove) : (s.setMove d m).softOld = s.softOld := rfl
@[simp] theorem State.setMove_heldReqs (d : Nat) (m : PowerMove) : (s.setMove d m).heldReqs = s.heldReqs := rfl

/-! ## State.setRec -/

@[simp] theorem State.setRec_pending (r : Recorder) : (s.setRec r).pending = s.pending := rfl
@[simp] theorem State.setRec_out (r : Recorder) : (s.setRec r).out = s.out := rfl
@[simp] theorem State.setRec_free (r : Recorder) : (s.setRec r).free = s.free := rfl
@[simp] theorem State.setRec_now (r : Recorder) : (s.setRec r).now = s.now := rfl
@[simp] theorem State.setRec_optime0 (r : Recorder) : (s.setRec r).optime0 = s.optime0 := rfl
@[simp] theorem State.setRec_regs (r : Recorder) : (s.setRec r).regs = s.regs := rfl
@[simp] theorem State.setRec_wlatch (r : Recorder) : (s.setRec r).wlatch = s.wlatch := rfl
@[simp] theorem State.setRec_rlatch (r : Recorder) : (s.setRec r).rlatch = s.rlatch := rfl
@[simp] theorem State.setRec_tiles (r : Recorder) : (s.setRec r).tiles = s.tiles := rfl
@[simp] theorem State.setRec_reports (r : Recorder) : (s.setRec r).reports = s.reports := rfl
@[simp] theorem State.setRec_nseq (r : Recorder) : (s.setRec r).nseq = s.nseq := rfl
@[simp] theorem State.setRec_temps (r : Recorder) : (s.setRec r).temps = s.temps := rfl
@[simp] theorem State.setRec_volts (r : Recorder) : (s.setRec r).volts = s.volts := rfl
@[simp] theorem State.setRec_commons (r : Recorder) : (s.setRec r).commons = s.commons := rfl
@[simp] theorem State.setRec_commonsBad (r : Recorder) : (s.setRec r).commonsBad = s.commonsBad := rfl
@[simp] theorem State.setRec_sliceQ (r : Recorder) : (s.setRec r).sliceQ = s.sliceQ := rfl
@[simp] theorem State.setRec_sliceOnce (r : Recorder) : (s.setRec r).sliceOnce = s.sliceOnce := rfl
@[simp] theorem State.setRec_sliceTurn (r : Recorder) : (s.setRec r).sliceTurn = s.sliceTurn := rfl
@[simp] theorem State.setRec_ranges (r : Recorder) : (s.setRec r).ranges = s.ranges := rfl
@[simp] theorem State.setRec_home (r : Recorder) : (s.setRec r).home = s.home := rfl
@[simp] theorem State.setRec_mem (r : Recorder) : (s.setRec r).mem = s.mem := rfl
@[simp] theorem State.setRec_memBad (r : Recorder) : (s.setRec r).memBad = s.memBad := rfl
@[simp] theorem State.setRec_mirrorFrames (r : Recorder) : (s.setRec r).mirrorFrames = s.mirrorFrames := rfl
@[simp] theorem State.setRec_endDirty (r : Recorder) : (s.setRec r).endDirty = s.endDirty := rfl
@[simp] theorem State.setRec_mesh (r : Recorder) : (s.setRec r).mesh = s.mesh := rfl
@[simp] theorem State.setRec_result (r : Recorder) : (s.setRec r).result = s.result := rfl
@[simp] theorem State.setRec_snapshot (r : Recorder) : (s.setRec r).snapshot = s.snapshot := rfl
@[simp] theorem State.setRec_rootFlags (r : Recorder) : (s.setRec r).rootFlags = s.rootFlags := rfl
@[simp] theorem State.setRec_heardGen (r : Recorder) : (s.setRec r).heardGen = s.heardGen := rfl
@[simp] theorem State.setRec_barriers (r : Recorder) : (s.setRec r).barriers = s.barriers := rfl
@[simp] theorem State.setRec_member (r : Recorder) : (s.setRec r).member = s.member := rfl
@[simp] theorem State.setRec_seed (r : Recorder) : (s.setRec r).seed = s.seed := rfl
@[simp] theorem State.setRec_queues (r : Recorder) : (s.setRec r).queues = s.queues := rfl
@[simp] theorem State.setRec_nextQ (r : Recorder) : (s.setRec r).nextQ = s.nextQ := rfl
@[simp] theorem State.setRec_fetches (r : Recorder) : (s.setRec r).fetches = s.fetches := rfl
@[simp] theorem State.setRec_msix (r : Recorder) : (s.setRec r).msix = s.msix := rfl
@[simp] theorem State.setRec_msixPend (r : Recorder) : (s.setRec r).msixPend = s.msixPend := rfl
@[simp] theorem State.setRec_weave (r : Recorder) : (s.setRec r).weave = s.weave := rfl
@[simp] theorem State.setRec_portion (r : Recorder) : (s.setRec r).portion = s.portion := rfl
@[simp] theorem State.setRec_kNow (r : Recorder) : (s.setRec r).kNow = s.kNow := rfl
@[simp] theorem State.setRec_load (r : Recorder) : (s.setRec r).load = s.load := rfl
@[simp] theorem State.setRec_undo (r : Recorder) : (s.setRec r).undo = s.undo := rfl
@[simp] theorem State.setRec_runs (r : Recorder) : (s.setRec r).runs = s.runs := rfl
@[simp] theorem State.setRec_runCount (r : Recorder) : (s.setRec r).runCount = s.runCount := rfl
@[simp] theorem State.setRec_coord (r : Recorder) : (s.setRec r).coord = s.coord := rfl
@[simp] theorem State.setRec_decided (r : Recorder) : (s.setRec r).decided = s.decided := rfl
@[simp] theorem State.setRec_cmdRun (r : Recorder) : (s.setRec r).cmdRun = s.cmdRun := rfl
@[simp] theorem State.setRec_cmdCtrl (r : Recorder) : (s.setRec r).cmdCtrl = s.cmdCtrl := rfl
@[simp] theorem State.setRec_askCommit (r : Recorder) : (s.setRec r).askCommit = s.askCommit := rfl
@[simp] theorem State.setRec_askRollback (r : Recorder) : (s.setRec r).askRollback = s.askRollback := rfl
@[simp] theorem State.setRec_needPrimary (r : Recorder) : (s.setRec r).needPrimary = s.needPrimary := rfl
@[simp] theorem State.setRec_jobMirror (r : Recorder) : (s.setRec r).jobMirror = s.jobMirror := rfl
@[simp] theorem State.setRec_heldTopology (r : Recorder) : (s.setRec r).heldTopology = s.heldTopology := rfl
@[simp] theorem State.setRec_outUnits (r : Recorder) : (s.setRec r).outUnits = s.outUnits := rfl
@[simp] theorem State.setRec_beforeCommit (r : Recorder) : (s.setRec r).beforeCommit = s.beforeCommit := rfl
@[simp] theorem State.setRec_ended (r : Recorder) : (s.setRec r).ended = s.ended := rfl
@[simp] theorem State.setRec_prepared (r : Recorder) : (s.setRec r).prepared = s.prepared := rfl
@[simp] theorem State.setRec_rolling (r : Recorder) : (s.setRec r).rolling = s.rolling := rfl
@[simp] theorem State.setRec_ackStep (r : Recorder) : (s.setRec r).ackStep = s.ackStep := rfl
@[simp] theorem State.setRec_afterRoll (r : Recorder) : (s.setRec r).afterRoll = s.afterRoll := rfl
@[simp] theorem State.setRec_undecided (r : Recorder) : (s.setRec r).undecided = s.undecided := rfl
@[simp] theorem State.setRec_startWait (r : Recorder) : (s.setRec r).startWait = s.startWait := rfl
@[simp] theorem State.setRec_resetAsk (r : Recorder) : (s.setRec r).resetAsk = s.resetAsk := rfl
@[simp] theorem State.setRec_resetRun (r : Recorder) : (s.setRec r).resetRun = s.resetRun := rfl
@[simp] theorem State.setRec_causes (r : Recorder) : (s.setRec r).causes = s.causes := rfl
@[simp] theorem State.setRec_mirror (r : Recorder) : (s.setRec r).mirror = s.mirror := rfl
@[simp] theorem State.setRec_sources (r : Recorder) : (s.setRec r).sources = s.sources := rfl
@[simp] theorem State.setRec_descr (r : Recorder) : (s.setRec r).descr = s.descr := rfl
@[simp] theorem State.setRec_descrFlash (r : Recorder) : (s.setRec r).descrFlash = s.descrFlash := rfl
@[simp] theorem State.setRec_keys (r : Recorder) : (s.setRec r).keys = s.keys := rfl
@[simp] theorem State.setRec_ports (r : Recorder) : (s.setRec r).ports = s.ports := rfl
@[simp] theorem State.setRec_lsas (r : Recorder) : (s.setRec r).lsas = s.lsas := rfl
@[simp] theorem State.setRec_lsaNum (r : Recorder) : (s.setRec r).lsaNum = s.lsaNum := rfl
@[simp] theorem State.setRec_routes (r : Recorder) : (s.setRec r).routes = s.routes := rfl
@[simp] theorem State.setRec_weights (r : Recorder) : (s.setRec r).weights = s.weights := rfl
@[simp] theorem State.setRec_rates (r : Recorder) : (s.setRec r).rates = s.rates := rfl
@[simp] theorem State.setRec_routed (r : Recorder) : (s.setRec r).routed = s.routed := rfl
@[simp] theorem State.setRec_cneSent (r : Recorder) : (s.setRec r).cneSent = s.cneSent := rfl
@[simp] theorem State.setRec_portsBack (r : Recorder) : (s.setRec r).portsBack = s.portsBack := rfl
@[simp] theorem State.setRec_charges (r : Recorder) : (s.setRec r).charges = s.charges := rfl
@[simp] theorem State.setRec_seen (r : Recorder) : (s.setRec r).seen = s.seen := rfl
@[simp] theorem State.setRec_mbxBuf (r : Recorder) : (s.setRec r).mbxBuf = s.mbxBuf := rfl
@[simp] theorem State.setRec_mbxRun (r : Recorder) : (s.setRec r).mbxRun = s.mbxRun := rfl
@[simp] theorem State.setRec_smbAddr (r : Recorder) : (s.setRec r).smbAddr = s.smbAddr := rfl
@[simp] theorem State.setRec_watts (r : Recorder) : (s.setRec r).watts = s.watts := rfl
@[simp] theorem State.setRec_soft (r : Recorder) : (s.setRec r).soft = s.soft := rfl
@[simp] theorem State.setRec_fuses (r : Recorder) : (s.setRec r).fuses = s.fuses := rfl
@[simp] theorem State.setRec_fenced (r : Recorder) : (s.setRec r).fenced = s.fenced := rfl
@[simp] theorem State.setRec_physGen (r : Recorder) : (s.setRec r).physGen = s.physGen := rfl
@[simp] theorem State.setRec_bring (r : Recorder) : (s.setRec r).bring = s.bring := rfl
@[simp] theorem State.setRec_pins (r : Recorder) : (s.setRec r).pins = s.pins := rfl
@[simp] theorem State.setRec_stagUp (r : Recorder) : (s.setRec r).stagUp = s.stagUp := rfl
@[simp] theorem State.setRec_stagHalted (r : Recorder) : (s.setRec r).stagHalted = s.stagHalted := rfl
@[simp] theorem State.setRec_recoveryFw (r : Recorder) : (s.setRec r).recoveryFw = s.recoveryFw := rfl
@[simp] theorem State.setRec_hostPort (r : Recorder) : (s.setRec r).hostPort = s.hostPort := rfl
@[simp] theorem State.setRec_wdtFrom (r : Recorder) : (s.setRec r).wdtFrom = s.wdtFrom := rfl
@[simp] theorem State.setRec_slices (r : Recorder) : (s.setRec r).slices = s.slices := rfl
@[simp] theorem State.setRec_scrubErrs (r : Recorder) : (s.setRec r).scrubErrs = s.scrubErrs := rfl
@[simp] theorem State.setRec_scrubPos (r : Recorder) : (s.setRec r).scrubPos = s.scrubPos := rfl
@[simp] theorem State.setRec_moves (r : Recorder) : (s.setRec r).moves = s.moves := rfl
@[simp] theorem State.setRec_access (r : Recorder) : (s.setRec r).access = s.access := rfl
@[simp] theorem State.setRec_snap (r : Recorder) : (s.setRec r).snap = s.snap := rfl
@[simp] theorem State.setRec_pronk (r : Recorder) : (s.setRec r).pronk = s.pronk := rfl
@[simp] theorem State.setRec_tripped (r : Recorder) : (s.setRec r).tripped = s.tripped := rfl
@[simp] theorem State.setRec_shutdown (r : Recorder) : (s.setRec r).shutdown = s.shutdown := rfl
@[simp] theorem State.setRec_oddSensors (r : Recorder) : (s.setRec r).oddSensors = s.oddSensors := rfl
@[simp] theorem State.setRec_backUnits (r : Recorder) : (s.setRec r).backUnits = s.backUnits := rfl
@[simp] theorem State.setRec_softOld (r : Recorder) : (s.setRec r).softOld = s.softOld := rfl
@[simp] theorem State.setRec_heldReqs (r : Recorder) : (s.setRec r).heldReqs = s.heldReqs := rfl
@[simp] theorem State.setRec_recorder (r : Recorder) : (s.setRec r).recorder = r := rfl

/-! ## State.record: the recorder and its drop count only -/

@[simp] theorem State.record_pending (b : Report) : (s.record b).pending = s.pending := by simp only [State.record]; split <;> rfl
@[simp] theorem State.record_out (b : Report) : (s.record b).out = s.out := by simp only [State.record]; split <;> rfl
@[simp] theorem State.record_free (b : Report) : (s.record b).free = s.free := by simp only [State.record]; split <;> rfl
@[simp] theorem State.record_now (b : Report) : (s.record b).now = s.now := by simp only [State.record]; split <;> rfl
@[simp] theorem State.record_optime0 (b : Report) : (s.record b).optime0 = s.optime0 := by simp only [State.record]; split <;> rfl
@[simp] theorem State.record_wlatch (b : Report) : (s.record b).wlatch = s.wlatch := by simp only [State.record]; split <;> rfl
@[simp] theorem State.record_rlatch (b : Report) : (s.record b).rlatch = s.rlatch := by simp only [State.record]; split <;> rfl
@[simp] theorem State.record_tiles (b : Report) : (s.record b).tiles = s.tiles := by simp only [State.record]; split <;> rfl
@[simp] theorem State.record_reports (b : Report) : (s.record b).reports = s.reports := by simp only [State.record]; split <;> rfl
@[simp] theorem State.record_nseq (b : Report) : (s.record b).nseq = s.nseq := by simp only [State.record]; split <;> rfl
@[simp] theorem State.record_temps (b : Report) : (s.record b).temps = s.temps := by simp only [State.record]; split <;> rfl
@[simp] theorem State.record_volts (b : Report) : (s.record b).volts = s.volts := by simp only [State.record]; split <;> rfl
@[simp] theorem State.record_commons (b : Report) : (s.record b).commons = s.commons := by simp only [State.record]; split <;> rfl
@[simp] theorem State.record_commonsBad (b : Report) : (s.record b).commonsBad = s.commonsBad := by simp only [State.record]; split <;> rfl
@[simp] theorem State.record_sliceQ (b : Report) : (s.record b).sliceQ = s.sliceQ := by simp only [State.record]; split <;> rfl
@[simp] theorem State.record_sliceOnce (b : Report) : (s.record b).sliceOnce = s.sliceOnce := by simp only [State.record]; split <;> rfl
@[simp] theorem State.record_sliceTurn (b : Report) : (s.record b).sliceTurn = s.sliceTurn := by simp only [State.record]; split <;> rfl
@[simp] theorem State.record_ranges (b : Report) : (s.record b).ranges = s.ranges := by simp only [State.record]; split <;> rfl
@[simp] theorem State.record_home (b : Report) : (s.record b).home = s.home := by simp only [State.record]; split <;> rfl
@[simp] theorem State.record_mem (b : Report) : (s.record b).mem = s.mem := by simp only [State.record]; split <;> rfl
@[simp] theorem State.record_memBad (b : Report) : (s.record b).memBad = s.memBad := by simp only [State.record]; split <;> rfl
@[simp] theorem State.record_mirrorFrames (b : Report) : (s.record b).mirrorFrames = s.mirrorFrames := by simp only [State.record]; split <;> rfl
@[simp] theorem State.record_endDirty (b : Report) : (s.record b).endDirty = s.endDirty := by simp only [State.record]; split <;> rfl
@[simp] theorem State.record_mesh (b : Report) : (s.record b).mesh = s.mesh := by simp only [State.record]; split <;> rfl
@[simp] theorem State.record_result (b : Report) : (s.record b).result = s.result := by simp only [State.record]; split <;> rfl
@[simp] theorem State.record_snapshot (b : Report) : (s.record b).snapshot = s.snapshot := by simp only [State.record]; split <;> rfl
@[simp] theorem State.record_rootFlags (b : Report) : (s.record b).rootFlags = s.rootFlags := by simp only [State.record]; split <;> rfl
@[simp] theorem State.record_barriers (b : Report) : (s.record b).barriers = s.barriers := by simp only [State.record]; split <;> rfl
@[simp] theorem State.record_member (b : Report) : (s.record b).member = s.member := by simp only [State.record]; split <;> rfl
@[simp] theorem State.record_seed (b : Report) : (s.record b).seed = s.seed := by simp only [State.record]; split <;> rfl
@[simp] theorem State.record_queues (b : Report) : (s.record b).queues = s.queues := by simp only [State.record]; split <;> rfl
@[simp] theorem State.record_nextQ (b : Report) : (s.record b).nextQ = s.nextQ := by simp only [State.record]; split <;> rfl
@[simp] theorem State.record_fetches (b : Report) : (s.record b).fetches = s.fetches := by simp only [State.record]; split <;> rfl
@[simp] theorem State.record_msix (b : Report) : (s.record b).msix = s.msix := by simp only [State.record]; split <;> rfl
@[simp] theorem State.record_msixPend (b : Report) : (s.record b).msixPend = s.msixPend := by simp only [State.record]; split <;> rfl
@[simp] theorem State.record_weave (b : Report) : (s.record b).weave = s.weave := by simp only [State.record]; split <;> rfl
@[simp] theorem State.record_portion (b : Report) : (s.record b).portion = s.portion := by simp only [State.record]; split <;> rfl
@[simp] theorem State.record_kNow (b : Report) : (s.record b).kNow = s.kNow := by simp only [State.record]; split <;> rfl
@[simp] theorem State.record_load (b : Report) : (s.record b).load = s.load := by simp only [State.record]; split <;> rfl
@[simp] theorem State.record_undo (b : Report) : (s.record b).undo = s.undo := by simp only [State.record]; split <;> rfl
@[simp] theorem State.record_runs (b : Report) : (s.record b).runs = s.runs := by simp only [State.record]; split <;> rfl
@[simp] theorem State.record_runCount (b : Report) : (s.record b).runCount = s.runCount := by simp only [State.record]; split <;> rfl
@[simp] theorem State.record_coord (b : Report) : (s.record b).coord = s.coord := by simp only [State.record]; split <;> rfl
@[simp] theorem State.record_decided (b : Report) : (s.record b).decided = s.decided := by simp only [State.record]; split <;> rfl
@[simp] theorem State.record_cmdRun (b : Report) : (s.record b).cmdRun = s.cmdRun := by simp only [State.record]; split <;> rfl
@[simp] theorem State.record_cmdCtrl (b : Report) : (s.record b).cmdCtrl = s.cmdCtrl := by simp only [State.record]; split <;> rfl
@[simp] theorem State.record_askCommit (b : Report) : (s.record b).askCommit = s.askCommit := by simp only [State.record]; split <;> rfl
@[simp] theorem State.record_askRollback (b : Report) : (s.record b).askRollback = s.askRollback := by simp only [State.record]; split <;> rfl
@[simp] theorem State.record_needPrimary (b : Report) : (s.record b).needPrimary = s.needPrimary := by simp only [State.record]; split <;> rfl
@[simp] theorem State.record_jobMirror (b : Report) : (s.record b).jobMirror = s.jobMirror := by simp only [State.record]; split <;> rfl
@[simp] theorem State.record_heldTopology (b : Report) : (s.record b).heldTopology = s.heldTopology := by simp only [State.record]; split <;> rfl
@[simp] theorem State.record_outUnits (b : Report) : (s.record b).outUnits = s.outUnits := by simp only [State.record]; split <;> rfl
@[simp] theorem State.record_beforeCommit (b : Report) : (s.record b).beforeCommit = s.beforeCommit := by simp only [State.record]; split <;> rfl
@[simp] theorem State.record_ended (b : Report) : (s.record b).ended = s.ended := by simp only [State.record]; split <;> rfl
@[simp] theorem State.record_prepared (b : Report) : (s.record b).prepared = s.prepared := by simp only [State.record]; split <;> rfl
@[simp] theorem State.record_rolling (b : Report) : (s.record b).rolling = s.rolling := by simp only [State.record]; split <;> rfl
@[simp] theorem State.record_ackStep (b : Report) : (s.record b).ackStep = s.ackStep := by simp only [State.record]; split <;> rfl
@[simp] theorem State.record_afterRoll (b : Report) : (s.record b).afterRoll = s.afterRoll := by simp only [State.record]; split <;> rfl
@[simp] theorem State.record_resetAsk (b : Report) : (s.record b).resetAsk = s.resetAsk := by simp only [State.record]; split <;> rfl
@[simp] theorem State.record_resetRun (b : Report) : (s.record b).resetRun = s.resetRun := by simp only [State.record]; split <;> rfl
@[simp] theorem State.record_causes (b : Report) : (s.record b).causes = s.causes := by simp only [State.record]; split <;> rfl
@[simp] theorem State.record_mirror (b : Report) : (s.record b).mirror = s.mirror := by simp only [State.record]; split <;> rfl
@[simp] theorem State.record_sources (b : Report) : (s.record b).sources = s.sources := by simp only [State.record]; split <;> rfl
@[simp] theorem State.record_descr (b : Report) : (s.record b).descr = s.descr := by simp only [State.record]; split <;> rfl
@[simp] theorem State.record_descrFlash (b : Report) : (s.record b).descrFlash = s.descrFlash := by simp only [State.record]; split <;> rfl
@[simp] theorem State.record_keys (b : Report) : (s.record b).keys = s.keys := by simp only [State.record]; split <;> rfl
@[simp] theorem State.record_ports (b : Report) : (s.record b).ports = s.ports := by simp only [State.record]; split <;> rfl
@[simp] theorem State.record_lsas (b : Report) : (s.record b).lsas = s.lsas := by simp only [State.record]; split <;> rfl
@[simp] theorem State.record_lsaNum (b : Report) : (s.record b).lsaNum = s.lsaNum := by simp only [State.record]; split <;> rfl
@[simp] theorem State.record_routes (b : Report) : (s.record b).routes = s.routes := by simp only [State.record]; split <;> rfl
@[simp] theorem State.record_weights (b : Report) : (s.record b).weights = s.weights := by simp only [State.record]; split <;> rfl
@[simp] theorem State.record_rates (b : Report) : (s.record b).rates = s.rates := by simp only [State.record]; split <;> rfl
@[simp] theorem State.record_cneSent (b : Report) : (s.record b).cneSent = s.cneSent := by simp only [State.record]; split <;> rfl
@[simp] theorem State.record_portsBack (b : Report) : (s.record b).portsBack = s.portsBack := by simp only [State.record]; split <;> rfl
@[simp] theorem State.record_charges (b : Report) : (s.record b).charges = s.charges := by simp only [State.record]; split <;> rfl
@[simp] theorem State.record_seen (b : Report) : (s.record b).seen = s.seen := by simp only [State.record]; split <;> rfl
@[simp] theorem State.record_mbxBuf (b : Report) : (s.record b).mbxBuf = s.mbxBuf := by simp only [State.record]; split <;> rfl
@[simp] theorem State.record_mbxRun (b : Report) : (s.record b).mbxRun = s.mbxRun := by simp only [State.record]; split <;> rfl
@[simp] theorem State.record_smbAddr (b : Report) : (s.record b).smbAddr = s.smbAddr := by simp only [State.record]; split <;> rfl
@[simp] theorem State.record_watts (b : Report) : (s.record b).watts = s.watts := by simp only [State.record]; split <;> rfl
@[simp] theorem State.record_soft (b : Report) : (s.record b).soft = s.soft := by simp only [State.record]; split <;> rfl
@[simp] theorem State.record_fuses (b : Report) : (s.record b).fuses = s.fuses := by simp only [State.record]; split <;> rfl
@[simp] theorem State.record_fenced (b : Report) : (s.record b).fenced = s.fenced := by simp only [State.record]; split <;> rfl
@[simp] theorem State.record_bring (b : Report) : (s.record b).bring = s.bring := by simp only [State.record]; split <;> rfl
@[simp] theorem State.record_pins (b : Report) : (s.record b).pins = s.pins := by simp only [State.record]; split <;> rfl
@[simp] theorem State.record_stagUp (b : Report) : (s.record b).stagUp = s.stagUp := by simp only [State.record]; split <;> rfl
@[simp] theorem State.record_stagHalted (b : Report) : (s.record b).stagHalted = s.stagHalted := by simp only [State.record]; split <;> rfl
@[simp] theorem State.record_recoveryFw (b : Report) : (s.record b).recoveryFw = s.recoveryFw := by simp only [State.record]; split <;> rfl
@[simp] theorem State.record_hostPort (b : Report) : (s.record b).hostPort = s.hostPort := by simp only [State.record]; split <;> rfl
@[simp] theorem State.record_wdtFrom (b : Report) : (s.record b).wdtFrom = s.wdtFrom := by simp only [State.record]; split <;> rfl
@[simp] theorem State.record_slices (b : Report) : (s.record b).slices = s.slices := by simp only [State.record]; split <;> rfl
@[simp] theorem State.record_scrubErrs (b : Report) : (s.record b).scrubErrs = s.scrubErrs := by simp only [State.record]; split <;> rfl
@[simp] theorem State.record_scrubPos (b : Report) : (s.record b).scrubPos = s.scrubPos := by simp only [State.record]; split <;> rfl
@[simp] theorem State.record_moves (b : Report) : (s.record b).moves = s.moves := by simp only [State.record]; split <;> rfl
@[simp] theorem State.record_access (b : Report) : (s.record b).access = s.access := by simp only [State.record]; split <;> rfl
@[simp] theorem State.record_snap (b : Report) : (s.record b).snap = s.snap := by simp only [State.record]; split <;> rfl
@[simp] theorem State.record_pronk (b : Report) : (s.record b).pronk = s.pronk := by simp only [State.record]; split <;> rfl
@[simp] theorem State.record_tripped (b : Report) : (s.record b).tripped = s.tripped := by simp only [State.record]; split <;> rfl
@[simp] theorem State.record_shutdown (b : Report) : (s.record b).shutdown = s.shutdown := by simp only [State.record]; split <;> rfl
@[simp] theorem State.record_oddSensors (b : Report) : (s.record b).oddSensors = s.oddSensors := by simp only [State.record]; split <;> rfl
@[simp] theorem State.record_heardGen (b : Report) : (s.record b).heardGen = s.heardGen := by simp only [State.record]; split <;> rfl
@[simp] theorem State.record_backUnits (b : Report) : (s.record b).backUnits = s.backUnits := by simp only [State.record]; split <;> rfl
@[simp] theorem State.record_startWait (b : Report) : (s.record b).startWait = s.startWait := by simp only [State.record]; split <;> rfl
@[simp] theorem State.record_undecided (b : Report) : (s.record b).undecided = s.undecided := by simp only [State.record]; split <;> rfl
@[simp] theorem State.record_routed (b : Report) : (s.record b).routed = s.routed := by simp only [State.record]; split <;> rfl
@[simp] theorem State.record_softOld (b : Report) : (s.record b).softOld = s.softOld := by simp only [State.record]; split <;> rfl
@[simp] theorem State.record_physGen (b : Report) : (s.record b).physGen = s.physGen := by simp only [State.record]; split <;> rfl
@[simp] theorem State.record_heldReqs (b : Report) : (s.record b).heldReqs = s.heldReqs := by simp only [State.record]; split <;> rfl

end Sys2Proof.Machine
end

