-- ==== Sys2Proof/Laws/Regs.lean ====
section
/-! SUPPORT. Register fields: a field reads as it was set, no other field changes, and the list of fields stays in order (R9). -/

namespace Sys2Proof.Machine

variable {s : State} {f g : Fld}

theorem fsetb_eq (b : Bool) : s.fsetb f b = s.fset f (if b then 1 else 0) := rfl

@[simp] theorem fget_fset_same (v : Nat) : (s.fset f v).fget f = v % 2 ^ f.width := by
  show mapGet f.rst (mapPut f.rst f.key (v % 2 ^ f.width) s.regs) f.key = _
  rw [mapGet_mapPut, if_pos rfl]

theorem fget_fset_other (h : g.key ≠ f.key) (v : Nat) : (s.fset f v).fget g = s.fget g := by
  show (mapFind (mapPut f.rst f.key _ s.regs) g.key).getD g.rst = (mapFind s.regs g.key).getD g.rst
  rw [mapFind_mapPut_ne h]

theorem fbit_fsetb (h : f.width = 1) (b : Bool) : (s.fsetb f b).fbit f = b := by
  cases b <;> simp [State.fbit, State.fsetb, h]

theorem rising_fset (h : Rising s.regs) (v : Nat) : Rising (s.fset f v).regs := rising_mapPut _ _ _ h

/-! ## The recorder touches one field -/

theorem fget_record (h : f.key ≠ F.EVT_SUPPRESS.COUNT.key) (b : Report) : (s.record b).fget f = s.fget f := by
  simp only [State.record]
  split <;> [exact fget_fset_other h _; rfl]

theorem rising_record (h : Rising s.regs) (b : Report) : Rising (s.record b).regs := by
  simp only [State.record]
  split <;> [exact rising_fset h _; exact h]

theorem event_eq (code : Nat) (unit : Byte) (loc : W32) (sub data : Nat) :
    s.event code unit loc sub data = s.record (s.mkReport code 0 unit loc sub 0 data) := rfl

theorem refuseWrite_eq (off v : Nat) : s.refuseWrite off v = s.event 0x9001 8 0 0 (data2 off v) := rfl

end Sys2Proof.Machine
end

