-- ==== Sys2Proof/Laws/Keeps.lean ====
section
/-! SUPPORT. What every command keeps: the queue, the outputs sent, the order of free values, and the invariant. One lemma for each
shared update; a command's own lemma chains them. -/

namespace Sys2Proof.Machine

/-- `t` comes from `s` by what a command may do. -/
structure Keeps (s t : State) : Prop where
  pending : t.pending = s.pending
  follows : s.Follows t
  inv : s.Inv → t.Inv

namespace Keeps

variable {s t u : State}

theorem refl (s : State) : Keeps s s := ⟨rfl, ⟨List.prefix_refl _, le_refl _⟩, id⟩

theorem trans (h : Keeps s t) (g : Keeps t u) : Keeps s u :=
  ⟨g.pending.trans h.pending, ⟨h.follows.out.trans g.follows.out, h.follows.free.trans g.follows.free⟩, fun i => g.inv (h.inv i)⟩

/-- A state that differs in none of the fields that the invariant and the order speak of. -/
theorem of_eq (hp : t.pending = s.pending) (ho : t.out = s.out) (hf : t.free = s.free) (hm : t.mem = s.mem) (hc : t.commons = s.commons)
    (hr : t.regs = s.regs) : Keeps s t :=
  ⟨hp, ⟨ho ▸ List.prefix_refl _, hf ▸ le_refl _⟩, fun i => ⟨hm ▸ i.mem, hc ▸ i.commons, hr ▸ i.regs⟩⟩

theorem fset (f : Fld) (v : Nat) : Keeps s (s.fset f v) :=
  ⟨rfl, ⟨List.prefix_refl _, le_refl _⟩, fun i => ⟨i.mem, i.commons, rising_fset i.regs v⟩⟩

theorem fsetb (f : Fld) (b : Bool) : Keeps s (s.fsetb f b) := fset f _

theorem fadd (f : Fld) (n : Nat) : Keeps s (s.fadd f n) := fset f _

theorem emit (o : Output) : Keeps s (s.emit o) :=
  ⟨rfl, ⟨List.prefix_append _ _, le_refl _⟩, fun i => ⟨i.mem, i.commons, i.regs⟩⟩

theorem emits (os : List Output) : Keeps s (s.emits os) :=
  ⟨rfl, ⟨List.prefix_append _ _, le_refl _⟩, fun i => ⟨i.mem, i.commons, i.regs⟩⟩

theorem draw : Keeps s s.draw.2 :=
  ⟨rfl, ⟨List.prefix_refl _, Nat.le_succ _⟩, fun i => ⟨i.mem, i.commons, i.regs⟩⟩

theorem at_ (n : Nat) : Keeps s (s.at n) := of_eq rfl rfl rfl rfl rfl rfl

theorem setTile (t : TileId) (x : Tile) : Keeps s (s.setTile t x) := of_eq rfl rfl rfl rfl rfl rfl

theorem setRec (r : Recorder) : Keeps s (s.setRec r) := of_eq rfl rfl rfl rfl rfl rfl

theorem setPort (p : Nat) (x : Port) : Keeps s (s.setPort p x) := of_eq rfl rfl rfl rfl rfl rfl

theorem setMove (d : Nat) (m : PowerMove) : Keeps s (s.setMove d m) := of_eq rfl rfl rfl rfl rfl rfl

theorem record (b : Report) : Keeps s (s.record b) :=
  ⟨by simp, ⟨by simp, by simp⟩, fun i => ⟨by simpa using i.mem, by simpa using i.commons, rising_record i.regs b⟩⟩

theorem event (code : Nat) (unit : Byte) (loc : W32) (sub data : Nat) : Keeps s (s.event code unit loc sub data) := record _

theorem refuseWrite (off v : Nat) : Keeps s (s.refuseWrite off v) := record _

theorem tileErr (t : TileId) (code : Nat) (stops : Bool) (ask sub op data : Nat) : Keeps s (s.tileErr t code stops ask sub op data) :=
  (setTile t _).trans (emit _)

theorem unitErr (code ask : Nat) (unit : Byte) (loc : W32) (sub data : Nat) : Keeps s (s.unitErr code ask unit loc sub data) := emit _

theorem note (t : TileId) (n : Note) : Keeps s (s.note t n) := by
  cases n with
  | err => exact tileErr ..
  | event => exact record _
  | out => exact emit _
  | flag => exact emit _

/-- A fold keeps what each of its steps keeps. -/
theorem foldl {α : Type} {f : State → α → State} (h : ∀ s a, Keeps s (f s a)) (l : List α) (s : State) : Keeps s (l.foldl f s) := by
  induction l generalizing s with
  | nil => exact refl s
  | cons a l ih => exact (h s a).trans (ih _)

theorem putTile (t : TileId) (r : Tile × List Note) : Keeps s (s.putTile t r) :=
  (setTile t r.1).trans (foldl (fun s n => note (s := s) t n) r.2 _)

/-- Device memory is only written through operations that keep its form. -/
theorem setMem {m : List Host.Cell} (h : Memory.wf s.mem = true → Memory.wf m = true) : Keeps s { s with mem := m } :=
  ⟨rfl, ⟨List.prefix_refl _, le_refl _⟩, fun i => ⟨h i.mem, i.commons, i.regs⟩⟩

theorem setCommons {m : SMap Byte} (h : Memory.wf s.commons = true → Memory.wf m = true) : Keeps s { s with commons := m } :=
  ⟨rfl, ⟨List.prefix_refl _, le_refl _⟩, fun i => ⟨i.mem, h i.commons, i.regs⟩⟩

end Keeps

end Sys2Proof.Machine
end

