-- ==== Sys2Proof/Laws/Muntjac.lean ====
section
/-! SUPPORT. What the runner of Muntjac's instructions does. -/

namespace Sys2Proof.Machine

variable {s : State} {t : TileId} {w : W32} {is : W32 → Bool} {u : Uses} {body : State → W32 → Tile → Act}

theorem Starts.coreReady {regs : List Nat} (h : Starts s t w regs) : (s.tile t).coreReady = true := by
  simp [Tile.coreReady, h.running, h.going, h.free]

/-- A clean fetch notes nothing (R200). -/
@[simp] theorem Tile.fetched_none (x : Tile) (f : Tile → Tile × List Note) : x.fetched .none f = f x := rfl

/-- A ready instruction whose guard is true does what its body says. -/
theorem runCore_starts (h : Starts s t w (u.reads w ++ u.writes w)) (hg : u.guarded = true → GuardTrue (s.tile t) w)
    (hi : is w = true) : runCore t .none is u body s = s.putTile t ((s.tile t).act (body s w (s.tile t))) := by
  have hc : (u.guarded && predRead (s.tile t).core.preds (wGuard w).2 == (wGuard w).1) = false := by
    cases hu : u.guarded with
    | false => rfl
    | true => simpa [GuardTrue] using hg hu
  simp only [runCore, h.word, h.coreReady, hi, h.ready]
  simp [hc]

/-- A guard that is false: the instruction completes and does nothing else. -/
theorem runCore_guardFalse {regs : List Nat} (h : Starts s t w regs) (hu : u.guarded = true) (hg : ¬ GuardTrue (s.tile t) w)
    (hi : is w = true) : runCore t .none is u body s = s.putTile t (s.tile t).finish := by
  have hc : (predRead (s.tile t).core.preds (wGuard w).2 == (wGuard w).1) = true := by
    simpa [GuardTrue] using hg
  simp only [runCore, h.word, h.coreReady, hi]
  simp [hc, hu]

/-- Where the tile's context does not stand ready at such an instruction, nothing happens. -/
theorem runCore_absent {e : CoreErr} (h : ((s.tile t).coreReady && is (s.tile t).word) = false) :
    runCore t e is u body s = s := by
  have h' : (!(s.tile t).coreReady || !is (s.tile t).word) = true := by
    rw [← Bool.not_and, h]; rfl
  simp only [runCore, h', if_true]

end Sys2Proof.Machine
end

