-- ==== Sys2Proof/Laws/Engines.lean ====
section
/-! SUPPORT. What the shared runners of a tile can do: nothing, or put the tile's new state and what it reports. -/

namespace Sys2Proof.Machine

variable {s : State} {t : TileId}

theorem tile_setTile_same (x : Tile) : (s.setTile t x).tile t = x := by simp [State.tile, mapGet]

theorem tile_setTile_other {u : TileId} (h : u ≠ t) (x : Tile) : (s.setTile t x).tile u = s.tile u := by
  have : u.toNat ≠ t.toNat := fun e => h (BitVec.eq_of_toNat_eq e)
  simp only [State.tile, State.setTile_tiles, mapGet_mapIns, if_neg this]

/-- Muntjac's runner. -/
theorem runCore_cases (e : CoreErr) (is : W32 → Bool) (u : Uses) (body : State → W32 → Tile → Act) :
    runCore t e is u body s = s ∨ ∃ r, runCore t e is u body s = s.putTile t r := by
  unfold runCore
  dsimp only
  split
  · exact .inl rfl
  · split
    · exact .inr ⟨_, rfl⟩
    · split
      · exact .inr ⟨_, rfl⟩
      · split
        · exact .inl rfl
        · split
          · split <;> exact .inr ⟨_, rfl⟩
          · exact .inr ⟨_, rfl⟩
          · exact .inr ⟨_, rfl⟩

theorem runLoop_cases (e : CoreErr) (opc : Nat) (reads : W32 → List Nat) (body : W32 → Nat) (count : W32 → Tile → Nat) :
    runLoop t e opc reads body count s = s ∨ ∃ r, runLoop t e opc reads body count s = s.putTile t r := by
  unfold runLoop
  dsimp only
  split
  · exact .inr ⟨_, rfl⟩
  · exact runCore_cases ..

/-- The issue of a port's head: the operation that may issue is the command's, or nothing happens. -/
theorem issueHead_cases (p : Nat) (is : Op → Bool) (f : Tile → Op → Tile × List Note) :
    issueHead t p is f s = s ∨ ∃ o, Issues s t p o ∧ is o = true ∧ issueHead t p is f s = s.putTile t (f ((s.tile t).toExec o) o) := by
  unfold issueHead
  dsimp only
  split
  · exact .inl rfl
  · rename_i o h
    split
    · rename_i hi; exact .inr ⟨o, h, hi, rfl⟩
    · exact .inl rfl

theorem issueHead_issues {p : Nat} {is : Op → Bool} {o : Op} (h : Issues s t p o) (hi : is o = true) (f : Tile → Op → Tile × List Note) :
    issueHead t p is f s = s.putTile t (f ((s.tile t).toExec o) o) := by
  have h' : (s.tile t).issuable p = some o := h
  simp [issueHead, h', hi]

/-- The completion of a port's operation. -/
theorem finishPort_cases (p : Nat) (f : Tile → Op → Tile × List Note) :
    finishPort t p f s = s ∨ ∃ o, (s.tile t).executing p = some o ∧ finishPort t p f s = s.putTile t (f (s.tile t) o) := by
  unfold finishPort
  dsimp only
  split
  · exact .inl rfl
  · rename_i o h; exact .inr ⟨o, h, rfl⟩

theorem finishPort_of {p : Nat} {o : Op} (h : (s.tile t).executing p = some o) (f : Tile → Op → Tile × List Note) :
    finishPort t p f s = s.putTile t (f (s.tile t) o) := by simp [finishPort, h]

theorem keeps_runCore (e : CoreErr) (is : W32 → Bool) (u : Uses) (body : State → W32 → Tile → Act) :
    Keeps s (runCore t e is u body s) := by
  rcases runCore_cases (s := s) (t := t) e is u body with h | ⟨r, h⟩ <;> rw [h]
  · exact .refl s
  · exact .putTile t r

theorem keeps_issueHead (p : Nat) (is : Op → Bool) (f : Tile → Op → Tile × List Note) : Keeps s (issueHead t p is f s) := by
  rcases issueHead_cases (s := s) (t := t) p is f with h | ⟨o, -, -, h⟩ <;> rw [h]
  · exact .refl s
  · exact .putTile t _

theorem keeps_finishPort (p : Nat) (f : Tile → Op → Tile × List Note) : Keeps s (finishPort t p f s) := by
  rcases finishPort_cases (s := s) (t := t) p f with h | ⟨o, -, h⟩ <;> rw [h]
  · exact .refl s
  · exact .putTile t _

end Sys2Proof.Machine
end

