-- ==== Sys2Proof/Tests/Slice0.lean ====
section
/-! SUPPORT. Tests of the model: the checks of WellFormed, one step on small states with results taken from the spec's rules, and for the
statements with hypotheses a state and operands that meet them. -/

namespace Sys2Proof.Tests

open Sys2Proof Sys2Proof.Machine

-- The tests are elaborated one after another: together they ask for more threads than a build may have.
set_option Elab.async false

/-! ## Small states -/

/-- The state after reset with tile 0 as `x`. -/
def onTile (x : Tile) : State := { State.reset with tiles := [(0, x)] }

/-- A tile in a step whose word at address 0 is `w`. -/
def atWord (w : W32) : Tile := { Tile.reset with phase := phRunning, imem := [(0, w)] }

/-- The same tile with Muntjac's state changed by `f`. -/
def withCore (f : Core → Core) (x : Tile) : Tile := { x with core := f x.core }

/-- A word of the R format (R202): OPC, D, A, B and the bits below B. -/
def rWord (opc d a b low : Nat) : W32 := BitVec.ofNat 32 (opc * 2 ^ 26 + d * 2 ^ 17 + a * 2 ^ 12 + b * 2 ^ 7 + low)

/-- A word of a format whose bits below OPC are given. -/
def opWord (opc low : Nat) : W32 := BitVec.ofNat 32 (opc * 2 ^ 26 + low)

/-- The hypotheses of `Starts`, as a Bool. -/
def starts (s : State) (t : TileId) (w : W32) (regs : List Nat) : Bool :=
  let x := s.tile t
  x.phase == phRunning && !x.core.stopped && x.core.wait == .none && x.word == w && !x.core.isPending regs

theorem starts_sound {s : State} {t : TileId} {w : W32} {regs : List Nat} (h : starts s t w regs = true) : Starts s t w regs := by
  simp only [starts, Bool.and_eq_true, beq_iff_eq, Bool.not_eq_true'] at h
  exact ⟨h.1.1.1.1, h.1.1.1.2, h.1.1.2, h.1.2, h.2⟩

/-- The guard of `w` is true. -/
def guarded (x : Tile) (w : W32) : Bool := predRead x.core.preds (wGuard w).2 != (wGuard w).1

theorem guarded_sound {x : Tile} {w : W32} (h : guarded x w = true) : GuardTrue x w := by
  simpa [guarded, GuardTrue] using h

/-- Tile `x` stands at a word of the code `opc`, ready to start it with its guard true. -/
def meets (x : Tile) (opc : Nat) (regs : W32 → List Nat) : Bool :=
  starts (onTile x) 0 x.word (regs x.word) && guarded x x.word && wOpc x.word == opc

theorem meets_sound {x : Tile} {opc : Nat} {regs : W32 → List Nat} (h : meets x opc regs = true) :
    Starts (onTile x) 0 x.word (regs x.word) ∧ GuardTrue ((onTile x).tile 0) x.word ∧ wOpc x.word = opc := by
  simp only [meets, Bool.and_eq_true, beq_iff_eq] at h
  exact ⟨starts_sound h.1.1, guarded_sound h.1.2, h.2⟩

/-- The tile that a command of tile 0 leaves, when it answers a next state. -/
def tileAfter (c : Instr) (x : Tile) : Option Tile :=
  match exec c (onTile x) with
  | .next s => some (s.tile 0)
  | _ => none

/-- What the command sends. -/
def sent (c : Instr) (s : State) : List Output :=
  match exec c s with
  | .next t => t.out.drop s.out.length
  | _ => []

/-! ## WellFormed: a term that each check refuses, and one that it takes -/

theorem test_wellFormed_columns :
    (Instr.hardenedScrub (.mapCol 68) 0 0 0 true true true 0).wf = false ∧ (Instr.hardenedScrub (.router 68 0) 0 0 0 true true true 0).wf = false
    ∧ (Instr.hardenedScrub (.router 67 31) 0 0 0 true true true 0).wf = true ∧ (Instr.routerInputCheck 68 0 .own (.sync 0 0 0 0 true)).wf = false
    ∧ (Instr.routerInputCheck 67 0 .own (.sync 0 0 0 0 true)).wf = true ∧ (Instr.testEngineAccess (.march 68 0)).wf = false
    ∧ (Instr.testEngineAccess (.column 68 0)).wf = false ∧ (Instr.testEngineAccess (.column 67 0)).wf = true
    ∧ (Instr.readmitTile 68 0).wf = false ∧ (Instr.readmitTile 67 0).wf = true := by decide

theorem test_wellFormed_domains :
    ([Instr.quiesce 159, .stopOscillators 159, .retainMemory 159, .regulatorsOff 159, .wakeEvent 159 none, .regulatorReady 159,
      .oscillatorReady 159, .memoryReady 159, .logicReady 159, .pwrVoteWrite 159 0].all (fun c => !c.wf)) = true
    ∧ ([Instr.quiesce 158, .stopOscillators 158, .retainMemory 158, .regulatorsOff 158, .wakeEvent 158 none, .regulatorReady 158,
      .oscillatorReady 158, .memoryReady 158, .logicReady 158, .pwrVoteWrite 158 0].all Instr.wf) = true := by decide

theorem test_absentUnitsChangeNothing :
    exec (.routerInputCheck 68 0 .own (.sync 0 0 0 0 true)) State.reset = .next State.reset ∧ exec (.quiesce 159) State.reset = .next State.reset :=
  ⟨rfl, rfl⟩

/-! ## The queue -/

theorem witness_StepRunsFrontCommand : ({ State.reset with pending := [.hotReset, .flr] } : State).pending = .hotReset :: [.flr] := rfl

theorem test_queueIsFirstInFirstOut : ∃ s, step { State.reset with pending := [.hotReset, .flr] } = .next s ∧ s.pending = [.flr] :=
  ⟨_, rfl, by decide +kernel⟩

theorem witness_EmptyQueueIdles :
    State.reset.pending = [] ∧ State.reset.mesh.outs = [] ∧ State.reset.mesh.seam = [] ∧ State.reset.mesh.syncSeam = [] ∧ State.reset.startWait = none
    ∧ (∀ p ∈ State.reset.ports, Quiet p.2) := ⟨rfl, rfl, rfl, rfl, rfl, fun _ h => by cases h⟩

theorem witness_AbsentUnitsChangeNothing : (Instr.logicReady 159).wf = false ∧ (Instr.readmitTile 68 0).wf = false := by decide

theorem witness_inv : State.reset.Inv :=
  ⟨by decide +kernel, by decide +kernel, by unfold Rising; decide +kernel⟩

/-! ## Muntjac -/

theorem witness_ScalarInstructionsWriteTheirResult :
    (List.range 9).all (fun fn => meets (atWord (rWord 0x10 3 1 2 fn)) 0x10 (fun w => [wA w, wB w, wD w])
      && wField (rWord 0x10 3 1 2 fn) 3 0 == fn) = true
    ∧ [0x11, 0x12, 0x13, 0x14, 0x15].all (fun opc => meets (atWord (rWord opc 3 1 0 5)) opc (fun w => [wA w, wD w])) = true := by
  decide +kernel

/-- A running tile with s1 = a and s2 = b. -/
def scalars (a b : W64) (x : Tile) : Tile := withCore (fun c => { c with sreg := [(1, a), (2, b)] }) x

/-- sD after the command. -/
def sAfter (c : Instr) (d : Nat) (x : Tile) : Option W64 := (tileAfter c x).map (fun y => y.core.s d)

theorem test_scalarArithmetic :
    sAfter (.add 0 .none) 3 (scalars (2 ^ 64 - 1) 2 (atWord (rWord 0x10 3 1 2 0))) = some 1
    ∧ sAfter (.sub 0 .none) 3 (scalars 1 2 (atWord (rWord 0x10 3 1 2 1))) = some 0xFFFFFFFFFFFFFFFF
    ∧ sAfter (.mul 0 .none) 3 (scalars (2 ^ 63) 2 (atWord (rWord 0x10 3 1 2 2))) = some 0
    ∧ sAfter (.shr 0 .none) 3 (scalars (2 ^ 63) 65 (atWord (rWord 0x10 3 1 2 7))) = some 0x4000000000000000
    ∧ sAfter (.sar 0 .none) 3 (scalars (2 ^ 63) 65 (atWord (rWord 0x10 3 1 2 8))) = some 0xC000000000000000
    ∧ sAfter (.addi 0 .none) 3 (scalars 5 0 (atWord (opWord 0x11 (3 * 2 ^ 17 + 2 ^ 12 + 0xFFF)))) = some 4 := by
  decide +kernel

/-- LI, LIK, INS and EXT with their D field, and what each reads and writes. -/
def fieldWords : List (W32 × List Nat) :=
  [(opWord 0x18 (3 * 2 ^ 21 + 3 * 2 ^ 19), [3]), (opWord 0x19 (3 * 2 ^ 21 + 1), [3, 3]),
   (opWord 0x1A (3 * 2 ^ 21 + 4 * 2 ^ 16 + 63 * 2 ^ 10), [3, 4, 3]), (opWord 0x1B (3 * 2 ^ 21 + 4 * 2 ^ 16 + 63 * 2 ^ 4), [4, 3])]

/-- MOVSA and its neighbours, LIDX, PRD, RDSYS with SEL 0, 1 and 2, and the predicate instructions, with the registers that each names. -/
def moveWords : List (W32 × List Nat) :=
  [(opWord 0x1C (3 * 2 ^ 17 + 15 * 2 ^ 12 + 0xFFF), [47, 35]), (rWord 0x1D 3 1 2 7, [33, 2, 35]), (rWord 0x1E 15 31 0 0, [31, 47]),
   (rWord 0x1F 31 15 0 0, [47, 31]), (opWord 0x06 (3 * 2 ^ 17 + 3 * 2 ^ 15), [3]), (rWord 0x0B 3 0 0 0, [3]),
   (opWord 0x3D (3 * 2 ^ 17), [3]), (opWord 0x3D (3 * 2 ^ 17 + 1 * 2 ^ 11), [3]), (opWord 0x3D (3 * 2 ^ 17 + 2 * 2 ^ 11), [3]),
   (rWord 0x08 7 1 2 6, [1, 2]), (opWord 0x09 (7 * 2 ^ 19 + 6 * 2 ^ 16 + 1 * 2 ^ 11 + 0x7FF), [1]), (opWord 0x0A (7 * 2 ^ 19), [])]

theorem witness_RegisterMovesWriteTheirResult :
    fieldWords.all (fun p => starts (onTile (atWord p.1)) 0 p.1 p.2) = true
    ∧ moveWords.all (fun p => starts (onTile (atWord p.1)) 0 p.1 p.2 && guarded (atWord p.1) p.1) = true := by decide +kernel

/-- The words of the worked example of the sequencer's chapter build s10. -/
theorem test_workedExampleTemplate :
    sAfter (.li 0 .none) 10 (atWord 0x61584008#32) = some 0x4008000000000000
    ∧ sAfter (.lik 0 .none) 10 (withCore (fun c => { c with sreg := [(10, 0x4008000000000000)] }) (atWord 0x65503000#32))
      = some 0x4008300000000000
    ∧ sAfter (.ins 0 .none) 10 (withCore (fun c => { c with sreg := [(2, 0x2200), (10, 0x4008300000000000)] }) (atWord 0x69420140#32))
      = some 0x4008300000002200 := by decide +kernel

theorem test_predicates :
    ((tileAfter (.cmp 0 .none) (scalars (2 ^ 63) 1 (atWord (rWord 0x08 7 1 2 2)))).map (fun x => x.core.preds)) = some 0x80
    ∧ ((tileAfter (.cmp 0 .none) (scalars (2 ^ 63) 1 (atWord (rWord 0x08 7 1 2 4)))).map (fun x => x.core.preds)) = some 0
    ∧ ((tileAfter (.cmp 0 .none) (scalars 1 1 (atWord (rWord 0x08 0 1 2 0)))).map (fun x => predRead x.core.preds 0)) = some true := by
  decide +kernel

/-! Control flow. -/

theorem witness_branches :
    meets (atWord (opWord 0x01 (2 ^ 22 - 1))) 0x01 (fun _ => []) = true ∧ meets (atWord (opWord 0x02 5)) 0x02 (fun _ => [31]) = true
    ∧ meets (scalars 4095 0 (atWord (rWord 0x03 0 1 0 0))) 0x03 (fun w => [wA w]) = true
    ∧ ((scalars 4095 0 (atWord (rWord 0x03 0 1 0 0))).core.s 1).toNat < 4096
    ∧ (let x := withCore (fun c => { c with handler := some (7, 3) }) (atWord (opWord 0x2C 0))
       meets x 0x2C (fun _ => []) = true ∧ x.core.handler = some (7, 3) ∧ bit x.word.toNat 21 = false) := by decide +kernel

theorem test_branches :
    ((tileAfter (.br 0 .none) (atWord (opWord 0x01 (2 ^ 22 - 1)))).map (fun x => x.core.pc)) = some 4095
    ∧ ((tileAfter (.call 0 .none) (atWord (opWord 0x02 5))).map (fun x => (x.core.pc, x.core.s 31))) = some (5, 1)
    ∧ ((tileAfter (.jr 0 .none) (scalars 4095 0 (atWord (rWord 0x03 0 1 0 0)))).map (fun x => x.core.pc)) = some 4095
    ∧ ((tileAfter (.jr 0 .none) (scalars 4096 0 (atWord (rWord 0x03 0 1 0 0)))).map (fun x => (x.core.stopped, x.dirty))) = some (true, true) := by
  decide +kernel

/-- LOOPI and LOOPR with a count and with none, and with the guard "never". -/
theorem witness_loops :
    meets (atWord 0x10008008#32) 0x04 (fun _ => []) = true ∧ wField 0x10008008#32 11 0 = 8
    ∧ meets (atWord (opWord 0x04 0)) 0x04 (fun _ => []) = true
    ∧ meets (scalars (2 ^ 32) 0 (atWord (opWord 0x05 (1 * 2 ^ 17)))) 0x05 (fun w => [wD w]) = true
    ∧ meets (scalars 1 0 (atWord (opWord 0x05 (1 * 2 ^ 17)))) 0x05 (fun w => [wD w]) = true
    ∧ [opWord 0x04 (2 ^ 25 + 8), opWord 0x05 (2 ^ 25 + 2 ^ 17)].all (fun w => starts (onTile (atWord w)) 0 w [] && !guarded (atWord w) w) = true := by
  decide +kernel

/-- R208: BODY 8 and COUNT 8 push a loop over addresses 1 to 9. -/
theorem test_loopi : (tileAfter (.loopi 0 .none) (atWord 0x10008008#32)).map (fun x => (x.core.pc, x.core.loops)) = some (1, [⟨1, 9, 0, 7⟩]) := by
  decide +kernel

/-- A tile at address 9 in the loops `ls`. -/
def inLoops (ls : List Loop) : Tile := withCore (fun c => { c with pc := 9, loops := ls }) (atWord 0)

theorem witness_CompletionFollowsTheLoopStack :
    (∀ l ∈ (inLoops []).core.loops, l.last ≠ (inLoops []).core.pc.toNat) ∧ (inLoops []).core.pc.toNat < 4095
    ∧ (inLoops [⟨1, 9, 0, 7⟩]).core.loops = ⟨1, 9, 0, 7⟩ :: [] ∧ (⟨1, 9, 0, 7⟩ : Loop).last = (inLoops [⟨1, 9, 0, 7⟩]).core.pc.toNat
    ∧ (inLoops [⟨1, 9, 7, 0⟩, ⟨0, 9, 0, 1⟩]).core.loops = ⟨1, 9, 7, 0⟩ :: [⟨0, 9, 0, 1⟩]
    ∧ (withCore (fun c => { c with pc := 4095 }) (atWord 0)).core.loops = [] := by decide

/-- R208: an inner loop that is done passes on to the outer back-edge. -/
theorem test_sharedLastInstruction :
    (inLoops [⟨5, 9, 2, 0⟩, ⟨1, 9, 0, 1⟩]).finish.1.core.pc = 1 ∧ (inLoops [⟨5, 9, 2, 0⟩, ⟨1, 9, 0, 1⟩]).finish.1.core.loops = [⟨1, 9, 1, 0⟩] := by
  decide +kernel

/-! Faults. -/

def fourLoops (x : Tile) : Tile := withCore (fun c => { c with loops := List.replicate 4 ⟨20, 30, 0, 1⟩ }) x
def inHandler (x : Tile) : Tile := withCore (fun c => { c with handler := some (1, 0) }) x

theorem witness_FaultingInstructionsStopTheContext :
    meets (atWord (opWord 0x3E (0x3FF * 2 ^ 12))) 0x3E (fun _ => []) = true
    ∧ starts (onTile (atWord 0)) 0 0 [] = true ∧ opcListed (wOpc 0) = false
    ∧ meets (scalars 4096 0 (atWord (rWord 0x03 0 1 0 0))) 0x03 (fun w => [wA w]) = true
    ∧ meets (fourLoops (atWord 0x10008008#32)) 0x04 (fun _ => []) = true
    ∧ meets (fourLoops (scalars 1 0 (atWord (opWord 0x05 (1 * 2 ^ 17))))) 0x05 (fun w => [wD w]) = true
    ∧ [0x20, 0x21].all (fun opc => meets (atWord (rWord opc 3 1 0 7)) opc (fun w => [32 + wA w % 16, wD w])) = true
    ∧ (((atWord (rWord 0x20 3 1 0 7)).core.a 1) + wImm12 (rWord 0x20 3 1 0 7)).toNat % 8 ≠ 0
    ∧ meets (atWord (opWord 0x31 (3 * 2 ^ 17 + 2 ^ 16 + 1))) 0x31 ctrReads = true
    ∧ meets (atWord (opWord 0x2A (63 * 2 ^ 16))) 0x2A (fun _ => []) = true
    ∧ meets (inHandler (atWord (opWord 0x3C 0))) 0x3C (fun _ => []) = true
    ∧ meets (inHandler (atWord (opWord 0x2B 0))) 0x2B (fun w => [32 + recvAd w, recvSd w]) = true
    ∧ meets (atWord (opWord 0x2C 0)) 0x2C (fun _ => []) = true := by decide +kernel

/-- R227, R228: TRAP leaves a report whose DATA holds FCODE, CODE and the word. -/
theorem test_trapReports : (match exec (.trap 0 .none) (onTile (atWord (opWord 0x3E (5 * 2 ^ 12)))) with
    | .next s => s.out.map (fun o => match o with
      | .report r u => (r.code, r.flags, r.data.toNat % 2 ^ 32, r.data.toNat / 2 ^ 32, u)
      | _ => (0, 0, 0, 0, false))
    | _ => []) = [(0x1001, 3, 0xB + 5 * 256, (opWord 0x3E (5 * 2 ^ 12)).toNat, true)] := by decide +kernel

/-! Tile memory, the operation queue, messages. -/

theorem witness_ScalarLoadsAndStoresMoveEightBytes :
    [0x20, 0x21].all (fun opc => meets (atWord (rWord opc 3 1 0 8)) opc (fun w => [32 + wA w % 16, wD w])) = true
    ∧ ((atWord (rWord 0x20 3 1 0 8)).core.a 1 + wImm12 (rWord 0x20 3 1 0 8)).toNat = 8
    ∧ (∀ o ∈ (atWord 0).exec ++ (atWord 0).fifo, anyOverlap (o.res (atWord 0)).2 (lines 8 8) = false) ∧ badWords (atWord 0).bad 8 8 = [] := by
  decide +kernel

theorem test_ldsIsLittleEndian :
    sAfter (.lds 0 .none .none) 3 { atWord (rWord 0x20 3 1 0 8) with mem := [(8, 0x01), (15, 0x80)] } = some 0x8000000000000001
    ∧ ((tileAfter (.sts 0 .none) (withCore (fun c => { c with sreg := [(3, 0x0102)] }) (atWord (rWord 0x21 3 1 0 8)))).map
        (fun x => x.mem)) = some [(8, 0x02), (9, 0x01)] := by decide +kernel

/-- ISSUE on port `p` with word 0 in s12 and word 1 in s13. -/
def issueTile (p : Nat) (w0 w1 : W64) : Tile :=
  withCore (fun c => { c with sreg := [(12, w0), (13, w1)] }) (atWord (opWord 0x24 (p * 2 ^ 19 + 12 * 2 ^ 14)))

/-- A legal operation for each port: a FILL of 64 bytes, the MMA of the worked example, its DRAIN, an ADD of lanes, a MOVE of 64 bytes of
job memory. -/
def legalWords : List (Nat × W64 × W64) :=
  [(0, 4 * 2 ^ 60, 0), (1, 4 * 2 ^ 60, 0), (2, 0x120CC07F60000000, 0x0201C01F1C000000), (3, 0x5004000200000000, 0),
   (4, 0x08 * 2 ^ 58, 0), (5, 7 * 2 ^ 60 + 2 * 2 ^ 57 + 63 * 2 ^ 30, 0)]

theorem witness_issue : legalWords.all (fun q => let x := issueTile q.1 q.2.1 q.2.2
    meets x 0x24 (fun _ => 12 :: if q.1 ≤ 1 then [] else [13]) && wField x.word 21 19 == q.1
      && issueLegal 0 q.1 x.img State.reset.member (x.core.s 12) (if q.1 ≤ 1 then 0 else x.core.s 13)) = true := by decide +kernel

theorem test_issueTakesTheNextNumber :
    (tileAfter (.issueIbex 0 .none) (issueTile 2 0x120CC07F60000000 0x0201C01F1C000000)).map (fun x => (x.fifo, x.enq))
      = some ([⟨1, 2, 0, .two 0x120CC07F60000000 0x0201C01F1C000000 0⟩], 1) := by decide +kernel

/-- A send endpoint of largest message 1,024 bytes with 32 units of credit, and a receive endpoint of a ring of 4,096 bytes. -/
def sendEp : Endpoint := { Endpoint.unused with cfg := BitVec.ofNat 32 (2 ^ 31 + 15 * 2 ^ 15), peer := 0x800#32, credit := 32, creditMax := 32 }
def recvEp : Endpoint := { Endpoint.unused with cfg := BitVec.ofNat 32 (2 ^ 31 + 2 ^ 30 + 12 * 2 ^ 23 + 15 * 2 ^ 15), peer := 0x10#32 }

/-- The sender of the message in the ring, and the message: HIDX 5, 100 bytes, three units from unit 0. -/
def sender : EndpointId := ⟨0, 1, 2⟩
def oneRec : Rec := { start := 0, units := 3, wrap := 0, who := sender, hdr := headerWord sender 5 100, len := 100, left := 0, epoch := 0 }

/-- A tile with the two endpoints at 0 and 63, holding the message. -/
def chanTile (w : W32) : Tile :=
  { atWord w with
    eps := [(0, sendEp), (63, { recvEp with wr := 3, recs := [oneRec] })]
    img := { Image.none with handlers := [(5, 0x123)] }
    mem := writeBytes 0 0x10000 (toBytes 8 (headerWord sender 5 100).toNat) [] }

/-- SEND on endpoint 0 of s1 bytes from a1; RELEASE, RECV with and without TRY, and DISPATCH on endpoint 63. -/
def sendWord : W32 := opWord 0x28 (1 * 2 ^ 12 + 1 * 2 ^ 7)
def releaseWord : W32 := opWord 0x2A (63 * 2 ^ 16)
def recvWord (ch try_ : Nat) : W32 := opWord 0x29 (ch * 2 ^ 16 + 2 * 2 ^ 12 + 3 * 2 ^ 7 + try_ * 2 ^ 6 + 4 * 2 ^ 3)
def dispatchWord : W32 := opWord 0x2B (63 * 2 ^ 16 + 2 * 2 ^ 12 + 3 * 2 ^ 7)

theorem witness_sendAndRelease :
    (let x := scalars 1024 0 (chanTile sendWord)
     meets x 0x28 (fun w => [32 + wField w 15 12, wField w 11 7]) = true ∧ (x.waiting 5).length < 16
       ∧ (x.core.s 1).toNat = 1024 ∧ 1024 ≤ (x.ep (chOf x.word)).maxMsg ∧ (x.core.a 1).toNat = 0)
    ∧ (let x := withCore (fun c => { c with held := BitVec.ofNat 64 (2 ^ 63) }) (chanTile releaseWord)
       meets x 0x2A (fun _ => []) = true ∧ x.isHeld (chOf x.word) = true ∧ (x.waiting 5).length < 16)
    ∧ (let o : Op := ⟨0, 5, 0, .release 63⟩
       let x := withCore (fun c => { c with wait := .enqueue o }) (chanTile releaseWord)
       x.goes = true ∧ x.core.wait = .enqueue o ∧ (x.waiting o.port).length < 16 ∧ wOpc x.word ≠ 0x2E ∧ wOpc x.word ≠ 0x2C) := by
  decide +kernel

theorem witness_ReceiveTakesTheHeadMessage :
    (let x := chanTile (recvWord 63 0)
     meets x 0x29 (fun w => [32 + recvAd w, recvSd w]) = true ∧ x.headMsg (chOf x.word) = some oneRec)
    ∧ (let x := chanTile (recvWord 0 1)
       meets x 0x29 (fun w => [32 + recvAd w, recvSd w]) = true ∧ x.headMsg (chOf x.word) = none ∧ bit x.word.toNat 6 = true)
    ∧ (let x := chanTile (recvWord 0 0)
       meets x 0x29 (fun w => [32 + recvAd w, recvSd w]) = true ∧ x.headMsg (chOf x.word) = none ∧ bit x.word.toNat 6 = false)
    ∧ (let x := chanTile dispatchWord
       meets x 0x2B (fun w => [32 + recvAd w, recvSd w]) = true ∧ x.core.handler = none ∧ x.headMsg (chOf x.word) = some oneRec
         ∧ mapFind x.img.handlers (bits (headWord (onTile x) x 63 oneRec).toNat 59 54) = some 0x123)
    ∧ (let x := withCore (fun c => { c with wait := .message 63 2 3 false }) (chanTile (recvWord 63 0))
       x.phase = phRunning ∧ x.core.stopped = false ∧ x.core.wait = .message 63 2 3 false ∧ x.headMsg 63 = some oneRec) := by decide +kernel

/-- R217, R219, R274: the payload begins one unit after the header, at base 0x10000 + 64; the handler of HIDX 5 runs. -/
theorem test_dispatchEntersTheHandler : (tileAfter (.dispatch 0 .none) (chanTile dispatchWord)).map
    (fun x => (x.core.pc, x.core.a 2, x.core.handler, x.isHeld 63)) = some (0x123, 0x10040, some (1, 63), true) := by decide +kernel

/-- The words of ATOM with each AOP, ORD 3 and SZ 1. -/
def atomWord (aop : Nat) : W32 := opWord 0x2E (3 * 2 ^ 17 + 15 * 2 ^ 13 + 4 * 2 ^ 8 + aop * 2 ^ 4 + 3 * 2 ^ 2 + 2)

theorem witness_atomics : (List.range 12).all (fun aop =>
    meets (atWord (atomWord aop)) 0x2E (fun w => [32 + wField w 16 13, wField w 12 8, wD w]) && wField (atomWord aop) 7 4 == aop) = true := by
  decide +kernel

theorem witness_CounterAndFlagInstructionsComplete :
    meets (atWord 0xC0060800#32) 0x30 ctrReads = true
    ∧ (let x := { atWord (opWord 0x31 (3 * 2 ^ 17 + 2 ^ 16 + 8)) with arr := [(3, 8)] }
       meets x 0x31 ctrReads = true ∧ (ctrVal x.word x).toNat ≤ mapGet 0 x.arr (wD x.word))
    ∧ (let x := withCore (fun c => { c with wait := .counter 3 8 }) { atWord 0 with arr := [(3, 8)] }
       x.goes = true ∧ x.core.wait = .counter 3 8 ∧ (8 : W64).toNat ≤ mapGet 0 x.arr (3 : BitVec 5).toNat)
    ∧ [0x34, 0x35, 0x36, 0x3C].all (fun opc => meets (atWord (opWord opc 0)) opc (fun _ => [])) = true
    ∧ (atWord (opWord 0x3C 0)).core.handler = none
    ∧ (let x := withCore (fun c => { c with wait := .flag 5 false }) (atWord 0)
       x.goes = true ∧ x.core.wait = .flag 5 false ∧ x.flags.getLsbD 5 = false) := by decide +kernel

/-- R221: CSUB leaves old − value; above the count it raises the counter fault and leaves the counter. -/
theorem test_csub :
    ((tileAfter (.csub 0 .none) { atWord (opWord 0x31 (3 * 2 ^ 17 + 2 ^ 16 + 8)) with arr := [(3, 9)] }).map (fun x => (x.arr, x.core.pc)))
      = some ([(3, 1)], 1)
    ∧ ((tileAfter (.csub 0 .none) { atWord (opWord 0x31 (3 * 2 ^ 17 + 2 ^ 16 + 8)) with arr := [(3, 7)] }).map (fun x => (x.arr, x.core.stopped)))
      = some ([(3, 7)], true) := by decide +kernel

theorem witness_FencesWaitForTheirAccesses :
    [1, 2, 3].all (fun k => meets (atWord (opWord 0x38 (k * 2 ^ 20))) 0x38 (fun _ => []) && wField (opWord 0x38 (k * 2 ^ 20)) 21 20 == k) = true
    ∧ (let x := withCore (fun c => { c with wait := .fence true true }) (atWord 0)
       x.goes = true ∧ x.core.wait = .fence true true ∧ (∀ o ∈ x.exec ++ x.fifo, o.writes = false ∧ o.reads = false) ∧ x.unacked = []) := by
  decide +kernel

/-! ## The engines -/

/-- The operation of port `p` at the head of its FIFO, and a tile that holds it alone. -/
def opOf (p : Nat) (w0 w1 : W64) : Op := ⟨1, p, 0, if p ≤ 1 then .fill w0 else if p = 5 then .net w0 w1 else .two w0 w1 0⟩
def opTile (o : Op) : Tile := { atWord 0 with fifo := [o], enq := 1 }

/-- The operation issues. -/
def issues (o : Op) : Bool := (opTile o).issuable o.port == some o

theorem issues_sound {o : Op} (h : issues o = true) : Issues (onTile (opTile o)) 0 o.port o := eq_of_beq h

/-- FILL of both buffers with LEN 0, SEG 63. -/
def fillWord : W64 := BitVec.ofNat 64 (4 * 2 ^ 60 + 63 * 2 ^ 54)

theorem witness_FillsReachTheirBuffer :
    [0, 1].all (fun p => issues (opOf p fillWord 0)) = true ∧ (opTile (opOf 0 fillWord 0)).bad = []
    ∧ [0, 1].all (fun p => { atWord 0 with exec := [opOf p fillWord 0] }.executing p == some (opOf p fillWord 0)) = true := by decide +kernel

/-- R164: a fill of segment 63 writes 64 bytes from byte 64,512 of the buffer on. -/
theorem test_fill : (tileAfter (.fill 0 true .none) { opTile (opOf 1 fillWord 0) with mem := [(0, 0xAB), (63, 0xCD)] }).map
    (fun x => (x.bufB.byte 64512, x.bufB.byte 64575, x.exec)) = some (0xAB, 0xCD, [opOf 1 fillWord 0]) := by decide +kernel

/-- MMA of two BF16 images of 8 × 32 and 32 × 8, RAWACC and CLEAR. -/
def mmaW0 : W64 := BitVec.ofNat 64 (1 * 2 ^ 60 + 2 ^ 57 + 1 * 2 ^ 50 + 1 * 2 ^ 46 + 2 * 2 ^ 44 + 2 * 2 ^ 42 + (1024 - 40) * 2 ^ 26)
def mmaW1 : W64 := BitVec.ofNat 64 (7 * 2 ^ 32)
def rawW0 : W64 := BitVec.ofNat 64 (2 * 2 ^ 60 + 10 * 2 ^ 50)
def clearW0 : W64 := BitVec.ofNat 64 (3 * 2 ^ 60)

theorem witness_BankOperationsAddToTheirOutputs :
    [(mmaW0, mmaW1), (rawW0, 0), (clearW0, 0)].all (fun w => issues (opOf 2 w.1 w.2) && decide ((ibexF w.1 w.2).m ≤ 32 ∧ (ibexF w.1 w.2).n ≤ 32)
      && ibexLegal (ibexF w.1 w.2)) = true
    ∧ (opTile (opOf 2 mmaW0 mmaW1)).bufA.bad = [] ∧ (opTile (opOf 2 mmaW0 mmaW1)).bufB.bad = []
    ∧ (ibexF mmaW0 mmaW1).opc = 1 ∧ (ibexF rawW0 0).opc = 2 ∧ (ibexF clearW0 0).opc = 3
    ∧ { atWord 0 with exec := [opOf 2 mmaW0 mmaW1] }.executing 2 = some (opOf 2 mmaW0 mmaW1) := by decide +kernel

/-- Two images of the BF16 value 1.0, 0x3F80, in both buffers. -/
def ones (n : Nat) : SMap Byte := (List.range n).map (fun i => (i, if i % 2 = 0 then 0x80#8 else 0x3F#8))

/-- R134: 32 products of 1.0 sum to 32, a multiple of 2^−40: 2^45. -/
theorem test_mma : (tileAfter (.mma 0 .none none []) { opTile (opOf 2 mmaW0 mmaW1) with
      bufA := ⟨0, ones 512, []⟩, bufB := ⟨0, ones 512, []⟩ }).map
    (fun x => (((x.bank 0).cell 0).value, ((x.bank 0).cell 0).groups, (x.bank 0).anchor)) = some (0x200000000000, 1, 984) := by decide +kernel

/-- A drain of a zero bank as FP32 to tile memory and to the vector file, 8 × 8. -/
def drainMem : W64 := BitVec.ofNat 64 (5 * 2 ^ 60 + 2 * 2 ^ 48 + 2 * 2 ^ 46 + 1 * 2 ^ 33)
def drainVec : W64 := BitVec.ofNat 64 (6 * 2 ^ 60 + 2 * 2 ^ 48 + 2 * 2 ^ 46 + 28 * 2 ^ 33)

theorem witness_DrainsWriteAndAreCompared :
    [drainMem, drainVec].all (fun w => issues (opOf 3 w 0)) = true ∧ (drainF drainMem 0).opc = 5 ∧ (drainF drainVec 0).opc = 6
    ∧ (drainF drainVec 0).n ≤ 32 ∧ { atWord 0 with exec := [opOf 3 drainMem 0] }.executing 3 = some (opOf 3 drainMem 0)
    ∧ (let x := { atWord 0 with img := { Image.none with dup := some 1 }, dupOwn := [⟨1, 0, 0, 5⟩] }
       x.img.dup.isSome = true ∧ x.dupPeer = [] ∧ x.dupOwn = ⟨1, 0, 0, 5⟩ :: [] ∧ (∀ o ∈ x.exec, o.n ≠ (1 : Nat)) ∧ x.img.dup = some 1) := by
  decide +kernel

/-! ## TAHR -/

/-- A form V word of `opc` on v0. -/
def laneWord (opc : Nat) : W64 := BitVec.ofNat 64 (opc * 2 ^ 58)

/-- Every form V code of R183. -/
def laneCodes : List Nat :=
  (List.range 14).map (· + 0x08) ++ (List.range 7).map (· + 0x18) ++ (List.range 6).map (· + 0x20) ++ (List.range 11).map (· + 0x28)
  ++ [0x34, 0x35, 0x38, 0x39, 0x3A, 0x3B, 0x3C, 0x3D]

theorem witness_lanes : laneCodes.all (fun opc => issues (opOf 4 (laneWord opc) 0) && bits (laneWord opc).toNat 63 58 == opc) = true := by
  decide +kernel

/-- The checks: entry 0, one lane that holds 0. -/
theorem witness_PassingChecksOnlyAddToTheirStatistic :
    (let w := BitVec.ofNat 64 (0x3C * 2 ^ 58)
     let x := { opTile (opOf 4 w 0) with vec := ⟨0, [(0, 0)]⟩ }
     x.issuable 4 = some (opOf 4 w 0) ∧ checkLanes x (tahrF w 0) = [0] ∧ chkrFails (mapGet 0 x.img.checks 0) 0 = false)
    ∧ bit (tahrF (BitVec.ofNat 64 (0x3D * 2 ^ 58)) 0).ctl 13 = false
    ∧ (let w := BitVec.ofNat 64 (0x3D * 2 ^ 58 + 2 ^ 13)
       let x := { opTile (opOf 4 w 0) with vec := ⟨0, [(0, 0)]⟩ }
       x.issuable 4 = some (opOf 4 w 0) ∧ bit (tahrF w 0).ctl 13 = true
         ∧ ((checkLanes x (tahrF w 0)).foldl Stat.add ⟨0, 0, 0⟩).passes (mapGet 0 x.img.checks 0) = true) := by decide +kernel

/-- LD, ST of FP32, LDMX and STMX of format 3. -/
def formM : List W64 := [BitVec.ofNat 64 (1 * 2 ^ 58), BitVec.ofNat 64 (2 * 2 ^ 58), BitVec.ofNat 64 (3 * 2 ^ 58 + 3 * 2 ^ 49 + 2 ^ 19),
  BitVec.ofNat 64 (4 * 2 ^ 58 + 3 * 2 ^ 49 + 2 ^ 19)]

theorem witness_VectorMovesLoadAndStore :
    formM.all (fun w => issues (opOf 4 w 0)) = true ∧ formM.map (fun w => bits w.toNat 63 58) = [1, 2, 3, 4]
    ∧ isMx (tahrF (BitVec.ofNat 64 (3 * 2 ^ 58 + 3 * 2 ^ 49 + 2 ^ 19)) 0).fmt = true ∧ (Num.MxElem.ofCode 3).isSome = true
    ∧ { atWord 0 with exec := [opOf 4 (laneWord 8) 0] }.executing 4 = some (opOf 4 (laneWord 8) 0) := by decide +kernel

/-- v0 with lanes 0 and 1 as given. -/
def lanes (opc : Nat) (a b : W32) : Tile := { opTile (opOf 4 (laneWord opc) 0) with vec := ⟨0, (List.range 64).map (fun n => (n, if n = 1 then b else a))⟩ }

/-- R184, R186: 1.5 + 1.5 = 3.0, the integer sum, the sign cleared or the canonical NaN. -/
theorem test_lanes :
    ((tileAfter (.fadd 0 .none) (lanes 0x08 0x3FC00000 0x7F800000)).map (fun x => (x.vec.lane 0 0, x.vec.lane 0 1))) = some (0x40400000, 0x7F800000)
    ∧ ((tileAfter (.iadd 0 .none) (lanes 0x28 0x80000000 3)).map (fun x => (x.vec.lane 0 0, x.vec.lane 0 1))) = some (0, 6)
    ∧ ((tileAfter (.fabs 0 .none) (lanes 0x0E 0x80000000 0xFFFFFFFF)).map (fun x => (x.vec.lane 0 0, x.vec.lane 0 1))) = some (0, 0x7FC00000) := by
  decide +kernel

/-! ## The NET port and the Commons -/

/-- Pages 0, 1 and 2 of job memory: versioned, unversioned and constant, homed here at LPNs 0, 1 and 2. -/
def threeRanges : SMap Range := [(0, ⟨1, 0, 0, 0, 1, 1, 0, 0⟩), (1, ⟨2, 0, 0, 1, 1, 1, 0, 1⟩), (2, ⟨3, 0, 0, 2, 1, 1, 0, 2⟩)]

/-- MOVEs of 64 bytes: DIR 0 and 1 at the Commons, 2 and 3 at job address 0, 4 to address 0x40 of tile (1, 0) with counter 3; a region
fill; RREL of region 0. -/
def moveW0 (dir : Nat) : W64 := BitVec.ofNat 64 (7 * 2 ^ 60 + dir * 2 ^ 57 + 63 * 2 ^ 30)
def remoteW0 : W64 := BitVec.ofNat 64 (7 * 2 ^ 60 + 4 * 2 ^ 57 + 3 * 2 ^ 47 + 2 ^ 46 + 63 * 2 ^ 30)
def remoteW1 : W64 := BitVec.ofNat 64 (1 * 2 ^ 26 + 0x40)
def regionW0 : W64 := BitVec.ofNat 64 (7 * 2 ^ 60 + 2 ^ 56 + 63 * 2 ^ 30)
def rrelW0 : W64 := BitVec.ofNat 64 (8 * 2 ^ 60 + 1 * 2 ^ 37)
def atomOf (aop : BitVec 4) : Op := ⟨1, 5, 0, .atom 8 aop true 1 0 3⟩

/-- The tile's region 0: 4,096 bytes of records of 64 bytes, of which one is filled. -/
def regionTile (o : Op) : Tile :=
  { opTile o with img := { Image.none with regions := [(0, BitVec.ofNat 32 (2 ^ 31 + 12 * 2 ^ 26 + 6 * 2 ^ 22))] }, tails := [(0, 1)] }

theorem witness_NetOperationsSendTheirAccess :
    [moveW0 2, moveW0 3, remoteW0].all (fun w => issues (opOf 5 w (if w = remoteW0 then remoteW1 else 0))) = true
    ∧ ((moveF (moveW0 2) 0).opc, (moveF (moveW0 2) 0).dir, (moveF (moveW0 2) 0).rgn, (moveF (moveW0 2) 0).len) = (7, 2, false, 64)
    ∧ (moveF (moveW0 3) 0).dir = 3 ∧ (moveF remoteW0 remoteW1).dir = 4 ∧ { State.reset with ranges := threeRanges }.jobOk 0 = true
    ∧ (regionTile (opOf 5 rrelW0 0)).issuable 5 = some (opOf 5 rrelW0 0) ∧ bits rrelW0.toNat 63 60 = 8
    ∧ (rrelF rrelW0).count ≤ (mapGet 0 (regionTile (opOf 5 rrelW0 0)).tails 0 + 65536 - 0) % 65536
    ∧ issues (atomOf 4) = true ∧ { State.reset with ranges := threeRanges }.jobOk 8 = true ∧ (opTile (atomOf 4)).bad = [] := by decide +kernel

theorem test_remoteWriteLeaves : sent (.moveRemoteWrite 0 .none) (onTile { opTile (opOf 5 remoteW0 remoteW1) with mem := [(0, 0xAB)] })
    = [.remoteWrite 0 0 1 1 0x80 0x40 (0xAB :: List.replicate 63 0) [] (some 3)] := by decide +kernel

theorem witness_CommonsMovesQueueAtTheirSlices :
    [moveW0 0, moveW0 1].all (fun w => issues (opOf 5 w (2 ^ 31))) = true ∧ commonsParts 257 (2 ^ 31) 64 = [(2 ^ 31, 64)]
    ∧ (regionTile (opOf 5 regionW0 0)).issuable 5 = some (opOf 5 regionW0 0) ∧ (moveF regionW0 0).rgn = true
    ∧ (moveF (moveW0 1) 0).taddr + (moveF (moveW0 1) 0).len ≤ 2 ^ 21
    ∧ (decide (32 ≤ (commonsAt (2 ^ 31)).1) = isEast 0 ∧ State.reset.meshStopped true = false) := by decide +kernel

/-- A tile with the operation executing. -/
def running (o : Op) : Tile := { atWord 0 with exec := [o], enq := 1 }

theorem witness_NetworkAnswersEndTheirOperation :
    (running (opOf 5 (moveW0 2) 0)).execBySeq 1 = some (opOf 5 (moveW0 2) 0) ∧ (List.replicate 64 (0 : Byte)).length = (moveF (moveW0 2) 0).len
    ∧ (moveF (moveW0 2) 0).cen = false ∧ isAtom (opOf 5 (moveW0 2) 0) = false ∧ (running (opOf 5 (moveW0 2) 0)).unacked = []
    ∧ (running (atomOf 4)).execBySeq 1 = some (atomOf 4) ∧ (0 : Byte) = (running (atomOf 4)).gen ∧ (1 : Byte) ≠ (running (atomOf 4)).gen
    ∧ (let u : Unacked := ⟨1, 1, none, opOf 5 (moveW0 3) 0⟩
       let x := { running (opOf 5 (moveW0 3) 0) with unacked := [u] }
       x.unacked.find? (fun v => BitVec.ofNat 16 v.n == (1 : W16)) = some u ∧ x.unacked.find? (fun v => v.n == u.n) = some u) := by
  decide +kernel

/-- A tile with a window of bytes 0 to 4,095. -/
def windowTile : Tile := { atWord 0 with img := { Image.none with windows := [(0, 4096)] } }

theorem witness_RemoteWritesReachTileMemory :
    ((onTile windowTile).answersAt 0 && windowTile.inWindow 4095 2) = false ∧ (onTile windowTile).answersAt 0 = true ∧ windowTile.inWindow 4094 2 = true
    ∧ windowTile.gather = [] ∧ mapGet 0 windowTile.arr 31 < 2 ^ 32 - 1
    ∧ (let g : Gather := ⟨0, [(0, 0xAB)], [(1, 0, 7, none)], false, []⟩
       let x := { windowTile with gather := [g] }
       x.gather = [g] ∧ g.acks = [(1, 0, 7, none)] ∧ g.bad = [] ∧ x.bad = [])
    ∧ ((0 : Byte) = ((onTile windowTile).tile 1).gen ∧ (1 : Byte) ≠ ((onTile windowTile).tile 1).gen ∧ windowTile.phase ≠ phRolling) := by decide +kernel

theorem test_remoteWriteArrival :
    ((tileAfter (.remoteWriteArrival 0 1 0 7 4094 [0xAB, 0xCD] (some 31) []) windowTile).map (fun x => (x.mem, x.arr)))
      = some ([(4094, 0xAB), (4095, 0xCD)], [(31, 1)])
    ∧ ((tileAfter (.remoteWriteArrival 0 1 0 7 4095 [0xAB, 0xCD] none []) windowTile).map (fun x => (x.mem, x.arr))) = some ([], []) := by
  decide +kernel

def sliceRead : SliceReq := ⟨0, 0, 1, 64, 64, 128, none⟩
def sliceWrite : SliceReq := ⟨0, 0, 1, 64, 2, 0, some ([0xAB, 0xCD], [])⟩

theorem witness_CommonsSliceServesItsRequest :
    (let s : State := { State.reset with sliceQ := [(126, [sliceRead])] }
     mapGet [] s.sliceQ 126 = [sliceRead] ∧ mapGet [] s.sliceQ 127 = [] ∧ s.meshStopped (decide (32 ≤ (63 : BitVec 6).toNat)) = false
      ∧ 2 * (63 : BitVec 6).toNat + sliceRead.t.toNat / 64 / 16 = 126) ∧ State.reset.commonsBad = []
    ∧ (running (opOf 5 (moveW0 0) 0)).execBySeq sliceRead.seq = some (opOf 5 (moveW0 0) 0) ∧ sliceRead.gen = (running (opOf 5 (moveW0 0) 0)).gen
    ∧ sliceWrite.data = some ([0xAB, 0xCD], [])
    ∧ ({ running (opOf 5 (moveW0 1) 0) with unacked := [⟨1, 1, none, opOf 5 (moveW0 1) 0⟩] } : Tile).unackedBySeq 1 = some 1 := by decide +kernel

/-! ## Steps -/

/-- The state after reset with the fields `fs` set. -/
def withFields (fs : List (Fld × Nat)) (s : State) : State := fs.foldl (fun s p => s.fset p.1 p.2) s

def ctxImage : Image := { Image.none with ctx := true, entry := 5, resume := 9 }
def stepRuns (x : Tile) : State := withFields [(F.STEP_STATUS.PHASE, phStepRunning), (F.STEP_CURRENT.STEP, 3)] (onTile x)

theorem witness_TileStepEventsMoveThePhase :
    (let x := { Tile.reset with phase := phGate, img := ctxImage, resume := .resume }
     (stepRuns x).markDue x = true ∧ x.resume ≠ .next)
    ∧ (let x := { Tile.reset with phase := phGate, img := ctxImage, resume := .entry }
       (stepRuns x).markDue x = true ∧ x.resume = .entry)
    ∧ (let x := { Tile.reset with phase := phEnding, freeze := true }
       x.phase = phEnding ∧ x.drained = true ∧ x.dupOwn = [] ∧ x.freeze = true)
    ∧ (let x := { Tile.reset with phase := phRunning, img := ctxImage }
       x.inStep = true ∧ (0 : TileId) ∈ ({ onTile x with rolling := [0] } : State).rolling)
    ∧ (let x := { Tile.reset with phase := phRolling, img := ctxImage }
       x.phase = phRolling ∧ x.exec = [] ∧ ∀ u ∈ ({ onTile x with rolling := [0] } : State).rolling, (({ onTile x with rolling := [0] } : State).tile u).inStep = false)
    ∧ (onTile { Tile.reset with phase := phGate }).tileServes 0 = true ∧ { Tile.reset with phase := phGate }.counting = false := by
  decide +kernel

/-- R118, R119: the context resumes at its resume point, clean and under the step's number. -/
theorem test_stepStartMark : (match exec (.stepStartMark 0) (stepRuns { Tile.reset with phase := phGate, img := ctxImage, resume := .resume, dirty := true }) with
    | .next s => some ((s.tile 0).phase == phRunning, (s.tile 0).core.pc, (s.tile 0).dirty, (s.tile 0).step)
    | _ => none) = some (true, 9, false, 3) := by decide +kernel

/-! ## Channels and probes -/

def sendOp : Op := ⟨1, 5, 0, .send 0 0 100 0⟩
def sendTile (credit : Nat) : Tile := { opTile sendOp with eps := [(0, { sendEp with credit := credit })] }

/-- A message of 64 bytes that fits the empty ring of endpoint 63. -/
def msg64 : MsgIn := ⟨sender, 0, 5, 64, 0, 0, 0, List.replicate 64 0xAB, []⟩
def ringTile : Tile := { atWord 0 with eps := [(63, { recvEp with senders := [sender] })] }

theorem witness_CreditMovesWithMessages :
    (sendTile 3).issuable 5 = some sendOp ∧ (sendTile 3).bad = [] ∧ ((sendTile 3).ep 0).valid = true ∧ ((sendTile 3).ep 0).isRecv = false
    ∧ ((sendTile 3).ep 0).affected = false
    ∧ (let o : Op := ⟨1, 5, 0, .release 63⟩
       let x := { opTile o with eps := [(63, { recvEp with wr := 3, recs := [oneRec] })] }
       x.issuable 5 = some o ∧ (x.ep 63).recs = oneRec :: [])
    ∧ (sendTile 2).stalledSend = some (sendOp, 0) ∧ (sendTile 2).blockedSend = some (sendOp, 0) ∧ 0 < 100 := by decide +kernel

theorem witness_MessagesFillTheRing :
    (let e := ringTile.ep 63
     (onTile ringTile).staleBlock msg64.who msg64.gen = false ∧ (onTile ringTile).answersAt 0 = true ∧ e.valid = true ∧ e.isRecv = true ∧ e.inCommons = false ∧ e.affected = false ∧ msg64.who ∈ e.senders ∧ 0 < msg64.len
      ∧ msg64.len ≤ e.maxMsg ∧ msg64.data.length = msg64.len ∧ 1 + cdiv msg64.len 64 ≤ e.units - e.wr % e.units
      ∧ e.used + (1 + cdiv msg64.len 64) ≤ e.units ∧ e.wr < 2 * e.units ∧ ringTile.skews = [])
    ∧ (let e : Endpoint := { recvEp with wr := 3, recs := [{ oneRec with left := 64 }] }
       e.partOf sender = some { oneRec with left := 64 } ∧ (0 : Nat) % 256 = 0 ∧ 0 < (List.replicate 64 (0 : Byte)).length)
    ∧ (let r : Rec := { oneRec with len := 300, left := 44 }
       ({ recvEp with wr := 6, recs := [r] } : Endpoint).partOf sender = some r ∧ 256 + (List.replicate 44 (0 : Byte)).length = min (256 + 256) r.len
         ∧ (List.replicate 44 (0 : Byte)).length ≤ r.left)
    ∧ (ringTile.ep 63).partOf sender = none := by decide +kernel

/-- R275, R277: HEADER in the first unit, the payload in the next, WR past both, and the acknowledgement. -/
theorem test_messagePlacement : (match exec (.messagePlacement 0 63 [msg64]) (onTile ringTile) with
    | .next s => some (((s.tile 0).ep 63).wr, (s.tile 0).readMem 0x10000 8 == toBytes 8 (headerWord sender 5 64).toNat, (s.tile 0).readMem 0x10040 1, s.out)
    | _ => none) = some (2, true, [0xAB], [.messageAck sender 0 0 false]) := by decide +kernel

theorem witness_QueueDepthIsSampledAndShown :
    (withFields [(F.WV_QS_CTRL.EN, 1)] (onTile ringTile)).fbit F.WV_QS_CTRL.EN = true ∧ ringTile.phase = phRunning
    ∧ bits (BitVec.ofNat 32 (2 ^ 30 + 24)).toNat 4 0 = 24 ∧ bit (BitVec.ofNat 32 (2 ^ 30 + 8)).toNat 30 = true
    ∧ bits (BitVec.ofNat 32 (2 ^ 30 + 8)).toNat 4 0 = 8
    ∧ bits (5 : W32).toNat 31 30 = 0 ∧ State.reset.fbit F.WV_QS_STATUS.BUSY = false
    ∧ (withFields [(F.WV_QS_STATUS.BUSY, 1)] State.reset).fbit F.WV_QS_STATUS.BUSY = true
    ∧ ({ State.reset with snapshot := some ([], true, false) } : State).snapshot = some ([], true, false) := by decide +kernel

/-! ## Registers -/

theorem witness_RegisterFieldsTakeTheirAccessKind :
    Rising State.reset.regs ∧ (2 ^ 16 - 1 : Nat) < 2 ^ F.STEP_INTERVAL.K.width ∧ F.STEP_INTERVAL.K.acc = .rw
    ∧ (F.HQ_IRQ_CAUSE.MBX.acc = .w1c ∧ State.reset.fget F.HQ_IRQ_CAUSE.MBX < 2 ^ F.HQ_IRQ_CAUSE.MBX.width)
    ∧ F.STEP_CURRENT.STEP.acc = .ro ∧ ({ F.STEP_INTERVAL.K with acc := .w1s } : Fld).acc = .w1s := ⟨by unfold Rising; decide +kernel, by decide +kernel⟩

/-- A device that serves its host: on, the lead, READY. -/
def served : State := withFields [(F.HQ_HERD.LEAD, 1), (F.HQ_STATUS.READY, 1)] { State.reset with hostPort := true }

theorem witness_served : HostServed served := ⟨by decide +kernel, by decide +kernel, by decide +kernel, by decide +kernel, by decide +kernel⟩

/-- The value that a read by the host brings. -/
def readsAs (c : Instr) (s : State) : Option W64 :=
  match exec c s with
  | .next t => t.out.getLast?.bind (fun o => match o with | .readData _ _ v => some v | _ => none)
  | _ => none

/-- STEP_STALE reads its count; the upper half of STEP_CURRENT is latched by the read of the lower one. -/
theorem test_registerReads :
    readsAs .stepStaleRead (withFields [(F.STEP_STALE.COUNT, 7)] served) = some 7
    ∧ (match exec (.lowerHalfRead .pcie 0xB0000) (withFields [(F.STEP_CURRENT.STEP, 2 ^ 32 + 5)] served) with
       | .next s => readsAs (.upperHalfRead .pcie 0xB0004) (withFields [(F.STEP_CURRENT.STEP, 2 ^ 33)] s)
       | _ => none) = some 1 := by decide +kernel

theorem witness_RegistersAreReadAndWritten :
    (∀ r : RegD, regAt 0x70218 = some (r, 0) → ∀ f ∈ r.fields, served.fget f = 0) ∧ aligned 0xB0018 8 = true ∧ aligned 0xB0001 4 = false
    ∧ (∃ r, regAt 0xB0018 = some (r, 0) ∧ regAt (r.at 0) = some (r, 0) ∧ r.wide = false ∧ r.at 0 = 0xB0018 ∧ (0xB0018 : Nat) < tilBase)
    ∧ (∃ r, regAt 0xB0004 = some (r, 0) ∧ regAt (r.at 0) = some (r, 0) ∧ r.wide = true ∧ r.at 0 + 4 = 0xB0004 ∧ r.off ∉ hasItsRow)
    ∧ (∃ r, regAt 0x10018 = some (r, 0) ∧ r.off ∈ hasItsRow) ∧ Served .pcie served ∧ Served .stag State.reset := by
  refine ⟨?_, by decide, by decide, ⟨_, rfl, by decide +kernel⟩, ⟨_, rfl, by decide +kernel⟩, ⟨_, rfl, by decide +kernel⟩,
    fun _ => witness_served, fun h => by cases h⟩
  intro r h
  obtain rfl := (Prod.mk.inj (Option.some.inj h)).1
  decide +kernel

/-- STEP_BUDDY for the device at k = 1 of this herd, with EN and without. -/
theorem witness_StepRegistersTakeTheirValue :
    (0xFFFF : W32).toNat % 65536 ≠ 0 ∧ (0x10000 : W32).toNat % 65536 = 0 ∧ bit (0x80000001 : W32).toNat 31 = true
    ∧ State.reset.fbit F.STEP_BUDDY.EN = false
    ∧ (let b := State.reset.setBuddy 0x80000001
       let a : BuddyAnswer := ⟨1, 3, false⟩
       b.buddyOrd ≠ b.ord.toNat ∧ a.domain.toNat ≠ b.fget F.STEP_DOMAIN.DOMAIN ∧ a.sources.toNat < 4 ∧ a.storeFull = false)
    ∧ (let s := withFields [(F.STEP_BUDDY.EN, 1), (F.STEP_BUDDY.BK, 1)] State.reset
       bit (1 : W32).toNat 31 = false ∧ s.fbit F.STEP_BUDDY.EN = true ∧ s.buddyDiffers 1 = false)
    ∧ (let s := withFields [(F.HQ_HERD.N, 16), (F.WV_STATUS.LOADED, 1)] State.reset
       s.stepPhase = phStepIdle ∧ ¬ ((1 : Nat) = 1 ∧ (1 : Nat) = 0) ∧ s.fbit F.HQ_STATUS.JOB_HELD = false)
    ∧ (withFields [(F.STEP_STATUS.PHASE, phStepRunning)] State.reset).stepPhase ≠ phStepIdle := by decide +kernel

/-! ## Memory at its home -/

theorem witness_MemoryReadsWhatWasWritten : Memory.wf [(5, 0xAB), (2 ^ 44, 1)] = true := by decide +kernel

theorem test_memoryKeepsItsForm :
    writeBytes 0 4 [0, 0, 7] ([(5, 0xAB), (9, 1)] : List Host.Cell) = [(6, 7), (9, 1)] := by decide +kernel

/-- A device whose home holds pages 0, 1 and 2: sub-block 0 of the versioned page has been copied in this interval. -/
def home (stale : Bool) : State := { withFields [(F.HQ_HERD.LEAD, 1), (F.HQ_STATUS.READY, 1), (F.WV_STATUS.LOADED, 1)] State.reset with
  ranges := threeRanges
  home := { Home.empty with table :=
    [(0, { Entry.none with frame1 := 1, kind := 1, mask := 1 }), (1, { Entry.none with frame0 := 2, kind := 2, stale := stale, range := 1 }),
     (2, { Entry.none with frame0 := 3, kind := 3, range := 2 })] } }

/-- The access of `n` bytes at `a` is at home, in sub-block `sub` of page `lpn`. -/
def atHome (s : State) (a n lpn sub : Nat) : Bool :=
  !s.homeClosed && [true, false].all (fun h => !s.halfClosed h) && partsOf a n == [(a, n)] && (match s.place a with | some (_, o, l, k) => o == s.ord.toNat && l == lpn && k == sub | none => false)
    && (s.home.cowOf lpn sub).isNone

theorem atHome_sound {s : State} {a n lpn sub : Nat} (h : atHome s a n lpn sub = true) : AtHome s a n lpn sub (s.touch lpn).1 := by
  simp only [atHome, Bool.and_eq_true, beq_iff_eq, Bool.not_eq_true', List.all_cons, List.all_nil, and_true] at h
  obtain ⟨⟨⟨⟨h1, h0⟩, h2⟩, h3⟩, h4⟩ := h
  refine ⟨h1, fun x => by cases x; exact h0.2; exact h0.1, h2, ?_, rfl, by simpa using h4⟩
  split at h3
  next r o l k e =>
    simp only [Bool.and_eq_true, beq_iff_eq] at h3
    exact ⟨r, by rw [e, h3.1.1, h3.1.2, h3.2]⟩
  next => simp at h3

theorem witness_homeRequests :
    atHome (home false) 65535 1 0 0 = true ∧ atHome (home false) (2 ^ 21 - 1) 1 0 31 = true ∧ atHome (home false) (2 ^ 21) 8 1 0 = true
    ∧ atHome (home true) (2 ^ 21) 8 1 0 = true ∧ atHome (home false) (2 ^ 22) 64 2 0 = true
    ∧ ((home false).touch 0).1.kind = 1 ∧ ((home false).touch 0).1.mask.getLsbD 0 = true ∧ ((home false).touch 0).1.mask.getLsbD 31 = false
    ∧ (((home false).touch 0).2.entry 0).poison = false ∧ ((home false).touch 0).2.hostMayWrite = true
    ∧ (let s := withFields [(F.STEP_STATUS.PHASE, 1), (F.STEP_STATUS.COMMIT_BUSY, 1)] (home false)
       atHome s 65535 1 0 0 = true ∧ (s.touch 0).2.hostMayWrite = false ∧ (s.touch 0).2.fbit F.STEP_STATUS.COMMIT_BUSY = true)
    ∧ ((home false).touch 0).2.holdsHostRead (.host 0) ((home false).touch 0).1 = false
    ∧ (let s := { home false with resetRun := [.half false] }
       s.homeClosed = false ∧ (s.place 65535).map (fun p => p.2) = some (s.ord.toNat, 0, 0) ∧ s.halfClosed (decide (32 ≤ 0 % 64)) = true)
    ∧ ({ home false with resetRun := [.device] } : State).homeClosed = true
    ∧ ((home false).touch 1).1.kind = 2 ∧ ((home false).touch 1).1.stale = false ∧ ((home true).touch 1).1.stale = true
    ∧ ((home true).touch 1).1.mask.getLsbD 0 = false ∧ ((home false).touch 2).1.kind = 3
    ∧ 0 < (withFields [(F.STEP_STALE.COUNT, 1)] (home true)).fget F.STEP_STALE.COUNT
    ∧ ((home false).touch 1).2.lostHere 1 (((home false).touch 1).1.currentAt 0) 8 = false
    ∧ (atomNew 3 64 0 1 0).isSome = true ∧ atomNew 3 64 0 1 1 = none ∧ (0 : Nat) < 2 ^ 64 := by decide +kernel

theorem witness_homeCompletions :
    (let c : HomeAcc := ⟨.host 0, 64, 8, 64, true, List.replicate 8 0, none⟩
     let s := { home false with home := { (home false).home with accs := [c] } }
     s.home.accOf (.host 0) 64 8 = some c ∧ s.accLost c = false ∧ c.at_ / Config.pageBytes < 2 ^ 23)
    ∧ (let c : HomeAcc := ⟨.tile 0 0 0 1, 64, 8, 64, true, List.replicate 8 0, none⟩
       let s := { home false with home := { (home false).home with accs := [c] } }
       s.home.accOf (.tile 0 0 0 1) 64 8 = some c ∧ c.read = true ∧ 0 < c.len ∧ isHostReq c.req = false
        ∧ (s.place c.a).map (fun p => p.2.2.1) = some 0 ∧ entryUnit 0 ≠ c.at_ / 64)
    ∧ (let s := { home false with home := { (home false).home with cows := [⟨0, 31, [.write (.host 0) (2 ^ 21 - 1) [0xAB]]⟩] } }
       s.home.cowOf 0 31 = some ⟨0, 31, [.write (.host 0) (2 ^ 21 - 1) [0xAB]]⟩
         ∧ (s.touch 0).2.lostHere 0 ((s.touch 0).1.committedAt 31) Config.subBytes = false
         ∧ let b := { s with memBad := [((s.touch 0).1.committedAt 31) / 64] }
           (b.touch 0).2.lostHere 0 ((b.touch 0).1.committedAt 31) Config.subBytes = true
             ∧ ((b.touch 0).2.lostPage 0 31 ((b.touch 0).1.committedAt 31) ((b.touch 0).2.addrOf 0 + 31 * Config.subBytes) false none).1 = false) := by
  decide +kernel

/-- R54, R60: an unversioned page is written in place; the first write of a versioned sub-block starts its copy. -/
theorem test_homeWrites :
    (match exec (.jobMemoryWriteAtHome (.tile 0 0 0 1) (2 ^ 21 + 8) [0xAB]) (home false) with
      | .next s => some (s.mem, s.home.cows.length) | _ => none) = some ([(2 * 2 ^ 21 + 8, 0xAB)], 0)
    ∧ (match exec (.jobMemoryWriteAtHome (.tile 0 0 0 1) (2 ^ 21 - 1) [0xAB]) (home false) with
      | .next s => some (s.mem, s.home.cows.map Cow.sub) | _ => none) = some ([], [31])
    ∧ sent (.jobMemoryWriteAtHome (.tile 0 0 0 1) (2 ^ 22) [0xAB]) (home false) = [.homeErr (.tile 0 0 0 1) (2 ^ 22)] := by decide +kernel

theorem witness_HostReachesJobMemory :
    (home false).isLead = true ∧ (home false).hostServes = true ∧ (let s := { home false with hostPort := true }; s.hostSilent = false)
    ∧ (home false).halfClosed true = false ∧ (home false).halfClosed false = false ∧ partsOf 65528 8 = [(65528, 8)]
    ∧ ((home false).place 65528).map (fun p => (p.2, p.1.kind)) = some (((home false).ord.toNat, 0, 0), 1)
    ∧ ((home false).place (2 ^ 21)).map (fun p => (p.2, p.1.kind)) = some (((home false).ord.toNat, 1, 0), 2)
    ∧ (withFields [(F.STEP_STATUS.COMMIT_BUSY, 1)] (home false)).fbit F.STEP_STATUS.COMMIT_BUSY = true
    ∧ (home false).fbit F.STEP_STATUS.COMMIT_BUSY = false ∧ ((home false).touch 0).1.kind ≠ 0
    ∧ ((home false).touch 0).2.lostHere 0 65528 8 = false ∧ (home false).hostMayWrite = true
    ∧ (withFields [(F.WV_STATUS.PHASE, 5)] (home false)).hostMayWrite = false
    ∧ ({ home false with ranges := [(0, ⟨2, 0, 0, 0, 1, 1, 1, 0⟩)] } : State).place 0 = some (⟨2, 0, 0, 0, 1, 1, 1, 0⟩, 1, 0, 0) := by
  decide +kernel

theorem witness_HomeTableAndMemoryAreKept :
    mapGet 0 ({ Home.empty with sweepPos := [(63, 65535)] } : Home).sweepPos (63 : BitVec 6).toNat = 65535
    ∧ mapGet 0 Home.empty.sweepPos 63 < 65535
    ∧ ({ Home.empty with closing := true } : Home).closing = true ∧ Home.empty.intervals + 1 < 32767
    ∧ entryUnit (65535 * 64 + 63) ∉ (home false).memBad ∧ entryUnit (0 * 64 + 63) ∉ (home false).memBad
    ∧ bits (BitVec.ofNat 64 (2 ^ 63 + 2 ^ 56)).toNat 57 56 < 2 ∧ bit (BitVec.ofNat 64 (2 ^ 63 + 2 ^ 56)).toNat 63 = true
    ∧ (home false).migrateCode 0 true ≠ 0
    ∧ (let s := { home false with
        ranges := [(0, ⟨1, 2, 0, 0, 1, 1, 0, 0⟩)], home := { (home false).home with farCap := [(0, 512)] } }
       s.migrateCode 0 true = 0)
    ∧ (let s := { home false with home := { (home false).home with migQ := [(1, false)] } }
       s.home.migNow = none ∧ (s.allocPage s.usedFrames 1 (s.entry 1).versioned 0).isSome = true)
    ∧ (let s := { home false with home := { (home false).home with migNow := some 1 } }
       let e := (s.touch 1).2.entry 1
       (s.touch 1).2.home.cowOf 1 e.cursor = none ∧ e.versioned = false ∧ e.cursor < 31 ∧ (s.touch 1).2.migrationLost e e.cursor = none) := by decide +kernel

theorem witness_memoryErrors :
    mapGet (0, 0) Home.empty.scrubAt 7 = (0, 0) ∧ Home.empty.rowErrs = []
    ∧ ({ Home.empty with rowErrs := [(7, 0, 0, 2)] } : Home).rowErrs = [((7 : BitVec 3).toNat, 0, 0, 2)]
    ∧ (let c : HomeAcc := ⟨.host 0, 64, 8, 2 ^ 23 * Config.pageBytes, true, [], none⟩
       let s := { home false with home := { (home false).home with accs := [c], farCap := [(0, 512)] } }
       s.home.accs.find? (fun c => c.req == .host 0 && c.a == (64 : W64).toNat) = some c
         ∧ s.portOf (c.at_ / Config.pageBytes) = some (0 : BitVec 2).toNat)
    ∧ (let s := withFields [(F.CXL_PORT_STATUS.LINK_UP.ix 3, 1), (F.CXL_PORT_STATUS.USED.ix 3, 1)] (home false)
       s.fbit (F.CXL_PORT_STATUS.LINK_UP.ix 3) = true ∧ s.fbit (F.CXL_PORT_STATUS.USED.ix 3) = true ∧ s.fbit F.WV_STATUS.LOADED = true)
    ∧ (3 : Nat) ∈ ({ Home.empty with farLost := [3] } : Home).farLost ∧ (home false).buddyHolds = false
    ∧ (home false).fbit (F.CXL_PORT_STATUS.USED.ix 3) = false
    ∧ (let s := { home false with home := { (home false).home with farCap := [(0, 512)]
                                                                   table := [(0, { Entry.none with frame0 := 2 ^ 23, kind := 2 })] } }
       ∃ q ∈ s.home.table, s.onPort q.2 0 = true)
    ∧ 64 ≤ 2 ^ 21 * 64 / Config.pageBytes ∧ (home false).holderOf (2 ^ 21 * 64) = none := by decide +kernel

/-! ## The meshes -/

/-- A remote write from p(0, 0) to p(40, 9), as its source forms it; a bad broadcast; a state without a bypassed column. -/
def block : MeshBlock := let b : MeshBlock := ⟨0, 0x1409, 0, 0, 7, false, false, [0xAB], 0⟩; { b with crc := blockSum b }
def badCast : MeshBlock := ⟨0xC000, 0, 2, 0, 0, true, true, [0xAB], 0⟩

theorem witness_meshBlocks :
    blockGood block = true ∧ blockGood { block with data := [0xAA] } = false ∧ block.ctrl = false ∧ block.bcast = false
    ∧ Mesh.empty.hasSeen block = false ∧ (Mesh.empty.accept block).hasSeen block = true
    ∧ blockGood badCast = false ∧ badCast.ctrl = true ∧ badCast.bcast = true ∧ sameBlock { block with seq := 8 } block = false := by decide +kernel

theorem witness_routers :
    (67 : BitVec 7).toNat < 68 ∧ State.reset.meshStopped false = false ∧ State.reset.meshStopped true = false ∧ State.reset.bypassed 67 = false
    ∧ State.reset.attach 0x2187 = (67, 7, .own) ∧ Mesh.empty.takes 0x2187 0 false false = true
    ∧ mapGet 0 ({ Mesh.empty with cnt := [(cntKey 67 31 ctrlLsb, 63)] } : Mesh).cnt (cntKey 67 31 ctrlLsb) = 63 := by decide +kernel

/-- R252, R261: the block enters p(0, 0) and waits eastward; a bad copy that enters p(34, 9) from the seam counts at two of its inputs. -/
theorem test_routerForwards :
    (match exec (.routerInputCheck 0 0 .own (.block block)) State.reset with
      | .next s => s.mesh.outs.map (fun p => (p.1, p.2.wait)) == [(outKey false 0 0 1, [(4, block)])]
      | _ => false) = true
    ∧ (match exec (.routerInputCheck 34 9 .west (.block { block with data := [] })) State.reset with
      | .next s => s.mesh.cnt == [(cntKey 34 9 seamLsb, 1), (cntKey 34 9 (bulkLsb .west), 1)]
      | _ => false) = true := by decide +kernel

/-- The state in which the block waits at p(33, 9) for the seam, another beside it on RSP. -/
def atSeam : State := { State.reset with mesh := { Mesh.empty with outs := [(outKey false 33 9 1, { MeshOut.empty with wait := [(3, block)] })] } }

theorem witness_seam :
    mapGet MeshOut.empty atSeam.mesh.outs (outKey false 33 9 1) = { MeshOut.empty with wait := [(3, block)] } ∧ atSeam.canSend (outKey false 33 9 1) block = true
    ∧ blockFlits block = 2 ∧ atSeam.meshStopped (eastCol (keyCol (outKey false 33 9 1))) = false
    ∧ seamOut (outKey false 32 9 1) = false ∧ mapGet [] ({ Mesh.empty with seam := [(5, [(block, false), (block, true)])] } : Mesh).seam 5
      = (block, false) :: [(block, true)] := by decide +kernel

/-- R256, R259: two cycles put both flits in the seam queue, and two more let the block enter p(34, 9). -/
theorem test_seamCrossing : atSeam.meshCycle.meshCycle.out = [] ∧ atSeam.meshCycle.meshCycle.meshCycle.out = [.meshHop 34 9 .west block] := by
  decide +kernel

theorem witness_sync :
    State.reset.treeHop 0 0x80 = true ∧ State.reset.treeHop 0x80 0 = true ∧ State.reset.treeHop 0 1 = false ∧ State.reset.treeHop 0x108F 0x110F = true
    ∧ eastCol (epCol 0) = eastCol (epCol 0x80) ∧ eastCol (epCol 0x108F) ≠ eastCol (epCol 0x110F) ∧ Mesh.empty.hops = []
    ∧ parityHolds 3 false = true ∧ parityHolds 1 true = true ∧ parityHolds 1 false = false := by decide +kernel

/-- A tile that waits at barrier 15 for its departure. -/
def atBarrier : Tile := withCore (fun c => { c with wait := .barrier 15 1 }) { atWord 0 with img := { ctxImage with barmask := 0x8000 } }

theorem witness_barriers :
    atBarrier.core.wait = .barrier 15 1 ∧ atBarrier.img.barmask.getLsbD 15 = true ∧ (0 : TileId) ∉ mapGet [] State.reset.barriers 15
    ∧ atBarrier.departs.getLsbD 15 = false ∧ (onTile atBarrier).members 15 = [0]
    ∧ (let s := { State.reset with tiles := [(0, atBarrier), (1, atBarrier)] }
       ∃ m ∈ s.members 15, m ≠ 0 ∧ m ∉ mapGet [] s.barriers 15)
    ∧ { atBarrier with departs := 0x8000 }.departs.getLsbD 15 = true ∧ atBarrier.phase = phRunning := by decide +kernel

/-- R268: the only member arrives, and departs. -/
theorem test_barrierDeparts : sent (.barrierArrival 0 15) (onTile atBarrier) = [.barDepart 0 15] := by decide +kernel

theorem witness_deviceResult :
    (let s := stepRuns { Tile.reset with phase := phDirty, img := ctxImage }
     s.stepPhase = phStepRunning ∧ s.result = none ∧ ∃ p ∈ s.contexts, p.2.phase = phDirty)
    ∧ (let s := stepRuns { Tile.reset with phase := phClean, img := ctxImage }
       s.result = none ∧ ∀ p ∈ s.contexts, p.2.phase = phClean)
    ∧ (let s := { stepRuns Tile.reset with result := some false }
       s.result = some false ∧ s.ended = false ∧ s.runsDone = true ∧ s.needPrimary = false) := by decide +kernel

/-! ## The weave -/

/-- The invariant, as a Bool. -/
def inv (s : State) : Bool := Memory.wf s.mem && Memory.wf s.commons && decide (s.regs.Pairwise (fun a b => a.1 < b.1))

theorem inv_sound {s : State} (h : inv s = true) : s.Inv := by
  simp only [inv, Bool.and_eq_true, decide_eq_true_eq] at h
  exact ⟨h.1.1, h.1.2, h.2⟩

/-- A queue of pair 3 whose next command is `ws`, an entry of CID 7. -/
def hostQueue (ws : List W64) (s : State) : State := { s with queues := [(3, { Queue.empty with fetched := [⟨ws, 1, 1, true⟩] })] }
def entry (op w1 w2 w3 : W64) : List W64 := [op + 7 * 2#64 ^ 16, w1, w2, w3, 0, 0, 0, 0]

/-- A partial weave of one section, its signature, under a key made for this test. -/
def weaveHead : List Byte :=
  toBytes 128 0x100000000000001000000000000000000000000000000000000000100010001001000102040080040200880404002442040000000000000000000000000000000010102000156414557
  ++ toBytes 24 0x6800000000000000980000000000000007
def weaveKey : BitVec 768 :=
  0xd4a5fe5fa9297d12f28cb36a488bd8bc5df487d83d3451ccc125c8f4dba7c62b8db0928736bf2cebde2144c2acdb45c83a1542fec514f38eb805a7c5d0750d964682b571c5ba1d151748d6bab47743ff410fbf2ab3f6b514e024fa383cb3cd61
def weaveSign : List Byte := [1, 1, 0, 0, 0, 0, 0, 0]
  ++ toBytes 48 0xf85506f293d650e2c69cdba0c1ce95f8d08044369c044f20bd9870520096389b49bb2792ef5b020300ed4a8a7a7a79f6
  ++ toBytes 48 0x2c6be680694b44ad7d5cb12bfa3af0c343beabbe67e9d94f926b717f123b9ea3bd6e10ea3a356faee0841cf1d9734145
def weaveBytes : List Byte := weaveHead ++ weaveSign

/-- The lead of one herd of 16 devices with a load in progress. -/
def loading (phase : Nat) (l : Load) : State :=
  { withFields [(F.HQ_HERD.N, 16), (F.HQ_HERD.LEAD, 1), (F.WV_STATUS.PHASE, phase), (F.WV_STATUS.LOADED, 1)] State.reset with
    descr := List.replicate 14 0 ++ [1] ++ List.replicate 145 0, keys := [(1, .key weaveKey)], load := some l }

def plainLoad : Load := ⟨true, none, 256, false, false, [], 0, [], none, none, 0, []⟩

/-- What the weave says, without records. -/
def plainWeave : Weave := ⟨parseHeader weaveBytes, [], [], [], [], [], []⟩

/-- Votes of all 16 devices, the one of device 15 as given. -/
def votes (r : Option WeaveRefusal) : List WeaveVote := (List.range 16).map (fun o => ⟨BitVec.ofNat 14 o, if o = 15 then r else none, 1, 5⟩)

/-- R305, R309: the signature of the test's weave verifies, and pass 1 finds nothing. -/
theorem witness_weaveAccepted :
    firstFinding ((loading 1 plainLoad).pass1 weaveBytes 256 false) = none ∧ weaveBytes.length = 256 ∧ inv (loading 1 plainLoad) = true
    ∧ ((parseHeader weaveBytes).kind = 2 → (loading 1 plainLoad).fbit F.HQ_STATUS.JOB_UNREC = false ∧ (loading 1 plainLoad).fbit F.HQ_STATUS.JOB_HELD = false) := by
  decide +kernel

theorem witness_LoadsMoveThroughTheirPasses :
    (let s := withFields [(F.HQ_STATUS.LINK_LOW, 0)] (hostQueue (entry 1 0x1000 256 0) State.reset)
     s.mayStart 3 7 (.loadWeave (0x1000 : W64).toNat (256 : W64).toNat false) = true ∧ (s.begin 3).fbit F.HQ_STATUS.LINK_LOW = false
       ∧ (s.begin 3).load = none ∧ inv s = true)
    ∧ ((firstFinding ((loading 1 plainLoad).pass1 (List.replicate 256 0) 256 false)).map Finding.code = some 1)
    ∧ (let l := { plainLoad with bytes := weaveBytes }
       (loading 2 l).load = some l ∧ l.lead = true ∧ (loading 2 l).fget F.WV_STATUS.PHASE = 2 ∧ l.hash = 0 ∧ weaveBytes ≠ [])
    ∧ State.reset.load = none ∧ State.reset.weave = none
    ∧ (let l := { plainLoad with next := some plainWeave }
       (loading 3 l).votesIn (votes none) l = true ∧ lowestRefusal (votes none) = none ∧ weavesDiffer (votes none) = false
         ∧ (loading 3 l).votesIn (votes (some ⟨0x30, 4, 15, 0⟩)) l = true ∧ (lowestRefusal (votes (some ⟨0x30, 4, 15, 0⟩))).isSome = true)
    ∧ (let w := { plainWeave with hdr := { plainWeave.hdr with mode := 0, drain := 8 } }
       let l := { plainLoad with next := some w, waited := 8 }
       (loading 4 l).load = some l ∧ (loading 4 l).fget F.WV_STATUS.PHASE = 4 ∧ w.hdr.mode = 0 ∧ w.hdr.drain ≤ l.waited) := by decide +kernel

/-- R309: a weave that does not begin with WEAV is refused with code 0x01. -/
theorem test_badMagicIsRefused : (match exec (.weavePass1 (some (List.replicate 256 0))) (loading 1 plainLoad) with
    | .next s => some (s.fget F.WV_REFUSE.REASON, s.load) | _ => none) = some (1, none) := by decide +kernel

theorem witness_WeavesComeIntoForce :
    (let w := { plainWeave with hdr := { plainWeave.hdr with kind := 1 } }
     let l := { plainLoad with next := some w, clear := true }
     (loading 5 l).load = some l ∧ (loading 5 l).fget F.WV_STATUS.PHASE = 5 ∧ w.hdr.full = true ∧ inv (loading 5 l) = true)
    ∧ (let l := { plainLoad with next := some plainWeave }
       (loading 4 l).load = some l ∧ (loading 4 l).partialReady = true)
    ∧ ({ State.reset with undo := some ⟨none, [], [], 0, 0, 1, []⟩ } : State).undo = some ⟨none, [], [], 0, 0, 1, []⟩ := by decide +kernel

/-! ## The fabric -/

/-- The device with port 0 in the training state `st`, and the link as `x`. -/
def withPort (st : Nat) (x : Port) : State := { withFields [(F.OL_PORT_STATUS.STATE.ix 0, st)] State.reset with ports := [(0, x)] }

/-- A control packet, sealed by its source, and the first link block of it under a number. -/
def packet (dst : W32) (hops : BitVec 4) : Packet :=
  { pktSeal ⟨0x08, 0, false, false, 0, 0, dst, 0, 0, 0, 0, 0, 0, 0, []⟩ with hops := hops }
def headAt (n : Nat) : LinkBody := headBody (packet 0x400000 3) n

/-- A data packet of 70 bytes. -/
def dataPacket : Packet := pktSeal ⟨0x80, 2, false, false, 0, 0, 0x400000, 0, 0, 0, 0, 0, 0, 0, List.replicate 70 7⟩

theorem witness_linkBlocks :
    (let s := withPort 8 { Port.empty with good := 31 }
     s.linkUp 0 = true ∧ (s.port 0).waitRs = false ∧ (s.port 0).blockGood (headAt 0) = true ∧ (headAt 0).lseq.toNat = (s.port 0).rxNext
       ∧ 31 ≤ (s.port 0).good ∧ (headAt 5).lseq.toNat ≠ (s.port 0).rxNext ∧ (s.port 0).blockGood (headAt 5) = true
       ∧ (s.port 0).blockGood ⟨0, .head (packet 0 0) 0⟩ = false)
    ∧ (let x := { Port.empty with waitRs := true, fails := 4 }
       (withPort 9 x).linkUp 0 = true ∧ x.waitRs = true ∧ (0x80000 : BitVec 20).getLsbD 19 = true)
    ∧ (let x := { Port.empty with replay := [headAt 4095, headAt 0], tries := 3 }
       let h := linkHdr false 1 0
       x.replay = [headAt 4095] ++ headAt 0 :: [] ∧ hdrSeq h = (headAt 0).lseq.toNat ∧ (∀ c ∈ [headAt 4095], c.lseq ≠ (headAt 0).lseq)
         ∧ hdrKind h = 1 ∧ hdrKind (linkHdr false 2 0) = 2 ∧ hdrKind (linkHdr false 3 5) = 3 ∧ x.tries < 4 ∧ 4 ≤ { x with tries := 4 }.tries)
    ∧ (withPort tsActive Port.empty).portState 0 = tsActive := by decide +kernel

/-- R344: the 32nd good block makes an ACK due, and the next codeword carries it. -/
theorem test_thirtySecondBlockIsAcknowledged :
    (match exec (.linkBlockReceive 0 ⟨0, 0, [headAt 0]⟩) (withPort 8 { Port.empty with good := 31 }) with
      | .next s => (s.port 0).ackDue && (s.tick.out.length == s.out.length + 1) && !(s.tick.port 0).ackDue
      | _ => false) = true := by decide +kernel

/-- R346, R349: a data packet of 70 bytes arrives as two link blocks, the second padded, and is whole with it. -/
theorem test_dataPacketArrivesInTwoBlocks :
    (let bs := [headBody dataPacket 0, ⟨1, .data (payloadBlock dataPacket 0)⟩]
     match exec (.linkBlockReceive 0 ⟨0, 0, bs⟩) (withPort 9 Port.empty) with
      | .next s => (s.port 0).front 4 == some ⟨dataPacket, 0, none, false⟩ && (s.port 0).rxNext == 2 && (payloadBlock dataPacket 0).length == 128
      | _ => false) = true := by decide +kernel

/-- Port 0 is active with credit, and the route to every position leaves on it. -/
def routed : State :=
  { withFields [(F.HQ_HERD.N, 16), (F.OL_PORT_STATUS.STATE.ix 0, tsActive), (F.OL_RT.VALID.ix 4, 1), (F.OL_RT.DIR.ix 4, 0)] State.reset with
    ports := [(0, { Port.empty with credit := [(0, 1)] })], weights := [(0, 8)] }

/-- R341, R344, R352: a control packet of this device goes in the next codeword. -/
theorem test_ownPacketGoes :
    (let s := { routed with ports := [(0, { Port.empty with credit := [(0, 1)], inj := [packet 0x400000 0] })] }
     (s.portCycle 0).out == s.out ++ [codewordOut 0 [] 0 [firstUnit (packet 0x400000 1) 0 (hcrcOf (packet 0x400000 1) 0)]]) = true := by
  decide +kernel

/-- Port 2 holds a packet in the REQ channel. -/
def withInput (k : Packet) : State := { routed with ports := routed.ports ++ ([(2, { Port.empty with inq := [(0, [⟨k, 0, none, false⟩])] })] : List (Nat × Port)) }

/-- A notice of this device, sent to a primary of another position. -/
def noticed : State :=
  { withFields [(F.STEP_COORD.PRIMARY, 4)] routed with out := [.notice 0x10 ⟨0, 0, 0, 0, 0, 0, 1, 0⟩ false] }

theorem witness_packets :
    ((withInput (packet 0 0)).isHere (packet 0 0) = true ∧ ((withInput (packet 0 0)).port 2).front 0 = some ⟨packet 0 0, 0, none, false⟩)
    ∧ pktDefined (packet 0 0) = true ∧ (routed.isHere (packet 0x400000 0)) = false
    ∧ 15 ≤ (packet 0x400000 15).hops.toNat ∧ (packet 0x400000 14).hops.toNat < 15 ∧ routed.outPort (packet 0x400000 14) = some 0
    ∧ routed.outPort (packet 0x800000 0) = none ∧ (2 : Nat) % 2 = 0 % 2 ∧ (3 : Nat) % 2 ≠ 0 % 2
    ∧ ((noticed.packetsOf 0).length = 1 ∧ mapGet 0 noticed.routed 0 = 0 ∧ (noticed.packetsOf 0).all (fun k => (noticed.outPort k).isSome) = true)
    ∧ routed.now ≤ 5 ∧ (packet 0 0).cm = false ∧ (packet 0 0).typ ≠ 4 ∧ pktSound dataPacket = true ∧ pktSound { packet 0 0 with ecrc := 0 } = false
    ∧ mapFind routed.rates 1 = none ∧ routed.rates.length < 256
    ∧ mapFind ({ routed with rates := [(1, ⟨64, 0, 0, 0⟩)] } : State).rates (1 : DevOrd).toNat = some ⟨64, 0, 0, 0⟩ ∧ (0 : Nat) + 4000 ≤ 4000 := by
  decide +kernel

/-- R354: a packet of this device is routed once. -/
theorem test_ownPacketIsRoutedOnce :
    (match exec (.packetRoute (.own 0 0)) noticed with
      | .next s => mapGet 0 s.routed 0 == 1 && s.out.length == noticed.out.length
      | _ => false) = true := by decide +kernel

theorem witness_codewords :
    (let x := { Port.empty with nakDue := some 7 }
     (withPort 8 x).linkUp 0 = true ∧ (withPort 8 x).portState 0 ≠ tsActive ∧ x.tx = [] ∧ x.off = 0 ∧ x.rs = false ∧ x.nakDue = some 7)
    ∧ (let x := { Port.empty with credDue := [(4, 9)] }
       x.nakDue = none ∧ x.credDue = (4, 9) :: [] ∧ 9 < 2 ^ 14 ∧ { Port.empty with ackDue := true }.ackDue = true)
    ∧ (let s := { routed with ports := [(0, { Port.empty with credit := [(0, 1)], inj := [packet 0x400000 0] })] }
       s.portState 0 = tsActive ∧ s.ports = [(0, s.port 0)] ∧ (s.port 0).inj = [packet 0x400000 0] ∧ pktData (packet 0x400000 0) = false
         ∧ s.fbit (F.OL_PORT_STATUS.WRAP.ix 0) = false ∧ 1 ≤ mapGet 0 (s.port 0).credit 0) := by decide +kernel

theorem witness_training :
    [1, 2, 3, 10, 4].all (fun st => let ws := List.replicate 16 (trainWord st 5 0xFF 0 true)
        (withPort st Port.empty).portState 0 == st && ws.length == 16 && ws.all (fun w => twGood 5 w && twState w == st && twAck w)) = true
    ∧ (let w := trainWord 2 5 0 0 false
       twGood 5 w = true ∧ twState w = 2 ∧ twAck w = false)
    ∧ [2, 3, 4, 5, 6, 7, 10].all (fun st => (withPort st Port.empty).portState 0 == st) = true
    ∧ widthOf 0xFF ≠ 0 ∧ widthOf 0 = 0 ∧ (withPort 5 Port.empty).checkIdent 0 0 ≠ 0
    ∧ (goodLanes 3 [0, 21474, 21475]).toNat = 3 ∧ (3 < 4 ∧ (0 : Nat) < 4) := by decide +kernel

/-- R363: the width of a mask of good lane pairs. -/
theorem test_widths : [0xFF, 0x0F, 0xF1, 0x0C, 0x81, 0x3C].map widthOf = [3, 2, 2, 1, 0, 1] := by decide +kernel

theorem witness_routes :
    (∀ p < 16, State.reset.portState p < tsDetect ∨ tsCredit < State.reset.portState p) ∧ inv State.reset = true
    ∧ (let l : Lsa := ⟨0x400000, 5, 1, 0, 0⟩
       bits l.coord.toNat 31 24 = bits State.reset.selfWord.toNat 31 24 ∧ mapFind State.reset.lsas (State.reset.wordPos l.coord) = none)
    ∧ (let s := { State.reset with lsas := (List.range State.reset.topoN).map (fun q => (q, ⟨0, 0, 1, 0, 0⟩)) }
       ∀ q < s.topoN, mapFind s.lsas q ≠ none)
    ∧ bit (0x80000000 : W32).toNat 31 = true ∧ bit (0x40000000 : W32).toNat 30 = true ∧ State.reset.fbit F.WV_STATUS.LOADED = false := by decide +kernel

/-- The descriptor of one herd of 16 with every port unused. -/
def descriptor : List Byte :=
  let head := toBytes 4 0x3144544F ++ toBytes 4 5 ++ toBytes 4 0 ++ [16, 0, 1, 0] ++ List.replicate 12 0
  let tail : List Byte := List.replicate 128 0
  head ++ toBytes 4 (crc32c (head ++ tail)).toNat ++ tail

theorem witness_routesInstalled :
    descValid descriptor = true
    ∧ (let s := { State.reset with descr := descriptor, routes := some [⟨true, 0, 1⟩] }
       s.routes = some [⟨true, 0, 1⟩] ∧ s.topoOutcome ≠ 3 ∧ (s.fset F.STEP_STATUS.PHASE phStepRolling).stepPhase = phStepRolling)
    ∧ (let s := withPort tsActive { Port.empty with lost := true }
       s.portState 0 = tsActive ∧ (s.port 0).lost = true ∧ s.now ≤ 0 ∧ (s.port 0).bye = none ∧ mapFind s.charges 0x40000 = none)
    ∧ ({ Port.empty with lost := true, bye := some 0 } : Port).bye = some 0 := by decide +kernel

/-! ## Collectives -/

/-- Plan 2: an all-reduce of one FP32 element between devices 0 and 1. -/
def plan2 : Plan := ⟨0, 2, 1, 0, 0, 0, false, 1, 0, 64, 0, 2, 1, 0, 9, 0, 0, 0, false⟩
def planWeave : Weave := { plainWeave with plans := [plan2] }
def member (rs : List Run) : State := { State.reset with weave := some planWeave, member := [2], runs := rs }

/-- Its first run, started with the partial 1.0, and the piece that it awaits from device 1. -/
def run2 : Run := { Run.new 2 0 with started := true, have_ := true, part := toBytes 4 0x3F800000, level := 1 }
def piece1 : Piece := ⟨1, 1, toBytes 4 0x40000000, false, none⟩
/-- A plan of four members, in which device 0 receives twice and device 2 receives, then sends. -/
def plan4 : Plan := { plan2 with count := 4 }
def device2 (rs : List Run) : State := { withFields [(F.HQ_HERD.POS, 2)] (member rs) with weave := some { plainWeave with plans := [plan4] } }
def cstartW0 : W64 := BitVec.ofNat 64 (9 * 2 ^ 60 + 2 * 2 ^ 44)

theorem witness_CollectivesCombineTheirPieces :
    (issues (opOf 5 cstartW0 0) = true ∧ netOpc 9 none (opOf 5 cstartW0 0) = true ∧ bits cstartW0.toNat 59 44 = 2
      ∧ (∃ r ∈ (member [run2]).runs, r.plan = 2 ∧ r.started = true ∧ r.written = false) ∧ (member []).runs = [] ∧ (member []).plan 2 = some plan2)
    ∧ ((2 : W16) ∈ (member []).member ∧ (member []).stepPhase ≠ phStepRolling ∧ (1 : DevOrd) ≠ (member []).ord)
    ∧ (let s := device2 [run2]
       s.ord.toNat = 2 ∧ run2.plan = (2 : W16).toNat ∧ run2.run % 256 = (0 : Byte).toNat ∧ run2.result = none ∧ run2.written = false
        ∧ run2.piece (1 : BitVec 4).toNat (3 : DevOrd).toNat = none ∧ plan4.reduces = true ∧ run2.level = (1 : BitVec 4).toNat ∧ run2.level < 15
        ∧ plan4.turn (plan4.index s.ord.toNat) 1 = .recv 3 ∧ plan4.member 3 = (3 : DevOrd).toNat
        ∧ plan4.turn (plan4.index s.ord.toNat) 2 = .send 0 ∧ (plan4.node run2.part (toBytes 4 0x40000000) none).2 = true)
    ∧ (let r := { run2 with pieces := [piece1] }
       (member [r]).unchecked (2 : W16).toNat 0 1 1 = some (0, r, piece1) ∧ r.reported = false
        ∧ digestFails (digestOf 2 0 1 0 0 piece1.data) (List.replicate 64 0) ≠ [])
    ∧ (let r := { run2 with result := some (toBytes 4 0x40400000) }
       r.result = some (toBytes 4 0x40400000) ∧ r.written = false
        ∧ (withFields [(F.HQ_HERD.POS, 1)] (member [r])).engineBusy 2 = false ∧ plan2.index (withFields [(F.HQ_HERD.POS, 1)] (member [r])).ord.toNat ≠ 0
        ∧ plan2.sigKind = 0)
    ∧ (let r := { run2 with result := some (toBytes 4 0x40400000), written := true, awaits := [1] }
       plan2.index (member [r]).ord.toNat = 0 ∧ plan2.op ≠ 2 ∧ (1 : DevOrd).toNat ∈ r.awaits
        ∧ resultAgrees (digestOf 2 0 15 0 0 (toBytes 4 0x40400000)) (digestOf 2 0 15 0 0 (toBytes 4 0x40400000)) = true
        ∧ resultAgrees (digestOf 2 0 15 0 0 (toBytes 4 0x40400000)) (List.replicate 64 0) = false) := by decide +kernel

/-- R377 to R379: device 2 adds 1.0 and 2.0 and sends 3.0 to device 0. -/
theorem test_pieceIsCombined : (sent (.collectivePayloadReceive 2 0 1 3 (toBytes 4 0x40000000) none) (device2 [run2])).head?
    = some (.piece 0 2 0 2 (toBytes 4 0x40400000)) := by decide +kernel

/-! ## Steps and the commit vote -/

/-- The coordinator of a herd of 16 in step 5, in the stage `g`. -/
def coordinating (g : Stage) (phase : Nat) (f : Coord → Coord) : State :=
  { withFields [(F.HQ_HERD.N, 16), (F.STEP_CURRENT.STEP, 5), (F.STEP_COMMITTED.STEP, 4), (F.STEP_DURABLE.STEP, 4), (F.STEP_STATUS.PHASE, phase),
      (F.WV_STATUS.LOADED, 1)] State.reset with coord := f { Coord.idle with stage := g } }

/-- All devices of the herd but device 15. -/
def fifteen : List Nat := List.range 15

theorem witness_steps :
    (let s := withFields [(F.STEP_CURRENT.STEP, 5), (F.WV_STATUS.LOADED, 1)] State.reset
     inv s = true ∧ s.mayStartStep (6 : W64).toNat = true ∧ s.stepPhase = phStepIdle
      ∧ (let s := { s with home := { s.home with closing := true } }
         s.stepFits (6 : W64).toNat = true ∧ s.mayStartStep (6 : W64).toNat = false ∧ s.deviceAsleep = false)
      ∧ (s.setMove 158 ⟨2, false, 0, []⟩).deviceAsleep = true ∧ (s.setMove 158 ⟨2, false, 0, []⟩).stepFits (6 : W64).toNat = true)
    ∧ (coordinating .running phStepRunning (fun c => { c with rollLead := some 0 })).coord.rollLead = some 0
    ∧ (let s := coordinating .running phStepRunning (fun c => { c with ends := fifteen })
       s.coord.stage = .running ∧ (5 : W64).toNat = s.current ∧ (15 : DevOrd).toNat ∈ s.expected ∧ s.coordinates = true ∧ s.askRollback = false
        ∧ s.combines = true ∧ (∀ e ∈ s.expected, e = (15 : DevOrd).toNat ∨ e ∈ s.coord.ends))
    ∧ (let s := coordinating .running phStepRunning id
       ∃ e ∈ s.expected, e ≠ (15 : DevOrd).toNat ∧ e ∉ s.coord.ends)
    ∧ (let s := withFields [(F.STEP_COORD.PRIMARY, 16)] (coordinating .running phStepRunning id)
       s.combines = true ∧ s.coordinates = false) := by decide +kernel

/-- A device that is no aggregator, at the end of step 5. -/
def answering (x : Tile) : State :=
  { withFields [(F.HQ_HERD.POS, 3), (F.HQ_HERD.N, 16), (F.STEP_CURRENT.STEP, 5), (F.STEP_STATUS.PHASE, phStepRunning)] (onTile x) with
    ended := true, result := some false }

theorem witness_prepares :
    (let s := answering { Tile.reset with img := ctxImage, phase := phGate }
     s.mayPrepare (5 : W64).toNat = true ∧ s.combines = false ∧ ∀ p ∈ s.contexts, p.2.residue = none)
    ∧ (let s := answering { Tile.reset with img := ctxImage, phase := phGate, arr := [(3, 1)] }
       s.mayPrepare (5 : W64).toNat = true ∧ ∃ p ∈ s.contexts, p.2.residue ≠ none)
    ∧ (let s := { answering Tile.reset with prepared := some (2, false) }
       s.prepared = some (2, false) ∧ s.home.cows = [] ∧ s.needPrimary = false) := by decide +kernel

theorem witness_votes :
    (let s := coordinating .voting phStepVoting (fun c => { c with votes := fifteen })
     s.coordinates = true ∧ (∀ e ∈ s.expected, e = (15 : DevOrd).toNat ∨ e ∈ s.coord.votes) ∧ s.coord.acting = false ∧ s.fbit F.STEP_COORD.SB_EN = false
       ∧ (15 : DevOrd).toNat ∈ s.expected)
    ∧ (let s := withFields [(F.STEP_COORD.SB_EN, 1), (F.STEP_COORD.STANDBY, 7)] (coordinating .voting phStepVoting (fun c => { c with votes := fifteen }))
       s.coordinates = true ∧ s.fbit F.STEP_COORD.SB_EN = true ∧ (∀ e ∈ s.expected, e = (15 : DevOrd).toNat ∨ e ∈ s.coord.votes))
    ∧ (let s := coordinating .boundary phStepRunning (fun c => { c with votes := fifteen })
       s.coordinates = true ∧ s.coord.stage = .boundary ∧ (∀ e ∈ s.expected, e = (15 : DevOrd).toNat ∨ e ∈ s.coord.votes))
    ∧ (let s := withFields [(F.STEP_COORD.SB_EN, 1), (F.STEP_COORD.STANDBY, 3), (F.HQ_HERD.POS, 3)] (coordinating .none phStepVoting id)
       s.isStandby = true ∧ s.stepPhase = phStepVoting ∧ s.coord.acting = false ∧ (3 : DevOrd).toNat = s.standbyOrd)
    ∧ (coordinating .standby phStepVoting id).coord.stage = .standby := by decide +kernel

theorem witness_decisions :
    (let s := coordinating .none phStepVoting id
     inv s = true ∧ s.prepared = none ∧ (5 : W64).toNat = s.current ∧ s.mirrorOn = false ∧ s.mayRoll = true ∧ s.home.closing = false ∧ s.home.hostHeld = []
       ∧ s.home.hostReads = [])
    ∧ (let s := { coordinating .none phStepIdle id with undecided := some 5, home := { Home.empty with closing := true } }
       s.undecided = some (5 : W64).toNat ∧ s.mayRoll = true ∧ (5 : W64).toNat = s.current ∧ s.home.closing = true)
    ∧ (let s := withFields [(F.STEP_DURABLE.STEP, 3)] (coordinating .none phStepMirroring id)
       let s := { s with home := { s.home with lastCommit := 7 } }
       s.fbit F.WV_STATUS.LOADED = true ∧ s.stepPhase = phStepMirroring ∧ (4 : W64).toNat = s.committed ∧ s.durable = false
        ∧ s.home.closing = false ∧ s.serial ≠ s.home.lastCommit) := by decide +kernel

theorem witness_commitEnds :
    (let s := coordinating .flipping phStepFlipping (fun c => { c with acks := fifteen })
     inv s = true ∧ s.coordinates = true ∧ (15 : DevOrd).toNat ∈ s.expected ∧ (∀ e ∈ s.expected, e = (15 : DevOrd).toNat ∨ e ∈ s.coord.acks)
      ∧ s.jobMirror = false ∧ s.coord.rollAfter = 0 ∧ (4 : W64).toNat = s.committed ∧ s.coord.resets = [] ∧ s.fbit F.HQ_STATUS.JOB_UNREC = false
      ∧ s.outUnits = [] ∧ s.heldTopology = false ∧ s.coord.acting = false)
    ∧ [Stage.mirroring, .rolling].all (fun g => (coordinating g phStepFlipping (fun c => { c with acks := fifteen })).coord.stage == g) = true
    ∧ ({ coordinating .none phStepFlipping id with jobMirror := true } : State).jobMirror = true
    ∧ (coordinating .none phStepMirroring id).stepPhase = phStepMirroring ∧ (coordinating .none phStepIdle id).stepPhase = phStepIdle
    ∧ (coordinating .flipping phStepFlipping (fun c => { c with windows := [(0, 1, 9)] })).stepWanted 5 = true
    ∧ (coordinating .flipping phStepFlipping id).stepWanted 5 = false ∧ (coordinating .none phStepIdle id).ackStep = none := by decide +kernel

theorem witness_silence :
    firstMissing (coordinating .voting phStepVoting (fun c => { c with votes := fifteen })).expected fifteen = some 15
    ∧ (coordinating .rolling phStepRolling (fun c => { c with acks := fifteen })).coordinates = true := by decide +kernel

/-- R57, R391: the last yes vote decides the commit. -/
theorem test_lastVoteDecides : sent (.vote 15 5 0) (coordinating .voting phStepVoting (fun c => { c with votes := fifteen })) = [.ctrl 0x0C none 5 1] := by
  decide +kernel

/-! ## Mirroring -/

def source0 : Source := ⟨[100], [(0, ⟨200, 201, 0, 0⟩)], [], [], false, false⟩

theorem witness_MirrorsFollowTheirSource :
    (let s := { withFields [(F.STEP_BUDDY.EN, 1)] State.reset with mirror := { Mirror.idle with first := true, due := true } }
     s.mirror.due = true ∧ s.mirror.streaming = false ∧ s.fbit F.STEP_BUDDY.EN = true ∧ s.mirror.former = none)
    ∧ ({ Mirror.idle with streaming := true } : Mirror).streaming = true ∧ State.reset.needPrimary = false
    ∧ mapFind ({ State.reset with sources := [(5, source0)] } : State).sources (5 : DevOrd).toNat = some source0
    ∧ source0.refused = false ∧ mapFind source0.pages (0 : Lpn).toNat = some ⟨200, 201, 0, 0⟩
    ∧ source0.got.length = (0 : W32).toNat * 32 ∧ source0.got.length ≠ (1 : W32).toNat * 32 := by decide +kernel

/-- R396, R397: a chunk goes to the frame that is not selected. -/
theorem test_mirrorData : (match exec (.mirrorData 5 0 0 1 2 [0xAB]) { State.reset with sources := [(5, source0)] } with
    | .next s => s.mem | _ => []) = ([(201 * 2 ^ 21 + 65536 + 4096, 0xAB)] : List Host.Cell) := by decide +kernel

/-! ## The host queues -/

/-- Queue pair 3, enabled, with 4 entries in each queue. -/
def queueOn (s : State) : State := withFields [(F.HQ_Q_CFG.EN.ix 3, 1), (F.HQ_Q_CFG.SQ_LOG2.ix 3, 2), (F.HQ_Q_CFG.CQ_LOG2.ix 3, 2)] s

theorem witness_queues :
    (let f : Fetched := ⟨entry 1 0 256 0, 1, 1, true⟩
     let s := { queueOn (withFields [(F.HQ_HERD.LEAD, 1)] State.reset) with queues := [(3, { Queue.empty with busy := some f, tail := 3 })], msix := [(3, 0)] }
     (s.queue 3).busy = some f ∧ (s.queue 3).held = [] ∧ (s.queue 3).fetched = [] ∧ s.cqFull 3 = true
      ∧ (withFields [(F.HQ_CQ_HEAD.INDEX.ix 3, 2)] s).cqFull 3 = false ∧ s.isLead = true ∧ (s.msixWord 3).getLsbD 0 = false
      ∧ f.live = true ∧ s.hostCut = false ∧ (withFields [(F.CLK_REF_LOSS.PCIE, 1)] s).hostCut = true ∧ inv (withFields [(F.CLK_REF_LOSS.PCIE, 1)] s) = true
      ∧ ({ f with live := false } : Fetched).live = false)
    ∧ (let s := queueOn State.reset
       s.fbit (F.HQ_Q_CFG.EN.ix 3) = true ∧ (3 : W32).toNat < s.sqSize 3 ∧ s.sqSize 3 ≤ (4 : W32).toNat ∧ (4095 : W32).toNat < 4096
        ∧ (3 : W32).toNat < s.cqSize 3 ∧ State.reset.fbit (F.HQ_Q_CFG.EN.ix 3) = false)
    ∧ (withFields [(F.HQ_DOORBELL.INDEX.ix 3, 1)] (queueOn State.reset)).fetchTurn = some 3
    ∧ spell (entry 3 1 0 0) = some (.commitCtrl 1) ∧ (entry 3 1 0 0).length = 8 := by decide +kernel

theorem test_doorbellOutOfRangeStopsItsQueue : (match exec (.doorbellWrite 3 4) (queueOn State.reset) with
    | .next s => some (s.fget (F.HQ_Q_STATUS.ERR.ix 3), s.fget (F.HQ_Q_STATUS.ERRCODE.ix 3), s.fget (F.HQ_DOORBELL.INDEX.ix 3)) | _ => none)
    = some (1, 1, 0) := by decide +kernel

theorem witness_hostCommands :
    (let s := hostQueue (entry 2 6 3 0) (loading 0 plainLoad)
     let s := { withFields [(F.STEP_CURRENT.STEP, 5)] s with load := none }
     s.mayStart 3 7 (.runSteps (6 : W64).toNat (3 : W32).toNat) = true ∧ s.cmdRun = none ∧ s.loadAllowsRun = true ∧ s.needPrimary = false
      ∧ s.earlierRun 1 = false ∧ s.runStatus (6 : W64).toNat true = 0 ∧ s.coordinates = true ∧ s.herds ≤ 1 ∧ 1 ≤ (3 : W32).toNat
      ∧ s.stepPhase = phStepIdle ∧ s.coord.stage = .none)
    ∧ [(1 : W64), 2, 3].all (fun a => let s := { hostQueue (entry 3 a 0 0) (loading 0 plainLoad) with cmdRun := some ⟨none, 1, 5, false⟩ }
        s.mayStart 3 7 (.commitCtrl a.toNat) && (s.begin 3).cmdRun.isSome && !(s.begin 3).fbit F.HQ_STATUS.JOB_UNREC
          && !(s.begin 3).fbit F.HQ_STATUS.JOB_HELD && (s.begin 3).coordinates && decide ((s.begin 3).ctrlStep < 5)) = true
    ∧ (let s := hostQueue (entry 4 0x1000 (2 ^ 21) 64) (home false)
       partsOf (2 ^ 21) 64 = [(2 ^ 21, 64)] ∧ s.hostServes = true
        ∧ (withFields [(F.HQ_STATUS.LINK_LOW, 0)] s).fbit F.HQ_STATUS.LINK_LOW = false ∧ s.frontCmd 3 7 = some (.copy 0x1000 (2 ^ 21) 64 false))
    ∧ (let s := hostQueue (entry 4 0x1000 (2 ^ 21) (2 ^ 32 + 64)) (home false)
       s.frontCmd 3 7 = some (.copy 0x1000 (2 ^ 21) 64 true) ∧ ((s.begin 3).hostPart [] [] (2 ^ 21) 64).1.length = 64)
    ∧ (let s := hostQueue (entry 5 0x1000 0 128) (home false)
       s.frontCmd 3 7 = some (.readEvents 0x1000 0 128 0) ∧ s.pos = 0 ∧ s.hostCut = false)
    ∧ (let s := hostQueue (entry 6 1000 1 0) (home false)
       s.frontCmd 3 7 = some (.setTolerance 1000 1) ∧ s.pos < 64 ∧ (1 : Nat) = 2 ^ s.pos) := by decide +kernel

/-! ## The host port, the mailbox and SMBus -/

/-- The mailbox with a descriptor, and with a request for slot 1. -/
def mailbox (bs : List Byte) (s : State) : State := { s with mbxBuf := writeBytes 0 0 bs [] }

theorem witness_hostPort :
    (let s := { served with hostPort := true }
     s.hostPort = true ∧ s.pins.perstLow = false ∧ (3 : BitVec 2) ≠ 0 ∧ s.isLead = true ∧ State.reset.isLead = false)
    ∧ (let s := withFields [(F.HQ_HERD.N, 16), (F.HQ_MEMBER_SEL.POS, 1), (F.HQ_HERD_PRESENT.MASK, 2)] served
       aligned (0x1FFFFF8 : BitVec 25).toNat 8 = true ∧ (0x1FFFFF8 : BitVec 25).toNat / 0x10000 ≠ 2 ∧ s.present 1 = true ∧ 1 ≠ s.pos) := by
  decide +kernel

theorem witness_mailbox :
    served.fbit F.MBX_STATUS.BUSY = false ∧ descValid ((mailbox descriptor served).mbxBytes 0 160) = true
    ∧ descValid (served.mbxBytes 0 160) = false ∧ ({ served with descr := descriptor } : State).descr.length = 160 := by decide +kernel

theorem witness_mailboxKeys :
    (mailbox [1, 4] served).mbxBytes 0 1 = [BitVec.ofNat 8 1] ∧ ((mailbox [1, 4] served).mbxBytes 1 97).head? = some 4
    ∧ (mailbox [7] served).mbxBytes 0 1 = [BitVec.ofNat 8 7] ∧ served.mbxBytes 0 1 = [BitVec.ofNat 8 0] := by decide +kernel

theorem witness_mailboxSlots :
    mapGet KeySlot.empty [(1, KeySlot.key weaveKey)] 1 = .key weaveKey ∧ mapGet KeySlot.empty [(7, KeySlot.revoked)] 7 = .revoked
    ∧ ({ served with mbxRun := some (0, [1, 2]) } : State).mbxRun = some (0, [1, 2]) ∧ inv served = true := by decide +kernel

theorem witness_smbus :
    [(8 : Nat), 9].all (fun code => let s := { withFields [(F.RST_CFGSEL.VALID, 1), (F.RST_CFGSEL.CODE, code)] State.reset with
        bring := { State.reset.bring with next := 1 } }
        s.fbit F.RST_CFGSEL.VALID && s.bring.active && s.bring.next == 1 && s.fget F.RST_CFGSEL.CODE == code) = true
    ∧ State.reset.temps = [] ∧ (0x1FFFFFC : W32).toNat < 0x2000000 ∧ (0xFFFC : W32).toNat < 0x10000
    ∧ ({ State.reset with stagUp := true, bring := { State.reset.bring with next := 3 } } : State).smbOpen = true
    ∧ (withFields [(F.RST_STAGE_CTRL.HELD, 1)] State.reset).fbit F.RST_STAGE_CTRL.HELD = true := by decide +kernel

/-! ## Faults -/

/-- A report of the device's tile 0. -/
def aReport (code : W16) (flags unit : Byte) : Report := ⟨code, flags, unit, 0, 0, 0, 0, 0, 0, 0, 0, 0, 0, 0, 0, 0⟩

theorem witness_ReportsReachTheirQueue :
    (let r := aReport 0x2002 0 1
     faultReport r = false ∧ reportAsk r = 0 ∧ r.code ∉ ([0x4001, 0x2012, 0x6006, 0x3004] : List W16) ∧ State.reset.reports.length < 64)
    ∧ (let r := aReport 0x2001 6 0
       r.unit = 0 ∧ faultReport r = true ∧ reportAsk r = 1 ∧ r.code ∉ ([0x4001, 0x2012, 0x6006, 0x3004, 0x1014] : List W16)
        ∧ State.reset.covered (.tile (reportTile r)) = false ∧ mapFind State.reset.charges (State.reset.physOf (reportTile r)) = none
        ∧ 2 ≤ State.reset.fget F.FLT_ESC_CFG.TILE_N)
    ∧ 64 ≤ ({ State.reset with reports := List.replicate 64 (aReport 1 0 0) } : State).reports.length
    ∧ bit (1 : W32).toNat 0 = true ∧ bit (0x80000000 : W32).toNat 31 = true
    ∧ ({ State.reset with reports := [aReport 1 0 0] } : State).reports = aReport 1 0 0 :: [] ∧ State.reset.reports = [] := by decide +kernel

/-- The tile report asks for the reset of its tile, and the STAG asks for no second reset while it runs (R431, R437). -/
theorem test_reportAsksForItsReset : (match exec (.errorReport (aReport 0x2001 6 0)) served with
    | .next s => some (s.resetAsk, s.fget F.FLT_REPORT_STATUS.COUNT) | _ => none) = some ([Domain.tile 0], 1) := by decide +kernel

theorem witness_HangsAreReported :
    (let x := withCore (fun c => { c with wait := .counter 3 5 }) (atWord 0)
     let s := stepRuns x
     s.watching = true ∧ s.watchedTile 0 = true ∧ waitKind (s.tile 0).core.wait = some (1, 3))
    ∧ (let o := opOf 4 (laneWord 8) 0
       let s := stepRuns { opTile o with exec := [{ o with n := 0 }] }
       s.watching = true ∧ s.watchedTile 0 = true ∧ (s.tile 0).head 4 = some o ∧ (s.tile 0).canIssue o = false)
    ∧ (let s := stepRuns { opTile sendOp with eps := [(0, { sendEp with credit := 0 })] }
       s.watching = true ∧ s.watchedTile 0 = true ∧ (s.tile 0).stalledSend = some (sendOp, 0)) := by decide +kernel

theorem witness_HardenedRegistersAreVoted :
    hardExists (.mapCol 67) = true ∧ hardExists .buddy = true ∧ (1 : W64) ≠ 2 ∧ (2 : W64) ≠ 3 ∧ (1 : W64) ≠ 3 := by decide

def aNotice (level unit : Byte) : Notice := ⟨0x2001, level, unit, 0, 0, 5, 7, 0⟩

theorem witness_NoticesAreHeeded :
    (let s := { State.reset with seen := [(5, 7)] }
     ((aNotice 3 0).subject, (aNotice 3 0).nseq) ∈ s.seen)
    ∧ (let s := coordinating .running phStepRunning id
       ((aNotice 3 0).subject, (aNotice 3 0).nseq) ∉ s.seen ∧ s.coordinates = true ∧ s.coord.stage = .running)
    ∧ (aNotice 3 0).level = 3 ∧ (aNotice 3 0).code ≠ 0x6006 ∧ (aNotice 4 8).unit = 8 ∧ (aNotice 5 0).unit = 0
    ∧ ((5, 7) ∉ State.reset.seen) ∧ bits (0 : W32).toNat 19 8 = bits (aNotice 5 0).loc.toNat 19 8 ∧ 3 ≤ (aNotice 3 0).level.toNat
    ∧ (let s := withFields [(F.STEP_BUDDY.EN, 1), (F.STEP_BUDDY.BI, 1)] served
       s.fbit F.STEP_BUDDY.EN = true ∧ s.ord.toNat ≠ s.buddyOrd) := by decide +kernel

theorem witness_UnitsAreReadmitted :
    (let s := withFields [(F.FLT_ESC_STATE.OOS_PORTS, 8)] State.reset
     bit (s.fget F.FLT_ESC_STATE.OOS_PORTS) (3 : PortNo).toNat = true ∧ inv s = true)
    ∧ (let s := { State.reset with soft := { State.reset.soft with oosTiles := [physKey 67 31] } }
       (67 : BitVec 7).toNat < 68 ∧ physKey (67 : BitVec 7).toNat (31 : BitVec 5).toNat ∈ s.soft.oosTiles)
    ∧ (0 : BitVec 6).toNat = served.pos ∧ served.fbit F.HQ_STATUS.READY = true ∧ served.fbit F.WV_STATUS.LOADED = false
    ∧ (storedWeave weaveBytes.length none weaveBytes).isSome = true := by decide +kernel

/-! ## Resets -/

theorem witness_DeviceResetSourcesReset :
    (let s := withFields [(F.RST_WDT.EN, 1), (F.RST_CFGSEL.DEBUG, 1), (F.HQ_STATUS.READY, 1)]
       { State.reset with stagUp := true, bring := { State.reset.bring with active := false }, resetAsk := [.device] }
     s.now ≤ 2000000000 ∧ s.isOff = false ∧ s.shutdown = false ∧ s.pins.resetLow = false ∧ s.stagUp = true ∧ s.stagHalted = false
      ∧ s.fbit F.RST_WDT.EN = true ∧ s.wdtFrom + s.fget F.RST_WDT.PERIOD_MS * 1000000 ≤ 2000000000 ∧ s.fbit F.RST_CFGSEL.DEBUG = true
      ∧ s.pins.trstLow = false ∧ s.fbit F.HQ_STATUS.READY = true ∧ Domain.device ∉ s.resetRun ∧ Domain.device ∈ s.resetAsk
      ∧ s.stepPhase = phStepIdle) := by decide +kernel

/-- R461: PERIOD_MS is 1000 after reset, so the watchdog does not fire before one second. -/
theorem test_watchdogPeriod : (match exec (.wdt 999999999) (withFields [(F.RST_WDT.EN, 1)] { State.reset with stagUp := true }) with
    | .next t => some (t.fbit F.RST_CAUSE.WDT, t.stagUp) | _ => none) = some (false, true) := by decide +kernel

theorem witness_DomainResetsRun :
    (served.fbit F.HQ_STATUS.READY = true ∧ served.stepPhase = phStepIdle ∧ served.resetRun = [] ∧ served.resetAsk = [])
    ∧ (let s := { served with resetAsk := [.tile 5, .half true], bring := { served.bring with active := false } }
       s.stepPhase = phStepIdle ∧ Domain.tile 5 ∈ s.resetAsk ∧ Domain.half true ∈ s.resetAsk ∧ s.bring.active = false)
    ∧ (let s := { served with resetRun := [.tile 5] }
       Domain.tile 5 ∈ s.resetRun ∧ s.weave = none)
    ∧ (let w := { plainWeave with tiles := [⟨0, 0, 0, 0, 64, 32, false, 0, 0, 0, 5, 9, [], [], [], [], [], false, ctxImage⟩] }
       let s := { served with resetRun := [.tile 5], weave := some w }
       Domain.tile 5 ∈ s.resetRun ∧ s.weave = some w ∧ (w.imageAt 5).ctx = true) := by decide +kernel

theorem witness_BlocksAndReferencesAreFollowed :
    (let s := { State.reset with pins := { State.reset.pins with resetLow := true } }
     inv s = true ∧ s.pins.resetLow = true ∧ s.shutdown = false ∧ s.isOff = false)
    ∧ State.reset.fbit F.WV_STATUS.LOADED = false
    ∧ (let s := withFields [(F.OL_PORT_STATUS.STATE.ix 15, tsDetect), (F.CLK_REF_STATUS.LINK_LOCK, 0x8000), (F.CXL_PORT_STATUS.USED.ix 3, 1)] State.reset
       s.portState (15 : PortNo).toNat ≠ tsActive ∧ s.portState (15 : PortNo).toNat ≠ tsDisabled
        ∧ bit (s.fget F.CLK_REF_STATUS.LINK_LOCK) (15 : PortNo).toNat = true ∧ s.fbit (F.CXL_PORT_STATUS.USED.ix 3) = true ∧ inv s = true) := by
  decide +kernel

/-! ## Bring-up and self-test -/

/-- Stage `n` of the path `path` may end. -/
def atStage (n path : Nat) (s : State) : State := { s with stagUp := true, bring := { s.bring with active := true, next := n, path := path } }

theorem witness_StageEndsAreRecorded :
    inv (atStage 8 1 State.reset) = true ∧ (atStage 8 1 State.reset).wholePath = true ∧ (atStage 8 3 State.reset).wholePath = false
    ∧ (withFields [(F.RST_STAGE_CTRL.HOLD_EN, 1)] (atStage 3 2 State.reset)).fbit F.RST_STAGE_CTRL.HOLD_EN = true := by decide +kernel

/-- R463, "Examples": RAW 16 selects code 1, and the register reads 0x8000_1001. -/
theorem test_strapExample : (let s := ({ State.reset with bring := { State.reset.bring with cfgRaw := 16 } } : State).measure
    s.narrowAt 0x60004) = 0x80001001 := by decide +kernel

theorem witness_EarlyStagesEnd :
    (atStage 0 1 State.reset).stageReady 0 = true
    ∧ (let s := withFields [(F.RST_CFGSEL.VALID, 1), (F.RST_CFGSEL.CODE, 1)] (atStage 1 1 State.reset)
       s.stageReady 1 = true ∧ s.fbit F.RST_CFGSEL.VALID = true ∧ s.fget F.RST_CFGSEL.CODE = 1)
    ∧ (let s := { withFields [(F.RST_CFGSEL.VALID, 1), (F.RST_CFGSEL.CODE, 9)] (atStage 1 1 State.reset) with recoveryFw := [1] }
       s.stageReady 1 = true ∧ s.recoveryFw ≠ [])
    ∧ (let s := withFields [(F.HQ_HERD.LEAD, 1)] (atStage 2 1 State.reset)
       s.stageReady 2 = true ∧ inv s = true ∧ s.wholePath = true ∧ s.isLead = true ∧ s.pins.perstLow = false) := by decide +kernel

/-- A device with more columns marked than the West half can replace. -/
def fewColumns : State := { State.reset with soft := { State.reset.soft with marks := [⟨0, 0, 3, false⟩, ⟨1, 0, 3, false⟩, ⟨2, 0, 3, false⟩] } }

theorem witness_MapsServeTheirColumns :
    (fewColumns.freeCols false).length < 32 ∧ 32 ≤ (fewColumns.freeCols true).length ∧ inv fewColumns = true := by decide +kernel

theorem witness_MeshAndMemoryStagesEnd :
    (let s := atStage 3 1 State.reset
     inv s = true ∧ s.stageReady 3 = true ∧ s.wholePath = true ∧ s.bring.path = 1 ∧ ∀ e ∈ s.pathHalves, 33 ≤ (s.freeCols e).length)
    ∧ (let s := { atStage 4 2 State.reset with soft := { State.reset.soft with queued := [(0, 7)] } }
       inv s = true ∧ s.stageReady 4 = true ∧ s.wholePath = true ∧ (0, 7) ∈ s.soft.queued ∧ ∀ e : Bool, 33 ≤ (s.freeCols e).length)
    ∧ (∃ k < 32 * 68, fixedCol (k % 68) = true) := by
  refine ⟨by decide +kernel, by decide +kernel, ⟨33, by decide, by decide +kernel⟩⟩

theorem witness_LinkStagesEnd :
    (atStage 5 1 State.reset).stageReady 5 = true ∧ (atStage 6 1 State.reset).stageReady 6 = true
    ∧ (let s := withFields [(F.CLK_REF_STATUS.CXL_OK, 1)] (atStage 7 1 State.reset)
       inv s = true ∧ s.wholePath = true ∧ s.stageReady 7 = true ∧ s.bring.path = 1 ∧ s.fbit F.CLK_REF_STATUS.CXL_OK = true)
    ∧ (atStage 7 1 State.reset).fbit F.CLK_REF_STATUS.CXL_OK = false := by decide +kernel

theorem witness_TilesComeUp :
    (atStage 8 1 State.reset).testing 5 = true
    ∧ (let s := atStage 8 1 State.reset
       inv s = true ∧ s.stageReady 8 = true ∧ s.wholePath = true ∧ s.bring.bad = [] ∧ s.weave = none ∧ ∀ e ∈ s.pathHalves, 32 ≤ (s.freeCols e).length)
    ∧ (atStage 8 3 State.reset).wholePath = false ∧ (atStage 9 1 State.reset).stageReady 9 = true := by decide +kernel

theorem witness_wrongSignature : ∃ sig : W32, sig ≠ Config.selfTestSig := ⟨Config.selfTestSig + 1, by bv_omega⟩

theorem witness_StagesAreReleased :
    (let s := withFields [(F.RST_STAGE_CTRL.HELD, 1), (F.RST_CFGSEL.DEBUG, 1)] (atStage 4 1 State.reset)
     s.fbit F.RST_STAGE_CTRL.HELD = true ∧ s.bring.next ≠ 6 ∧ s.fbit F.RST_CFGSEL.DEBUG = true ∧ s.pins.trstLow = false ∧ s.stagHalted = false)
    ∧ ({ State.reset with stagHalted := true } : State).stagHalted = true ∧ State.reset.fbit F.RST_STAGE_CTRL.HELD = false
    ∧ State.reset.fbit F.RST_CFGSEL.DEBUG = false ∧ State.reset.pins.resetLow = false := by decide +kernel

theorem witness_SelfTestFindsFaults :
    (let s := withFields [(F.MAP_ST_CTRL.EN, 1), (F.MAP_ST_CTRL.SCRUB, 1)] (onTile { Tile.reset with phase := phIdle })
     s.fbit F.MAP_ST_CTRL.EN = true ∧ s.slicing 0 = true ∧ (s.tile 0).phase ≠ phReset ∧ (s.tile 0).phase ≠ phRolling ∧ s.inRun 0 = true
      ∧ (s.tile 0).exec = [] ∧ s.fbit F.MAP_ST_STATUS.FAIL = false ∧ (∀ m ∈ s.soft.marks, m.col ≠ s.physCol (tileX 0)) ∧ inv s = true
      ∧ s.fbit F.MAP_ST_CTRL.SCRUB = true ∧ mapGet [] s.sliceQ (2 * (63 : BitVec 6).toNat) = [] ∧ mapGet [] s.sliceQ (2 * (63 : BitVec 6).toNat + 1) = [] ∧ s.scrubErrs = [])
    ∧ (let s := { State.reset with scrubErrs := [(sliceArray 63, 9, 2)] }
       mapGet 0 s.scrubPos (sliceArray 63) ≤ 9 ∧ s.scrubErrs = (sliceArray 63, 9, 2) :: [])
    ∧ (withFields [(F.MAP_ST_CTRL.EN, 0), (F.MAP_ST_CTRL.SCRUB, 0)] State.reset).fbit F.MAP_ST_CTRL.EN = false
    ∧ (withFields [(F.MAP_ST_CTRL.SCRUB, 0)] State.reset).fbit F.MAP_ST_CTRL.SCRUB = false
    ∧ [0, 1, 2].map (fun n => (withFields [(F.MAP_STATUS.LC, n)] State.reset).lifeCycle) = [0, 1, 2] ∧ inv State.reset = true := by
  decide +kernel

/-! ## Power -/

/-- Ready, with a tolerance that allows every state; domain 158's contained domains are off when `off`. -/
def restful (off : Bool) : State :=
  let s := withFields [(F.PWR_TOL.US, 0xFFFFFFFF)] served
  if off then { withFields ((List.range 158).map (fun d => (F.PWR_STATE.STATE.ix d, 5))) s with
    moves := (List.range 158).map (fun d => (d, ⟨4, false, 0, []⟩)) } else s

def withMove (d : Nat) (m : PowerMove) (s : State) : State := s.setMove d m

theorem witness_DomainsEnterTheirState :
    [0, 1, 2, 3].all (fun point => let s := withMove 5 ⟨point, false, 0, []⟩ (restful false)
      inv s && (s.move 5).waking == 0 && (s.move 5).point + 1 == point + 1 && s.goesDeeper none 5) = true
    ∧ (let s := withMove 146 ⟨3, false, 0, []⟩ (restful false)
       (s.move 146).waking = 0 ∧ (s.move 146).point = 3 ∧ s.goesDeeper none 146 = true)
    ∧ ((withMove 5 ⟨2, true, 0, []⟩ (restful false)).move 5).abort = true ∧ State.reset.fbit F.HQ_STATUS.READY = false := by decide +kernel

theorem witness_deviceEntersOff :
    (let s := withMove 158 ⟨3, false, 0, []⟩ (restful true)
     (s.move 158).waking = 0 ∧ (s.move 158).point = 3 ∧ s.goesDeeper none 158 = true) := by decide +kernel

theorem witness_DomainsWake :
    (let s := withMove 5 ⟨2, false, 0, []⟩ served
     (s.move 5).waking = 0 ∧ (s.move 5).abort = false ∧ pointOf (s.target 5) < (s.move 5).point ∧ s.goesDeeper (some 2) 5 = false)
    ∧ (let s := withMove 5 ⟨2, false, 0, []⟩ (withFields [(F.PWR_VOTE.HOST.ix 5, 1)] served)
       (8 : BitVec 4) ≠ 2 ∧ (8, 0) ∈ s.limits 5 ∧ s.goesDeeper (some 8) 5 = false ∧ pointOf (s.target 5) < (s.move 5).point)
    ∧ (let s := withMove 5 ⟨2, false, 0, [8]⟩ (withFields [(F.PWR_VOTE.HOST.ix 5, 1)] (restful false))
       (8, 0) ∈ s.limits 5 ∧ s.goesDeeper (some 8) 5 = true ∧ pointOf (s.target 5) < (s.move 5).point + 1 ∧ 8 ∈ (s.move 5).cleared ∧ inv s = true)
    ∧ [1, 2, 3, 4].all (fun w => ((withMove 5 ⟨4, false, w, []⟩ served).move 5).waking == w) = true
    ∧ (let s := withMove 158 ⟨4, false, 4, []⟩ { served with bring := { served.bring with active := false } }
       (s.move 158).waking = 4 ∧ inv s = true ∧ (s.move 158).point = 4 ∧ s.weave = none ∧ s.bring.active = false)
    ∧ (let s := withMove 158 ⟨4, false, 0, []⟩ (withFields [(F.PWR_STATE.STATE.ix 158, 5)] served)
       s.shutdown = false ∧ s.domState 158 = 5 ∧ (s.move 158).waking = 0 ∧ (s.move 158).abort = false ∧ (s.move 158).point = 4)
    ∧ (let s := { served with shutdown := true }
       s.shutdown = true ∧ ∀ p ∈ s.temps, p.2 < 720) := by decide +kernel

theorem witness_RequestsWaitForTheWake :
    (let s := withMove 158 ⟨2, false, 0, []⟩ served
     s.deviceAsleep = true ∧ s.isOff = false ∧ s.hostPort = true)
    ∧ (let s := { served with heldReqs := [.read 0x40000 4] }
       s.pending = [] ∧ s.deviceAsleep = false ∧ s.heldReqs ≠ []) := by decide +kernel

theorem witness_BrowseSequencerSamples :
    (let s := { withMove 158 ⟨3, false, 0, []⟩ (withFields [(F.PWR_STATE.STATE.ix 158, 3)] served) with snap := some ⟨[0], [], 1, 0⟩ }
     s.domState 158 = 3 ∧ (s.move 158).waking = 0 ∧ (s.move 158).point = 3 ∧ s.snap = some ⟨[0], [], 1, 0⟩
      ∧ (⟨[0], [], 1, 0⟩ : Snapshot) ≠ ⟨[1], [], 1, 0⟩)
    ∧ State.reset.snap = none := by decide +kernel

/-- Ready in mode `m`, with both tile clocks at `clk` tens of MHz. -/
def clocked (m clk : Nat) : State := withFields [(F.PWR_MODE.MODE, m), (F.PWR_STATUS.W_CLK, clk), (F.PWR_STATUS.E_CLK, clk)] served

theorem witness_BurstsBeginAndEnd :
    (let s := { withFields [(F.STEP_STATUS.PHASE, phStepRunning)] (clocked 2 140) with
        temps := (List.range 48).map (fun i => (i, 400)) }
     let u := s.at 5
     s.fbit F.PWR_STATUS.PRONK = false ∧ s.fget F.PWR_MODE.MODE = 2 ∧ s.fbit F.HQ_STATUS.READY = true ∧ (s.move 158).point = 0
      ∧ (0, 0) ∈ u.hwLimits 158 ∧ u.halfTemp false < 760 ∧ u.halfTemp true < 760 ∧ s.pronk.lastEnd = none ∧ inv s = true
      ∧ s.fbit F.PWR_PRONK.LOCKOUT = false ∧ s.fbit F.PWR_STATUS.W_THROTTLE = false)
    ∧ (withFields [(F.PWR_PRONK.LOCKOUT, 1), (F.PWR_STATUS.PRONK, 1)] (clocked 2 140)).fbit F.PWR_PRONK.LOCKOUT = true
    ∧ (let s := { withFields [(F.PWR_STATUS.PRONK, 1)] (clocked 2 170) with now := 60000000000, pronk := ⟨some 0, none, [1, 2]⟩ }
       s.fbit F.PWR_STATUS.PRONK = true ∧ inv s = true ∧ s.pronk.since = some 0
        ∧ 3 ≤ (s.pronk.trips.filter (fun x => decide (s.now < x + 60000000000)) ++ [s.now]).length) := by decide +kernel

theorem witness_ClocksFollowModeAndPower :
    [0, 1].all (fun m => let s := withFields [(F.PWR_STATUS.LIMITING, 1)] (clocked m 90)
      inv s && !s.fbit F.PWR_STATUS.PRONK && s.fbit F.HQ_STATUS.READY && !s.fbit F.PWR_STATUS.W_THROTTLE && !s.fbit F.PWR_STATUS.E_THROTTLE
        && s.fget F.PWR_STATUS.W_CLK == s.fget F.PWR_STATUS.E_CLK && decide (s.fget F.PWR_STATUS.W_CLK ≤ 170) && s.fbit F.PWR_STATUS.LIMITING)
      = true := by decide +kernel

/-- R511, R515: in Sustained mode 1801 W takes the tile clocks from 1.4 to 1.3 GHz. -/
theorem test_powerLimit : (match exec (.powerMeasure 1801) (clocked 1 140) with
    | .next s => some (s.fget F.PWR_STATUS.W_CLK, s.fget F.PWR_STATUS.E_CLK) | _ => none) = some (130, 130) := by decide +kernel

theorem witness_SensorsAct :
    [(400, false), (840, false), (920, true)].all (fun p =>
      let u := (served.at 5).sampled (List.replicate 48 p.1) []
      inv served && !served.shutdown && !served.isOff
        && ((u.readings false).any (fun q => decide (920 ≤ q.2)) == p.2)
        && u.halfTemp false == p.1) = true
    ∧ ((served.at 5).sampled (List.replicate 48 2000) []).halfTemp true = 824 := by decide +kernel

/-! ## The recorder -/

theorem witness_RecordsTakeTheirPlace :
    (let r := State.reset.recorder
     r.pfHold = false ∧ r.flushing = false ∧ (0x2001 : W16).toNat < 0x9000 ∧ writtenOf r 0 0x2001 < 64)
    ∧ (let r := { State.reset.recorder with flushing := true }
       r.flushing = true ∧ r.staging.length < Config.stageSlots)
    ∧ (let r := { State.reset.recorder with written := [(0xD010, 64)] }
       0xCFFF < (0xD010 : W16).toNat ∧ 64 ≤ writtenOf r 0 0xD010)
    ∧ (let q : Record := { seq := 4, ver := 0, pcc := 1, again := 0, last := 0, body := aReport 0x9001 0 0 }
       canMerge 5 q (aReport 0x9001 0 0) = true) := by decide +kernel

theorem witness_FlushesRun :
    (0x80000000 : W32).getLsbD 31 = true
    ∧ (let r := { State.reset.recorder with wanted := true, flushing := false, erasing := false, lastEnd := some 0 }
       r.wanted = true ∧ r.flushing = false ∧ r.erasing = false ∧ ∀ x, r.lastEnd = some x → x + 1000000000 ≤ 1000000000)
    ∧ (let r := { State.reset.recorder with image := some ⟨0, 1, 0, false, [], []⟩ }
       r.image = some ⟨0, 1, 0, false, [], []⟩) := by
  refine ⟨by decide, ?_, rfl⟩
  exact ⟨rfl, rfl, rfl, fun x h => by cases h; decide⟩

theorem witness_RecorderKeepsItsHistory :
    State.reset.recorder.dropped = [] ∧ ({ State.reset.recorder with dropped := [(0x2001, 3)] } : Recorder).dropped = [(0x2001, 3)]
    ∧ ({ State.reset.recorder with pfHold := true } : Recorder).pfHold = true ∧ State.reset.recorder.pfHold = false
    ∧ writtenOf State.reset.recorder State.reset.optime 0xD001 < 64 ∧ State.reset.recorder.flushing = false
    ∧ (State.reset.recorder.ring.map (fun p => p.2.seq.toNat)).length = 1 ∧ inv State.reset = true := by decide +kernel

/-- R526: PWRFAIL_N low writes 0xD001 and starts a flush of a clean image. -/
theorem test_powerFail : (match exec .pwrfailN State.reset with
    | .next s => some (s.recorder.flushing, s.recorder.pfHold, s.recorder.ring.map (fun p => p.2.body.code)) | _ => none)
    = some (true, true, [0xD003, 0xD001]) := by decide +kernel

/-! ## Frames, and the state after reset -/

theorem witness_TileCommandsChangeOnlyTheirTile :
    (tileAfter (.add 0 .none) (withCore (fun c => { c with sreg := [(1, 3), (2, 4)] }) (atWord (rWord 0x10 3 1 2 0)))).isSome = true
    ∧ (tileAfter (.fadd 0 .none) (lanes 8 0 0)).isSome = true := by decide +kernel

theorem witness_ResetLeavesTheTableValues : F.ID_PART.PART.key ∉ resetRegs.map Prod.fst := by decide +kernel

end Sys2Proof.Tests
end

section
/-! # Registers: access kinds, reads and writes, and the values after reset (R5 to R9, R404, R479)

A field's write rule, the paths by which a served access reaches a register of BAR0 outside the tile windows, and what each counting
register's read returns and clears. -/

namespace Sys2Proof.Machine

/-! ## Sparse maps under a filter of their keys -/

theorem mapFind_filter {V : Type} (p : Nat → Bool) (m : SMap V) (x : Nat) :
    mapFind (m.filter (fun c => p c.1)) x = if p x then mapFind m x else none := by
  induction m with
  | nil => simp [mapFind]
  | cons c m ih =>
    obtain ⟨k, v⟩ := c
    by_cases hx : x = k
    · subst hx
      by_cases hp : p x <;> simp_all [mapFind]
    · by_cases hp : p k <;> simp_all [mapFind]

theorem mapFind_eq_none_of_not_mem {V : Type} {m : SMap V} {x : Nat} (h : x ∉ m.map Prod.fst) : mapFind m x = none := by
  induction m with
  | nil => rfl
  | cons c m ih =>
    rw [List.map_cons, List.mem_cons, not_or] at h
    rw [mapFind, if_neg h.1, ih h.2]

/-! ## A field takes a write by its access kind (R9) -/

section
variable {s : State} {f : Fld} {v : Nat}

theorem writeFld_rw (h : f.acc = .rw ∨ f.acc = .rwl) :
    s.writeFld f v = if f.lo ≤ v ∧ v ≤ f.hi then (true, s.fset f v) else (false, s) := by
  rcases h with h | h <;> simp [State.writeFld, h]

theorem writeFld_w1c (h : f.acc = .w1c) : (s.writeFld f v).2 = s.fset f (s.fget f &&& (2 ^ f.width - 1 - v)) := by
  simp [State.writeFld, h]

theorem writeFld_w1s (h : f.acc = .w1s) : (s.writeFld f v).2 = s.fset f (s.fget f ||| v) := by
  simp [State.writeFld, h]

theorem writeFld_kept (h : f.acc = .ro ∨ f.acc = .rc ∨ f.acc = .wo) : (s.writeFld f v).2 = s := by
  rcases h with h | h | h <;> simp [State.writeFld, h]

end

theorem testBit_clear_ones {w x v : Nat} (hx : x < 2 ^ w) (hv : v < 2 ^ w) (i : Nat) :
    ((x &&& (2 ^ w - 1 - v)) % 2 ^ w).testBit i = (x.testBit i && !v.testBit i) := by
  have hc : 2 ^ w - 1 - v = 2 ^ w - (v + 1) := by omega
  rw [Nat.testBit_mod_two_pow, Nat.testBit_and, hc, Nat.testBit_two_pow_sub_succ hv]
  by_cases hi : i < w
  · simp [hi]
  · simp [hi, Nat.testBit_lt_two_pow (hx.trans_le (Nat.pow_le_pow_right two_pos (Nat.le_of_not_lt hi)))]

/-- Settles O36: a set field reads back, no other field changes, and each access kind has its write rule. -/
theorem registerFieldsTakeTheirAccessKind : Obligations.RegisterFieldsTakeTheirAccessKind := by
  intro s f v hs hv
  refine ⟨?_, fun g hg => fget_fset_other hg v, rising_fset hs v, writeFld_rw, fun h hx i => ?_, fun h hx i => ?_, writeFld_kept⟩
  · rw [fget_fset_same, Nat.mod_eq_of_lt hv]
  · rw [writeFld_w1c h, fget_fset_same, testBit_clear_ones hx hv]
  · rw [writeFld_w1s h, fget_fset_same, Nat.mod_eq_of_lt (Nat.or_lt_two_pow hx hv), Nat.testBit_or]

/-! ## After reset (R479) -/

theorem fget_reset {f : Fld} (h : f.key ∉ resetRegs.map Prod.fst) : State.reset.fget f = f.rst := by
  show (mapFind resetRegs f.key).getD f.rst = f.rst
  rw [mapFind_eq_none_of_not_mem h, Option.getD_none]

theorem columnMap_reset : ∀ n < 34, State.reset.fget (F.MAP_COL.STATE.ix n) = (if n < 32 then 0 else 1)
    ∧ (n < 32 → State.reset.fget (F.MAP_COL.LOGICAL.ix n) = n ∧ State.reset.fget (F.MAP_COL.LOGICAL.ix (n + 34)) = n + 32) := by
  decide +kernel

theorem tile_reset (t : TileId) : State.reset.tile t = Tile.reset := rfl

/-- Settles O59: fields that reset does not list hold their table's value, and the listed ones are evaluated. -/
theorem resetLeavesTheTableValues : Obligations.ResetLeavesTheTableValues := by
  refine ⟨fun f => fget_reset, ?_, ?_, ?_, ?_, ?_, columnMap_reset, fun t => ?_, rfl, rfl, rfl, rfl, rfl⟩
  · exact fget_reset (by decide +kernel)
  · decide +kernel
  · exact fget_reset (by decide +kernel)
  · exact fget_reset (by decide +kernel)
  · decide +kernel
  · rw [tile_reset]; exact ⟨rfl, rfl, rfl⟩

/-! ## Served accesses reach BAR0 (R404, R407, R469, R502) -/

theorem hostSilent_of_hostServed {s : State} (h : HostServed s) : s.hostSilent = false := by
  obtain ⟨hOff, hPort, -, -, -⟩ := h
  simp [State.hostSilent, hOff, hPort]

theorem not_waitsWake_of_served {path : Path} {s : State} (h : Served path s) (off : Nat) (read : Bool) :
    s.waitsWake path off read = false := by
  by_cases hp : path = .pcie
  · obtain ⟨-, -, -, -, hAwake⟩ := h hp
    simp [State.waitsWake, State.deviceAsleep, hAwake]
  · simp [State.waitsWake, hp]

/-- What keeps a host access from BAR0's registers is off for a served access. -/
theorem gates_of_served {path : Path} {s : State} (h : Served path s) :
    (path == .pcie && s.hostSilent) = false ∧ s.hostDropped path = false ∧ (path == .pcie && !s.fbit F.HQ_STATUS.READY) = false := by
  by_cases hp : path = .pcie
  · obtain ⟨-, -, hLead, hReady, -⟩ := h hp
    simp [State.hostDropped, hLead, hReady, hostSilent_of_hostServed (h hp)]
  · simp [State.hostDropped, hp]

section
variable {path : Path} {s : State} {off size : Nat}

theorem readOrHold_served (h : Served path s) (ha : aligned off size = true) :
    s.readOrHold path off size = .next (let p := if size = 8 then s.read64 off else s.read32 off
      p.2.emit (.readData path off (BitVec.ofNat 64 p.1))) := by
  obtain ⟨hSilent, hDropped, hReady⟩ := gates_of_served h
  simp [State.readOrHold, State.busRead, not_waitsWake_of_served h, hSilent, hDropped, hReady, ha]

theorem readOrHold_misaligned (h : Served path s) (ha : aligned off size = false) :
    s.readOrHold path off size = .next ((s.barEvent 0 off).emit
      (.readData path off (if size = 4 then BitVec.ofNat 64 (2 ^ 32 - 1) else allOnes))) := by
  simp [State.readOrHold, State.busRead, not_waitsWake_of_served h, (gates_of_served h).1, ha]

theorem writeOrHold_served (h : Served path s) (ha : aligned off size = true) (v : Nat) :
    s.writeOrHold path off size v = .next (if size = 8 then s.write64 path off v else s.write32 path off v) := by
  obtain ⟨hSilent, hDropped, hReady⟩ := gates_of_served h
  simp [State.writeOrHold, State.busWrite, not_waitsWake_of_served h, hSilent, hDropped, hReady, ha]

end

theorem aligned_four {off : Nat} (h : off % 4 = 0) : aligned off 4 = true := by simp [aligned, h]

theorem aligned_eight {off : Nat} (h : off % 8 = 0) : aligned off 8 = true := by simp [aligned, h]

/-! ## Registers outside the tile windows (R6, R8, R9) -/

section
variable {s : State} {off i : Nat} {r : RegD}

theorem wideAt_of_regAt (ht : off < tilBase) (hr : regAt off = some (r, i)) :
    s.wideAt off = if r.wide then some (r.at i, s.regValue r i) else none := by
  simp [State.wideAt, Nat.not_le.2 ht, hr]

theorem narrowAt_of_regAt (ht : off < tilBase) (hr : regAt off = some (r, i)) : s.narrowAt off = s.regValue r i := by
  simp [State.narrowAt, Nat.not_le.2 ht, hr]

theorem afterRead_of_regAt (hm : off ≠ 0x70218) (hr : regAt off = some (r, i)) (hi lo : Nat) :
    s.afterRead off hi lo = s.clearRc r i hi lo := by
  simp [State.afterRead, hm, hr]

theorem read32_narrow (ht : off < tilBase) (hr : regAt off = some (r, i)) (hw : r.wide = false) :
    s.read32 off = (s.regValue r i % 2 ^ 32, s.afterRead off 31 0) := by
  simp [State.read32, Nat.not_le.2 ht, wideAt_of_regAt ht hr, narrowAt_of_regAt ht hr, hw]

theorem read64_wide (ht : off < tilBase) (hr : regAt off = some (r, i)) (hw : r.wide = true) :
    s.read64 off = (s.regValue r i, s.afterRead (r.at i) 63 0) := by
  simp [State.read64, Nat.not_le.2 ht, wideAt_of_regAt ht hr, hw]

theorem read32_lower (ht : off < tilBase) (hr : regAt off = some (r, i)) (hw : r.wide = true) (hlow : off = r.at i) :
    s.read32 off = (s.regValue r i % 2 ^ 32,
      { s with rlatch := mapIns (r.at i) (BitVec.ofNat 32 (s.regValue r i / 2 ^ 32)) s.rlatch }.afterHalf (r.at i) false) := by
  subst hlow
  simp [State.read32, Nat.not_le.2 ht, wideAt_of_regAt ht hr, hw]

theorem read32_upper_latched (ht : off < tilBase) (hr : regAt off = some (r, i)) (hw : r.wide = true) (hhigh : off ≠ r.at i) {u : W32}
    (hl : mapFind s.rlatch (r.at i) = some u) :
    s.read32 off = (u.toNat, { s with rlatch := mapDel (r.at i) s.rlatch }.afterHalf (r.at i) true) := by
  simp [State.read32, Nat.not_le.2 ht, wideAt_of_regAt ht hr, hw, hhigh, hl]

theorem read32_upper_unlatched (ht : off < tilBase) (hr : regAt off = some (r, i)) (hw : r.wide = true) (hhigh : off ≠ r.at i)
    (hl : mapFind s.rlatch (r.at i) = none) : s.read32 off = (s.regValue r i / 2 ^ 32, s.afterHalf (r.at i) true) := by
  simp [State.read32, Nat.not_le.2 ht, wideAt_of_regAt ht hr, hw, hhigh, hl]

theorem mem_of_firstReg {rs : List RegD} (h : regAt.firstReg off rs = some (r, i)) : r ∈ rs := by
  induction rs with
  | nil => cases h
  | cons q rs ih =>
    rcases ite_eq_iff.1 h with ⟨-, h⟩ | ⟨-, h⟩
    · cases h; exact .head _
    · exact .tail _ (ih h)

theorem mem_regTable_of_regAt (h : regAt off = some (r, i)) : r ∈ regTable := mem_of_firstReg h

theorem stride_of_meshCnt : ∀ r ∈ regTable, r.off = 0x70218 → r.stride = 0 := by decide +kernel

/-- FLT_MESH_CNT is one register, so no other base belongs to its entry of the table. -/
theorem off_ne_meshCnt (hr : regAt off = some (r, i)) (hb : r.at i ≠ 0x70218) : r.off ≠ 0x70218 := by
  intro he
  exact hb (by simp [RegD.at, he, stride_of_meshCnt r (mem_regTable_of_regAt hr) he])

theorem afterHalf_lower (hr : regAt (r.at i) = some (r, i)) (hb : r.at i ≠ 0x70218) :
    s.afterHalf (r.at i) false = s.clearRc r i (if r.off = 0xC0110 then 63 else 31) 0 := by
  have hm := off_ne_meshCnt hr hb
  by_cases he : r.off = 0xC0110 <;>
    simp [State.afterHalf, halfSpan, clearsAtLower, hr, hm, he, afterRead_of_regAt hb hr]

theorem afterHalf_upper (hr : regAt (r.at i) = some (r, i)) (hb : r.at i ≠ 0x70218) :
    s.afterHalf (r.at i) true = if r.off = 0xC0110 then s else s.clearRc r i 63 32 := by
  have hm := off_ne_meshCnt hr hb
  by_cases he : r.off = 0xC0110 <;>
    simp [State.afterHalf, halfSpan, clearsAtLower, hr, hm, he, afterRead_of_regAt hb hr]

end

/-! ## Writes of whole registers (R6, R8) -/

section
variable {s : State} {path : Path} {off i v : Nat} {r : RegD}

theorem setReg_by_table (h : r.off ∉ hasItsRow) : s.setReg path r i v = s.writeReg r i v nothingLocked := by
  unfold State.setReg
  split <;> simp_all [hasItsRow]

theorem write32_narrow (ht : off < tilBase) (hr : regAt off = some (r, i)) (hw : r.wide = false) :
    s.write32 path off v = s.setReg path r i (v % 2 ^ 32) := by
  simp [State.write32, Nat.not_le.2 ht, hr, hw]

theorem write32_lower (ht : off < tilBase) (hr : regAt off = some (r, i)) (hw : r.wide = true) (hlow : off = r.at i) :
    s.write32 path off v = { s with wlatch := mapIns (r.at i) (BitVec.ofNat 32 (v % 2 ^ 32)) s.wlatch } := by
  simp [State.write32, Nat.not_le.2 ht, hr, hw, ← hlow]

theorem lowerNow_of_regAt (ht : off < tilBase) (hr : regAt off = some (r, i)) (hw : r.wide = true) :
    s.lowerNow off = s.regValue r i % 2 ^ 32 := by
  simp [State.lowerNow, wideAt_of_regAt ht hr, hw]

theorem write32_upper (ht : off < tilBase) (hr : regAt off = some (r, i)) (hw : r.wide = true) (hhigh : off = r.at i + 4)
    (hb : regAt (r.at i) = some (r, i)) :
    s.write32 path off v = { s with wlatch := mapDel (r.at i) s.wlatch }.setReg path r i
      (v % 2 ^ 32 * 2 ^ 32 + ((mapFind s.wlatch (r.at i)).map BitVec.toNat).getD (s.regValue r i % 2 ^ 32)) := by
  simp [State.write32, Nat.not_le.2 ht, hr, hw, show off ≠ r.at i by omega, lowerNow_of_regAt (show r.at i < tilBase by omega) hb hw]

theorem write64_wide (hr : regAt off = some (r, i)) (hw : r.wide = true) : s.write64 path off v = s.setReg path r i v := by
  simp [State.write64, hr, hw]

end

/-! ## What the reads of counting registers return (R9) -/

/-- Registers that show more than their stored fields. -/
def viewed : List Nat := [0x4, 0xB0058, 0x70218, 0xF0000, 0xC000C, 0x70040, 0x40400, 0x40800, 0x80000, 0x80008, 0x80010, 0x80018,
  0x80020, 0x80028, 0x80080]

theorem viewPart_of_stored {off : Nat} (h : off ∉ viewed) (s : State) (i : Nat) : s.viewPart off i = 0 := by
  unfold State.viewPart
  split <;> simp_all [viewed]

theorem regValue_of_stored {r : RegD} (h : r.off ∉ viewed) (s : State) (i : Nat) : s.regValue r i = s.rawReg r i := by
  rw [State.regValue, viewPart_of_stored h, Nat.add_zero]

/-- The offset 0x70218 finds FLT_MESH_CNT, whose value is a view. -/
theorem ne_meshCnt_of_stored {off i : Nat} {r : RegD} (hr : regAt off = some (r, i)) (h : r.off ∉ viewed) : off ≠ 0x70218 := by
  rintro rfl
  obtain ⟨q, hq, hoff⟩ : ∃ q, regAt 0x70218 = some (q, 0) ∧ q.off ∈ viewed := ⟨_, rfl, by decide⟩
  cases hq.symm.trans hr
  exact h hoff

/-- The sum of the readable ones of the fields `fs` of element `i`, each at its place. -/
def State.fldSum (s : State) (i : Nat) (fs : List Fld) : Nat :=
  (fs.map (fun f => if f.acc = .wo then 0 else s.fget (f.ix i) * 2 ^ f.lsb)).sum

theorem rawReg_eq_fldSum {r : RegD} {fs : List Fld} (hf : r.fields = fs) (s : State) (i : Nat) : s.rawReg r i = s.fldSum i fs := by
  rw [State.rawReg, hf, State.fldSum]

/-- Those of the fields `fs` of element `i` that reading clears, cleared. -/
def State.clearFlds (s : State) (i hi lo : Nat) (fs : List Fld) : State :=
  fs.foldl (fun s f => if f.acc = .rc ∧ lo ≤ f.lsb ∧ f.lsb ≤ hi then s.fset (f.ix i) 0 else s) s

theorem clearRc_eq_clearFlds {r : RegD} {fs : List Fld} (hf : r.fields = fs) (s : State) (i hi lo : Nat) :
    s.clearRc r i hi lo = s.clearFlds i hi lo fs := by
  rw [State.clearRc, hf, State.clearFlds]

/-! The fields are variables in these sums, so that the kernel never unfolds a power of two as a numeral. -/

section
variable {a b c d : Fld} (s : State) (i : Nat)

theorem fldSum_one (h : ∀ f ∈ [a], f.acc ≠ .wo) (h0 : a.lsb = 0) : s.fldSum i [a] = s.fget (a.ix i) := by
  simp_all [State.fldSum]

theorem fldSum_two (h : ∀ f ∈ [a, b], f.acc ≠ .wo) (h0 : b.lsb = 0) :
    s.fldSum i [a, b] = s.fget (a.ix i) * 2 ^ a.lsb + s.fget (b.ix i) := by
  simp_all [State.fldSum]

theorem fldSum_three (h : ∀ f ∈ [a, b, c], f.acc ≠ .wo) (h0 : c.lsb = 0) :
    s.fldSum i [a, b, c] = s.fget (a.ix i) * 2 ^ a.lsb + s.fget (b.ix i) * 2 ^ b.lsb + s.fget (c.ix i) := by
  simp_all [State.fldSum, Nat.add_assoc]

theorem fldSum_four (h : ∀ f ∈ [a, b, c, d], f.acc ≠ .wo) (h0 : d.lsb = 0) : s.fldSum i [a, b, c, d] =
    s.fget (a.ix i) * 2 ^ a.lsb + s.fget (b.ix i) * 2 ^ b.lsb + s.fget (c.ix i) * 2 ^ c.lsb + s.fget (d.ix i) := by
  simp_all [State.fldSum, Nat.add_assoc]

end

section
variable {c : Instr} {off : Nat} {word : State → Nat} {after : State → State}

/-- A host's read of a 32-bit register with the fields `fs`. -/
theorem readsRegister_narrow (i : Nat) (fs : List Fld) (hc : ∀ s, exec c s = s.hostRead off 4)
    (hreg : ∃ r, regAt off = some (r, i) ∧ r.wide = false ∧ r.off ∉ viewed ∧ r.fields = fs)
    (hword : ∀ s : State, s.fldSum i fs = word s) (hafter : ∀ s : State, s.clearFlds i 31 0 fs = after s)
    (ht : off < tilBase := by decide) (ha : off % 4 = 0 := by decide) : ReadsRegister c off 4 word after := by
  obtain ⟨r, hr, hw, hv, hf⟩ := hreg
  intro s hs
  rw [hc, State.hostRead, readOrHold_served (fun _ => hs) (aligned_four ha)]
  simp only [show (4 : Nat) ≠ 8 by decide, if_false]
  rw [read32_narrow ht hr hw, afterRead_of_regAt (ne_meshCnt_of_stored hr hv) hr, regValue_of_stored hv, rawReg_eq_fldSum hf, hword,
    clearRc_eq_clearFlds hf, hafter]

/-- A host's read of a 64-bit register with the fields `fs`. -/
theorem readsRegister_wide (i : Nat) (fs : List Fld) (hc : ∀ s, exec c s = s.hostRead off 8)
    (hreg : ∃ r, regAt off = some (r, i) ∧ r.wide = true ∧ r.off ∉ viewed ∧ r.fields = fs ∧ r.at i = off)
    (hword : ∀ s : State, s.fldSum i fs = word s) (hafter : ∀ s : State, s.clearFlds i 63 0 fs = after s)
    (ht : off < tilBase) (ha : off % 8 = 0) : ReadsRegister c off 8 word after := by
  obtain ⟨r, hr, hw, hv, hf, hat⟩ := hreg
  intro s hs
  have hval : BitVec.ofNat 64 (word s % 2 ^ (8 * 8)) = BitVec.ofNat 64 (word s) := BitVec.eq_of_toNat_eq (by simp)
  rw [hc, State.hostRead, readOrHold_served (fun _ => hs) (aligned_eight ha)]
  simp only [if_true, hval]
  rw [read64_wide ht hr hw, hat, afterRead_of_regAt (ne_meshCnt_of_stored hr hv) hr, regValue_of_stored hv, rawReg_eq_fldSum hf, hword,
    clearRc_eq_clearFlds hf, hafter]

end

/-! ### Registers of the memory stacks and of the fabric ports -/

theorem regAt_nmErr : ∀ k : BitVec 3, regAt (0xE0000 + 4 * k.toNat) = (regAt 0xE0000).map (fun p => (p.1, k.toNat)) := by decide +kernel

theorem regAt_olPortErr : ∀ p : PortNo, regAt (0xC0110 + 0x20 * p.toNat) = (regAt 0xC0110).map (fun q => (q.1, p.toNat)) := by
  decide +kernel

theorem regAt_olPortTraffic : ∀ p : PortNo, regAt (0xC0118 + 0x20 * p.toNat) = (regAt 0xC0118).map (fun q => (q.1, p.toNat)) := by
  decide +kernel

/-! ### The counters of a router (R261) -/

theorem mapGet_cnt_afterRead (s : State) (k : Nat) : mapGet 0 (s.afterRead 0x70218 63 0).mesh.cnt k =
    if (List.range 8).any (fun n => s.routerKey (8 * n) == k) then 0 else mapGet 0 s.mesh.cnt k := by
  have hspan : (List.range 8).any (fun n => decide (0 ≤ 8 * n ∧ 8 * n ≤ 63) && k == s.routerKey (8 * n))
      = (List.range 8).any (fun n => s.routerKey (8 * n) == k) := by
    rw [Bool.eq_iff_iff]
    simp only [List.any_eq_true, List.mem_range, Bool.and_eq_true, decide_eq_true_eq, beq_iff_eq]
    exact exists_congr fun n => ⟨fun ⟨hn, _, hk⟩ => ⟨hn, hk.symm⟩, fun ⟨hn, hk⟩ => ⟨hn, by omega, hk.symm⟩⟩
  simp only [State.afterRead, if_true, mapGet]
  rw [mapFind_filter (fun x => !(List.range 8).any (fun n => decide (0 ≤ 8 * n ∧ 8 * n ≤ 63) && x == s.routerKey (8 * n))), hspan]
  cases (List.range 8).any (fun n => s.routerKey (8 * n) == k) <;> rfl

/-- With its stored fields at 0, FLT_MESH_CNT is what its view shows. -/
theorem rawReg_eq_zero {s : State} {r : RegD} (h : ∀ f ∈ r.fields, s.fget f = 0) : s.rawReg r 0 = 0 := by
  refine List.sum_eq_zero fun x hx => ?_
  obtain ⟨f, hf, rfl⟩ := List.mem_map.1 hx
  split
  · rfl
  · rw [show f.ix 0 = f from rfl, h f hf, Nat.zero_mul]

theorem fltMeshCntRead_eq {s : State} (hs : HostServed s) (h0 : ∀ r : RegD, regAt 0x70218 = some (r, 0) → ∀ f ∈ r.fields, s.fget f = 0) :
    exec .fltMeshCntRead s = .next ((s.afterRead 0x70218 63 0).emit (.readData .pcie 0x70218 (BitVec.ofNat 64 s.routerCounts))) := by
  obtain ⟨r, hr, hw, hoff, hat⟩ : ∃ r, regAt 0x70218 = some (r, 0) ∧ r.wide = true ∧ r.off = 0x70218 ∧ r.at 0 = 0x70218 :=
    ⟨_, rfl, rfl, rfl, rfl⟩
  have hv : s.regValue r 0 = s.routerCounts := by
    rw [State.regValue, rawReg_eq_zero (h0 r hr), hoff, Nat.zero_add]; rfl
  show s.hostRead 0x70218 8 = _
  rw [State.hostRead, readOrHold_served (fun _ => hs) (aligned_eight rfl)]
  simp only [if_true]
  rw [read64_wide (by decide) hr hw, hat, hv]

theorem countingRegistersClearWhenRead : CountingRegistersClearWhenRead := by
  refine ⟨?stale, ?home, fun k => ?nmErr, fun p => ⟨?portErr, ?traffic⟩, ?flush, ?voteTime, ?digest, ?harden, ?genDrops, ?suppress,
    fun s hs h0 hrun => ?meshCnt⟩
  case stale =>
    exact readsRegister_narrow 0 [F.STEP_STALE.COUNT] (fun _ => rfl) ⟨_, rfl, rfl, by decide, rfl⟩
      (fun s => fldSum_one s 0 (by decide) rfl) (fun _ => rfl)
  case home =>
    exact readsRegister_narrow 0 [F.HOME_STATUS.POISON_HOLD, F.HOME_STATUS.SWEEP_STALLS, F.HOME_STATUS.SWEEP_PASS_US] (fun _ => rfl)
      ⟨_, rfl, rfl, by decide, rfl⟩ (fun s => fldSum_three s 0 (by decide) rfl) (fun _ => rfl)
  case nmErr =>
    have hk := k.isLt
    exact readsRegister_narrow k.toNat [F.NM_ERR.CE, F.NM_ERR.UE, F.NM_ERR.HOT, F.NM_ERR.TRAINED] (fun _ => rfl)
      ⟨_, regAt_nmErr k, rfl, by decide, rfl⟩ (fun s => fldSum_four s _ (by decide) rfl) (fun _ => rfl) (by unfold tilBase; omega) (by omega)
  case portErr =>
    have hp := p.isLt
    exact readsRegister_wide p.toNat [F.OL_PORT_ERR.CW_CORR, F.OL_PORT_ERR.CW_UNCORR, F.OL_PORT_ERR.CRC_FAIL, F.OL_PORT_ERR.REPLAYS]
      (fun _ => rfl) ⟨_, regAt_olPortErr p, rfl, by decide, rfl, rfl⟩ (fun s => fldSum_four s _ (by decide) rfl) (fun _ => rfl)
      (by unfold tilBase; omega) (by omega)
  case traffic =>
    have hp := p.isLt
    exact readsRegister_narrow p.toNat [F.OL_PORT_TRAFFIC.CM_MARKED, F.OL_PORT_TRAFFIC.DROPPED] (fun _ => rfl)
      ⟨_, regAt_olPortTraffic p, rfl, by decide, rfl⟩ (fun s => fldSum_two s _ (by decide) rfl) (fun _ => rfl)
      (by unfold tilBase; omega) (by omega)
  case flush =>
    exact readsRegister_narrow 0 [F.WV_FLUSH_CNT.COUNT] (fun _ => rfl) ⟨_, rfl, rfl, by decide, rfl⟩
      (fun s => fldSum_one s 0 (by decide) rfl) (fun _ => rfl)
  case voteTime =>
    exact readsRegister_narrow 0 [F.STEP_VOTE_TIME.MAX, F.STEP_VOTE_TIME.LAST] (fun _ => rfl) ⟨_, rfl, rfl, by decide, rfl⟩
      (fun s => fldSum_two s 0 (by decide) rfl) (fun _ => rfl)
  case digest =>
    exact readsRegister_narrow 0 [F.STEP_DIGEST_ERR.CRC, F.STEP_DIGEST_ERR.SUM, F.STEP_DIGEST_ERR.NODE, F.STEP_DIGEST_ERR.RESULT]
      (fun _ => rfl) ⟨_, rfl, rfl, by decide, rfl⟩ (fun s => fldSum_four s 0 (by decide) rfl) (fun _ => rfl)
  case harden =>
    exact readsRegister_narrow 0 [F.FLT_HARDEN.CORRECTED, F.FLT_HARDEN.SCRUB_US] (fun _ => rfl) ⟨_, rfl, rfl, by decide, rfl⟩
      (fun s => fldSum_two s 0 (by decide) rfl) (fun _ => rfl)
  case genDrops =>
    exact readsRegister_narrow 0 [F.FLT_GEN_DROPS.COUNT] (fun _ => rfl) ⟨_, rfl, rfl, by decide, rfl⟩
      (fun s => fldSum_one s 0 (by decide) rfl) (fun _ => rfl)
  case suppress =>
    exact readsRegister_narrow 0 [F.EVT_SUPPRESS.COUNT] (fun _ => rfl) ⟨_, rfl, rfl, by decide, rfl⟩
      (fun s => fldSum_one s 0 (by decide) rfl) (fun _ => rfl)
  case meshCnt =>
    refine ⟨_, fltMeshCntRead_eq hs h0, rfl, ?_, mapGet_cnt_afterRead s⟩
    rw [State.routerCounts, hrun]
    rfl

/-! ## Accesses follow the register tables (R6, R8, R404) -/

theorem bar0MisalignedRead_eq {s : State} (hs : HostServed s) (off : BitVec 26) {n : Nat} (ha : aligned off.toNat n = false) :
    exec (.bar0MisalignedRead off n) s = .next ((s.barEvent 0 off.toNat).emit
      (.readData .pcie off.toNat (BitVec.ofNat 64 (2 ^ (if n = 4 then 32 else 64) - 1)))) := by
  show s.readOrHold .pcie off.toNat n = _
  rw [readOrHold_misaligned (fun _ => hs) ha]
  split <;> rfl

section
variable {s : State} {path : Path} {off : BitVec 26} {r : RegD} {i : Nat}

theorem registerWrite_narrow (hs : Served path s) (hr : regAt off.toNat = some (r, i)) (ht : off.toNat < tilBase)
    (ha : off.toNat % 4 = 0) (hw : r.wide = false) (hrow : r.off ∉ hasItsRow) (v : W64) :
    exec (.registerWrite path off 4 v) s = .next (s.writeReg r i (v.toNat % 2 ^ 32) nothingLocked) := by
  show s.writeOrHold path off.toNat 4 (v.toNat % 2 ^ 32) = _
  rw [writeOrHold_served hs (aligned_four ha), if_neg (by decide), write32_narrow ht hr hw, setReg_by_table hrow, Nat.mod_mod]

theorem registerWrite_wide (hs : Served path s) (hr : regAt off.toNat = some (r, i)) (ha : off.toNat % 8 = 0) (hw : r.wide = true)
    (hrow : r.off ∉ hasItsRow) (v : W64) :
    exec (.registerWrite path off 8 v) s = .next (s.writeReg r i v.toNat nothingLocked) := by
  show s.writeOrHold path off.toNat 8 v.toNat = _
  rw [writeOrHold_served hs (aligned_eight ha), if_pos rfl, write64_wide hr hw, setReg_by_table hrow]

theorem writeLatchLoad_eq (hs : Served path s) (hr : regAt off.toNat = some (r, i)) (ht : off.toNat < tilBase)
    (ha : off.toNat % 4 = 0) (hw : r.wide = true) (hlow : off.toNat = r.at i) (v : W32) :
    exec (.writeLatchLoad path off v) s = .next { s with wlatch := mapIns (r.at i) v s.wlatch } := by
  show s.writeOrHold path off.toNat 4 v.toNat = _
  rw [writeOrHold_served hs (aligned_four ha), if_neg (by decide), write32_lower ht hr hw hlow, Nat.mod_eq_of_lt v.isLt,
    BitVec.ofNat_toNat, BitVec.setWidth_eq]

theorem upperHalfWrite_eq (hs : Served path s) (hr : regAt off.toNat = some (r, i)) (hb : regAt (r.at i) = some (r, i))
    (ht : off.toNat < tilBase) (ha : off.toNat % 4 = 0) (hw : r.wide = true) (hhigh : off.toNat = r.at i + 4) (hrow : r.off ∉ hasItsRow)
    (v : W32) : exec (.upperHalfWrite path off v) s = .next ({ s with wlatch := mapDel (r.at i) s.wlatch }.writeReg r i
      (v.toNat * 2 ^ 32 + ((mapFind s.wlatch (r.at i)).map BitVec.toNat).getD (s.regValue r i % 2 ^ 32)) nothingLocked) := by
  show s.writeOrHold path off.toNat 4 v.toNat = _
  rw [writeOrHold_served hs (aligned_four ha), if_neg (by decide), write32_upper ht hr hw hhigh hb, setReg_by_table hrow,
    Nat.mod_eq_of_lt v.isLt]

theorem lowerHalfRead_eq (hs : Served path s) (hr : regAt off.toNat = some (r, i)) (ht : off.toNat < tilBase)
    (ha : off.toNat % 4 = 0) (hw : r.wide = true) (hlow : off.toNat = r.at i) (hm : r.at i ≠ 0x70218) :
    exec (.lowerHalfRead path off) s =
      .next ((({ s with rlatch := mapIns (r.at i) (BitVec.ofNat 32 (s.regValue r i / 2 ^ 32)) s.rlatch }).clearRc r i
        (if r.off = 0xC0110 then 63 else 31) 0).emit (.readData path off.toNat (BitVec.ofNat 64 (s.regValue r i % 2 ^ 32)))) := by
  show s.readOrHold path off.toNat 4 = _
  rw [readOrHold_served hs (aligned_four ha), if_neg (by decide), read32_lower ht hr hw hlow, afterHalf_lower (hlow ▸ hr) hm]

theorem upperHalfRead_eq (hs : Served path s) (hr : regAt off.toNat = some (r, i)) (hb : regAt (r.at i) = some (r, i))
    (ht : off.toNat < tilBase) (ha : off.toNat % 4 = 0) (hw : r.wide = true) (hhigh : off.toNat = r.at i + 4) (hm : r.at i ≠ 0x70218) :
    exec (.upperHalfRead path off) s =
      .next (let cleared (t : State) : State := if r.off = 0xC0110 then t else t.clearRc r i 63 32
        match mapFind s.rlatch (r.at i) with
        | some u => (cleared { s with rlatch := mapDel (r.at i) s.rlatch }).emit (.readData path off.toNat (BitVec.ofNat 64 u.toNat))
        | none => (cleared s).emit (.readData path off.toNat (BitVec.ofNat 64 (s.regValue r i / 2 ^ 32)))) := by
  have hne : off.toNat ≠ r.at i := by omega
  show s.readOrHold path off.toNat 4 = _
  rw [readOrHold_served hs (aligned_four ha), if_neg (by decide)]
  cases hl : mapFind s.rlatch (r.at i) with
  | none => rw [read32_upper_unlatched ht hr hw hne hl, afterHalf_upper hb hm]
  | some u => rw [read32_upper_latched ht hr hw hne hl, afterHalf_upper hb hm]

end

theorem registerAccessesFollowTheirTable : RegisterAccessesFollowTheirTable := by
  refine ⟨fun s off n hs ha => bar0MisalignedRead_eq hs off ha, ?_⟩
  intro s path off r i hs hr hb ht ha
  exact ⟨fun v hw _ hrow => registerWrite_narrow hs hr ht ha hw hrow v,
    fun v hw _ ha8 hrow => registerWrite_wide hs hr ha8 hw hrow v,
    fun v hw hlow => writeLatchLoad_eq hs hr ht ha hw hlow v,
    fun v hw hhigh hrow => upperHalfWrite_eq hs hr hb ht ha hw hhigh hrow v,
    fun hw hlow hm => lowerHalfRead_eq hs hr ht ha hw hlow hm,
    fun hw hhigh hm => upperHalfRead_eq hs hr hb ht ha hw hhigh hm⟩

/-- Settles O37: the counting registers one by one, and each kind of access by what it does to a register that the table finds. -/
theorem registersAreReadAndWritten : Obligations.RegistersAreReadAndWritten :=
  ⟨countingRegistersClearWhenRead, registerAccessesFollowTheirTable⟩

end Sys2Proof.Machine
end

section
/-! # The vote and the commit: frames (R57 to R63, R388 to R394, R411) -/

namespace Sys2Proof.Machine

/-! ## What completions and interrupts leave alone (R411, R420, R421) -/

/-- The fields that tell where the steps and the commit of a device stand. -/
def commitFlds : List Fld :=
  [F.STEP_CURRENT.STEP, F.STEP_COMMITTED.STEP, F.STEP_DURABLE.STEP, F.STEP_STATUS.PHASE, F.STEP_STATUS.COMMIT_BUSY,
    F.STEP_STATUS.ROLLBACK, F.STEP_STATUS.MIRROR_PENDING, F.STEP_BUDDY.EN, F.HOME_SERIAL.CURRENT, F.HQ_STATUS.JOB_HELD]

/-- The field is none of them. -/
abbrev Fld.OffCommit (g : Fld) : Prop := ∀ f ∈ commitFlds, f.key ≠ g.key

theorem offCommit_of_off {g : Fld} (hl : g.lsb < 64) (h : ∀ f ∈ commitFlds, f.off ≠ g.off) : g.OffCommit := by
  intro f hf e
  have hlsb : ∀ f ∈ commitFlds, f.lsb < 64 := by decide
  have := hlsb f hf
  have := h f hf
  unfold Fld.key at e
  omega

theorem offCommit_queueStatus {g : Fld} (h : g ∈ [F.HQ_Q_STATUS.ERR, F.HQ_Q_STATUS.ERRCODE, F.HQ_Q_STATUS.IDLE]) (q : Nat) :
    (g.ix q).OffCommit := by
  have hg : g.lsb < 64 ∧ g.off = 0x10014 ∧ g.stride = 0x40 := by revert g; decide
  refine offCommit_of_off hg.1 ?_
  simp only [Fld.ix, hg.2.1, hg.2.2]
  have hoff : ∀ f ∈ commitFlds, f.off % 0x40 ≠ 0x14 := by decide
  intro f hf e
  have := hoff f hf
  omega

/-- Arrays of registers above those of the steps. -/
theorem offCommit_of_high {g : Fld} (hl : g.lsb < 64) (h : 0xC0000 ≤ g.off) (i : Nat) : (g.ix i).OffCommit := by
  refine offCommit_of_off hl ?_
  have hoff : ∀ f ∈ commitFlds, f.off < 0xC0000 := by decide
  intro f hf e
  have := hoff f hf
  simp only [Fld.ix] at e
  omega

/-- `t` differs from `s` at most in outputs, in the queues and commands of the host, in the coordinator's record, in Pronk and ports that
return, and in register fields other than `commitFlds`. -/
structure State.Aside (s t : State) : Prop where
  rest : t = { s with
    out := t.out, regs := t.regs, queues := t.queues, msixPend := t.msixPend, cmdRun := t.cmdRun, cmdCtrl := t.cmdCtrl
    coord := t.coord, pronk := t.pronk, portsBack := t.portsBack }
  flds : ∀ f ∈ commitFlds, t.fget f = s.fget f
  run : s.cmdRun = none → t.cmdRun = none

namespace State.Aside

variable {s t u : State}

theorem refl (s : State) : s.Aside s := ⟨rfl, fun _ _ => rfl, id⟩

theorem trans (h : s.Aside t) (g : t.Aside u) : s.Aside u :=
  ⟨g.rest.trans (by rw [h.rest]), fun f hf => (g.flds f hf).trans (h.flds f hf), fun e => g.run (h.run e)⟩

/-- A fold keeps aside what each of its steps does. -/
theorem foldl {α : Type} {f : State → α → State} (h : ∀ (s : State) (a : α), s.Aside (f s a)) (l : List α) (s : State) : s.Aside (l.foldl f s) :=
  List.foldlRecOn l f (refl s) fun t ht a _ => ht.trans (h t a)

theorem fset {g : Fld} (h : g.OffCommit) (v : Nat) : s.Aside (s.fset g v) := ⟨rfl, fun f hf => fget_fset_other (h f hf) v, id⟩

theorem fsetb {g : Fld} (h : g.OffCommit) (b : Bool) : s.Aside (s.fsetb g b) := fset h _

theorem emit (o : Output) : s.Aside (s.emit o) := ⟨rfl, fun _ _ => rfl, id⟩

theorem setQueue (q : Nat) (x : Queue) : s.Aside (s.setQueue q x) := ⟨rfl, fun _ _ => rfl, id⟩

theorem signal (v : Nat) : s.Aside (s.signal v) := by
  unfold State.signal
  split
  · exact refl s
  · split
    · exact ⟨rfl, fun _ _ => rfl, id⟩
    · exact emit _

theorem faultCause : s.Aside s.faultCause := by
  have h : s.Aside (s.fsetb F.HQ_IRQ_CAUSE.FAULT true) := fsetb (by decide) _
  simp only [State.faultCause]
  split
  · exact refl s
  · split
    · exact h.trans (signal _)
    · exact h

theorem stopQueue (q code : Nat) : s.Aside (s.stopQueue q code) :=
  ((fsetb (offCommit_queueStatus (by simp) q) _).trans (fset (offCommit_queueStatus (by simp) q) _)).trans faultCause

theorem cqPut (q : Nat) (e : List Byte) : s.Aside (s.cqPut q e) := ((setQueue q _).trans (emit _)).trans (signal _)

theorem cqDrain (q fuel : Nat) (s : State) : s.Aside (s.cqDrain q fuel) := by
  induction fuel generalizing s with
  | zero => exact refl s
  | succ fuel ih =>
    simp only [State.cqDrain]
    split
    · exact refl s
    · rename_i e es _
      split
      · exact refl s
      · refine ((setQueue q { s.queue q with held := es }).trans ?_).trans (ih _)
        split
        · exact stopQueue q 3
        · exact cqPut q e

theorem post (q : Nat) (f : Fetched) (result status detail : Nat) : s.Aside (s.post q f result status detail) := by
  unfold State.post
  split
  · exact refl s
  · exact (setQueue q _).trans (cqDrain ..)

theorem settle (q fuel : Nat) (s : State) : s.Aside (s.settle q fuel) := by
  induction fuel generalizing s with
  | zero => exact refl s
  | succ fuel ih =>
    simp only [State.settle]
    split
    · split
      · exact ((setQueue q _).trans (post ..)).trans (ih _)
      · exact refl s
    · exact refl s

theorem settleAll : s.Aside s.settleAll := foldl (fun s q => settle q _ s) _ s

theorem complete (q : Option (BitVec 4)) (result status detail : Nat) : s.Aside (s.complete q result status detail) := by
  cases q with
  | none => exact refl s
  | some b =>
    simp only [State.complete]
    split
    · exact refl s
    · exact (((setQueue b.toNat _).trans (post ..)).trans (settle ..)).trans (fsetb (offCommit_queueStatus (by simp) _) _)

/-! ### What ends at the coordinator and the lead -/

theorem endRun (status : Nat) : s.Aside (s.endRun status) := by
  unfold State.endRun
  split
  · exact refl s
  · rename_i r _
    exact trans (t := { s with cmdRun := none }) ⟨rfl, fun _ _ => rfl, fun _ => rfl⟩ (complete ..)

theorem runDone : s.Aside s.runDone := by
  unfold State.runDone
  split
  · split
    · exact endRun _
    · exact refl s
  · exact refl s

theorem endCtrl (p : CtrlCmd → Bool) (status : Nat) : s.Aside (s.endCtrl p status) :=
  trans (t := { s with cmdCtrl := s.cmdCtrl.filter (fun c => !p c) }) ⟨rfl, fun _ _ => rfl, id⟩ (foldl (fun _ _ => complete ..) _ _)

theorem setCoord (c : Coord) : s.Aside { s with coord := c } := ⟨rfl, fun _ _ => rfl, id⟩

theorem enter (g : Stage) : s.Aside (s.enter g) := by
  unfold State.enter
  split
  · exact setCoord _
  · exact refl s

theorem decision (step outcome reason ord : Nat) : s.Aside (s.decision step outcome reason ord) :=
  (((fset (by decide) _).trans (fset (by decide) _)).trans (fset (by decide) _)).trans (fset (by decide) _)

theorem recordDecision (step outcome : Nat) : s.Aside (s.recordDecision step outcome) := by
  unfold State.recordDecision
  split
  · exact refl s
  · split
    · exact decision ..
    · split <;> exact decision ..

theorem returnPorts : s.Aside s.returnPorts :=
  trans (t := { s with portsBack := [] }) ⟨rfl, fun _ _ => rfl, id⟩
    (foldl (fun _ p => fset (offCommit_of_high (g := F.OL_PORT_STATUS.STATE) (by decide) (by decide) p) 1) _ _)

theorem setClocks (v : Nat) : s.Aside (s.setClocks v) := (fset (by decide) _).trans (fset (by decide) _)

theorem setPronk (p : Pronk) : s.Aside { s with pronk := p } := ⟨rfl, fun _ _ => rfl, id⟩

/-- STEP clears: no thermal trip is counted. -/
theorem endBurst : s.Aside (s.endBurst 3) := by
  unfold State.endBurst
  split
  · exact refl s
  · exact (((fsetb (by decide) _).trans (fset (by decide) _)).trans (fset (by decide) _)).trans ((setPronk _).trans (setClocks _))

theorem closeBoundary : s.Aside (s.closeWindows.boundaryOver false) := (setCoord _).trans endBurst

/-- The hold of the job, once set. -/
theorem setHeld : (s.fsetb F.HQ_STATUS.JOB_HELD true).Aside (s.setHeld true) := by
  unfold State.setHeld
  split
  · rename_i h
    refine ⟨rfl, fun f hf => ?_, id⟩
    by_cases e : f.key = F.HQ_STATUS.JOB_HELD.key
    · have hfld : ∀ f ∈ commitFlds, f.key = F.HQ_STATUS.JOB_HELD.key → f = F.HQ_STATUS.JOB_HELD := by decide
      rw [hfld f hf e, fsetb_eq, fget_fset_same]
      show _ = 1
      simpa [State.fbit] using h
    · exact (fget_fset_other e _).symm
  · exact faultCause

/-! ### Consequences -/

theorem home (h : s.Aside t) : t.home = s.home := by rw [h.rest]
theorem mem (h : s.Aside t) : t.mem = s.mem := by rw [h.rest]
theorem tiles (h : s.Aside t) : t.tiles = s.tiles := by rw [h.rest]

theorem askRollback (h : s.Aside t) : t.askRollback = s.askRollback := by rw [h.rest]

theorem fbit (h : s.Aside t) {f : Fld} (hf : f ∈ commitFlds) : t.fbit f = s.fbit f := by rw [State.fbit, h.flds f hf, State.fbit]

end State.Aside

end Sys2Proof.Machine
end

section
/-! # Host reads held during a vote (R57) -/

namespace Sys2Proof.Machine

/-! ## What serving a read at its home leaves alone (R57, R60 to R64, R104, R551) -/

/-- `t` differs from `s` at most as `State.Aside` lets it, in the recorder, the numbers drawn and notices sent, units found lost, and at the
home in entries touched, accesses under way and requests held; with no copy-on-write under way none begins, and no host read is held while no
vote runs. -/
structure State.Serves (s t : State) : Prop where
  rest : t = { s with
    out := t.out, regs := t.regs, queues := t.queues, msixPend := t.msixPend, cmdRun := t.cmdRun, cmdCtrl := t.cmdCtrl
    coord := t.coord, pronk := t.pronk, portsBack := t.portsBack, recorder := t.recorder, nseq := t.nseq, free := t.free
    endDirty := t.endDirty, memBad := t.memBad
    home := { s.home with
      table := t.home.table, cache := t.home.cache, gone := t.home.gone, accs := t.home.accs, cows := t.home.cows
      hostReads := t.home.hostReads } }
  flds : ∀ f ∈ commitFlds, t.fget f = s.fget f
  cows : s.home.cows = [] → t.home.cows = []
  reads : s.fbit F.STEP_STATUS.COMMIT_BUSY = false → t.home.hostReads = s.home.hostReads

theorem State.Aside.serves {s t : State} (h : s.Aside t) : s.Serves t :=
  ⟨by rw [h.rest], h.flds, fun e => by rw [h.home, e], fun _ => by rw [h.home]⟩

namespace State.Serves

variable {s t u : State}

theorem refl (s : State) : s.Serves s := ⟨rfl, fun _ _ => rfl, id, fun _ => rfl⟩

theorem fbit (h : s.Serves t) {f : Fld} (hf : f ∈ commitFlds) : t.fbit f = s.fbit f := by rw [State.fbit, h.flds f hf, State.fbit]

theorem trans (h : s.Serves t) (g : t.Serves u) : s.Serves u :=
  ⟨g.rest.trans (by rw [h.rest]), fun f hf => (g.flds f hf).trans (h.flds f hf), fun e => g.cows (h.cows e),
    fun e => (g.reads ((h.fbit (by decide)).trans e)).trans (h.reads e)⟩

theorem foldl {α : Type} {f : State → α → State} (h : ∀ (s : State) (a : α), s.Serves (f s a)) (l : List α) (s : State) :
    s.Serves (l.foldl f s) :=
  List.foldlRecOn l f (refl s) fun t ht a _ => ht.trans (h t a)

theorem fset {g : Fld} (h : g.OffCommit) (v : Nat) : s.Serves (s.fset g v) := (State.Aside.fset h v).serves

theorem emit (o : Output) : s.Serves (s.emit o) := (State.Aside.emit o).serves

theorem fadd {g : Fld} (h : g.OffCommit) (n : Nat) : s.Serves (s.fadd g n) := fset h _

theorem setRecorder (r : Recorder) : s.Serves { s with recorder := r } := ⟨rfl, fun _ _ => rfl, id, fun _ => rfl⟩
theorem setMemBad (l : List Nat) : s.Serves { s with memBad := l } := ⟨rfl, fun _ _ => rfl, id, fun _ => rfl⟩
theorem setDirty (b : Bool) : s.Serves { s with endDirty := b } := ⟨rfl, fun _ _ => rfl, id, fun _ => rfl⟩
theorem draw : s.Serves s.draw.2 := ⟨rfl, fun _ _ => rfl, id, fun _ => rfl⟩

theorem record (b : Report) : s.Serves (s.record b) := by
  simp only [State.record]
  split
  · exact (setRecorder _).trans (fadd (by decide) 1)
  · exact setRecorder _

theorem event (code : Nat) (unit : Byte) (loc : W32) (sub data : Nat) : s.Serves (s.event code unit loc sub data) := record _

theorem barEvent (bar off : Nat) : s.Serves (s.barEvent bar off) := event ..

theorem notify (typ : Byte) (code : W16) (level : Nat) (unit : Byte) (loc : W32) (subject : Nat) :
    s.Serves (s.notify typ code level unit loc subject) :=
  trans (t := { s with nseq := s.nseq + 1 }) ⟨rfl, fun _ _ => rfl, id, fun _ => rfl⟩ (emit _)

/-! ### Entries -/

theorem setEntry (lpn : Nat) (e : Entry) : s.Serves (s.setEntry lpn e) := ⟨rfl, fun _ _ => rfl, id, fun _ => rfl⟩

theorem setPoison (lpn : Nat) : s.Serves (s.setPoison lpn) := setEntry _ _

theorem setUnrec : s.Serves (s.setUnrec true) := by
  unfold State.setUnrec
  split
  · exact refl s
  · exact (fset (by decide) _).trans State.Aside.faultCause.serves

theorem unrecoverable : s.Serves s.unrecoverable := by
  unfold State.unrecoverable
  split
  · exact refl s
  · exact setUnrec.trans (notify ..)

theorem unitLost (at_ lpn sub a : Nat) : s.Serves (s.unitLost at_ lpn sub a) := by
  have hcount : s.Serves (if at_ / Config.pageBytes ≥ 2 ^ 23 then s else s.fadd (F.NM_ERR.UE.ix (at_ / Config.pageBytes % 8)) 1) := by
    split
    · exact refl s
    · exact fadd (offCommit_of_high (by decide) (by decide) _) 1
  have hdirty (t : State) : t.Serves (if t.stepRunning then { t with endDirty := true } else t) := by
    split
    · exact setDirty _
    · exact refl t
  exact (hcount.trans (hdirty _)).trans (emit _)

theorem losePage (lpn : Nat) : s.Serves { s.setPoison lpn with home := { (s.setPoison lpn).home with gone := addTo lpn s.home.gone } } :=
  (setPoison lpn).trans ⟨rfl, fun _ _ => rfl, id, fun _ => rfl⟩

theorem entryLost (u : Nat) : s.Serves (s.entryLost u) := by
  simp only [State.entryLost]
  split
  · exact (setMemBad _).trans (foldl (fun _ _ => event ..) _ _)
  · exact (((setMemBad _).trans (foldl (fun _ l => losePage l) _ _)).trans unrecoverable).trans (unitLost ..)

theorem readEntry (lpn : Nat) : s.Serves (s.readEntry lpn) := by
  unfold State.readEntry
  split
  · exact entryLost _
  · exact refl s

theorem cacheTouch (lpn : Nat) : s.Serves (s.cacheTouch lpn) := ⟨rfl, fun _ _ => rfl, id, fun _ => rfl⟩

theorem touch (lpn : Nat) : s.Serves (s.touch lpn).2 := by
  refine (readEntry lpn).trans (trans ?_ (cacheTouch lpn))
  split
  · exact setEntry ..
  · exact refl _

/-- Without a copy of the buddy no sub-block is rewritten. -/
theorem lostPage (lpn sub at_ a : Nat) (host : Bool) {buddy : Option (List Byte)} (h : buddy = none) :
    s.Serves (s.lostPage lpn sub at_ a host buddy).2 := by
  subst h
  simp only [State.lostPage, ite_self]
  split
  · exact unitLost ..
  · split
    · split
      · exact (notify ..).trans (unitLost ..)
      · exact ((setPoison lpn).trans unrecoverable).trans (unitLost ..)
    · split
      · cases host
        · exact unitLost ..
        · exact refl s
      · exact ((setPoison lpn).trans (fset (by decide) _)).trans (unitLost ..)

theorem of_lostPage {lpn sub at_ a : Nat} {host back : Bool} {buddy : Option (List Byte)} (hb : buddy = none)
    (h : s.lostPage lpn sub at_ a host buddy = (back, t)) : s.Serves t := by
  simpa only [h] using lostPage (s := s) lpn sub at_ a host hb

/-! ### Accesses -/

theorem relayed (lpn at_ a len : Nat) (write : Bool) : s.Serves (s.relayed lpn at_ a len write) := by
  unfold State.relayed
  split
  · exact emit _
  · exact refl s

theorem queueAcc (lpn : Nat) (c : HomeAcc) : s.Serves (s.queueAcc lpn c) :=
  (relayed ..).trans ⟨rfl, fun _ _ => rfl, id, fun _ => rfl⟩

theorem holdReq (lpn sub : Nat) (r : HomeReq) : s.Serves (s.holdReq lpn sub r) :=
  ⟨rfl, fun _ _ => rfl, fun e => by rw [State.holdReq]; simp [e], fun _ => rfl⟩

theorem staleRead (a n : Nat) : s.Serves (s.staleRead a n).2 := by
  simp only [State.staleRead]
  refine trans ?_ draw
  split
  · exact ((fadd (by decide) 1).trans (fset (by decide) _)).trans (event ..)
  · exact fadd (by decide) 1

/-- A host read is held only while a vote runs. -/
theorem holdRead {req : Requester} {e : Entry} {a n : Nat} (h : s.holdsHostRead req e = true) :
    s.Serves { s with home := { s.home with hostReads := s.home.hostReads ++ [(req, a, n)] } } := by
  refine ⟨rfl, fun _ _ => rfl, id, fun hb => ?_⟩
  simp [State.holdsHostRead, hb] at h

theorem readPart (req : Requester) (a n : Nat) : s.Serves (s.readPart req a n) := by
  unfold State.readPart
  split
  · exact emit _
  · rename_i ord lpn sub _
    split
    · exact refl s
    · split
      · exact emit _
      · refine (touch lpn).trans ?_
        dsimp only
        split
        · exact emit _
        · split
          · exact holdRead ‹_›
          · generalize (if isHostReq req then (s.touch lpn).1.committedAt sub else (s.touch lpn).1.currentAt sub) + a % Config.subBytes = at_
            split
            · exact holdReq ..
            · split
              · exact emit _
              · split
                · exact (staleRead a n).trans (queueAcc ..)
                · exact queueAcc ..

theorem hostPart (a n : Nat) : s.Serves (s.hostPart [] [] a n).2 := by
  unfold State.hostPart
  split
  · exact refl s
  · rename_i lpn sub _
    split
    rename_i e t he
    have ht : s.Serves t := by simpa only [he] using touch (s := s) lpn
    extract_lets at_ r now u
    split
    · exact ht.trans (barEvent ..)
    · split
      · exact ht
      · have hr : s.Serves r := ht.trans (relayed ..)
        have hu : s.Serves u := hr.trans (setMemBad _)
        split
        · exact hu
        · split
          rename_i back v hv
          have hv : s.Serves v := hu.trans (of_lostPage rfl hv)
          split
          · exact hv
          · exact hv.trans (event ..)

theorem bar2Serve (off len : Nat) (reply : Option (List Byte)) : s.Serves (s.bar2Serve off len reply [] []) := by
  unfold State.bar2Serve
  dsimp only
  split
  · exact (barEvent ..).trans (emit _)
  · split
    · refine trans ?_ (emit _)
      exact List.foldlRecOn (motive := fun acc : List Byte × State => s.Serves acc.2) _ _ (refl s)
        fun acc h p _ => h.trans (hostPart p.1 p.2)
    · split
      · exact (emit _).trans (emit _)
      · exact ((emit _).trans (barEvent ..)).trans (emit _)

/-- The reads held are served, and none is held again. -/
theorem serveHeld : { s with home := { s.home with hostHeld := [], hostReads := [] } }.Serves s.serveHeld :=
  (foldl (fun _ _ => readPart ..) _ _).trans (foldl (fun _ _ => bar2Serve ..) _ _)

end State.Serves

/-- Nothing held, nothing served. -/
theorem serveHeld_of_none {s : State} (h : s.home.hostHeld = []) (r : s.home.hostReads = []) : s.serveHeld = s := by
  have e : ({ s.home with hostHeld := [], hostReads := [] } : Home) = s.home := by rw [← h, ← r]
  simp only [State.serveHeld, h, r, List.foldl_nil, e]

end Sys2Proof.Machine
end

section
/-! # The vote (R33, R57, R118, R331, R332, R388 to R392) -/

namespace Sys2Proof.Machine

variable {s t : State}

/-! ## Fields of a step -/

theorem fget_fset_word {f : Fld} (h : f.width = 64) (n : W64) : (s.fset f n.toNat).fget f = n.toNat := by
  rw [fget_fset_same, h, Nat.mod_eq_of_lt n.isLt]

theorem stepPhase_fset (v : Nat) : (s.fset F.STEP_STATUS.PHASE v).stepPhase = v % 16 := fget_fset_same v

/-! ## START (R33, R92, R118, R316, R389, R501) -/

theorem mem_of_mapFind {V : Type} {m : SMap V} {x : Nat} {v : V} (h : mapFind m x = some v) : (x, v) ∈ m := by
  induction m with
  | nil => cases h
  | cons c m ih =>
    obtain ⟨k, w⟩ := c
    rw [mapFind] at h
    split at h
    · rename_i e
      cases h
      rw [e]
      exact .head _
    · exact .tail _ (ih h)

/-- A step uses the device domain, so that a sleeping device keeps it back. -/
theorem not_mayStartStep_of_asleep (h : s.deviceAsleep = true) (n : Nat) : s.mayStartStep n = false := by
  have hm : ∃ m, mapFind s.moves 158 = some m ∧ (m.point != 0) = true := by
    cases hf : mapFind s.moves 158 with
    | none => simp [State.deviceAsleep, State.move, mapGet, hf, PowerMove.settled] at h
    | some m => exact ⟨m, rfl, by simpa [State.deviceAsleep, State.move, mapGet, hf] using h⟩
  obtain ⟨m, hm, hp⟩ := hm
  have huse : s.stepUses 158 = true := rfl
  have hawake : s.stepAwake = false := by
    rw [State.stepAwake, List.all_eq_false]
    exact ⟨_, mem_of_mapFind hm, by simpa [huse] using hp⟩
  rw [State.mayStartStep, hawake, Bool.and_false]

theorem startStep_waits {n : Nat} (hf : s.stepFits n = true) (hm : s.mayStartStep n = false) : s.startStep n =
    { s with startWait := some n, access := if s.deviceAsleep then addTo 158 s.access else s.access } := by
  simp [State.startStep, hf, hm]

theorem startStep_begins {n : Nat} (h : s.mayStartStep n = true) : s.startStep n = s.beginStep n := by simp [State.startStep, h]

theorem endCtrl_of_none (h : s.cmdCtrl = []) (p : CtrlCmd → Bool) (status : Nat) : s.endCtrl p status = s := by
  rw [State.endCtrl, h, List.filter_nil, List.filter_nil, List.foldl_nil, ← h]

theorem beginStep_flds (s : State) (n : W64) : (s.beginStep n.toNat).fget F.STEP_CURRENT.STEP = n.toNat
    ∧ (s.beginStep n.toNat).stepPhase = phStepRunning ∧ (s.beginStep n.toNat).fget F.STEP_COMMITTED.STEP = s.fget F.STEP_COMMITTED.STEP := by
  have hu : s.Aside (s.endCtrl (fun c => c.action == 3 && s.afterRoll && !s.askRollback) 0) := .endCtrl _ _
  have hbase (f : Fld) : (s.beginStep n.toNat).fget f = (((s.endCtrl (fun c => c.action == 3 && s.afterRoll && !s.askRollback) 0).fset
      F.STEP_CURRENT.STEP n.toNat).fset F.STEP_STATUS.PHASE phStepRunning).fget f := rfl
  refine ⟨?_, ?_, ?_⟩
  · rw [hbase, fget_fset_other (by decide), fget_fset_word rfl]
  · rw [State.stepPhase, hbase, fget_fset_same]
    rfl
  · rw [hbase, fget_fset_other (by decide), fget_fset_other (by decide), hu.flds _ (by decide)]

theorem mem_addTo_self {α : Type} [DecidableEq α] (x : α) (xs : List α) : x ∈ addTo x xs := by
  unfold addTo
  split <;> simp_all

theorem mem_addTo {α : Type} [DecidableEq α] {x y : α} {xs : List α} : y ∈ addTo x xs ↔ y = x ∨ y ∈ xs := by
  unfold addTo
  split
  · rename_i h
    exact ⟨.inr, fun e => e.elim (fun e => e ▸ h) id⟩
  · exact List.mem_cons

theorem startsBeginTheirStep : StartsBeginTheirStep := by
  intro s n _
  refine ⟨fun hf hm ha => ?_, fun hf ha => ?_, fun hm _ => ?_⟩
  · show Host.Outcome.next (s.startStep n.toNat) = _
    rw [startStep_waits hf hm, ha]
    rfl
  · refine ⟨_, congrArg Host.Outcome.next (startStep_waits hf (not_mayStartStep_of_asleep ha _)), rfl, ?_, ?_, rfl⟩
    · have hin : 158 ∈ (if s.deviceAsleep then addTo 158 s.access else s.access) := by rw [if_pos ha]; exact mem_addTo_self _ _
      simp [State.hwLimits, hin]
    · have huse (t : State) : t.stepUses 158 = true := rfl
      simp [State.hwLimits, huse]
  · obtain ⟨hcur, hphase, hcom⟩ := beginStep_flds s n
    have hu : s.Aside (s.endCtrl (fun c => c.action == 3 && s.afterRoll && !s.askRollback) 0) := .endCtrl _ _
    refine ⟨_, congrArg Host.Outcome.next (startStep_begins hm), hcur, hphase, rfl, rfl, rfl, ?dirty, hu.tiles, hu.mem, hcom, rfl, rfl,
      fun h => ?out⟩
    case dirty => exact hu.askRollback
    case out =>
      show State.out (s.endCtrl _ _) = _
      rw [endCtrl_of_none h]

/-! ## END (R388, R391) -/

theorem combines_of_coordinates (h : s.coordinates = true) : s.combines = true := by simp [State.combines, h]

/-! The ordinals held by the coordinator do not bear on who coordinates, nor on whom it expects. -/

@[simp] theorem coordinates_ends (l : List Nat) : ({ s with coord := { s.coord with ends := l } } : State).coordinates = s.coordinates := rfl
@[simp] theorem coordinates_votes (l : List Nat) : ({ s with coord := { s.coord with votes := l } } : State).coordinates = s.coordinates := rfl
@[simp] theorem expected_ends (l : List Nat) : ({ s with coord := { s.coord with ends := l } } : State).expected = s.expected := rfl
@[simp] theorem expected_votes (l : List Nat) : ({ s with coord := { s.coord with votes := l } } : State).expected = s.expected := rfl

/-- A clean END that the stage expects is held; the last one moves the stage on. -/
theorem endMsg_clean {o : DevOrd} {n : W64} (hc : s.combines = true) (hs : s.coord.stage = .running) (hn : n.toNat = s.current)
    (ho : o.toNat ∈ s.expected) : execEndMsg o n false s =
      let t := { s with coord := { s.coord with ends := addTo o.toNat s.coord.ends } }
      if s.expected.all (fun e => e ∈ addTo o.toNat s.coord.ends) = false then .next t
      else if s.coordinates then
        .next ({ t with coord := { t.coord with stage := if s.commitStep then .voting else .boundary, votes := [], t0 := s.now } }.broadcast 0x0A
          n.toNat (if s.commitStep then 1 else 0))
      else .next ({ t with coord := { t.coord with stage := .boundary, votes := [] } }.emit (.ctrl 0x09 (some s.primaryOrd) n 0)) := by
  have hgate : (!s.combines || s.coord.stage != .running || decide (n.toNat ≠ s.current) || !decide (o.toNat ∈ s.expected)) = false := by
    simp [hc, hs, hn, ho]
  unfold execEndMsg
  simp only [hgate, Bool.false_eq_true, if_false, expected_ends, coordinates_ends, Bool.not_eq_true']
  cases hk : s.commitStep
  · have hk' : ({ s with coord := { s.coord with ends := addTo o.toNat s.coord.ends } } : State).commitStep = false := hk
    simp only [hk', Bool.false_eq_true, if_false]
    rfl
  · have hk' : ({ s with coord := { s.coord with ends := addTo o.toNat s.coord.ends } } : State).commitStep = true := hk
    simp only [hk', if_true]
    rfl

theorem endsAreCombined : EndsAreCombined := by
  intro s o n hs hn ho
  refine ⟨fun hc hl => ?dirty, fun l hc hl => ?asked, fun hc hp => ?herd, fun hc hm => ?waits, fun hc ha => ?prepare⟩
  case dirty =>
    show execEndMsg o n true s = _
    simp [execEndMsg, combines_of_coordinates hc, hs, hn, ho, hc, hl]
  case asked =>
    show execEndMsg o n true s = _
    simp [execEndMsg, combines_of_coordinates hc, hs, hn, ho, hc, hl]
  case herd =>
    show execEndMsg o n true s = _
    simp [execEndMsg, hc, hs, hn, ho, hp]
  case waits =>
    obtain ⟨e, he, hne, hnot⟩ := hm
    have hwait : s.expected.all (fun e => e ∈ addTo o.toNat s.coord.ends) = false :=
      List.all_eq_false.2 ⟨e, he, by simpa using fun h => (mem_addTo.1 h).elim hne hnot⟩
    exact (endMsg_clean hc hs hn ho).trans (if_pos hwait)
  case prepare =>
    have hall : s.expected.all (fun e => e ∈ addTo o.toNat s.coord.ends) = true :=
      List.all_eq_true.2 fun e he => decide_eq_true (mem_addTo.2 (ha e he))
    exact (endMsg_clean (combines_of_coordinates hc) hs hn ho).trans ((if_neg (by rw [hall]; decide)).trans (if_pos hc))

/-! ## PREPARE and VOTE (R331, R332, R57, R389) -/

/-- The check of one tile. -/
def residueStep (acc : Bool × State) (p : TileId × Tile) : Bool × State :=
  match p.2.residue with
  | none => acc
  | some (k, n, v) => (true, acc.2.tileErr p.1 0x1032 false 0 n 0 (data2 (k + n * 2 ^ 32) v))

theorem boundaryCheck_eq (s : State) : s.boundaryCheck = s.contexts.foldl residueStep (false, s) := rfl

/-- What the check has found is reported. -/
def ResidueReported (acc : Bool × State) : Prop := acc.1 = true ∧ ∃ r : Report, r.code = 0x1032 ∧ .report r false ∈ acc.2.out

theorem residueStep_of_none {p : TileId × Tile} (h : p.2.residue = none) (acc : Bool × State) : residueStep acc p = acc := by
  simp [residueStep, h]

theorem residueStep_reports {p : TileId × Tile} (h : p.2.residue ≠ none) (acc : Bool × State) : ResidueReported (residueStep acc p) := by
  obtain ⟨⟨k, n, v⟩, hr⟩ := Option.ne_none_iff_exists'.1 h
  simp only [residueStep, hr]
  exact ⟨rfl, _, rfl, List.mem_append_right _ (.head _)⟩

theorem residueStep_keeps {acc : Bool × State} (h : ResidueReported acc) (p : TileId × Tile) : ResidueReported (residueStep acc p) := by
  by_cases hr : p.2.residue = none
  · rwa [residueStep_of_none hr]
  · exact residueStep_reports hr acc

theorem boundaryCheck_clean (h : ∀ p ∈ s.contexts, p.2.residue = none) : s.boundaryCheck = (false, s) := by
  rw [boundaryCheck_eq]
  exact List.foldlRecOn (motive := fun acc => acc = (false, s)) _ _ rfl fun acc ha p hp => by rw [residueStep_of_none (h p hp), ha]

theorem boundaryCheck_residue (h : ∃ p ∈ s.contexts, p.2.residue ≠ none) : ResidueReported s.boundaryCheck := by
  obtain ⟨p, hp, hr⟩ := h
  obtain ⟨l, r, e⟩ := List.append_of_mem hp
  rw [boundaryCheck_eq, e, List.foldl_append, List.foldl_cons]
  exact List.foldlRecOn (motive := ResidueReported) _ _ (residueStep_reports hr _) fun acc ha q _ => residueStep_keeps ha q

theorem prepare_clean (h : ∀ p ∈ s.contexts, p.2.residue = none) (kind : Nat) : s.prepare kind = { s with prepared := some (kind, false) } := by
  simp only [State.prepare, boundaryCheck_clean h]

theorem enter_of_not_combines (h : s.combines = false) (g : Stage) : s.enter g = s := by simp [State.enter, h]

@[simp] theorem enter_out (g : Stage) : (s.enter g).out = s.out := by unfold State.enter; split <;> rfl
@[simp] theorem enter_prepared (g : Stage) : (s.enter g).prepared = s.prepared := by unfold State.enter; split <;> rfl

/-- PHASE and COMMIT_BUSY have no part in who combines. -/
theorem combines_voting (s : State) :
    ((s.fset F.STEP_STATUS.PHASE phStepVoting).fsetb F.STEP_STATUS.COMMIT_BUSY true).combines = s.combines := by
  have hf {f : Fld} (hp : f.key ≠ F.STEP_STATUS.PHASE.key) (hb : f.key ≠ F.STEP_STATUS.COMMIT_BUSY.key) :
      ((s.fset F.STEP_STATUS.PHASE phStepVoting).fsetb F.STEP_STATUS.COMMIT_BUSY true).fget f = s.fget f := by
    rw [fsetb_eq, fget_fset_other hb, fget_fset_other hp]
  simp only [State.combines, State.coordinates, State.ord, State.ordAt, State.pos, State.herdN, State.primaryOrd, State.aggOrd]
  rw [hf (by decide) (by decide), hf (by decide) (by decide), hf (by decide) (by decide), hf (by decide) (by decide)]
  rfl

theorem preparesAreAnswered : PreparesAreAnswered := by
  intro s n
  refine ⟨fun hm hc hr => ⟨?boundary, ?commit⟩, fun hm hr => ?residue, fun kind residue hp hcow hprim => ?vote⟩
  case boundary =>
    have hc : ({ s with prepared := some (1, false) } : State).combines = false := hc
    show execPrepareBoundary n s = _
    rw [execPrepareBoundary, if_pos hm, prepare_clean hr, enter_of_not_combines hc]
  case commit =>
    have hc : ((({ s with prepared := some (2, false) } : State).fset F.STEP_STATUS.PHASE phStepVoting).fsetb F.STEP_STATUS.COMMIT_BUSY
        true).combines = false := (combines_voting _).trans hc
    show execPrepareCommit n s = _
    rw [execPrepareCommit, if_pos hm, prepare_clean hr, enter_of_not_combines hc]
    rfl
  case residue =>
    obtain ⟨hfound, r, hcode, hout⟩ := boundaryCheck_residue hr
    refine ⟨(s.prepare 1).enter .boundary, r, if_pos hm, ?_, hcode, by rwa [enter_out]⟩
    rw [enter_prepared]
    exact congrArg (fun b => some (1, b)) hfound
  case vote =>
    show execVoteSend s = _
    simp [execVoteSend, hp, hcow, State.toCoord, hprim]
    rfl

/-! ## Votes and the decision (R24, R389, R391) -/

section
variable {o : DevOrd} {n : W64}

/-- The coordinator takes a vote that it awaits. -/
theorem vote_taken {code : Byte} (hn : n.toNat = s.current) (hc : s.coordinates = true) (hg : s.coord.stage = .boundary ∨ s.coord.stage = .voting)
    (ho : o.toNat ∈ s.expected) (h2 : code.toNat ≤ 2) : (!s.combines || decide (n.toNat ≠ s.current) || !decide (o.toNat ∈ s.expected)
      || !(s.coord.stage == .boundary || s.coord.stage == .voting) || decide (code.toNat > 2)) = false := by
  rcases hg with hg | hg <;> simp [combines_of_coordinates hc, hn, ho, hg, h2]

/-- A no vote aborts at the coordinator. -/
theorem vote_no (hn : n.toNat = s.current) (hc : s.coordinates = true) (hg : s.coord.stage = .boundary ∨ s.coord.stage = .voting)
    (ho : o.toNat ∈ s.expected) {code : Byte} (hcode : code = 1 ∨ code = 2) : execVote o n code s = .next (s.abort (code.toNat + 1) o.toNat) := by
  have h0 : code ≠ 0 := by rcases hcode with rfl | rfl <;> decide
  have h2 : code.toNat ≤ 2 := by rcases hcode with rfl | rfl <;> decide
  unfold execVote
  simp only [vote_taken hn hc hg ho h2, Bool.false_eq_true, if_false, ne_eq, h0, not_false_eq_true, if_true, hc]

/-- The last yes vote moves the coordinator on. -/
theorem vote_last (hn : n.toNat = s.current) (hc : s.coordinates = true) (hg : s.coord.stage = .boundary ∨ s.coord.stage = .voting)
    (ho : o.toNat ∈ s.expected) (ha : ∀ e ∈ s.expected, e = o.toNat ∨ e ∈ s.coord.votes) : execVote o n 0 s =
      let t := { s with coord := { s.coord with votes := addTo o.toNat s.coord.votes } }
      if s.coord.stage == .boundary then .next (t.sendStart (s.current + 1))
      else if s.fbit F.STEP_COORD.SB_EN && !s.coord.acting then
        .next ({ t with coord := { t.coord with stage := .standby } }.emit (.ctrl 0x0C (some s.standbyOrd) n 1))
      else .next (t.takeDecision 0 0) := by
  have hgate := vote_taken hn hc hg ho (code := 0) (by decide)
  have hall : s.expected.all (fun e => e ∈ addTo o.toNat s.coord.votes) = true :=
    List.all_eq_true.2 fun e he => decide_eq_true (mem_addTo.2 (ha e he))
  have h0 : ¬ (0 : Byte) ≠ 0 := by decide
  unfold execVote
  simp only [hgate, h0, Bool.false_eq_true, if_false, expected_votes, coordinates_votes, hall, hc, Bool.not_true]
  rfl

end

theorem votesAreDecided : VotesAreDecided := by
  intro s o n hn
  refine ⟨fun hc hg ho => ⟨fun code hcode => vote_no hn hc hg ho hcode, fun ha => ⟨fun hs => ?boundary, fun hs hact hsb => ?standby,
    fun hs hsb => ?decide⟩⟩, fun hst hph => ?atStandby, fun hc hs => ?standbyAck⟩
  case boundary => exact (vote_last hn hc hg ho ha).trans (if_pos (by rw [hs]; rfl))
  case standby =>
    exact (vote_last hn hc hg ho ha).trans ((if_neg (by rw [hs]; decide)).trans (if_pos (by rw [hsb, hact]; rfl)))
  case decide =>
    exact (vote_last hn hc hg ho ha).trans ((if_neg (by rw [hs]; decide)).trans (if_neg (by rw [hsb]; exact Bool.false_ne_true)))
  case atStandby => exact if_pos (by rw [hst, hph, hn]; simp)
  case standbyAck => exact if_pos (by rw [hc, hs, hn]; simp)

/-! ## Silence (R391, R392, R440) -/

/-- The standby acts from its takeover on, and records what it decides with REASON 6. -/
theorem standbyTakeover_voting {rs : List QueryAnswer} (hst : s.isStandby = true) (hact : s.coord.acting = false)
    (hph : s.stepPhase = phStepVoting) : execStandbyTakeover rs s =
      let t := { s.losePrimary with coord := { Coord.idle with acting := true, step := s.current } }.broadcast 0x0B s.current 3
      if s.decided == some s.current || rs.any (fun r => r.code == 1 && r.step.toNat == s.current) then .next (t.takeDecision 6 t.primaryOrd)
      else .next (t.abort 6 t.primaryOrd) := by
  have hlose : s.losePrimary.stepPhase = phStepVoting := (fget_fset_other (by decide) 6).trans hph
  have hph' : (({ s.losePrimary with coord := { Coord.idle with acting := true, step := s.current } } : State).broadcast 0x0B s.current
      3).stepPhase = phStepVoting := hlose
  unfold execStandbyTakeover
  simp only [hph', hph, hst, hact, phStepIdle, phStepRunning, phStepVoting, phStepFlipping, phStepMirroring, phStepRolling, Nat.reduceBEq,
    Nat.reduceBNe, Bool.or_true, Bool.or_false, Bool.not_true, Bool.false_and, Bool.and_true, Bool.false_eq_true, if_false]

/-- A device answers the standby, and sends again the ACK of a rollback that it has sent to the lost primary. -/
theorem queryReply_eq {o : DevOrd} (hsb : s.fbit F.STEP_COORD.SB_EN = true) (ho : o.toNat = s.standbyOrd) : execQueryReply o s =
    let t := s.losePrimary.emit (.queryAnswer o.toNat
      ⟨s.ord, BitVec.ofNat 8 (s.fget F.STEP_LAST_VOTE.OUTCOME), BitVec.ofNat 64 (s.fget F.STEP_LAST_VOTE.STEP)⟩)
    .next (if s.afterRoll && s.ackStep.isNone then
      t.emit (.ctrl 0x0D (some (s.fget F.STEP_COORD.STANDBY)) (BitVec.ofNat 64 s.committed) 2) else t) := by
  have hgate : (!s.fbit F.STEP_COORD.SB_EN || decide (o.toNat ≠ s.standbyOrd)) = false := by simp [hsb, ho]
  have hstandby : s.losePrimary.fget F.STEP_COORD.STANDBY = s.fget F.STEP_COORD.STANDBY := fget_fset_other (by decide) _
  have hcommitted : s.losePrimary.committed = s.committed := fget_fset_other (by decide) _
  rw [← hstandby, ← hcommitted]
  unfold execQueryReply
  simp only [hgate, Bool.false_eq_true, if_false]
  rfl

/-- What a decision leaves in STEP_LAST_VOTE. -/
theorem decision_lastVote (step outcome reason ord : Nat) (ho : outcome < 16) (hr : reason < 16) :
    (s.decision step outcome reason ord).fget F.STEP_LAST_VOTE.OUTCOME = outcome
    ∧ (s.decision step outcome reason ord).fget F.STEP_LAST_VOTE.REASON = reason := by
  constructor
  · rw [State.decision, fget_fset_other (by decide), fget_fset_other (by decide), fget_fset_same]
    exact Nat.mod_eq_of_lt ho
  · rw [State.decision, fget_fset_other (by decide), fget_fset_same]
    exact Nat.mod_eq_of_lt hr

theorem silenceIsHandled : SilenceIsHandled := by
  intro s
  refine ⟨fun o hc hg hm => ?vote, fun o hc hs hm => ?ack, fun rs hst hact hph => ?takeover, fun o hsb ho => ?query⟩
  case vote =>
    show execVoteTimeout s = _
    rcases hg with hg | hg <;> simp [execVoteTimeout, hc, hg, hm]
  case ack =>
    have hstep : execVoteTimeout s = .next (s.silentDevice o) := by simp [execVoteTimeout, hc, hs, hm]
    exact ⟨_, s.mkReport 0x6006 (errFlags false 4) 8 (unitLoc 0) 0 0 (data2 0 o), hstep, mem_addTo_self _ _, rfl, by
      simp [State.silentDevice, State.notify, State.unitErr, State.emit]⟩
  case takeover =>
    have hiff : (s.decided == some s.current || rs.any (fun r => r.code == 1 && r.step.toNat == s.current)) = true
        ↔ s.decided = some s.current ∨ ∃ r ∈ rs, r.code = 1 ∧ r.step.toNat = s.current := by simp
    have hstep := standbyTakeover_voting (rs := rs) hst hact hph
    by_cases h : s.decided = some s.current ∨ ∃ r ∈ rs, r.code = 1 ∧ r.step.toNat = s.current
    · rw [if_pos h]
      obtain ⟨houtcome, hreason⟩ := decision_lastVote _ 1 6 _ (by decide) (by decide)
      exact ⟨_, hstep.trans (if_pos (hiff.2 h)), rfl, rfl, hreason, houtcome⟩
    · rw [if_neg h]
      obtain ⟨houtcome, hreason⟩ := decision_lastVote _ 2 6 _ (by decide) (by decide)
      exact ⟨_, hstep.trans (if_neg (mt hiff.1 h)), rfl, rfl, hreason, houtcome⟩
  case query =>
    refine ⟨_, ⟨s.ord, BitVec.ofNat 8 (s.fget F.STEP_LAST_VOTE.OUTCOME), BitVec.ofNat 64 (s.fget F.STEP_LAST_VOTE.STEP)⟩,
      queryReply_eq hsb ho, ?_, rfl, rfl, rfl, ?_⟩
    · split <;> rfl
    · split <;> simp [State.emit, State.losePrimary]

end Sys2Proof.Machine
end

section
/-! # The commit (R57 to R63, R72, R87 to R90, R389, R394, R398) -/

namespace Sys2Proof.Machine

variable {s t : State}

theorem mapGet_mapPut_self {V : Type} [DecidableEq V] (d : V) (m : SMap V) (x : Nat) (v : V) : mapGet d (mapPut d x v m) x = v :=
  (mapGet_mapPut d m x x v).trans (if_pos rfl)

/-! ## A commit decision (R72, R87, R89, R389) -/

/-- The outcome of the interval is recorded first, the step then committed, and at last the vote is over: all else is aside. -/
theorem decideCommit_effect {n : W64} (mirror : Bool)
    (hd : (s.stepPhase = phStepVoting ∧ s.prepared = none) ∨ s.undecided = some n.toNat) (hn : n.toNat = s.current) :
    ∃ a b t : State, execDecideCommit n mirror s = .next t
      ∧ (if mirror || s.mirrorOn then (b.fset F.STEP_STATUS.PHASE phStepFlipping).fsetb F.STEP_STATUS.MIRROR_PENDING true
          else (b.fset F.STEP_STATUS.PHASE phStepFlipping).fset F.STEP_DURABLE.STEP n.toNat).Aside t
      ∧ (a.fset F.STEP_COMMITTED.STEP n.toNat).Aside b
      ∧ a.home = (s.recordOutcome 1).home ∧ a.mem = s.mem ∧ a.tiles = s.tiles := by
  have hgate : ¬ (!(s.stepPhase == phStepVoting && s.prepared.isNone || s.undecided == some n.toNat) || decide (n.toNat ≠ s.current)) = true := by
    rcases hd with ⟨hp, hnone⟩ | hu
    · simp [hp, hnone, hn]
    · simp [hu, hn]
  exact ⟨_, _, _, if_neg hgate, (State.Aside.returnPorts.trans (.enter _)).trans (.emit _), .recordDecision _ _, rfl, rfl, rfl⟩

theorem committed_of_decideCommit {n : W64} (hd : (s.stepPhase = phStepVoting ∧ s.prepared = none) ∨ s.undecided = some n.toNat)
    (hn : n.toNat = s.current) (hm : s.mirrorOn = false) : ∃ s', exec (.decideCommit n false) s = .next s'
      ∧ s'.fget F.STEP_COMMITTED.STEP = n.toNat ∧ s'.fget F.STEP_DURABLE.STEP = n.toNat ∧ s'.stepPhase = phStepFlipping
      ∧ mapGet 0 s'.home.outcomes s.serial.toNat = 1 ∧ s'.home.lastCommit = s.serial ∧ s'.home.closing = true ∧ s'.mem = s.mem
      ∧ s'.home.table = s.home.table ∧ s'.tiles = s.tiles := by
  obtain ⟨a, b, t, hstep, hbt, hab, hhome, hmem, htiles⟩ := decideCommit_effect false hd hn
  rw [hm, Bool.or_false, if_neg Bool.false_ne_true] at hbt
  have hth : t.home = (s.recordOutcome 1).home := hbt.home.trans (hab.home.trans hhome)
  refine ⟨t, hstep, ?com, ?dur, ?phase, ?outcome, ?last, ?closing, hbt.mem.trans (hab.mem.trans hmem), ?table, hbt.tiles.trans (hab.tiles.trans htiles)⟩
  case com => rw [hbt.flds _ (by decide), fget_fset_other (by decide), fget_fset_other (by decide), hab.flds _ (by decide), fget_fset_word rfl]
  case dur => rw [hbt.flds _ (by decide), fget_fset_word rfl]
  case phase =>
    rw [State.stepPhase, hbt.flds _ (by decide), fget_fset_other (by decide), fget_fset_same]
    rfl
  case outcome =>
    rw [hth]
    exact mapGet_mapPut_self 0 s.home.outcomes _ 1
  case last => rw [hth]; rfl
  case closing => rw [hth]; rfl
  case table => rw [hth]; rfl

/-! ## The rollback of a device (R59, R63, R104, R121, R271, R394) -/

/-- `t` is `s` once the ACK of a rollback has been considered: PHASE may have turned idle, when no tile is left to roll back. -/
structure State.Acks (s t : State) : Prop where
  rest : t = { s with out := t.out, regs := t.regs, ackStep := t.ackStep }
  flds : ∀ f ∈ commitFlds, f ≠ F.STEP_STATUS.PHASE → t.fget f = s.fget f
  rolling : s.rolling ≠ [] → t = s

theorem acks_ackIfRolled (s : State) : s.Acks s.ackIfRolled := by
  have hsame : s.Acks s := ⟨rfl, fun _ _ _ => rfl, fun _ => rfl⟩
  unfold State.ackIfRolled
  split
  · exact hsame
  · split
    · rename_i n _ h
      have hr : s.rolling = [] := by
        simp only [Bool.and_eq_true, List.isEmpty_iff] at h
        exact h.1.1.1
      have hf (f : Fld) (hf : f ∈ commitFlds) (hne : f ≠ F.STEP_STATUS.PHASE) :
          (s.fset F.STEP_STATUS.PHASE phStepIdle).fget f = s.fget f := by
        have hkey : ∀ f ∈ commitFlds, f ≠ F.STEP_STATUS.PHASE → f.key ≠ F.STEP_STATUS.PHASE.key := by decide
        exact fget_fset_other (hkey f hf hne) _
      dsimp only
      split
      · exact ⟨rfl, hf, fun e => absurd hr e⟩
      · exact ⟨rfl, hf, fun e => absurd hr e⟩
    · exact hsame

theorem aside_refused (s : State) (r : HomeReq) : s.Aside (r.refused s) := by
  cases r <;> exact .emit _

/-- The registers of a device that rolls back to its commit. -/
def State.rewound (s : State) : State :=
  (((s.fset F.STEP_CURRENT.STEP s.committed).fset F.STEP_STATUS.PHASE phStepRolling).fsetb F.STEP_STATUS.ROLLBACK true).fsetb
    F.STEP_STATUS.COMMIT_BUSY false

/-- After the reads held, the completions held leave, and ports return. -/
theorem aside_returns (s : State) :
    s.Aside (if s.settleAll.isLead then s.settleAll.returnPorts.faultCause else s.settleAll.returnPorts) := by
  have h : s.Aside s.settleAll.returnPorts := State.Aside.settleAll.trans .returnPorts
  split
  · exact h.trans .faultCause
  · exact h

/-- The tiles leave the step and what the step held is dropped, the requests that waited are refused, the registers go back to the commit, and
then held reads are served and the ACK is considered. -/
theorem rollBack_chain (s : State) (n : Nat) : ∃ a b f : State, f.Acks (s.rollBack n)
    ∧ b.rewound.serveHeld.Aside f ∧ a.Aside b
    ∧ a.rootFlags = 0 ∧ a.barriers = [] ∧ a.runs = [] ∧ a.mem = s.mem ∧ a.regs = s.regs ∧ a.home = { s.home with cows := [] }
    ∧ a.tiles = s.tiles.map (fun p => (p.1, p.2.leftBehind)) := by
  unfold State.rollBack
  extract_lets cows left home mesh coord mirror a b
  have hb : a.Aside b := .foldl (fun s c => .foldl aside_refused c.held s) cows a
  exact ⟨a, b, _, acks_ackIfRolled _, aside_returns _, hb, rfl, rfl, rfl, rfl, rfl, rfl, rfl⟩

theorem rewound_flds (s : State) : s.rewound.fget F.STEP_CURRENT.STEP = s.committed % 2 ^ 64
    ∧ s.rewound.fget F.STEP_COMMITTED.STEP = s.committed ∧ s.rewound.fget F.STEP_STATUS.PHASE = phStepRolling
    ∧ s.rewound.fbit F.STEP_STATUS.ROLLBACK = true ∧ s.rewound.fbit F.STEP_STATUS.COMMIT_BUSY = false := by
  refine ⟨?_, ?_, ?_, ?_, ?_⟩
  · rw [State.rewound, fsetb_eq, fsetb_eq, fget_fset_other (by decide), fget_fset_other (by decide), fget_fset_other (by decide), fget_fset_same]
    rfl
  · rw [State.rewound, fsetb_eq, fsetb_eq, fget_fset_other (by decide), fget_fset_other (by decide), fget_fset_other (by decide),
      fget_fset_other (by decide)]
    rfl
  · rw [State.rewound, fsetb_eq, fsetb_eq, fget_fset_other (by decide), fget_fset_other (by decide), fget_fset_same]
    rfl
  · rw [State.rewound, fsetb_eq _ (f := F.STEP_STATUS.COMMIT_BUSY), State.fbit, fget_fset_other (by decide)]
    exact fbit_fsetb rfl true
  · exact fbit_fsetb rfl false

/-- What a rollback leaves: `t` is `s` rolled back. -/
structure State.RolledBack (s t : State) : Prop where
  current : t.current = s.committed % 2 ^ 64
  committed : t.committed = s.committed
  phase : t.rolling ≠ [] → t.stepPhase = phStepRolling
  rollback : t.fbit F.STEP_STATUS.ROLLBACK = true
  busy : t.fbit F.STEP_STATUS.COMMIT_BUSY = false
  rootFlags : t.rootFlags = 0
  barriers : t.barriers = []
  runs : t.runs = []
  cows : t.home.cows = []
  hostHeld : t.home.hostHeld = []
  hostReads : t.home.hostReads = []
  outcomes : t.home.outcomes = s.home.outcomes
  mem : t.mem = s.mem
  tile : ∀ u, t.tile u = (s.tile u).leftBehind
  table : s.home.hostHeld = [] → s.home.hostReads = [] → t.home.table = s.home.table

theorem mapGet_map {V : Type} {d : V} {g : V → V} (h : g d = d) (m : SMap V) (x : Nat) :
    mapGet d (m.map (fun p => (p.1, g p.2))) x = g (mapGet d m x) := by
  induction m with
  | nil => exact h.symm
  | cons c m ih =>
    by_cases hx : x = c.1 <;> simp_all [mapGet, mapFind]

/-- None of the parts of a rollback but the first changes flags, barriers, runs, memory or tiles. -/
theorem rollBack_kept {a b f : State} (hack : f.Acks t) (hserve : { b.rewound with home := { b.home with hostHeld := [], hostReads := [] } }.Serves f)
    (hab : a.Aside b) : t.rootFlags = a.rootFlags ∧ t.barriers = a.barriers ∧ t.runs = a.runs ∧ t.mem = a.mem ∧ t.tiles = a.tiles := by
  rw [hack.rest, hserve.rest, hab.rest]
  exact ⟨rfl, rfl, rfl, rfl, rfl⟩

theorem rolledBack_rollBack (s : State) (n : Nat) : s.RolledBack (s.rollBack n) := by
  obtain ⟨a, b, f, hack, hbf, hab, hflags, hbarriers, hruns, hmem, hregs, hhome, htiles⟩ := rollBack_chain s n
  generalize s.rollBack n = t at hack
  obtain ⟨hcur, hcom, hphase, hroll, hbusy⟩ := rewound_flds b
  have hbcom : b.committed = s.committed := (hab.flds _ (by decide)).trans (congrArg (fun r => mapGet _ r _) hregs)
  have hserve := State.Serves.serveHeld.trans hbf.serves
  obtain ⟨hkflags, hkbarriers, hkruns, hkmem, hktiles⟩ := rollBack_kept hack hserve hab
  have hth : t.home = f.home := by rw [hack.rest]
  have hbh : b.home = { s.home with cows := [] } := hab.home.trans hhome
  have hcows : b.home.cows = [] := by rw [hbh]
  have hfield (g : Fld) (hg : g ∈ commitFlds) (hne : g ≠ F.STEP_STATUS.PHASE) : t.fget g = b.rewound.fget g :=
    (hack.flds g hg hne).trans (hserve.flds g hg)
  refine ⟨?current, ?committed, fun hr => ?phase, ?rollback, ?busy, ?rootFlags, ?barriers, ?runs, ?cows, ?hostHeld, ?hostReads, ?outcomes, ?mem,
    fun u => ?tile, fun hh hr => ?table⟩
  case current => rw [State.current, hfield _ (by decide) (by decide), hcur, hbcom]
  case committed => rw [State.committed, hfield _ (by decide) (by decide), hcom, hbcom]
  case phase =>
    have hfr : f.rolling ≠ [] := by rwa [hack.rest] at hr
    rw [hack.rolling hfr, State.stepPhase, hserve.flds _ (by decide)]
    exact hphase
  case rollback => rw [State.fbit, hfield _ (by decide) (by decide)]; exact hroll
  case busy => rw [State.fbit, hfield _ (by decide) (by decide)]; exact hbusy
  case rootFlags => exact hkflags.trans hflags
  case barriers => exact hkbarriers.trans hbarriers
  case runs => exact hkruns.trans hruns
  case cows => rw [hth]; exact hserve.cows hcows
  case hostHeld => rw [hth, hserve.rest]
  case hostReads => rw [hth]; exact hserve.reads hbusy
  case outcomes =>
    rw [hth, hserve.rest]
    show b.home.outcomes = _
    rw [hbh]
  case mem => exact hkmem.trans hmem
  case tile =>
    rw [State.tile, hktiles, htiles, mapGet_map rfl]
    rfl
  case table =>
    have hrh : b.rewound.home = { s.home with cows := [] } := hbh
    rw [hth, hbf.home, serveHeld_of_none (by rw [hrh]; exact hh) (by rw [hrh]; exact hr), hrh]

/-! ## Aborts and reverts (R60, R87, R90, R394) -/

/-- A page after a rollback that finds the interval closed, or takes a commit back (R60). -/
theorem staleAll_table (s : State) : ∀ p ∈ s.staleAll.home.table, p.2.kind = 2 → p.2.stale = true ∧ p.2.mask = 0 := by
  intro p hp hk
  obtain ⟨q, _, rfl⟩ := List.mem_map.1 hp
  by_cases hu : q.2.unversioned
  · simp [hu]
  · simp only [hu] at hk
    simp [Entry.unversioned] at hu
    exact absurd hk hu

theorem committed_recordOutcome (s : State) (code : Nat) : (s.recordOutcome code).committed = s.committed := by
  unfold State.recordOutcome
  dsimp only
  split
  · rfl
  · exact fget_fset_other (by decide) _

theorem decideAbort_eq {n : W64} (hr : s.mayRoll = true) (hn : n.toNat = s.current) :
    execDecideAbort n s = .next (((s.recordRollback.recordDecision n.toNat 2).enter .rolling).rollBack n.toNat) :=
  if_neg (by simp [hr, hn])

theorem decideRevert_eq {n : W64} (hl : s.fbit F.WV_STATUS.LOADED = true)
    (hp : s.stepPhase = phStepFlipping ∨ s.stepPhase = phStepMirroring) (hn : n.toNat = s.committed) (hd : s.durable = false) :
    execDecideRevert n s = .next ((((((s.recordRevert.fset F.STEP_COMMITTED.STEP s.recordRevert.beforeCommit).recordDecision n.toNat 3).fsetb
      F.STEP_STATUS.MIRROR_PENDING false).enter .reverting).rollBack n.toNat)) :=
  if_neg (by rcases hp with hp | hp <;> simp [hl, hp, hn, hd])

/-- A rollback starts from the commit, the home, the memory and the tiles that it finds. -/
theorem State.RolledBack.of_same {u : State} (h : u.RolledBack t) (hc : u.committed = s.committed) (hh : u.home = s.home) (hm : u.mem = s.mem)
    (ht : u.tiles = s.tiles) : s.RolledBack t where
  current := by rw [h.current, hc]
  committed := h.committed.trans hc
  phase := h.phase
  rollback := h.rollback
  busy := h.busy
  rootFlags := h.rootFlags
  barriers := h.barriers
  runs := h.runs
  cows := h.cows
  hostHeld := h.hostHeld
  hostReads := h.hostReads
  outcomes := by rw [h.outcomes, hh]
  mem := h.mem.trans hm
  tile v := by rw [h.tile, State.tile, ht, State.tile]
  table a b := by rw [h.table (by rw [hh, a]) (by rw [hh, b]), hh]

theorem decideAbort_rollsBack {n : W64} (hr : s.mayRoll = true) (hn : n.toNat = s.current) :
    ∃ t, execDecideAbort n s = .next t ∧ s.recordRollback.RolledBack t := by
  have h : s.recordRollback.Aside ((s.recordRollback.recordDecision n.toNat 2).enter .rolling) := (State.Aside.recordDecision _ _).trans (.enter _)
  exact ⟨_, decideAbort_eq hr hn, (rolledBack_rollBack _ _).of_same (h.flds _ (by decide)) h.home h.mem h.tiles⟩

theorem decideRevert_rollsBack {n : W64} (hl : s.fbit F.WV_STATUS.LOADED = true)
    (hp : s.stepPhase = phStepFlipping ∨ s.stepPhase = phStepMirroring) (hn : n.toNat = s.committed) (hd : s.durable = false) :
    ∃ t, execDecideRevert n s = .next t ∧ (s.recordRevert.fset F.STEP_COMMITTED.STEP s.recordRevert.beforeCommit).RolledBack t := by
  generalize hx : s.recordRevert.fset F.STEP_COMMITTED.STEP s.recordRevert.beforeCommit = x
  have hdec : x.Aside (x.recordDecision n.toNat 3) := .recordDecision _ _
  have hent : ((x.recordDecision n.toNat 3).fsetb F.STEP_STATUS.MIRROR_PENDING false).Aside
      (((x.recordDecision n.toNat 3).fsetb F.STEP_STATUS.MIRROR_PENDING false).enter .reverting) := .enter _
  refine ⟨_, (decideRevert_eq hl hp hn hd).trans (by rw [hx]), (rolledBack_rollBack _ _).of_same ?_ (hent.home.trans hdec.home)
    (hent.mem.trans hdec.mem) (hent.tiles.trans hdec.tiles)⟩
  rw [State.committed, hent.flds _ (by decide), fsetb_eq, fget_fset_other (by decide)]
  exact hdec.flds _ (by decide)

/-! ### What the home records (R87, R90) -/

theorem recordRollback_open (h : s.home.closing = false) : s.recordRollback = s.recordOutcome 2 := if_neg (by rw [h]; exact Bool.false_ne_true)

theorem recordRollback_closing (h : s.home.closing = true) : s.recordRollback = s.staleAll := if_pos h

theorem recordRevert_closing (h : s.home.closing = true) :
    s.recordRevert.home = { s.home with outcomes := mapPut 0 s.home.lastCommit.toNat 3 s.home.outcomes } :=
  congrArg State.home (if_pos h)

theorem serial_fset_lastRollback (v : Nat) : (s.fset F.HOME_SERIAL.LAST_ROLLBACK v).serial = s.serial :=
  congrArg (BitVec.ofNat 16) (fget_fset_other (by decide) v)

theorem recordRevert_open (h : s.home.closing = false) : s.recordRevert.home.outcomes =
      mapPut 0 s.serial.toNat 2 (mapPut 0 s.home.lastCommit.toNat 3 s.home.outcomes)
    ∧ ∀ p ∈ s.recordRevert.home.table, p.2.kind = 2 → p.2.stale = true ∧ p.2.mask = 0 := by
  have hopen : ¬ s.home.closing = true := by rw [h]; exact Bool.false_ne_true
  constructor
  · refine (congrArg (fun t : State => t.home.outcomes) (if_neg hopen)).trans ?_
    exact congrArg (fun k : W16 => mapPut 0 k.toNat 2 (mapPut 0 s.home.lastCommit.toNat 3 s.home.outcomes)) (serial_fset_lastRollback ..)
  · rw [show s.recordRevert = _ from if_neg hopen]
    exact staleAll_table _

theorem recordRevert_rest (s : State) : s.recordRevert.beforeCommit = s.beforeCommit ∧ s.recordRevert.mem = s.mem
    ∧ s.recordRevert.tiles = s.tiles ∧ s.recordRevert.home.hostHeld = s.home.hostHeld ∧ s.recordRevert.home.hostReads = s.home.hostReads := by
  unfold State.recordRevert
  dsimp only
  split <;> exact ⟨rfl, rfl, rfl, rfl, rfl⟩

theorem decisionsTakeEffect : DecisionsTakeEffect := by
  intro s n _
  refine ⟨fun hd hn hm => committed_of_decideCommit hd hn hm, fun hr hn hcl => ?abort, fun hr hn hcl hh hread => ?again,
    fun hl hp hn hd hser => ?revert⟩
  case abort =>
    obtain ⟨t, hstep, ht⟩ := decideAbort_rollsBack hr hn
    rw [recordRollback_open hcl] at ht
    refine ⟨t, hstep, ?_, ht.committed.trans (committed_recordOutcome s 2), ht.phase, ht.rollback, ht.busy, ht.rootFlags, ht.barriers, ht.runs,
      ht.cows, ht.hostHeld, ht.hostReads, ?_, ht.mem, ht.tile, ht.table⟩
    · exact ht.current.trans (by rw [committed_recordOutcome])
    · rw [ht.outcomes]
      exact mapGet_mapPut_self 0 s.home.outcomes _ 2
  case again =>
    obtain ⟨t, hstep, ht⟩ := decideAbort_rollsBack hr hn
    rw [recordRollback_closing hcl] at ht
    refine ⟨t, hstep, ht.outcomes, ?_⟩
    rw [ht.table hh hread]
    exact staleAll_table s
  case revert =>
    obtain ⟨t, hstep, ht⟩ := decideRevert_rollsBack hl hp hn hd
    obtain ⟨hbefore, hmem, htiles, hheld, hreads⟩ := recordRevert_rest s
    have hcom : (s.recordRevert.fset F.STEP_COMMITTED.STEP s.recordRevert.beforeCommit).committed = s.beforeCommit % 2 ^ 64 := by
      rw [hbefore]
      exact fget_fset_same _
    refine ⟨t, hstep, ht.committed.trans hcom, ?_, ht.phase, ?_, fun hcl => ?_, ht.mem.trans hmem, fun u => ?_, fun hh hr => ?_⟩
    · rw [ht.current, hcom, Nat.mod_mod]
    · rw [ht.outcomes]
      show mapGet 0 s.recordRevert.home.outcomes _ = 3
      cases hcl : s.home.closing with
      | true => rw [recordRevert_closing hcl]; exact mapGet_mapPut_self 0 s.home.outcomes _ 3
      | false =>
        have hne : s.home.lastCommit.toNat ≠ s.serial.toNat := fun e => hser hcl (BitVec.eq_of_toNat_eq e.symm)
        rw [(recordRevert_open hcl).1, mapGet_mapPut_ne 0 hne, mapGet_mapPut_self]
    · rw [ht.outcomes]
      show mapGet 0 s.recordRevert.home.outcomes _ = 2
      rw [(recordRevert_open hcl).1, mapGet_mapPut_self]
    · rw [ht.tile u]
      exact congrArg Tile.leftBehind (congrArg (fun m => mapGet Tile.reset m u.toNat) htiles)
    · have htable : t.home.table = s.recordRevert.home.table := ht.table (hheld.trans hh) (hreads.trans hr)
      rw [htable]
      cases hcl : s.home.closing with
      | true => rw [if_pos rfl, recordRevert_closing hcl]
      | false => exact (recordRevert_open hcl).2

end Sys2Proof.Machine
end

section
/-! # The end of a commit (R389, R394, R398, R408) -/

namespace Sys2Proof.Machine

variable {s t : State}

/-! ## ACK at the coordinator (R389, R394) -/

/-- The state with one more ACK held. -/
def State.withAck (s : State) (o : DevOrd) : State := { s with coord := { s.coord with acks := addTo o.toNat s.coord.acks } }

/-- The ACK that completes a stage reaches the coordinator. -/
structure LastAck (s : State) (o : DevOrd) : Prop where
  coordinates : s.coordinates = true
  expected : o.toNat ∈ s.expected
  others : ∀ e ∈ s.expected, e = o.toNat ∨ e ∈ s.coord.acks

section
variable {o : DevOrd} {n : W64}

theorem LastAck.acked (h : LastAck s o) : (s.withAck o).acked = true :=
  List.all_eq_true.2 fun e he => decide_eq_true (mem_addTo.2 (h.others e he))

/-- What the coordinator does once the acknowledgements of its stage are complete. -/
def State.onAcks (s : State) (n : W64) (us : W16) : Outcome :=
  match s.coord.stage with
  | .flipping =>
    let t := (s.fset F.STEP_VOTE_TIME.LAST us.toNat).fset F.STEP_VOTE_TIME.MAX (max (s.fget F.STEP_VOTE_TIME.MAX) us.toNat)
    if t.jobMirror then
      let u := { t with coord := { t.coord with stage := .mirroring, acks := [] } }.broadcast 0x0E n.toNat 1
      .next (if u.coord.rollAfter < 2 then u else u.rollLate)
    else .next (t.doneWith n 1)
  | .mirroring => .next (s.doneWith n 2)
  | _ => .next s.restart

theorem execAck_last (h : LastAck s o) {code : Byte} (us : W16)
    (hfits : (decide (code = 1) && (s.coord.stage == .flipping || s.coord.stage == .mirroring)
      || decide (code = 2) && (s.coord.stage == .rolling || s.coord.stage == .reverting)) = true) :
    execAck o n code us s = (s.withAck o).onAcks n us := by
  have hco : (s.withAck o).coordinates = true := h.coordinates
  unfold execAck
  simp only [combines_of_coordinates h.coordinates, hfits, decide_eq_true h.expected, Bool.not_true, Bool.or_false, Bool.false_eq_true, if_false]
  change (if !(s.withAck o).acked then _ else if !(s.withAck o).coordinates then _ else _) = _
  simp only [h.acked, hco, Bool.not_true, Bool.false_eq_true, if_false]
  rfl

theorem onAcks_flipping (us : W16) (hs : s.coord.stage = .flipping) (hj : s.jobMirror = false) : s.onAcks n us =
    .next (((s.fset F.STEP_VOTE_TIME.LAST us.toNat).fset F.STEP_VOTE_TIME.MAX (max (s.fget F.STEP_VOTE_TIME.MAX) us.toNat)).doneWith n 1) := by
  simp [State.onAcks, hs, hj]

theorem onAcks_mirroring (us : W16) (hs : s.coord.stage = .mirroring) : s.onAcks n us = .next (s.doneWith n 2) := by simp [State.onAcks, hs]

theorem onAcks_rolling (us : W16) (hs : s.coord.stage = .rolling) : s.onAcks n us = .next s.restart := by simp [State.onAcks, hs]

/-- DONE carries START while the run-steps commands of every lead go on, and changes no register. -/
theorem doneWith_effect (hr : s.coord.rollAfter = 0) (code : Byte) : (s.doneWith n code).regs = s.regs
    ∧ if s.stepWanted (n.toNat + 1) then (s.doneWith n code).coord.stage = .starting ∧ (s.doneWith n code).out = s.out ++ [.doneStart n code]
      else (s.doneWith n code).coord.stage = .none
        ∧ (s.doneWith n code).out = s.out ++ [.ctrl 0x0E none (BitVec.ofNat 64 n.toNat) code] := by
  cases hw : s.stepWanted (n.toNat + 1) with
  | true =>
    have hdone : s.doneWith n code = (s.starting (n.toNat + 1)).emit (.doneStart n code) := if_pos (by simp [hr, hw])
    rw [hdone]
    exact ⟨rfl, rfl, rfl⟩
  | false =>
    have hlate (u : State) (h : u.coord.rollAfter = 0) : u.rollLate = u := by simp [State.rollLate, h]
    have hdone : s.doneWith n code = { s with coord := { s.coord with stage := .none, acks := [] } }.broadcast 0x0E n.toNat code :=
      (if_neg (by simp [hw])).trans (hlate _ hr)
    rw [hdone]
    exact ⟨rfl, rfl, rfl⟩

/-- After a rollback the next step starts, or the coordinator waits for a command. -/
theorem restart_effect (hres : s.coord.resets = []) (hunrec : s.fbit F.HQ_STATUS.JOB_UNREC = false) (hout : s.outUnits = [])
    (htop : s.heldTopology = false) (hact : s.coord.acting = false) :
    if s.stepWanted (s.committed + 1) then s.restart.coord.stage = .starting
      ∧ s.restart.out = s.out ++ [.ctrl 0x08 none (BitVec.ofNat 64 (s.committed + 1)) 0]
    else s.restart.coord.stage = .none ∧ s.restart.out = s.out := by
  cases hw : s.stepWanted (s.committed + 1) with
  | true =>
    have hstart : s.restart = s.sendStart (s.committed + 1) := by simp [State.restart, hres, hunrec, hout, htop, hact, hw]
    rw [hstart]
    exact ⟨rfl, rfl⟩
  | false =>
    have hnone : s.restart = { s with coord := { s.coord with stage := .none } } := by
      simp [State.restart, hres, hunrec, hout, htop, hact, hw]
    rw [hnone]
    exact ⟨rfl, rfl⟩

end

/-! ## DONE (R57, R72, R389, R394, R398, R416) -/

/-- A commit is over at this device before its mirror is: the reads held are served, and the commands that waited for it end. -/
def State.voteOver (s : State) : State := (s.fsetb F.STEP_STATUS.COMMIT_BUSY false).serveHeld.commitEnded

theorem serves_voteOver (s : State) : { s.fsetb F.STEP_STATUS.COMMIT_BUSY false with home := { s.home with hostHeld := [], hostReads := [] } }.Serves
    s.voteOver :=
  State.Serves.serveHeld.trans (State.Aside.endCtrl _ _).serves

theorem voteOver_fget {f : Fld} (hf : f ∈ commitFlds) : s.voteOver.fget f = (s.fsetb F.STEP_STATUS.COMMIT_BUSY false).fget f :=
  (serves_voteOver s).flds f hf

theorem voteOver_facts (s : State) : s.voteOver.fbit F.STEP_STATUS.COMMIT_BUSY = false ∧ s.voteOver.home.hostHeld = []
    ∧ s.voteOver.committed = s.committed ∧ s.voteOver.mem = s.mem ∧ s.voteOver.jobMirror = s.jobMirror ∧ s.voteOver.mirror = s.mirror
    ∧ s.voteOver.mirrorOn = s.mirrorOn := by
  have h := serves_voteOver s
  have hmirror : s.voteOver.mirror = s.mirror := by rw [h.rest]; rfl
  refine ⟨?_, by rw [h.rest], ?_, by rw [h.rest]; rfl, by rw [h.rest]; rfl, hmirror, ?_⟩
  · rw [State.fbit, voteOver_fget (by decide)]
    exact fbit_fsetb rfl false
  · rw [State.committed, voteOver_fget (by decide), fsetb_eq, fget_fset_other (by decide), State.committed]
  · rw [State.mirrorOn, State.mirrorOn, hmirror, State.fbit, voteOver_fget (by decide), fsetb_eq, fget_fset_other (by decide), State.fbit]

/-- A commit to be mirrored is over here but for its mirror. -/
def State.mirroring (s : State) : State := ((s.voteOver.fset F.STEP_STATUS.PHASE phStepMirroring).enter .mirroring).settleAll

/-- The mirror stream becomes due, or the device has no buddy and answers at once. -/
def State.mirrorBegins (s : State) (n : W64) : Outcome :=
  if s.mirrorOn then .next { s with mirror := { s.mirror with due := true } } else .next (s.toCoord 0x0D n.toNat 1)

section
variable {n : W64}

theorem mirroring_facts (s : State) : s.mirroring.stepPhase = phStepMirroring ∧ s.mirroring.fbit F.STEP_STATUS.COMMIT_BUSY = false
    ∧ s.mirroring.mirror = s.mirror ∧ s.mirroring.mirrorOn = s.mirrorOn := by
  obtain ⟨hbusy, _, _, _, _, hmirror, hon⟩ := voteOver_facts s
  have h : (s.voteOver.fset F.STEP_STATUS.PHASE phStepMirroring).Aside s.mirroring := (State.Aside.enter _).trans .settleAll
  have hm : s.mirroring.mirror = s.voteOver.mirror := by rw [h.rest]; rfl
  refine ⟨(h.flds _ (by decide)).trans (stepPhase_fset _), ?_, hm.trans hmirror, ?_⟩
  · rw [h.fbit (by decide), State.fbit, fget_fset_other (by decide)]
    exact hbusy
  · rw [State.mirrorOn, hm, h.fbit (by decide), State.fbit, fget_fset_other (by decide)]
    exact hon

theorem mirrorBegins_effect (s : State) (n : W64) :
    ∃ t, s.mirrorBegins n = .next t ∧ (∀ f, t.fget f = s.fget f) ∧ t.mirror.due = (s.mirror.due || s.mirrorOn) := by
  cases hm : s.mirrorOn with
  | true => exact ⟨_, if_pos hm, fun _ => rfl, (Bool.or_true _).symm⟩
  | false => exact ⟨_, if_neg (ne_true_of_eq_false hm), fun _ => rfl, (Bool.or_false _).symm⟩

theorem doneCommitted_gate (hp : s.stepPhase = phStepFlipping) (hn : n.toNat = s.committed) :
    ¬((decide (s.stepPhase ≠ phStepFlipping) || decide (n.toNat ≠ s.committed)) = true) := by simp [hp, hn]

theorem doneCommitted_unmirrored (hp : s.stepPhase = phStepFlipping) (hn : n.toNat = s.committed) (hj : s.voteOver.jobMirror = false) :
    execDoneCommitted n false s =
      .next ((s.voteOver.fset F.STEP_STATUS.PHASE phStepIdle).settleAll.runDone.closeWindows.boundaryOver false) := by
  rw [execDoneCommitted, if_neg (doneCommitted_gate hp hn)]
  exact if_neg (ne_true_of_eq_false hj)

theorem doneCommitted_mirrored (hp : s.stepPhase = phStepFlipping) (hn : n.toNat = s.committed) (hj : s.voteOver.jobMirror = true) :
    execDoneCommitted n false s = s.mirroring.mirrorBegins n := by
  rw [execDoneCommitted, if_neg (doneCommitted_gate hp hn)]
  refine (if_pos hj).trans ?_
  extract_lets t
  change t.mirrorBegins n = s.mirroring.mirrorBegins n
  rfl

theorem doneDurable_eq (hp : s.stepPhase = phStepMirroring) (hn : n.toNat = s.committed) : execDoneDurable n false s =
    .next ((((s.fset F.STEP_DURABLE.STEP n.toNat).fsetb F.STEP_STATUS.MIRROR_PENDING false).fset F.STEP_STATUS.PHASE
      phStepIdle).runDone.closeWindows.boundaryOver false) :=
  if_neg (by simp [hp, hn])

end

theorem endRun_cmdRun (status : Nat) : (s.endRun status).cmdRun = none := by
  unfold State.endRun
  split
  · assumption
  · exact (State.Aside.complete _ _ _ _).run rfl

/-- What ends with the job's hold: its commands. -/
theorem aside_commandsEnd (s : State) (status : Nat) :
    (s.endRun status).Aside (((((s.endRun status).endCtrl (fun c => c.action == 3) 0).endCtrl (fun _ => true) 0x0C).endBurst 3)) :=
  ((State.Aside.endCtrl _ _).trans (.endCtrl _ _)).trans .endBurst

/-- The job as a hold finds it: no step of it starts again. -/
def State.stopped (s : State) (top : Bool) : State :=
  { s with afterRoll := false, startWait := none, heldTopology := s.heldTopology || top, coord := { s.coord with windows := [] } }

/-- The hold, where DONE sets it. -/
def State.heldHere (s : State) : State :=
  if s.fbit F.HQ_STATUS.JOB_UNREC && s.outUnits.isEmpty && !s.heldTopology then s else s.setHeld true

theorem heldHere_facts (s : State) : s.heldHere.stepPhase = s.stepPhase ∧ s.heldHere.heldTopology = s.heldTopology
    ∧ (s.fbit F.HQ_STATUS.JOB_UNREC = false → s.heldHere.fbit F.HQ_STATUS.JOB_HELD = true) := by
  have h : (s.fsetb F.HQ_STATUS.JOB_HELD true).Aside (s.setHeld true) := .setHeld
  unfold State.heldHere
  split
  · rename_i hu
    exact ⟨rfl, rfl, fun hj => by simp [hj] at hu⟩
  · exact ⟨(h.flds _ (by decide)).trans (fget_fset_other (by decide) _), by rw [h.rest]; rfl,
      fun _ => (h.fbit (by decide)).trans (fbit_fsetb rfl true)⟩

theorem doneHeld_eq {top : Bool} (hl : s.fbit F.WV_STATUS.LOADED = true) (hp : s.stepPhase = phStepIdle) (hack : s.ackStep = none) :
    ∃ status, execDoneHeld top s = .next ((((((s.stopped top).heldHere.endRun status).endCtrl (fun c => c.action == 3) 0).endCtrl
      (fun _ => true) 0x0C).endBurst 3)) := by
  have hgate : ¬((!s.fbit F.WV_STATUS.LOADED || s.ackStep.isSome || decide (s.stepPhase ≠ phStepIdle)) = true) := by simp [hl, hp, hack]
  rw [execDoneHeld, if_neg hgate]
  exact ⟨_, rfl⟩

/-! ## The clauses of CommitsEnd -/

section
variable {o : DevOrd} {n : W64} (us : W16)

theorem lastAck_afterFlip (h : LastAck s o) (hs : s.coord.stage = .flipping) (hj : s.jobMirror = false) (hr : s.coord.rollAfter = 0) :
    ∃ s', execAck o n 1 us s = .next s'
      ∧ (if s.stepWanted (n.toNat + 1) then s'.coord.stage = .starting ∧ s'.out = s.out ++ [.doneStart n 1]
         else s'.coord.stage = .none ∧ s'.out = s.out ++ [.ctrl 0x0E none (BitVec.ofNat 64 n.toNat) 1])
      ∧ s'.fget F.STEP_VOTE_TIME.LAST = us.toNat ∧ s'.fget F.STEP_VOTE_TIME.MAX = max (s.fget F.STEP_VOTE_TIME.MAX) us.toNat % 65536 := by
  have hstep := (execAck_last (code := 1) h us (by rw [hs]; rfl)).trans (onAcks_flipping (n := n) us hs hj)
  obtain ⟨hregs, hnext⟩ := doneWith_effect (s := ((s.withAck o).fset F.STEP_VOTE_TIME.LAST us.toNat).fset F.STEP_VOTE_TIME.MAX
    (max (s.fget F.STEP_VOTE_TIME.MAX) us.toNat)) (n := n) hr 1
  refine ⟨_, hstep, hnext, ?_, ?_⟩
  · refine (congrArg (fun r => mapGet _ r _) hregs).trans ?_
    exact (fget_fset_other (by decide) _).trans ((fget_fset_same _).trans (Nat.mod_eq_of_lt us.isLt))
  · exact (congrArg (fun r => mapGet _ r _) hregs).trans (fget_fset_same _)

theorem lastAck_afterMirror (h : LastAck s o) (hs : s.coord.stage = .mirroring) (hr : s.coord.rollAfter = 0) :
    ∃ s', execAck o n 1 us s = .next s'
      ∧ if s.stepWanted (n.toNat + 1) then s'.coord.stage = .starting ∧ s'.out = s.out ++ [.doneStart n 2]
        else s'.coord.stage = .none ∧ s'.out = s.out ++ [.ctrl 0x0E none (BitVec.ofNat 64 n.toNat) 2] :=
  ⟨_, (execAck_last (code := 1) h us (by rw [hs]; rfl)).trans (onAcks_mirroring us hs), (doneWith_effect (s := s.withAck o) hr 2).2⟩

theorem lastAck_afterRoll (h : LastAck s o) (hs : s.coord.stage = .rolling) (hres : s.coord.resets = [])
    (hunrec : s.fbit F.HQ_STATUS.JOB_UNREC = false) (hout : s.outUnits = []) (htop : s.heldTopology = false) (hact : s.coord.acting = false) :
    ∃ s', execAck o n 2 us s = .next s'
      ∧ if s.stepWanted (s.committed + 1) then s'.coord.stage = .starting
          ∧ s'.out = s.out ++ [.ctrl 0x08 none (BitVec.ofNat 64 (s.committed + 1)) 0]
        else s'.coord.stage = .none ∧ s'.out = s.out :=
  ⟨_, (execAck_last (code := 2) h us (by rw [hs]; rfl)).trans (onAcks_rolling us hs), restart_effect (s := s.withAck o) hres hunrec hout htop hact⟩

end

section
variable {n : W64}

theorem doneCommitted_ends (hp : s.stepPhase = phStepFlipping) (hn : n.toNat = s.committed) (hj : s.jobMirror = false) :
    ∃ s', execDoneCommitted n false s = .next s' ∧ s'.stepPhase = phStepIdle ∧ s'.fbit F.STEP_STATUS.COMMIT_BUSY = false
      ∧ s'.home.hostHeld = [] ∧ s'.committed = s.committed ∧ s'.mem = s.mem := by
  obtain ⟨hbusy, hheld, hcom, hmem, hjob, _, _⟩ := voteOver_facts s
  have hend : (s.voteOver.fset F.STEP_STATUS.PHASE phStepIdle).Aside
      ((s.voteOver.fset F.STEP_STATUS.PHASE phStepIdle).settleAll.runDone.closeWindows.boundaryOver false) :=
    (State.Aside.settleAll.trans .runDone).trans .closeBoundary
  refine ⟨_, doneCommitted_unmirrored hp hn (hjob.trans hj), ?_, ?_, ?_, ?_, hend.mem.trans hmem⟩
  · exact (hend.flds _ (by decide)).trans (stepPhase_fset _)
  · rw [hend.fbit (by decide), State.fbit, fget_fset_other (by decide)]
    exact hbusy
  · rw [hend.home]
    exact hheld
  · exact (hend.flds _ (by decide)).trans ((fget_fset_other (by decide) _).trans hcom)

theorem doneCommitted_mirrors (hp : s.stepPhase = phStepFlipping) (hn : n.toNat = s.committed) (hj : s.jobMirror = true) :
    ∃ s', execDoneCommitted n false s = .next s' ∧ s'.stepPhase = phStepMirroring ∧ s'.fbit F.STEP_STATUS.COMMIT_BUSY = false
      ∧ s'.mirror.due = (s.mirror.due || s.mirrorOn) := by
  obtain ⟨_, _, _, _, hjob, _, _⟩ := voteOver_facts s
  obtain ⟨hphase, hbusy, hmirror, hon⟩ := mirroring_facts s
  have hstep := doneCommitted_mirrored hp hn (hjob.trans hj)
  generalize s.mirroring = u at hphase hbusy hmirror hon hstep
  obtain ⟨t, ht, hflds, hdue⟩ := mirrorBegins_effect u n
  refine ⟨t, hstep.trans ht, (hflds _).trans hphase, ?_, by rw [hdue, hmirror, hon]⟩
  rw [State.fbit, hflds]
  exact hbusy

theorem doneDurable_ends (hp : s.stepPhase = phStepMirroring) (hn : n.toNat = s.committed) :
    ∃ s', execDoneDurable n false s = .next s' ∧ s'.stepPhase = phStepIdle ∧ s'.fget F.STEP_DURABLE.STEP = n.toNat
      ∧ s'.fbit F.STEP_STATUS.MIRROR_PENDING = false ∧ s'.mem = s.mem := by
  have hend : (((s.fset F.STEP_DURABLE.STEP n.toNat).fsetb F.STEP_STATUS.MIRROR_PENDING false).fset F.STEP_STATUS.PHASE phStepIdle).Aside
      ((((s.fset F.STEP_DURABLE.STEP n.toNat).fsetb F.STEP_STATUS.MIRROR_PENDING false).fset F.STEP_STATUS.PHASE
        phStepIdle).runDone.closeWindows.boundaryOver false) := State.Aside.runDone.trans .closeBoundary
  refine ⟨_, doneDurable_eq hp hn, ?_, ?_, ?_, hend.mem⟩
  · exact (hend.flds _ (by decide)).trans (stepPhase_fset _)
  · rw [hend.flds _ (by decide), fget_fset_other (by decide), fsetb_eq, fget_fset_other (by decide), fget_fset_word rfl]
  · rw [hend.fbit (by decide), State.fbit, fget_fset_other (by decide)]
    exact fbit_fsetb rfl false

end

theorem doneHeld_holds {top : Bool} (hl : s.fbit F.WV_STATUS.LOADED = true) (hp : s.stepPhase = phStepIdle) (hack : s.ackStep = none) :
    ∃ s', execDoneHeld top s = .next s' ∧ s'.stepPhase = phStepIdle
      ∧ (s.fbit F.HQ_STATUS.JOB_UNREC = false → s'.fbit F.HQ_STATUS.JOB_HELD = true) ∧ s'.heldTopology = (s.heldTopology || top)
      ∧ s'.cmdRun = none := by
  obtain ⟨status, hstep⟩ := doneHeld_eq (top := top) hl hp hack
  obtain ⟨hphase, htop, hheld⟩ := heldHere_facts (s.stopped top)
  have hruns := endRun_cmdRun (s := (s.stopped top).heldHere) status
  have hends := aside_commandsEnd (s.stopped top).heldHere status
  have hend := (State.Aside.endRun status).trans hends
  refine ⟨_, hstep, (hend.flds _ (by decide)).trans (hphase.trans hp), fun hj => (hend.fbit (by decide)).trans (hheld hj), ?_, hends.run hruns⟩
  rw [hend.rest]
  exact htop

theorem commitsEnd : CommitsEnd := fun _ _ _ =>
  ⟨fun _ us hc ho ha => ⟨lastAck_afterFlip us ⟨hc, ho, ha⟩, lastAck_afterMirror us ⟨hc, ho, ha⟩, lastAck_afterRoll us ⟨hc, ho, ha⟩⟩,
    doneCommitted_ends, doneCommitted_mirrors, doneDurable_ends, fun _ => doneHeld_holds⟩

/-- Settles O48: each clause by the command's rule, all else by what it leaves aside. -/
theorem votesDecideAndTheCommitFollows : Obligations.VotesDecideAndTheCommitFollows :=
  ⟨⟨startsBeginTheirStep, endsAreCombined, preparesAreAnswered, votesAreDecided, silenceIsHandled⟩, decisionsTakeEffect, commitsEnd⟩

end Sys2Proof.Machine
end

section
/-! # Fences (R45 to R47, R117, R223) -/

namespace Sys2Proof.Machine

theorem fenceWaits {c : TileId → CoreErr → Instr} {k : Nat} {rel acq : Bool}
    (hc : ∀ t s, exec (c t .none) s = .next (runFence t .none k rel acq s)) : FenceWaits c k rel acq := by
  intro s t w hs hg hopc hk
  rw [hc, runFence, runCore_starts hs (fun _ => hg) (by simp [hopc, hk])]
  rfl

theorem fenceGoes_of_done {x : Tile} {rel acq : Bool} (hw : x.core.wait = .fence rel acq) (hr : rel = true → x.releaseDone = true)
    (ha : acq = true → x.acquireDone = true) : fenceGoes x = .done (x.setWait .none) [] := by
  have hdone : ((!rel || x.releaseDone) && (!acq || x.acquireDone)) = true := by
    cases rel <;> cases acq <;> simp_all
  simp only [fenceGoes, hw, hdone, if_true]

theorem fenceComplete_eq {s : State} {t : TileId} {rel acq : Bool} (hg : (s.tile t).goes = true)
    (hw : (s.tile t).core.wait = .fence rel acq) :
    execFenceComplete t s = .next (s.putTile t ((s.tile t).act (fenceGoes (s.tile t)))) := by
  simp only [execFenceComplete, hg, hw, Bool.not_true, Bool.false_eq_true, if_false]

theorem releaseDone_of {x : Tile} (h : (∀ o ∈ x.exec ++ x.fifo, o.writes = false) ∧ x.unacked = []) : x.releaseDone = true := by
  obtain ⟨hops, hack⟩ := h
  simp only [Tile.releaseDone, hack, List.isEmpty_nil, Bool.and_true, List.all_eq_true, Bool.not_eq_true']
  exact hops

theorem acquireDone_of {x : Tile} (h : ∀ o ∈ x.exec ++ x.fifo, o.reads = false) : x.acquireDone = true := by
  simp only [Tile.acquireDone, List.all_eq_true, Bool.not_eq_true']
  exact h

/-- Settles O18: each FENCE waits with its KIND, and goes on once what it orders is done. -/
theorem fencesWaitForTheirAccesses : Obligations.FencesWaitForTheirAccesses := by
  refine ⟨fenceWaits fun _ _ => rfl, fenceWaits fun _ _ => rfl, fenceWaits fun _ _ => rfl, fun s t rel acq hg hw hr ha => ?_⟩
  refine (fenceComplete_eq hg hw).trans ?_
  rw [fenceGoes_of_done hw (fun h => releaseDone_of (hr h)) (fun h => acquireDone_of (ha h))]
  rfl

end Sys2Proof.Machine
end

section
/-! # Step registers (R58, R69, R70, R392) -/

namespace Sys2Proof.Machine

section
variable {s : State} {v : W32}

theorem stepIntervalWrite_taken (h : v.toNat % 65536 ≠ 0) :
    exec (.stepIntervalWrite v) s = .next (s.fset F.STEP_INTERVAL.K (v.toNat % 65536)) :=
  congrArg Host.Outcome.next (if_neg h)

theorem stepIntervalWrite_refused (h : v.toNat % 65536 = 0) : exec (.stepIntervalWrite v) s = .next (s.refuseWrite 0xB0018 v.toNat) :=
  congrArg Host.Outcome.next (if_pos h)

/-! ## STEP_BUDDY (R69, R70) -/

theorem buddyEnable_accepted (hv : bit v.toNat 31 = true) (he : s.fbit F.STEP_BUDDY.EN = false) {answer : Option BuddyAnswer}
    (hc : (s.setBuddy v.toNat).enableCause answer = 0) : ∃ m : Mirror, m.first = true ∧ exec (.buddyEnable v answer) s =
      .next { (s.setBuddy v.toNat).fset F.STEP_BUDDY.EN 1 with mirror := m } := by
  change ∃ m : Mirror, m.first = true ∧ execBuddyEnable v answer s = _
  simp only [execBuddyEnable, hv, he, hc, Bool.not_true, Bool.false_eq_true, if_false]
  exact ⟨_, rfl, rfl⟩

theorem buddyEnable_lost (hv : bit v.toNat 31 = true) (he : s.fbit F.STEP_BUDDY.EN = false) {answer : Option BuddyAnswer} {c : Nat}
    (hc : (s.setBuddy v.toNat).enableCause answer = c + 1) :
    exec (.buddyEnable v answer) s = .next ((s.setBuddy v.toNat).mirrorLost (c + 1)) := by
  change execBuddyEnable v answer s = _
  simp only [execBuddyEnable, hv, he, hc, Bool.not_true, Bool.false_eq_true, if_false]

theorem enableCause_accepts {a : BuddyAnswer} (ho : s.buddyOrd ≠ s.ord.toNat) (hd : a.domain.toNat ≠ s.fget F.STEP_DOMAIN.DOMAIN)
    (hs : a.sources.toNat < 4) (hf : a.storeFull = false) : s.enableCause (some a) = 0 := by
  simp [State.enableCause, ho, hd, Nat.not_le.2 hs, hf]

theorem enableCause_silent (ho : s.buddyOrd ≠ s.ord.toNat) : s.enableCause none = 2 := by
  simp [State.enableCause, ho]

theorem buddyDisable_eq (hv : bit v.toNat 31 = false) (he : s.fbit F.STEP_BUDDY.EN = true) (hd : s.buddyDiffers v.toNat = false) :
    exec (.buddyDisable v) s = .next { s.fset F.STEP_BUDDY.EN 0 with
      mirror := { s.mirror with former := some (s.buddyOrd, false), formerFirst := s.mirror.first } } := by
  change execBuddyDisable v s = _
  simp only [execBuddyDisable, hv, he, hd, Bool.not_true, Bool.or_self, Bool.false_eq_true, if_false]
  rfl

/-! ## STEP_COORD (R392) -/

theorem bit_eq_bits (n k : Nat) : bit n k = (bits n k k == 1) := by
  simp [bit, bits]

theorem bits_same_eq (n k : Nat) : bits n k k = if bit n k then 1 else 0 := by
  have h : n / 2 ^ k % 2 < 2 := Nat.mod_lt _ two_pos
  simp only [bit, bits, Nat.add_sub_cancel_left, pow_one, beq_iff_eq]
  split <;> omega

/-- What a write of STEP_COORD that is not refused leaves, before a hold ends. -/
def State.setCoords (s : State) (sb st pr : Nat) : State :=
  { ((s.fset F.STEP_COORD.SB_EN sb).fset F.STEP_COORD.STANDBY st).fset F.STEP_COORD.PRIMARY pr with
    needPrimary := false, decided := none, coord := Coord.idle }

theorem stepCoordWrite_refused (h : s.stepPhase ≠ phStepIdle ∨ (bits v.toNat 31 31 = 1 ∧ bits v.toNat 29 16 = bits v.toNat 13 0)) :
    exec (.stepCoordWrite v) s = .next (s.refuseWrite 0xB0040 v.toNat) := by
  refine if_pos ?_
  rcases h with h | ⟨hsb, heq⟩
  · simp [h]
  · simp [bit_eq_bits, hsb, heq]

theorem stepCoordWrite_taken (hp : s.stepPhase = phStepIdle) (hne : ¬(bits v.toNat 31 31 = 1 ∧ bits v.toNat 29 16 = bits v.toNat 13 0))
    (hpr : bits v.toNat 13 0 < s.devices) (hst : bits v.toNat 29 16 < s.devices) : exec (.stepCoordWrite v) s =
    .next (s.setCoords (bits v.toNat 31 31) (bits v.toNat 29 16) (bits v.toNat 13 0)).releaseHold := by
  have hgate : ¬(decide (s.stepPhase ≠ phStepIdle) || (bit v.toNat 31 && bits v.toNat 29 16 == bits v.toNat 13 0)
      || (s.fbit F.WV_STATUS.LOADED && (decide (bits v.toNat 13 0 ≥ s.devices) || (bit v.toNat 31 && decide (bits v.toNat 29 16 ≥ s.devices))))) = true := by
    simp only [bit_eq_bits]
    simp [hp, Nat.not_le.2 hpr, Nat.not_le.2 hst]
    tauto
  refine (if_neg hgate).trans ?_
  rw [State.setCoords, bits_same_eq v.toNat 31]
  rfl

theorem releaseHold_of_not_held (h : s.fbit F.HQ_STATUS.JOB_HELD = false) : s.releaseHold = s := by
  simp [State.releaseHold, h]

theorem setCoords_jobHeld (sb st pr : Nat) : (s.setCoords sb st pr).fbit F.HQ_STATUS.JOB_HELD = s.fbit F.HQ_STATUS.JOB_HELD := by
  have h : (s.setCoords sb st pr).fget F.HQ_STATUS.JOB_HELD = s.fget F.HQ_STATUS.JOB_HELD :=
    (fget_fset_other (by decide) pr).trans ((fget_fset_other (by decide) st).trans (fget_fset_other (by decide) sb))
  rw [State.fbit, h, State.fbit]

end

/-- Settles O38: each register by its command's equation. -/
theorem stepRegistersTakeTheirValue : Obligations.StepRegistersTakeTheirValue := by
  intro s v
  refine ⟨stepIntervalWrite_taken, stepIntervalWrite_refused, fun hv he => ⟨fun a ho hd hs hf => ?_, fun ho => ?_⟩, buddyDisable_eq,
    stepCoordWrite_refused, fun hp hne hpr hst hh => ?_⟩
  · obtain ⟨m, hm, hstep⟩ := buddyEnable_accepted hv he (enableCause_accepts ho hd hs hf)
    exact ⟨_, hstep, rfl, hm, rfl, rfl⟩
  · exact buddyEnable_lost hv he (enableCause_silent ho)
  · refine ⟨_, stepCoordWrite_taken hp hne hpr hst, ?_⟩
    rw [releaseHold_of_not_held ((setCoords_jobHeld ..).trans hh)]
    exact ⟨rfl, rfl⟩

end Sys2Proof.Machine
end

section
/-! # A buddy's mirror (R69 to R71, R395 to R398) -/

namespace Sys2Proof.Machine

variable {s : State}

/-! ## The source: streams and their answers (R70, R71, R395, R397, R398) -/

theorem mirrorOn_of_enabled (h : s.fbit F.STEP_BUDDY.EN = true) : s.mirrorOn = true := by simp [State.mirrorOn, h]

theorem mirrorStream_eq (hd : s.mirror.due = true) (hs : s.mirror.streaming = false) (he : s.fbit F.STEP_BUDDY.EN = true)
    (hf : s.mirror.former = none) :
    let news := s.mirror.hostWrote.foldl (fun l n => addTo n l) s.mirror.todo
    let subs := if s.mirror.first then s.allCommitted else news
    exec .mirrorStream s = .next { s with
      out := s.out ++ subs.flatMap (s.mirrorPackets s.buddyOrd) ++ [.mirrorCtl s.buddyOrd 1 subs.length]
      mirror := { s.mirror with todo := [], hostWrote := [], sent := news, streaming := true, due := false } } := by
  have hgate : ¬(!s.mirror.due || s.mirror.streaming || !s.mirrorOn) = true := by simp [hd, hs, mirrorOn_of_enabled he]
  have hfirst : s.streamFirst = s.mirror.first := by simp [State.streamFirst, hf]
  have hdst : s.mirrorDst = s.buddyOrd := by simp only [State.mirrorDst, hf]
  intro news subs
  refine (if_neg hgate).trans ?_
  rw [hfirst, hdst, List.append_assoc]
  rfl

theorem streamEnded_acks (h : s.mirror.former = none) : s.streamEnded = s.toCoord 0x0D (s.fget F.STEP_COMMITTED.STEP) 1 := by
  simp only [State.streamEnded, h]

theorem streamEnded_restarts {o : Nat} (h : s.mirror.former = some (o, true)) (he : s.fbit F.STEP_BUDDY.EN = true) : s.streamEnded =
    { s with mirror := { s.mirror with former := none, formerFirst := false, due := true } }.emit (.mirrorCtl o 4 0) := by
  simp only [State.streamEnded, h]
  exact if_pos he

theorem toCoord_of_primary (h : s.needPrimary = false) (typ : Byte) (n : Nat) (code : Byte) :
    s.toCoord typ n code = s.emit (.ctrl typ (some s.aggOrd) (BitVec.ofNat 64 n) code) := by
  simp [State.toCoord, h]

theorem mirrorAccepted_eq (hs : s.mirror.streaming = true) : exec .mirrorAccepted s = .next { s with mirror := s.mirror.ended false }.streamEnded :=
  if_neg (by simp [hs])

theorem ended_current (m : Mirror) (h : m.former = none) (refused : Bool) :
    m.ended refused = { m with streaming := false, sent := [], first := refused } := by
  simp [Mirror.ended, h]

theorem ended_former (m : Mirror) {p : Nat × Bool} (h : m.former = some p) (refused : Bool) :
    m.ended refused = { m with streaming := false, sent := [], formerFirst := refused } := by
  simp [Mirror.ended, h]

theorem mirrorAccepted_acks (hs : s.mirror.streaming = true) (hf : s.mirror.former = none) (hp : s.needPrimary = false) :
    exec .mirrorAccepted s = .next ({ s with mirror := { s.mirror with streaming := false, sent := [], first := false } }.emit
      (.ctrl 0x0D (some s.aggOrd) (BitVec.ofNat 64 (s.fget F.STEP_COMMITTED.STEP)) 1)) := by
  rw [mirrorAccepted_eq hs, ended_current s.mirror hf]
  refine congrArg Host.Outcome.next ((streamEnded_acks ?_).trans (toCoord_of_primary ?_ ..))
  · exact hf
  · exact hp

theorem mirrorAccepted_restarts {o : Nat} (hs : s.mirror.streaming = true) (hf : s.mirror.former = some (o, true))
    (he : s.fbit F.STEP_BUDDY.EN = true) : exec .mirrorAccepted s = .next ({ s with mirror := { s.mirror with
      streaming := false
      sent := []
      former := none
      formerFirst := false
      due := true } }.emit (.mirrorCtl o 4 0)) := by
  rw [mirrorAccepted_eq hs, ended_former s.mirror hf]
  exact congrArg Host.Outcome.next (streamEnded_restarts (s := { s with mirror := { s.mirror with
    streaming := false, sent := [], formerFirst := false } }) hf he)

theorem mirrorRefused_eq (hs : s.mirror.streaming = true) (hf : s.mirror.former = none) :
    exec .mirrorRefused s = .next ({ s with mirror := s.mirror.ended true }.mirrorLost 6).streamEnded := by
  change execMirrorRefused s = _
  simp only [execMirrorRefused, hs, hf, Bool.not_true, Bool.false_eq_true, if_false]

theorem mirrorLost_effect (s : State) (cause : Nat) : (s.mirrorLost cause).fbit F.STEP_BUDDY.EN = false
    ∧ (s.mirrorLost cause).fbit F.STEP_STATUS.MIRROR_ERR = true ∧ (s.mirrorLost cause).mirror = s.mirror ∧ (s.mirrorLost cause).mem = s.mem := by
  simp only [State.mirrorLost, event_eq, State.fbit]
  refine ⟨?_, ?_, State.record_mirror _ _, State.record_mem _ _⟩
  · rw [fget_record (by decide), fsetb_eq true, fget_fset_other (by decide)]
    simp [State.fsetb]
  · rw [fget_record (by decide)]
    exact fbit_fsetb rfl true

theorem mirrorRefused_ends (hs : s.mirror.streaming = true) (hf : s.mirror.former = none) : ∃ s', exec .mirrorRefused s = .next s'
    ∧ s'.fbit F.STEP_BUDDY.EN = false ∧ s'.fbit F.STEP_STATUS.MIRROR_ERR = true ∧ s'.mirror.streaming = false ∧ s'.mem = s.mem := by
  obtain ⟨hen, herr, hmirror, hmem⟩ := mirrorLost_effect { s with mirror := s.mirror.ended true } 6
  refine ⟨_, mirrorRefused_eq hs hf, ?_⟩
  have hended := ended_current s.mirror hf true
  rw [streamEnded_acks (by rw [hmirror]; exact hended ▸ hf)]
  refine ⟨hen, herr, ?_, hmem⟩
  change (State.mirrorLost _ 6).mirror.streaming = false
  rw [hmirror, hended]

/-! ## The buddy: chunks, counts and releases (R396, R397, R454) -/

section
variable {o : DevOrd} {x : Source} (h : mapFind s.sources o.toNat = some x)
include h

theorem sourceFor_known : s.sourceFor o.toNat = (x, s) := by simp only [State.sourceFor, h]

theorem mirrorData_writes (k : W16) (lpn : Lpn) (sub ch : BitVec 5) (data : List Byte) {e : MirrorEntry} (hr : x.refused = false)
    (he : mapFind x.pages lpn.toNat = some e) :
    let f := if e.sel.getLsbD sub.toNat then e.frameA else e.frameB
    exec (.mirrorData o k lpn sub ch data) s = .next ((s.memWrite
      (f * Config.pageBytes + sub.toNat * Config.subBytes + ch.toNat * 2048) (data.take 2048)).setSource o.toNat { x with
        pages := mapIns lpn.toNat { e with pend := e.pend ||| BitVec.ofNat 32 (2 ^ sub.toNat) } x.pages
        got := addTo (lpn.toNat * 1024 + sub.toNat * 32 + ch.toNat) x.got }) := by
  change execMirrorData o k lpn sub ch data s = _
  simp only [execMirrorData, sourceFor_known h, hr, he, Bool.false_eq_true, if_false]
  rfl

theorem mirrorEndOfStream_matches {n : W32} (bs : List Byte) (hr : x.refused = false) (hn : x.got.length = n.toNat * 32) :
    exec (.mirrorEndOfStream o n (some bs)) s = .next ((s.setSource o.toNat { x with
      pages := x.pages.map (fun p => (p.1, { p.2 with sel := p.2.sel ^^^ p.2.pend, pend := 0 }))
      got := []
      portion := bs
      accepted := true }).emit (.mirrorCtl o.toNat 2 0)) := by
  change execMirrorEndOfStream o n (some bs) s = _
  simp only [execMirrorEndOfStream, sourceFor_known h, hr, hn, Bool.false_eq_true, if_false, if_true, Option.getD_some]

theorem mirrorEndOfStream_discards {n : W32} (p : Option (List Byte)) (hr : x.refused = false) (hn : x.got.length ≠ n.toNat * 32) :
    exec (.mirrorEndOfStream o n p) s = .next (s.setSource o.toNat { x with
      pages := x.pages.map (fun p => (p.1, { p.2 with pend := 0 }))
      got := []
      refused := false }) := by
  change execMirrorEndOfStream o n p s = _
  simp only [execMirrorEndOfStream, sourceFor_known h, hr, hn, Bool.false_eq_true, if_false]

theorem mirrorRelease_frees : ∃ s', exec (.mirrorRelease o) s = .next s' ∧ s'.sources = mapDel o.toNat s.sources ∧ s'.mem = s.mem
    ∧ ∀ f, f ∈ s'.mirrorFrames ↔ f ∈ s.mirrorFrames ∧ f ∉ x.frames := by
  refine ⟨_, rfl, ?_⟩
  simp only [State.dropSource, h]
  exact ⟨rfl, rfl, fun f => by simp [List.mem_filter]⟩

end

/-- Settles O49: the source's clauses by how a stream begins and ends, the buddy's by the record that it holds. -/
theorem mirrorsFollowTheirSource : Obligations.MirrorsFollowTheirSource := fun _ =>
  ⟨mirrorStream_eq, fun hs hf hp => ⟨mirrorAccepted_acks hs hf hp, fun _ => mirrorRefused_ends hs hf⟩,
    fun _ => mirrorAccepted_restarts, fun _ _ h =>
      ⟨fun k lpn sub ch data _ => mirrorData_writes h k lpn sub ch data, fun _ bs => mirrorEndOfStream_matches h bs,
        fun _ p => mirrorEndOfStream_discards h p, mirrorRelease_frees h⟩⟩

end Sys2Proof.Machine
end

section
/-! # What completions, records and losses leave alone (R82 to R91, R104, R411, R416, R520) -/

namespace Sys2Proof.Machine

/-! ## Steady fields -/

/-- Offsets of registers that no completion, record, interrupt, end of a burst or loss of data changes: none of HQ_STATUS, HQ_IRQ_CAUSE,
PWR_STATUS, PWR_PRONK, EVT_SUPPRESS and HOME_STATUS, no HQ_Q_STATUS and no NM_ERR. -/
def steadyOff (o : Nat) : Bool :=
  !(o ∈ [0x11000, 0x11024, 0x4000C, 0x40010, 0x8002C, 0xA0004]) && o % 0x40 != 0x14 && !(decide (0xE0000 ≤ o) && decide (o < 0xE0020))

/-- A field of a steady register. -/
abbrev Fld.Steady (f : Fld) : Prop := f.lsb < 64 ∧ steadyOff f.off = true

/-- A field of another register. -/
abbrev Fld.Unsteady (g : Fld) : Prop := g.lsb < 64 ∧ steadyOff g.off = false

theorem Fld.Steady.key_ne {f g : Fld} (hf : f.Steady) (hg : g.Unsteady) : f.key ≠ g.key := by
  intro he
  have hoff : f.off = g.off := by
    have := hf.1
    have := hg.1
    simp only [Fld.key] at he
    omega
  exact absurd (hoff ▸ hf.2) (by simp [hg.2])

theorem unsteady_queueStatus {g : Fld} (h : g ∈ [F.HQ_Q_STATUS.ERR, F.HQ_Q_STATUS.ERRCODE, F.HQ_Q_STATUS.IDLE]) (q : Nat) :
    (g.ix q).Unsteady := by
  have hg : g.lsb < 64 ∧ g.off = 0x10014 ∧ g.stride = 0x40 := by revert g; decide
  obtain ⟨hlsb, hoff, hstride⟩ := hg
  have hmod : (g.ix q).off % 0x40 = 0x14 := by simp only [Fld.ix, hoff, hstride]; omega
  exact ⟨hlsb, by simp [steadyOff, hmod]⟩

theorem unsteady_nmErr : ∀ k < 8, (F.NM_ERR.UE.ix k).Unsteady := by decide

/-- `t` differs from `s` at most in outputs, the host's queues, Pronk, the recorder, the numbers of notices, the mark of a dirty end, and in
register fields that are not steady. -/
structure State.Posts (s t : State) : Prop where
  rest : t = { s with
    out := t.out, regs := t.regs, queues := t.queues, msixPend := t.msixPend, pronk := t.pronk, recorder := t.recorder
    nseq := t.nseq, endDirty := t.endDirty }
  flds : ∀ f : Fld, f.Steady → t.fget f = s.fget f

namespace State.Posts

variable {s t u : State}

theorem refl (s : State) : s.Posts s := ⟨rfl, fun _ _ => rfl⟩

theorem trans (h : s.Posts t) (g : t.Posts u) : s.Posts u :=
  ⟨g.rest.trans (by rw [h.rest]), fun f hf => (g.flds f hf).trans (h.flds f hf)⟩

theorem foldl {α : Type} {f : State → α → State} (h : ∀ (s : State) (a : α), s.Posts (f s a)) (l : List α) (s : State) : s.Posts (l.foldl f s) :=
  List.foldlRecOn l f (refl s) fun t ht a _ => ht.trans (h t a)

theorem fset {g : Fld} (h : g.Unsteady) (v : Nat) : s.Posts (s.fset g v) := ⟨rfl, fun _ hf => fget_fset_other (hf.key_ne h) v⟩

theorem fsetb {g : Fld} (h : g.Unsteady) (b : Bool) : s.Posts (s.fsetb g b) := fset h _

theorem fadd {g : Fld} (h : g.Unsteady) (n : Nat) : s.Posts (s.fadd g n) := fset h _

theorem emit (o : Output) : s.Posts (s.emit o) := ⟨rfl, fun _ _ => rfl⟩

theorem setQueue (q : Nat) (x : Queue) : s.Posts (s.setQueue q x) := ⟨rfl, fun _ _ => rfl⟩

theorem setPronk (p : Pronk) : s.Posts { s with pronk := p } := ⟨rfl, fun _ _ => rfl⟩

theorem setDirty (b : Bool) : s.Posts { s with endDirty := b } := ⟨rfl, fun _ _ => rfl⟩

theorem setRecorder (r : Recorder) : s.Posts { s with recorder := r } := ⟨rfl, fun _ _ => rfl⟩

/-! ### Records, notices and interrupts (R421, R437, R520) -/

theorem record (b : Report) : s.Posts (s.record b) := by
  simp only [State.record]
  split
  · exact (setRecorder _).trans (fadd (by decide) 1)
  · exact setRecorder _

theorem event (code : Nat) (unit : Byte) (loc : W32) (sub data : Nat) : s.Posts (s.event code unit loc sub data) := record _

theorem notify (typ : Byte) (code : W16) (level : Nat) (unit : Byte) (loc : W32) (subject : Nat) :
    s.Posts (s.notify typ code level unit loc subject) :=
  trans (t := { s with nseq := s.nseq + 1 }) ⟨rfl, fun _ _ => rfl⟩ (emit _)

theorem signal (v : Nat) : s.Posts (s.signal v) := by
  unfold State.signal
  split
  · exact refl s
  · split
    · exact ⟨rfl, fun _ _ => rfl⟩
    · exact emit _

theorem faultCause : s.Posts s.faultCause := by
  have h : s.Posts (s.fsetb F.HQ_IRQ_CAUSE.FAULT true) := fsetb (by decide) _
  simp only [State.faultCause]
  split
  · exact refl s
  · split
    · exact h.trans (signal _)
    · exact h

theorem setUnrec (b : Bool) : s.Posts (s.setUnrec b) := by
  unfold State.setUnrec
  split
  · exact refl s
  · exact (fsetb (by decide) _).trans faultCause

theorem setHeld (b : Bool) : s.Posts (s.setHeld b) := by
  unfold State.setHeld
  split
  · exact refl s
  · exact (fsetb (by decide) _).trans faultCause

/-! ### Completions and the end of a burst (R410, R411, R420, R513) -/

theorem stopQueue (q code : Nat) : s.Posts (s.stopQueue q code) :=
  ((fsetb (unsteady_queueStatus (by simp) q) _).trans (fset (unsteady_queueStatus (by simp) q) _)).trans faultCause

theorem cqPut (q : Nat) (e : List Byte) : s.Posts (s.cqPut q e) := ((setQueue q _).trans (emit _)).trans (signal _)

theorem cqDrain (q fuel : Nat) (s : State) : s.Posts (s.cqDrain q fuel) := by
  induction fuel generalizing s with
  | zero => exact refl s
  | succ fuel ih =>
    simp only [State.cqDrain]
    split
    · exact refl s
    · rename_i e es _
      split
      · exact refl s
      · refine ((setQueue q { s.queue q with held := es }).trans ?_).trans (ih _)
        split
        · exact stopQueue q 3
        · exact cqPut q e

theorem post (q : Nat) (f : Fetched) (result status detail : Nat) : s.Posts (s.post q f result status detail) := by
  unfold State.post
  split
  · exact refl s
  · exact (setQueue q _).trans (cqDrain ..)

theorem settle (q fuel : Nat) (s : State) : s.Posts (s.settle q fuel) := by
  induction fuel generalizing s with
  | zero => exact refl s
  | succ fuel ih =>
    simp only [State.settle]
    split
    · split
      · exact ((setQueue q _).trans (post ..)).trans (ih _)
      · exact refl s
    · exact refl s

theorem complete (q : Option (BitVec 4)) (result status detail : Nat) : s.Posts (s.complete q result status detail) := by
  cases q with
  | none => exact refl s
  | some b =>
    simp only [State.complete]
    split
    · exact refl s
    · exact (((setQueue b.toNat _).trans (post ..)).trans (settle ..)).trans (fsetb (unsteady_queueStatus (by simp) _) _)

theorem setClocks (v : Nat) : s.Posts (s.setClocks v) := (fset (by decide) _).trans (fset (by decide) _)

/-- STEP clears: no thermal trip is counted. -/
theorem endBurst : s.Posts (s.endBurst 3) := by
  unfold State.endBurst
  split
  · exact refl s
  · exact (((fsetb (by decide) _).trans (fset (by decide) _)).trans (fset (by decide) _)).trans ((setPronk _).trans (setClocks _))

/-! ### Losses of data (R68, R104) -/

theorem unrecoverable : s.Posts s.unrecoverable := by
  unfold State.unrecoverable
  split
  · exact refl s
  · exact (setUnrec true).trans (notify ..)

theorem unitLost (at_ lpn sub a : Nat) : s.Posts (s.unitLost at_ lpn sub a) := by
  have hcount : s.Posts (if at_ / Config.pageBytes ≥ 2 ^ 23 then s else s.fadd (F.NM_ERR.UE.ix (at_ / Config.pageBytes % 8)) 1) := by
    split
    · exact refl s
    · exact fadd (unsteady_nmErr _ (Nat.mod_lt _ (by decide))) 1
  have hdirty (t : State) : t.Posts (if t.stepRunning then { t with endDirty := true } else t) := by
    split
    · exact setDirty _
    · exact refl t
  exact (hcount.trans (hdirty _)).trans (emit _)

end State.Posts

/-! ## Entries touched and marked (R84 to R91, R104) -/

/-- `t` differs from `s` at most as `State.Posts` lets it, and at the home in its entries, its cache and the pages that are gone. -/
structure State.Marks (s t : State) : Prop where
  rest : t = { s with
    out := t.out, regs := t.regs, queues := t.queues, msixPend := t.msixPend, pronk := t.pronk, recorder := t.recorder
    nseq := t.nseq, endDirty := t.endDirty
    home := { s.home with table := t.home.table, cache := t.home.cache, gone := t.home.gone } }
  flds : ∀ f : Fld, f.Steady → t.fget f = s.fget f

theorem State.Posts.marks {s t : State} (h : s.Posts t) : s.Marks t := ⟨by rw [h.rest], h.flds⟩

namespace State.Marks

variable {s t u : State}

theorem refl (s : State) : s.Marks s := (Posts.refl s).marks

theorem trans (h : s.Marks t) (g : t.Marks u) : s.Marks u :=
  ⟨g.rest.trans (by rw [h.rest]), fun f hf => (g.flds f hf).trans (h.flds f hf)⟩

theorem foldl {α : Type} {f : State → α → State} (h : ∀ (s : State) (a : α), s.Marks (f s a)) (l : List α) (s : State) :
    s.Marks (l.foldl f s) :=
  List.foldlRecOn l f (refl s) fun t ht a _ => ht.trans (h t a)

theorem setEntry (lpn : Nat) (e : Entry) : s.Marks (s.setEntry lpn e) := ⟨rfl, fun _ _ => rfl⟩

theorem losePage (lpn : Nat) : s.Marks { s.setPoison lpn with home := { (s.setPoison lpn).home with gone := addTo lpn s.home.gone } } :=
  (setEntry lpn _).trans ⟨rfl, fun _ _ => rfl⟩

/-- Without a copy of the buddy no sub-block is rewritten. -/
theorem lostPage (lpn sub at_ a : Nat) (host : Bool) : s.Marks (s.lostPage lpn sub at_ a host none).2 := by
  simp only [State.lostPage, ite_self]
  split
  · exact (Posts.unitLost ..).marks
  · split
    · split
      · exact ((Posts.notify ..).trans (Posts.unitLost ..)).marks
      · exact (setEntry lpn _).trans (Posts.unrecoverable.trans (Posts.unitLost ..)).marks
    · split
      · cases host
        · exact (Posts.unitLost ..).marks
        · exact refl s
      · exact (setEntry lpn _).trans ((Posts.fset (by decide) _).trans (Posts.unitLost ..)).marks

theorem lostPage_false (lpn sub at_ a : Nat) (host : Bool) : (s.lostPage lpn sub at_ a host none).1 = false := by
  simp only [State.lostPage, ite_self]
  split
  · rfl
  · split
    · split <;> rfl
    · split <;> rfl

/-- The unit of a lost entry is no longer marked as lost. -/
theorem entryLost (v : Nat) : { s with memBad := s.memBad.filter (fun w => w != v) }.Marks (s.entryLost v) := by
  simp only [State.entryLost]
  split
  · exact foldl (fun _ _ => (Posts.event ..).marks) _ _
  · exact (foldl (fun _ l => losePage l) _ _).trans (Posts.unrecoverable.trans (Posts.unitLost ..)).marks

/-- A touch takes at most the unit of its own entry from those lost. -/
theorem touch (s : State) (lpn : Nat) : ∃ l, (∀ v ∈ s.memBad, v ≠ entryUnit lpn → v ∈ l) ∧ { s with memBad := l }.Marks (s.touch lpn).2 := by
  have hread : ∃ l, (∀ v ∈ s.memBad, v ≠ entryUnit lpn → v ∈ l) ∧ { s with memBad := l }.Marks (s.readEntry lpn) := by
    unfold State.readEntry
    split
    · exact ⟨_, fun v hv hne => List.mem_filter.2 ⟨hv, by simpa using hne⟩, entryLost _⟩
    · exact ⟨_, fun v hv _ => hv, refl s⟩
  obtain ⟨l, hl, hread⟩ := hread
  refine ⟨l, hl, hread.trans (trans ?_ ⟨rfl, fun _ _ => rfl⟩)⟩
  split
  · exact setEntry ..
  · exact refl _

theorem mem (h : s.Marks t) : t.mem = s.mem := by rw [h.rest]
theorem memBad (h : s.Marks t) : t.memBad = s.memBad := by rw [h.rest]
theorem accs (h : s.Marks t) : t.home.accs = s.home.accs := by rw [h.rest]

theorem halfClosed (h : s.Marks t) (east : Bool) : t.halfClosed east = s.halfClosed east := by
  have hrun : t.resetRun = s.resetRun := by rw [h.rest]
  have hstate (d : Nat) (hd : d ∈ [128, 129, 158]) : t.fget (F.PWR_STATE.STATE.ix d) = s.fget (F.PWR_STATE.STATE.ix d) :=
    h.flds _ (by revert d; decide)
  cases east <;> simp [State.halfClosed, State.meshStopped, hrun, hstate]

end State.Marks

end Sys2Proof.Machine
end

section
/-! # Job memory at its home (R36, R51 to R65, R82, R103, R104, R260) -/

namespace Sys2Proof.Machine

/-! ## Accesses that lie in one sub-block here -/

theorem reaches_of_open {s : State} (h : ∀ b, s.halfClosed b = false) (lpn at_ : Nat) : s.reaches lpn at_ = true := by
  unfold State.reaches
  split
  · simp [h]
  · rfl

/-- An access at `a` lies in sub-block `sub` of page `lpn` here, and the touch of its entry uses `e` and leaves `t`. -/
structure Touched (s : State) (a lpn sub : Nat) (e : Entry) (t : State) : Prop where
  placed : ∃ r : Range, s.place a = some (r, s.ord.toNat, lpn, sub)
  half : s.halfClosed (decide (32 ≤ lpn % 64)) = false
  touch : s.touch lpn = (e, t)
  halves : ∀ b, t.halfClosed b = false
  mem : t.mem = s.mem

theorem touched {s : State} {a lpn sub : Nat} (hp : ∃ r : Range, s.place a = some (r, s.ord.toNat, lpn, sub))
    (hh : ∀ b, s.halfClosed b = false) : Touched s a lpn sub (s.touch lpn).1 (s.touch lpn).2 := by
  obtain ⟨l, -, hm⟩ := State.Marks.touch s lpn
  exact ⟨hp, hh _, rfl, fun b => (hm.halfClosed b).trans (hh b), hm.mem⟩

section
variable {s : State} {a n lpn sub : Nat} {e : Entry}

theorem touched_of_atHome (h : AtHome s a n lpn sub e) : Touched s a lpn sub e (s.touch lpn).2 :=
  h.entry ▸ touched h.placed h.halves

theorem free_of_atHome (h : AtHome s a n lpn sub e) : (s.touch lpn).2.home.cowOf lpn sub = none := by
  obtain ⟨l, -, hm⟩ := State.Marks.touch s lpn
  rw [hm.rest]
  exact h.free

end

/-! ## Writes (R36, R54, R60, R65) -/

section
variable {s t : State} {req : Requester} {a lpn sub : Nat} {data : List Byte} {e : Entry}

theorem jobMemoryWrite_one {a : W64} (ho : s.homeClosed = false) (h1 : partsOf a.toNat data.length = [(a.toNat, data.length)]) :
    exec (.jobMemoryWriteAtHome req a data) s = .next (s.writePart req a.toNat data) := by
  refine (if_neg (by simp [ho])).trans ?_
  rw [h1]
  simp

theorem jobMemoryWrite_closed {a : W64} (h : s.homeClosed = true) :
    exec (.jobMemoryWriteAtHome req a data) s = .next (s.emit (.homeErr req a.toNat)) := if_pos h

theorem writePart_closedHalf {r : Range} (hp : s.place a = some (r, s.ord.toNat, lpn, sub)) (hh : s.halfClosed (decide (32 ≤ lpn % 64)) = true) :
    s.writePart req a data = s.emit (.homeErr req a) := by
  simp only [State.writePart, hp, hh, ne_eq, not_true_eq_false, if_false, if_true]

/-- What a write does at the entry touched. -/
theorem writePart_touched (h : Touched s a lpn sub e t) : s.writePart req a data =
    if e.kind = 0 then t.emit (.homeErr req a)
    else if isHostReq req then
      if e.unversioned then (t.setEntry lpn (e.markWritten sub t.markSerial)).applyWrite req lpn a data (e.committedAt sub)
      else if !t.hostMayWrite then (t.barEvent 2 a).emit (.homeAck req a data.length)
      else ((t.noteHostWrite e lpn sub).applyWrite req lpn a data (e.committedAt sub)).rewrite lpn (a % Config.pageBytes) data.length
    else if e.constant then t.emit (.homeErr req a)
    else if e.unversioned then (t.setEntry lpn (e.markWritten sub t.markSerial)).applyWrite req lpn a data (e.committedAt sub)
    else if (t.home.cowOf lpn sub).isSome then t.holdReq lpn sub (.write req a data)
    else if e.mask.getLsbD sub then t.applyWrite req lpn a data (e.workingAt sub)
    else t.startCow lpn sub (.write req a data) := by
  obtain ⟨r, hp⟩ := h.placed
  simp only [State.writePart, hp, h.half, h.touch, ne_eq, not_true_eq_false, if_false, Bool.false_eq_true]

/-- A write that memory takes: its bytes are written, and its acknowledgement waits. -/
def State.landsAt (s : State) (req : Requester) (lpn a : Nat) (data : List Byte) (base : Nat) : State :=
  (s.memWrite (base + a % Config.subBytes) data).queueAcc lpn
    ⟨req, a, data.length, base + a % Config.subBytes, false, data, none⟩

theorem applyWrite_open (h : ∀ b, s.halfClosed b = false) (base : Nat) : s.applyWrite req lpn a data base = s.landsAt req lpn a data base :=
  if_pos (reaches_of_open h _ _)

theorem entry_landsAt (base k : Nat) : (s.landsAt req lpn a data base).entry k = s.entry k := by
  simp only [State.landsAt, State.queueAcc, State.relayed]
  split <;> rfl

theorem noteHostWrite_home : (s.noteHostWrite e lpn sub).home = s.home := by
  unfold State.noteHostWrite
  split <;> rfl

theorem noteHostWrite_halfClosed (b : Bool) : (s.noteHostWrite e lpn sub).halfClosed b = s.halfClosed b := by
  unfold State.noteHostWrite
  split <;> rfl

theorem rewrite_unpoisoned (h : (s.entry lpn).poison = false) (off n : Nat) : s.rewrite lpn off n = s := by
  simp [State.rewrite, h]

variable (h : Touched s a lpn sub e t)
include h

theorem writePart_copied (hf : t.home.cowOf lpn sub = none) (hr : isHostReq req = false) (hk : e.kind = 1) (hm : e.mask.getLsbD sub = true) :
    s.writePart req a data = t.landsAt req lpn a data (e.workingAt sub) := by
  rw [writePart_touched h, ← applyWrite_open h.halves]
  simp [hf, hr, hk, hm, Entry.constant, Entry.unversioned]

theorem writePart_starts (hf : t.home.cowOf lpn sub = none) (hr : isHostReq req = false) (hk : e.kind = 1) (hm : e.mask.getLsbD sub = false) :
    s.writePart req a data = t.startCow lpn sub (.write req a data) := by
  rw [writePart_touched h]
  simp [hf, hr, hk, hm, Entry.constant, Entry.unversioned]

theorem writePart_unversioned (hk : e.kind = 2) : s.writePart req a data =
    (t.setEntry lpn (e.markWritten sub t.markSerial)).landsAt req lpn a data (e.committedAt sub) := by
  rw [writePart_touched h, ← applyWrite_open (s := t.setEntry _ _) h.halves]
  simp [hk, Entry.constant, Entry.unversioned]

theorem writePart_constant (hr : isHostReq req = false) (hk : e.kind = 3) : s.writePart req a data = t.emit (.homeErr req a) := by
  rw [writePart_touched h]
  simp [hr, hk, Entry.constant]

theorem writePart_host (hr : isHostReq req = true) (hk : e.kind = 1 ∨ e.kind = 3) (hp : (t.entry lpn).poison = false)
    (hw : t.hostMayWrite = true) :
    s.writePart req a data = (t.noteHostWrite e lpn sub).landsAt req lpn a data (e.committedAt sub) := by
  have hopen : ∀ b, (t.noteHostWrite e lpn sub).halfClosed b = false := fun b => (noteHostWrite_halfClosed b).trans (h.halves b)
  have hclean : (((t.noteHostWrite e lpn sub).landsAt req lpn a data (e.committedAt sub)).entry lpn).poison = false := by
    rw [entry_landsAt, State.entry, noteHostWrite_home]
    exact hp
  rw [writePart_touched h, applyWrite_open hopen, rewrite_unpoisoned hclean]
  rcases hk with hk | hk <;> simp [hr, hk, hw, Entry.unversioned]

theorem writePart_hostDropped (hr : isHostReq req = true) (hk : e.kind = 1 ∨ e.kind = 3) (hw : t.hostMayWrite = false) :
    s.writePart req a data = (t.barEvent 2 a).emit (.homeAck req a data.length) := by
  rw [writePart_touched h]
  rcases hk with hk | hk <;> simp [hr, hk, hw, Entry.unversioned]

end

theorem homeWritesLand : HomeWritesLand := by
  intro s req a data lpn sub e
  refine ⟨fun h => ?_, fun r ho h1 hp hh => ?_, jobMemoryWrite_closed⟩
  · have ht := touched_of_atHome h
    have hf := free_of_atHome h
    intro s1 off lands go
    have hgo : go = .next (s.writePart req a.toNat data) := jobMemoryWrite_one h.opened h.one
    rw [hgo]
    exact ⟨fun hr hk hm => congrArg _ (writePart_copied ht hf hr hk hm), fun hr hk hm => congrArg _ (writePart_starts ht hf hr hk hm),
      fun hk => congrArg _ (writePart_unversioned ht hk), fun hr hk => congrArg _ (writePart_constant ht hr hk),
      fun hr hk hp hw => congrArg _ (writePart_host ht hr hk hp hw), fun hr hk hw => congrArg _ (writePart_hostDropped ht hr hk hw)⟩
  · rw [jobMemoryWrite_one ho h1, writePart_closedHalf hp hh]

/-! ## Reads (R55, R57, R60 to R62, R64) -/

section
variable {s t : State} {req : Requester} {a n lpn sub : Nat} {e : Entry}

theorem jobMemoryRead_one {a : W64} (ho : s.homeClosed = false) (h1 : partsOf a.toNat n = [(a.toNat, n)]) :
    exec (.jobMemoryReadAtHome req a n) s = .next (s.readPart req a.toNat n) := by
  refine (if_neg (by simp [ho])).trans ?_
  rw [h1]
  rfl

/-- Where a read finds its bytes: the host in the committed copy, a context in the one that the mask names. -/
def Entry.readAt (e : Entry) (req : Requester) (sub a : Nat) : Nat :=
  (if isHostReq req then e.committedAt sub else e.currentAt sub) + a % Config.subBytes

/-- The sub-block of an unversioned page is stale, and nothing has been written to it since. -/
def Entry.staleAt (e : Entry) (sub : Nat) : Bool := e.unversioned && e.stale && !e.mask.getLsbD sub

/-- What a read does at the entry touched, where no copy-on-write holds it. -/
theorem readPart_touched (h : Touched s a lpn sub e t) (hf : t.home.cowOf lpn sub = none) : s.readPart req a n =
    if e.kind = 0 then t.emit (.homeErr req a)
    else if t.holdsHostRead req e then { t with home := { t.home with hostReads := t.home.hostReads ++ [(req, a, n)] } }
    else if e.staleAt sub && !isHostReq req then
      (t.staleRead a n).2.queueAcc lpn ⟨req, a, n, e.readAt req sub a, true, (t.staleRead a n).1, none⟩
    else t.queueAcc lpn ⟨req, a, n, e.readAt req sub a, true, if e.staleAt sub then ones n else t.memRead (e.readAt req sub a) n, none⟩ := by
  obtain ⟨r, hp⟩ := h.placed
  simp only [State.readPart, hp, h.half, h.touch, hf, reaches_of_open h.halves, ne_eq, not_true_eq_false, if_false, Bool.false_eq_true,
    Option.isSome_none, Bool.and_false, Bool.not_true]
  rfl

theorem staleRead_counted (h : 0 < s.fget F.STEP_STALE.COUNT) (a n : Nat) : s.staleRead a n =
    ((List.range n).map (Config.freeByte (s.free + 1)), { s.fadd F.STEP_STALE.COUNT 1 with free := s.free + 1 }) := by
  have h0 : (s.fget F.STEP_STALE.COUNT == 0) = false := by simp; omega
  simp only [State.staleRead, h0, Bool.false_eq_true, if_false]
  rfl

variable (h : Touched s a lpn sub e t) (hf : t.home.cowOf lpn sub = none)
include h hf

theorem readPart_fresh (hk : e.kind ≠ 0) (hs : e.staleAt sub = false) (hh : t.holdsHostRead req e = false) : s.readPart req a n =
    t.queueAcc lpn ⟨req, a, n, e.readAt req sub a, true, s.memRead (e.readAt req sub a) n, none⟩ := by
  have hmem (i : Nat) : s.memRead i n = t.memRead i n := by rw [State.memRead, State.memRead, h.mem]
  rw [readPart_touched h hf, hmem, if_neg hk]
  simp [hs, hh]

theorem readPart_held (hr : isHostReq req = true) (hk : e.kind = 1) (hb : t.fbit F.STEP_STATUS.COMMIT_BUSY = true) : s.readPart req a n =
    { t with home := { t.home with hostReads := t.home.hostReads ++ [(req, a, n)] } } := by
  rw [readPart_touched h hf]
  simp [hr, hk, hb, State.holdsHostRead, Entry.versioned]

theorem readPart_stale (hs : e.staleAt sub = true) (hr : isHostReq req = false) (hc : 0 < t.fget F.STEP_STALE.COUNT) : s.readPart req a n =
    { t.fadd F.STEP_STALE.COUNT 1 with free := t.free + 1 }.queueAcc lpn
      ⟨req, a, n, e.readAt req sub a, true, (List.range n).map (Config.freeByte (t.free + 1)), none⟩ := by
  have hk : e.kind = 2 := by simp_all [Entry.staleAt, Entry.unversioned]
  rw [readPart_touched h hf, staleRead_counted hc]
  simp [hk, hs, hr, State.holdsHostRead]

theorem readPart_hostStale (hs : e.staleAt sub = true) (hr : isHostReq req = true) : s.readPart req a n =
    t.queueAcc lpn ⟨req, a, n, e.readAt req sub a, true, List.replicate n 0xFF#8, none⟩ := by
  have hk : e.kind = 2 := by simp_all [Entry.staleAt, Entry.unversioned]
  rw [readPart_touched h hf]
  simp [hk, hs, hr, State.holdsHostRead, Entry.versioned, ones]

end

theorem staleAt_of_written {e : Entry} {sub : Nat} (h : e.kind = 2 → e.stale = false) : e.staleAt sub = false := by
  by_cases hk : e.kind = 2
  · simp [Entry.staleAt, h hk]
  · have hu : e.unversioned = false := by simpa [Entry.unversioned] using hk
    simp [Entry.staleAt, hu]

theorem staleAt_of_stale {e : Entry} {sub : Nat} (hk : e.kind = 2) (hs : e.stale = true) (hm : e.mask.getLsbD sub = false) :
    e.staleAt sub = true := by
  simp [Entry.staleAt, Entry.unversioned, hk, hs, hm]

theorem homeReadsReturn : HomeReadsReturn := by
  intro s req a n lpn sub e h s1 at_ go
  have ht := touched_of_atHome h
  have hf := free_of_atHome h
  have hgo : go = .next (s.readPart req a.toNat n) := jobMemoryRead_one h.opened h.one
  rw [hgo]
  exact ⟨fun hk hs hh => congrArg _ (readPart_fresh ht hf hk (staleAt_of_written hs) hh),
    fun hr hk hb => congrArg _ (readPart_held ht hf hr hk hb),
    fun hk hs hm hr hc => congrArg _ (readPart_stale ht hf (staleAt_of_stale hk hs hm) hr hc),
    fun hk hs hm hr => congrArg _ (readPart_hostStale ht hf (staleAt_of_stale hk hs hm) hr)⟩

end Sys2Proof.Machine
end

section
/-! # Completions, atomics and copy-on-write at the home (R51 to R55, R82, R103, R104) -/

namespace Sys2Proof.Machine

/-! ## Memory completes an access (R82, R103, R104) -/

section
variable {s t : State} {c : HomeAcc}

theorem accLost_congr (hr : t.ranges = s.ranges) (hb : t.memBad = s.memBad) (hg : t.home.gone = s.home.gone) (c : HomeAcc) :
    t.accLost c = s.accLost c := by
  simp only [State.accLost, State.place, State.rangeOf, State.lostHere, State.memBadIn, hr, hb, hg]

/-- A count changes neither the ranges nor what is lost. -/
theorem accLost_countCorrected (k bank row : Nat) : (s.countCorrected k bank row).accLost c = s.accLost c := by
  apply accLost_congr <;> (simp only [State.countCorrected]; split <;> simp [event_eq])

/-- The access `c`, which memory has completed, is under way no longer. -/
def State.without (s : State) (c : HomeAcc) : State := { s with home := { s.home with accs := dropOne c s.home.accs } }

/-- What the requester gets: data for a read, an acknowledgement for a write. -/
def State.replyTo (s : State) (c : HomeAcc) : State := s.emit (if c.read then .homeData c.req c.a c.data else .homeAck c.req c.a c.len)

theorem compareBuddy_none (s : State) (c : HomeAcc) : s.compareBuddy c none = s := rfl

theorem reply_eq (s : State) (c : HomeAcc) : (if c.read then (.next ((s.compareBuddy c none).emit (.homeData c.req c.a c.data)) : Outcome)
    else .next (s.emit (.homeAck c.req c.a c.len))) = .next (s.replyTo c) := by
  rw [compareBuddy_none, State.replyTo]
  split <;> rfl

variable {req : Requester} {a : W64} {n bank row : Nat} (h : s.home.accOf req a.toNat n = some c)
include h

theorem memoryAccess_clean (hl : s.accLost c = false) :
    exec (.memoryAccessComplete req a n .clean bank row none) s = .next ((s.without c).replyTo c) := by
  change execMemoryAccessComplete req a n .clean bank row none s = _
  have hl : (s.without c).accLost c = false := hl
  unfold State.without at hl
  simp only [execMemoryAccessComplete, h, hl, Bool.false_eq_true, if_false]
  exact reply_eq (s.without c) c

theorem memoryAccess_corrected (hl : s.accLost c = false) (hn : c.at_ / Config.pageBytes < 2 ^ 23) :
    exec (.memoryAccessComplete req a n .corrected bank row none) s =
      .next (((s.without c).countCorrected (c.at_ / Config.pageBytes % 8) bank row).replyTo c) := by
  change execMemoryAccessComplete req a n .corrected bank row none s = _
  have hl : ((s.without c).countCorrected (c.at_ / Config.pageBytes % 8) bank row).accLost c = false := (accLost_countCorrected ..).trans hl
  unfold State.without at hl
  simp only [execMemoryAccessComplete, h, hn, hl, if_true, Bool.false_eq_true, if_false]
  exact reply_eq _ c

omit h in
/-- A context's read of a unit that stays lost. -/
theorem lost_read {r : Range} {o lpn sub : Nat} (hr : c.read = true) (hh : isHostReq c.req = false) (hp : s.place c.a = some (r, o, lpn, sub)) :
    ∃ t l, (∀ v ∈ s.memBad, v ≠ entryUnit lpn → v ∈ l) ∧ { s with memBad := l }.Marks t ∧ s.lost c none = t.emit (.homeErr c.req c.a) := by
  obtain ⟨l, hl, hm⟩ := State.Marks.touch s lpn
  refine ⟨_, l, hl, hm.trans (State.Marks.lostPage lpn sub c.at_ c.a false), ?_⟩
  simp only [State.lost, hp, hr, hh, State.Marks.lostPage_false, Bool.false_eq_true, if_false, if_true]

omit h in
theorem accLost_of_bad {r : Range} {o lpn sub : Nat} (hr : c.read = true) (hn : 0 < c.len) (hp : s.place c.a = some (r, o, lpn, sub))
    (hb : c.at_ / 64 ∈ s.memBad) : s.accLost c = true := by
  have hin : c.at_ / 64 ∈ s.memBadIn c.at_ c.len := List.mem_filter.2 ⟨hb, by simp; omega⟩
  have hne : s.memBadIn c.at_ c.len ≠ [] := List.ne_nil_of_mem hin
  simp [State.accLost, hp, hr, State.lostHere, hne]

theorem memoryAccess_uncorrectable {r : Range} {o lpn sub : Nat} (hr : c.read = true) (hn : 0 < c.len) (hh : isHostReq c.req = false)
    (hp : s.place c.a = some (r, o, lpn, sub)) (he : entryUnit lpn ≠ c.at_ / 64) : ∃ s',
    exec (.memoryAccessComplete req a n .uncorrectable bank row none) s = .next s' ∧ s'.out.getLast? = some (.homeErr c.req c.a)
      ∧ s'.home.accs = dropOne c s.home.accs ∧ c.at_ / 64 ∈ s'.memBad := by
  have hbad : c.at_ / 64 ∈ addTo (c.at_ / 64) s.memBad := mem_addTo_self _ _
  have hl : ({ s.without c with memBad := addTo (c.at_ / 64) s.memBad }).accLost c = true := accLost_of_bad hr hn hp hbad
  obtain ⟨t, l, hkept, hm, hlost⟩ := lost_read (s := { s.without c with memBad := addTo (c.at_ / 64) s.memBad }) hr hh hp
  refine ⟨t.emit (.homeErr c.req c.a), ?_, by simp, hm.accs, ?_⟩
  · change execMemoryAccessComplete req a n .uncorrectable bank row none s = _
    unfold State.without at hl hlost
    simp only [execMemoryAccessComplete, h, hr, hl, if_true, hlost]
  · rw [State.emit_memBad, hm.memBad]
    exact hkept _ hbad (Ne.symm he)

end

theorem memoryAccessesComplete : MemoryAccessesComplete := fun _ _ _ _ _ _ _ h =>
  ⟨memoryAccess_clean h, memoryAccess_corrected h, fun _ _ _ _ => memoryAccess_uncorrectable h⟩

/-! ## Atomics (R51 to R54) -/

theorem sext_eq_toInt {w v : Nat} (h : v < 2 ^ w) : sext w v = (BitVec.ofNat w v).toInt := by
  rw [BitVec.toInt_eq_toNat_cond, BitVec.toNat_ofNat, Nat.mod_eq_of_lt h, sext, Nat.mod_eq_of_lt h]
  cases w with
  | zero =>
    have hv : v = 0 := by simpa using h
    simp [hv]
  | succ w =>
    have hpow : 2 ^ (w + 1) = 2 * 2 ^ w := by rw [pow_succ, mul_comm]
    simp only [Nat.add_sub_cancel, hpow]
    by_cases hv : 2 ^ w ≤ v
    · rw [if_pos hv, if_neg (by omega)]
    · rw [if_neg hv, if_pos (by omega)]

theorem atomicsWriteTheirResult : AtomicsWriteTheirResult := by
  intro w old x ex ho hx
  refine ⟨rfl, rfl, rfl, rfl, rfl, ?_, ?_, rfl, rfl, fun i => ?_, fun i => ?_, fun i => ?_⟩
  · rw [← sext_eq_toInt ho, ← sext_eq_toInt hx]
    rfl
  · rw [← sext_eq_toInt ho, ← sext_eq_toInt hx]
    rfl
  · exact congrArg some (Nat.testBit_and ..)
  · exact congrArg some (Nat.testBit_or ..)
  · exact congrArg some (Nat.testBit_xor ..)

end Sys2Proof.Machine
end

section
/-! # Atomics and copy-on-write at the home (R52 to R55, R104) -/

namespace Sys2Proof.Machine

/-! ## An atomic executes (R52 to R54) -/

section
variable {s t : State} {req : Requester} {a lpn sub : Nat} {aop : BitVec 4} {wide : Bool} {x ex : W64} {e : Entry}

theorem memRead_relayed (at_ len : Nat) (w : Bool) (i n : Nat) : (s.relayed lpn at_ a len w).memRead i n = s.memRead i n := by
  unfold State.relayed
  split <;> rfl

theorem lostHere_relayed (at_ len : Nat) (w : Bool) (i n : Nat) : (s.relayed lpn at_ a len w).lostHere lpn i n = s.lostHere lpn i n := by
  unfold State.relayed
  split <;> rfl

theorem markSerial_relayed (at_ len : Nat) (w : Bool) : (s.relayed lpn at_ a len w).markSerial = s.markSerial := by
  unfold State.relayed
  split <;> rfl

/-- An atomic reaches memory, unless it is a STORE to near memory, which reads nothing. -/
def State.atomicReads (s : State) (lpn at_ a n : Nat) (aop : BitVec 4) : State :=
  if aop ≠ 1 ∨ 2 ^ 23 ≤ at_ / Config.pageBytes then s.relayed lpn at_ a n true else s

theorem atomicReads_keeps (at_ n : Nat) : (s.atomicReads lpn at_ a n aop).markSerial = s.markSerial
    ∧ ∀ i, (s.atomicReads lpn at_ a n aop).memRead i n = s.memRead i n
      ∧ (s.atomicReads lpn at_ a n aop).lostHere lpn i n = s.lostHere lpn i n := by
  unfold State.atomicReads
  split
  · exact ⟨markSerial_relayed .., fun i => ⟨memRead_relayed .., lostHere_relayed ..⟩⟩
  · exact ⟨rfl, fun i => ⟨rfl, rfl⟩⟩

theorem atomicReads_eq (at_ n : Nat) : (if (aop != 1 || decide (2 ^ 23 ≤ at_ / Config.pageBytes)) = true then
    (s.relayed lpn at_ a n true).memErr .good at_ else (false, s)) = (false, s.atomicReads lpn at_ a n aop) := by
  simp only [State.atomicReads, Bool.or_eq_true, bne_iff_ne, decide_eq_true_eq]
  split <;> rfl

/-- An atomic that has read `old` computes, and writes or begins a copy-on-write. -/
def State.atomicEnds (s : State) (req : Requester) (a lpn sub : Nat) (aop : BitVec 4) (wide : Bool) (x ex : W64) (e : Entry) (at_ old : Nat) :
    State :=
  let n := if wide then 8 else 4
  match atomNew aop.toNat (8 * n) old (x.toNat % 2 ^ (8 * n)) (ex.toNat % 2 ^ (8 * n)) with
  | none => s.emit (.homeOld req (BitVec.ofNat 64 old))
  | some v =>
    if e.versioned && !e.mask.getLsbD sub then s.startCow lpn sub (.atomic req a aop wide x ex)
    else ((if e.unversioned then s.setEntry lpn (e.markWritten sub s.markSerial) else s).memWrite at_ (toBytes n v)).emit
      (.homeOld req (BitVec.ofNat 64 old))

/-- What an atomic does at the entry touched, where it may run and nothing is lost. -/
theorem atomicAt_touched (h : Touched s a lpn sub e t) (hf : t.home.cowOf lpn sub = none) (hs : e.staleAt sub = false)
    (ha : a % (if wide then 8 else 4) = 0) (hop : aop.toNat ≤ 11) (hk : e.kind ≠ 0) (hc : e.kind = 3 → aop = 0)
    (hl : t.lostHere lpn (e.currentAt sub + a % Config.subBytes) (if wide then 8 else 4) = false) (buddy : Option (List Byte)) :
    s.atomicAt req a aop wide x ex .good buddy =
      (t.atomicReads lpn (e.currentAt sub + a % Config.subBytes) a (if wide then 8 else 4) aop).atomicEnds req a lpn sub aop wide x ex e
        (e.currentAt sub + a % Config.subBytes) (ofBytes (s.memRead (e.currentAt sub + a % Config.subBytes) (if wide then 8 else 4))) := by
  obtain ⟨r, hp⟩ := h.placed
  have hgate : ¬(decide (e.kind = 0) || decide (a % (if wide then 8 else 4) ≠ 0) || (e.constant && aop != 0) || decide (aop.toNat > 11)) = true := by
    have hconst : (e.constant && aop != 0) = false := by
      by_cases h3 : e.kind = 3
      · simp [hc h3]
      · have : e.constant = false := by simpa [Entry.constant] using h3
        simp [this]
    rw [hconst]
    simp only [hk, ha, decide_false, ne_eq, not_true_eq_false, Bool.false_or, Bool.or_false, decide_eq_true_eq]
    omega
  have hmem (i n : Nat) : s.memRead i n = t.memRead i n := by rw [State.memRead, State.memRead, h.mem]
  obtain ⟨-, hkept⟩ := atomicReads_keeps (s := t) (a := a) (lpn := lpn) (aop := aop) (e.currentAt sub + a % Config.subBytes) (if wide then 8 else 4)
  obtain ⟨hread, hlost⟩ := hkept (e.currentAt sub + a % Config.subBytes)
  unfold Entry.staleAt at hs
  simp only [State.atomicAt, hp, h.half, h.touch, hf, reaches_of_open h.halves, hs, ne_eq, not_true_eq_false, if_false, Bool.false_eq_true,
    Option.isSome_none, Bool.not_true, Bool.false_and]
  rw [if_neg hgate]
  simp only [atomicReads_eq, hlost, hl, hread, hmem, Bool.and_false, Bool.false_eq_true, if_false, Bool.not_true]
  rfl

theorem atomicEnds_writes {at_ old v : Nat} (hv : atomNew aop.toNat (8 * (if wide then 8 else 4)) old
      (x.toNat % 2 ^ (8 * (if wide then 8 else 4))) (ex.toNat % 2 ^ (8 * (if wide then 8 else 4))) = some v) (h1 : e.kind = 1 ∨ e.kind = 2) :
    s.atomicEnds req a lpn sub aop wide x ex e at_ old =
      if e.kind = 2 then ((s.setEntry lpn (e.markWritten sub s.markSerial)).memWrite at_ (toBytes (if wide then 8 else 4) v)).emit
        (.homeOld req (BitVec.ofNat 64 old))
      else if e.mask.getLsbD sub then (s.memWrite at_ (toBytes (if wide then 8 else 4) v)).emit (.homeOld req (BitVec.ofNat 64 old))
      else s.startCow lpn sub (.atomic req a aop wide x ex) := by
  simp only [State.atomicEnds, hv]
  rcases h1 with hk | hk
  · cases e.mask.getLsbD sub <;> simp [hk, Entry.versioned, Entry.unversioned]
  · simp [hk, Entry.versioned, Entry.unversioned]

theorem atomicEnds_reads {at_ old : Nat} (hv : atomNew aop.toNat (8 * (if wide then 8 else 4)) old
      (x.toNat % 2 ^ (8 * (if wide then 8 else 4))) (ex.toNat % 2 ^ (8 * (if wide then 8 else 4))) = none) :
    s.atomicEnds req a lpn sub aop wide x ex e at_ old = s.emit (.homeOld req (BitVec.ofNat 64 old)) := by
  simp only [State.atomicEnds, hv]

end

/-- An atomic that writes finds a versioned or an unversioned page. -/
theorem kind_of_writes {e : Entry} {aop : BitVec 4} {w old x ex v : Nat} (hk : e.kind ≠ 0) (hc : e.kind = 3 → aop = 0)
    (hv : atomNew aop.toNat w old x ex = some v) : e.kind = 1 ∨ e.kind = 2 := by
  have hkinds : ∀ k : BitVec 2, k = 0 ∨ k = 1 ∨ k = 2 ∨ k = 3 := by decide
  rcases hkinds e.kind with h | h | h | h
  · exact absurd h hk
  · exact .inl h
  · exact .inr h
  · rw [hc h] at hv
    cases hv

theorem atomicsExecute : AtomicsExecute := by
  intro s req a aop wide x ex buddy lpn sub e n h ha hop hk hc hs s1 at_ old t hl
  have hgo : exec (.atomicExecute req a aop wide x ex .good buddy) s = .next (t.atomicEnds req a.toNat lpn sub aop wide x ex e at_ old) :=
    (if_neg (by simp [h.opened])).trans (congrArg Host.Outcome.next
      (atomicAt_touched (touched_of_atHome h) (free_of_atHome h) (staleAt_of_written hs) ha hop hk hc hl buddy))
  have hmark : t.markSerial = s1.markSerial := (atomicReads_keeps ..).1
  rw [hgo]
  refine ⟨fun v hv => ?_, fun hv => congrArg _ (atomicEnds_reads hv)⟩
  rw [atomicEnds_writes hv (kind_of_writes hk hc hv), hmark]
  rfl

/-! ## A copy-on-write completes (R54, R55, R104) -/

theorem cowOf_names {h : Home} {lpn sub : Nat} {c : Cow} (hc : h.cowOf lpn sub = some c) : c.lpn = lpn ∧ c.sub = sub := by
  have := List.find?_some hc
  simpa using this

/-- The copy-on-write `c` is no longer under way. -/
def State.cowDone (s : State) (c : Cow) : State := { s with home := { s.home with cows := dropOne c s.home.cows } }

section
variable {s : State} {lpn : Lpn} {sub : BitVec 5} {c : Cow} {buddy : Option (List Byte)} (h : s.home.cowOf lpn.toNat sub.toNat = some c)
include h

theorem copyOnWrite_copies (hl : (s.touch lpn.toNat).2.lostHere lpn.toNat ((s.touch lpn.toNat).1.committedAt sub.toNat) Config.subBytes = false) :
    exec (.copyOnWriteComplete lpn sub .good buddy) s = .next (c.held.foldl State.proceed
      ((((s.touch lpn.toNat).2.cowDone c).memCopy ((s.touch lpn.toNat).1.committedAt sub.toNat) ((s.touch lpn.toNat).1.workingAt sub.toNat)
        Config.subBytes).setEntry lpn.toNat { (s.touch lpn.toNat).1 with
          mask := (s.touch lpn.toNat).1.mask ||| BitVec.ofNat 32 (2 ^ sub.toNat), tag := (s.touch lpn.toNat).2.serial })) := by
  obtain ⟨hlpn, hsub⟩ := cowOf_names h
  change execCopyOnWriteComplete lpn sub .good buddy s = _
  simp only [execCopyOnWriteComplete, h, hlpn, hsub, State.memErr, hl, Bool.false_eq_true, if_false, Bool.not_true]
  rfl

theorem copyOnWrite_refuses (hl : (s.touch lpn.toNat).2.lostHere lpn.toNat ((s.touch lpn.toNat).1.committedAt sub.toNat) Config.subBytes = true)
    {t : State} (ht : (s.touch lpn.toNat).2.lostPage lpn.toNat sub.toNat ((s.touch lpn.toNat).1.committedAt sub.toNat)
      ((s.touch lpn.toNat).2.addrOf lpn.toNat + sub.toNat * Config.subBytes) false buddy = (false, t)) :
    exec (.copyOnWriteComplete lpn sub .good buddy) s = .next (c.held.foldl HomeReq.refused (t.cowDone c)) := by
  obtain ⟨hlpn, hsub⟩ := cowOf_names h
  change execCopyOnWriteComplete lpn sub .good buddy s = _
  simp only [execCopyOnWriteComplete, h, hlpn, hsub, State.memErr, hl, ht, if_true, Bool.not_false]
  rfl

end

theorem copyOnWriteCompletes : CopyOnWriteCompletes := fun _ _ _ _ _ h => ⟨copyOnWrite_copies h, fun hl _ => copyOnWrite_refuses h hl⟩

/-- Settles O40: writes, reads and atomics by what each does at the entry that its touch uses, completions by what memory found. -/
theorem homeServesJobMemory : Obligations.HomeServesJobMemory :=
  ⟨homeWritesLand, homeReadsReturn, memoryAccessesComplete, atomicsExecute, atomicsWriteTheirResult, copyOnWriteCompletes⟩

end Sys2Proof.Machine
end

section
/-! # The host's way to job memory (R57, R62 to R66, R405, R406) -/

namespace Sys2Proof.Machine

/-! ## A part homed here (R62, R64) -/

section
variable {s t : State} {a n lpn sub : Nat} {e : Entry} {copies : List (Nat × List Byte)}

/-- No unit found lost, none marked. -/
theorem setMemBad_nil (s : State) (f : List Nat → Nat → List Nat) (p : Nat → Bool) :
    { s with memBad := (([] : List Nat).filter p).foldl f s.memBad } = s := rfl

/-- What a host's read that finds nothing lost does at the entry touched. -/
theorem hostPart_touched (h : Touched s a lpn sub e t) (hl : t.lostHere lpn (e.committedAt sub + a % Config.subBytes) n = false) :
    s.hostPart [] copies a n = if decide (e.kind = 0) || e.staleAt sub then (ones n, t)
      else (t.memRead (e.committedAt sub + a % Config.subBytes) n, t.relayed lpn (e.committedAt sub + a % Config.subBytes) a n false) := by
  obtain ⟨r, hp⟩ := h.placed
  unfold State.hostPart
  split
  · rename_i hnone
    cases hp.symm.trans hnone
  · rename_i lpn' sub' hp'
    cases hp.symm.trans hp'
    split
    rename_i e' t' he
    cases h.touch.symm.trans he
    extract_lets at_ u now v
    have hread : u.memRead at_ n = t.memRead at_ n := memRead_relayed ..
    have hlost : u.lostHere lpn at_ n = false := (lostHere_relayed ..).trans hl
    have hv : v = u := setMemBad_nil u _ _
    rw [if_neg (by simp [h.halves, reaches_of_open h.halves]), hv, hread, hlost]
    rfl

end

/-! ## Reads at the lead (R57, R405, R406) -/

section
variable {s : State} {off : BitVec 36} {len : Nat} {reply : Option (List Byte)} {copies : List (Nat × List Byte)}

/-- The host's BAR2 accesses are taken: its port answers, the device is awake, and it is the lead. -/
structure Bar2Taken (s : State) : Prop where
  lead : s.isLead = true
  heard : s.hostSilent = false
  awake : s.deviceAsleep = false

theorem versionedAt_eq {a o lpn sub : Nat} {r : Range} (hp : s.place a = some (r, o, lpn, sub)) : s.versionedAt a = (r.kind == 1) := by
  simp only [State.versionedAt, hp]

theorem bar2Read_held (h : Bar2Taken s) (hb : s.fbit F.STEP_STATUS.COMMIT_BUSY = true) (hv : s.versionedAt (s.bar2Addr off.toNat) = true) :
    exec (.bar2Read off len reply [] copies) s =
      .next { s with home := { s.home with hostHeld := s.home.hostHeld ++ [(off.toNat, len, reply)] } } := by
  change execBar2Read off len reply [] copies s = _
  simp only [execBar2Read, h.lead, h.heard, h.awake, hb, hv, Bool.not_true, Bool.and_self, Bool.false_eq_true, if_false, if_true]

theorem bar2Read_served (h : Bar2Taken s) (hv : s.fbit F.STEP_STATUS.COMMIT_BUSY = false ∨ s.versionedAt (s.bar2Addr off.toNat) = false) :
    exec (.bar2Read off len reply [] copies) s = .next (s.bar2Serve off.toNat len reply [] copies) := by
  have hv : (s.fbit F.STEP_STATUS.COMMIT_BUSY && s.versionedAt (s.bar2Addr off.toNat)) = false := by
    rcases hv with hv | hv <;> simp [hv]
  change execBar2Read off len reply [] copies s = _
  simp only [execBar2Read, h.lead, h.heard, h.awake, hv, Bool.not_true, Bool.false_eq_true, if_false]

variable {o lpn sub : Nat} {r : Range} (hs : s.hostServes = true) (h1 : partsOf (s.bar2Addr off.toNat) len = [(s.bar2Addr off.toNat, len)])
  (hp : s.place (s.bar2Addr off.toNat) = some (r, o, lpn, sub))
include hs h1 hp

theorem bar2Serve_here (ho : o = s.ord.toNat) : s.bar2Serve off.toNat len reply [] copies =
    (s.hostPart [] copies (s.bar2Addr off.toNat) len).2.emit (.bar2Data off.toNat (s.hostPart [] copies (s.bar2Addr off.toNat) len).1) := by
  simp [State.bar2Serve, hs, h1, hp, ho]

theorem bar2Serve_elsewhere (ho : o ≠ s.ord.toNat) {bytes : List Byte} (hreply : reply = some bytes) :
    s.bar2Serve off.toNat len reply [] copies =
      (s.emit (.bar2Read (s.bar2Addr off.toNat) len)).emit (.bar2Data off.toNat bytes) := by
  simp [State.bar2Serve, hs, h1, hp, ho, hreply]

end

theorem bar2Read_here {s : State} {off : BitVec 36} {len lpn sub : Nat} {r : Range} (reply : Option (List Byte))
    (copies : List (Nat × List Byte)) (h : Bar2Taken s) (hs : s.hostServes = true) (hh : ∀ b, s.halfClosed b = false)
    (h1 : partsOf (s.bar2Addr off.toNat) len = [(s.bar2Addr off.toNat, len)])
    (hp : s.place (s.bar2Addr off.toNat) = some (r, s.ord.toNat, lpn, sub))
    (hb : s.fbit F.STEP_STATUS.COMMIT_BUSY = false ∨ r.kind ≠ 1) (hk : (s.touch lpn).1.kind ≠ 0)
    (hl : (s.touch lpn).2.lostHere lpn ((s.touch lpn).1.committedAt sub + s.bar2Addr off.toNat % Config.subBytes) len = false) :
    exec (.bar2Read off len reply [] copies) s = .next
      (if (s.touch lpn).1.kind = 2 ∧ (s.touch lpn).1.stale = true ∧ (s.touch lpn).1.mask.getLsbD sub = false then
        (s.touch lpn).2.emit (.bar2Data off.toNat (List.replicate len 0xFF#8))
      else ((s.touch lpn).2.relayed lpn ((s.touch lpn).1.committedAt sub + s.bar2Addr off.toNat % Config.subBytes) (s.bar2Addr off.toNat) len
        false).emit (.bar2Data off.toNat (s.memRead ((s.touch lpn).1.committedAt sub + s.bar2Addr off.toNat % Config.subBytes) len))) := by
  have hv : s.fbit F.STEP_STATUS.COMMIT_BUSY = false ∨ s.versionedAt (s.bar2Addr off.toNat) = false := by
    rw [versionedAt_eq hp]
    exact hb.imp_right beq_eq_false_iff_ne.2
  have ht := touched ⟨r, hp⟩ hh
  generalize (s.touch lpn).1 = e at ht hk hl ⊢
  generalize (s.touch lpn).2 = t at ht hl ⊢
  have hstale : e.staleAt sub = true ↔ e.kind = 2 ∧ e.stale = true ∧ e.mask.getLsbD sub = false := by
    simp [Entry.staleAt, Entry.unversioned, and_assoc]
  rw [bar2Read_served h hv, bar2Serve_here hs h1 hp rfl, hostPart_touched ht hl]
  simp only [hk, decide_false, Bool.false_or, ← hstale, State.memRead, ht.mem]
  split <;> rfl

/-! ## Writes at the lead (R63, R65, R66) -/

section
variable {s : State} {off : BitVec 36} {data : List Byte} {o lpn sub : Nat} {r : Range} (h : Bar2Taken s) (hs : s.hostServes = true)
  (h1 : partsOf (s.bar2Addr off.toNat) data.length = [(s.bar2Addr off.toNat, data.length)])
  (hp : s.place (s.bar2Addr off.toNat) = some (r, o, lpn, sub))
include h hs h1 hp

theorem bar2Write_one : exec (.bar2Write off data) s = .next
    (if r.kind ≠ 2 ∧ s.hostMayWrite = false then s.barEvent 2 off.toNat
     else if o = s.ord.toNat then s.writePart (.host off.toNat) (s.bar2Addr off.toNat) data
     else s.emit (.bar2Write (s.bar2Addr off.toNat) data)) := by
  change execBar2Write off data s = _
  simp only [execBar2Write, h.lead, h.heard, h.awake, hs, h1, hp, List.any_cons, List.any_nil, Option.isNone_some, Bool.not_true, Bool.or_self,
    Bool.false_eq_true, if_false, List.foldl_cons, List.foldl_nil, Nat.sub_self, List.drop_zero, List.take_length]

theorem bar2Write_dropped (hk : r.kind ≠ 2) (hw : s.hostMayWrite = false) : exec (.bar2Write off data) s = .next (s.barEvent 2 off.toNat) := by
  rw [bar2Write_one h hs h1 hp, if_pos ⟨hk, hw⟩]

theorem bar2Write_taken (hk : r.kind = 2 ∨ s.hostMayWrite = true) : exec (.bar2Write off data) s = .next
    (if o = s.ord.toNat then s.writePart (.host off.toNat) (s.bar2Addr off.toNat) data else s.emit (.bar2Write (s.bar2Addr off.toNat) data)) := by
  have hmay : ¬(r.kind ≠ 2 ∧ s.hostMayWrite = false) := by
    rintro ⟨hne, hw⟩
    rcases hk with hk | hk
    · exact hne hk
    · simp [hk] at hw
  rw [bar2Write_one h hs h1 hp, if_neg hmay]

end

/-- Settles O41: reads by whether they are held and where their page is homed, writes by whether the host may write. -/
theorem hostReachesJobMemory : Obligations.HostReachesJobMemory := by
  intro s off hlead hs hheard hawake hh a
  have ht : Bar2Taken s := ⟨hlead, hheard, hawake⟩
  refine ⟨fun len lpn sub r reply copies h1 hp => ⟨fun hb hk => ?_, fun hb hk hl => ?_⟩, fun len o lpn sub r bytes copies h1 hp ho hb => ?_,
    fun data r o lpn sub h1 hp => ⟨bar2Write_dropped ht hs h1 hp, fun hk ho => ?_, fun hk ho => ?_⟩⟩
  · exact bar2Read_held ht hb ((versionedAt_eq hp).trans (beq_iff_eq.2 hk))
  · exact bar2Read_here reply copies ht hs hh h1 hp hb hk hl
  · have hv : s.fbit F.STEP_STATUS.COMMIT_BUSY = false ∨ s.versionedAt a = false := by
      rw [versionedAt_eq hp]
      exact hb.imp_right beq_eq_false_iff_ne.2
    exact (bar2Read_served ht hv).trans (congrArg _ (bar2Serve_elsewhere hs h1 hp ho rfl))
  · rw [bar2Write_taken ht hs h1 hp hk, if_neg ho]
    rfl
  · rw [bar2Write_taken ht hs h1 hp hk, if_pos ho]
    rfl

end Sys2Proof.Machine
end

section
/-! # A weave comes into force: tiles, refusals and completions (R295, R302, R307, R309, R320) -/

namespace Sys2Proof.Machine

/-! ## Every tile in turn -/

section
variable {s : State} {step : State → Nat → State} {R : TileId → Tile → Tile → Prop}

/-- A fold that puts one tile after another, drawing a value for each, leaves each tile as its own turn did. -/
theorem tiles_foldl (h : ∀ (t : State) (i : Nat), t.regs = s.regs → ∃ y, R (BitVec.ofNat 11 i) (t.tile (BitVec.ofNat 11 i)) y
      ∧ step t i = { t with free := t.free + 1 }.setTile (BitVec.ofNat 11 i) y) (n : Nat) (hn : n ≤ 2048) :
    ∃ m k, (List.range n).foldl step s = { s with tiles := m, free := k }
      ∧ ∀ t : TileId, if t.toNat < n then R t (s.tile t) (mapGet Tile.reset m t.toNat) else mapGet Tile.reset m t.toNat = s.tile t := by
  induction n with
  | zero => exact ⟨s.tiles, s.free, rfl, fun t => by simp [State.tile]⟩
  | succ n ih =>
    obtain ⟨m, k, hfold, htiles⟩ := ih (by omega)
    have hnum : (BitVec.ofNat 11 n).toNat = n := by simp; omega
    have hold : ({ s with tiles := m, free := k } : State).tile (BitVec.ofNat 11 n) = s.tile (BitVec.ofNat 11 n) := by
      have := htiles (BitVec.ofNat 11 n)
      rwa [if_neg (by omega)] at this
    obtain ⟨y, hy, hstep⟩ := h { s with tiles := m, free := k } n rfl
    refine ⟨mapIns n y m, k + 1, ?_, fun t => ?_⟩
    · rw [List.range_succ, List.foldl_append, hfold, List.foldl_cons, List.foldl_nil, hstep, State.setTile, hnum]
    · rw [mapGet_mapIns]
      have ht := htiles t
      by_cases he : t.toNat = n
      · have ht : t = BitVec.ofNat 11 n := BitVec.eq_of_toNat_eq (he.trans hnum.symm)
        rw [if_pos he, if_pos (by omega), ht, ← hold]
        exact hy
      · rw [if_neg he]
        by_cases hlt : t.toNat < n
        · rw [if_pos (by omega)]
          rwa [if_pos hlt] at ht
        · rw [if_neg (by omega)]
          rwa [if_neg hlt] at ht

theorem allTiles_foldl (h : ∀ (t : State) (i : Nat), t.regs = s.regs → ∃ y, R (BitVec.ofNat 11 i) (t.tile (BitVec.ofNat 11 i)) y
      ∧ step t i = { t with free := t.free + 1 }.setTile (BitVec.ofNat 11 i) y) :
    ∃ m k, (List.range Config.tiles).foldl step s = { s with tiles := m, free := k }
      ∧ ∀ t : TileId, R t (s.tile t) (({ s with tiles := m, free := k } : State).tile t) := by
  obtain ⟨m, k, hfold, htiles⟩ := tiles_foldl h Config.tiles (le_refl _)
  refine ⟨m, k, hfold, fun t => ?_⟩
  have ht := htiles t
  rwa [if_pos (show t.toNat < Config.tiles from t.isLt)] at ht

end

theorem ord_congr {s t : State} (h : ∀ f ∈ [F.HQ_HERD.H, F.HQ_HERD.N, F.HQ_HERD.POS], t.fget f = s.fget f) : t.ord = s.ord := by
  simp only [State.ord, State.ordAt, State.herdN, State.pos, h F.HQ_HERD.H (by simp), h F.HQ_HERD.N (by simp), h F.HQ_HERD.POS (by simp)]

theorem ord_of_regs {s t : State} (h : t.regs = s.regs) : t.ord = s.ord :=
  ord_congr fun f _ => congrArg (fun r => mapGet f.rst r f.key) h

theorem imageAll_effect (s : State) (w : Weave) : ∃ m k, s.imageAll w = { s with tiles := m, free := k }
    ∧ ∀ t : TileId, ∃ seed, ({ s with tiles := m, free := k } : State).tile t = (s.tile t).imaged w s.ord.toNat t seed :=
  allTiles_foldl (R := fun t x y => ∃ seed, y = x.imaged w s.ord.toNat t seed) fun u _ hu => ⟨_, ⟨u.free + 1, rfl⟩, by rw [← ord_of_regs hu]; rfl⟩

theorem restoreAll_effect (s : State) (old new : Weave) (told : List (TileId × Nat)) :
    ∃ m k, s.restoreAll old new told = { s with tiles := m, free := k }
    ∧ ∀ t : TileId, ∃ seed, ({ s with tiles := m, free := k } : State).tile t = (s.tile t).restored old new told s.ord.toNat t seed :=
  allTiles_foldl (R := fun t x y => ∃ seed, y = x.restored old new told s.ord.toNat t seed)
    fun u _ hu => ⟨_, ⟨u.free + 1, rfl⟩, by rw [← ord_of_regs hu]; rfl⟩

/-- What a partial weave does to one tile, in its turn. -/
def State.patchOne (w : Weave) (told : List (TileId × Nat)) (s : State) (i : Nat) : State :=
  { s with free := s.free + 1 }.setTile (BitVec.ofNat 11 i)
    ((s.tile (BitVec.ofNat 11 i)).patched w told s.ord.toNat (BitVec.ofNat 11 i) (s.free + 1)).1

theorem patchAll_effect (s : State) (w : Weave) (told : List (TileId × Nat)) :
    ∃ m k, (s.patchAll w told).1 = { s with tiles := m, free := k }
    ∧ ∀ t : TileId, ∃ seed, ({ s with tiles := m, free := k } : State).tile t = ((s.tile t).patched w told s.ord.toNat t seed).1 := by
  have hfst : (s.patchAll w told).1 = (List.range Config.tiles).foldl (State.patchOne w told) s :=
    (List.foldl_hom Prod.fst (init := (s, 0)) (fun _ _ => rfl)).symm
  rw [hfst]
  exact allTiles_foldl (R := fun t x y => ∃ seed, y = (x.patched w told s.ord.toNat t seed).1)
    fun u _ hu => ⟨_, ⟨u.free + 1, rfl⟩, by rw [← ord_of_regs hu]; rfl⟩

/-! ## The image of a tile (R201, R295, R314, R320) -/

theorem endpoint_emptied (c : ChanRec) : c.endpoint.emptied = c.endpoint := rfl

theorem endpointsOf_emptied (w : Weave) (t : TileId) : ∀ p ∈ w.endpointsOf t, p.2.emptied = p.2 := by
  refine List.foldlRecOn (motive := fun m : SMap Endpoint => ∀ p ∈ m, p.2.emptied = p.2) _ _ (by simp) fun m hm c _ p hp => ?_
  rcases mem_mapIns hp with rfl | hp
  · exact endpoint_emptied c
  · exact hm p hp

section
variable (x : Tile) (w : Weave) (ord : Nat) (t : TileId) (seed : Nat)

theorem imaged_img : (x.imaged w ord t seed).img = w.imageAt t := rfl

theorem imaged_imem : (x.imaged w ord t seed).imem = (w.imageAt t).code := rfl

theorem imaged_phase : (x.imaged w ord t seed).phase =
    if x.phase = phReset then phReset else if (w.imageAt t).ctx then phGate else phNoContext := rfl

theorem imaged_eps : (x.imaged w ord t seed).eps = w.endpointsOf t := by
  change (w.endpointsOf t).map (fun p => (p.1, p.2.emptied)) = w.endpointsOf t
  refine (List.map_congr_left fun p hp => ?_).trans (List.map_id _)
  rw [endpointsOf_emptied w t p hp, id]

theorem patched_img (told : List (TileId × Nat)) :
    (x.patched w told ord t seed).1.img = if w.replaced t then w.imageAt t else x.img := by
  unfold Tile.patched
  split <;> rfl

theorem restored_img (new : Weave) (told : List (TileId × Nat)) :
    (x.restored w new told ord t seed).img = if new.replaced t then w.imageAt t else x.img := by
  unfold Tile.restored
  split <;> rfl

end

/-! ## A load ends (R307, R309, R414, R417) -/

namespace State.Posts

variable {s t : State} (h : s.Posts t)
include h

theorem mem : t.mem = s.mem := by rw [h.rest]
theorem home : t.home = s.home := by rw [h.rest]
theorem mirrorFrames : t.mirrorFrames = s.mirrorFrames := by rw [h.rest]
theorem tiles : t.tiles = s.tiles := by rw [h.rest]
theorem load : t.load = s.load := by rw [h.rest]
theorem weave : t.weave = s.weave := by rw [h.rest]
theorem portion : t.portion = s.portion := by rw [h.rest]
theorem member : t.member = s.member := by rw [h.rest]

end State.Posts

/-- `t` differs from `s` at most as `State.Posts` lets it, in the load and the weave in force, and in the fields of `fs`. -/
structure State.Loads (fs : List Fld) (s t : State) : Prop where
  rest : t = { s with
    out := t.out, regs := t.regs, queues := t.queues, msixPend := t.msixPend, pronk := t.pronk, recorder := t.recorder
    nseq := t.nseq, endDirty := t.endDirty, load := t.load, weave := t.weave, portion := t.portion, member := t.member }
  flds : ∀ f : Fld, f.Steady → (∀ g ∈ fs, f.key ≠ g.key) → t.fget f = s.fget f

namespace State.Loads

variable {fs : List Fld} {s t u : State}

theorem refl (s : State) : s.Loads fs s := ⟨rfl, fun _ _ _ => rfl⟩

theorem posts (h : s.Loads fs t) (g : t.Posts u) : s.Loads fs u := by
  refine ⟨?_, fun f hf hn => (g.flds f hf).trans (h.flds f hf hn)⟩
  rw [g.load, g.weave, g.portion, g.member]
  exact g.rest.trans (by rw [h.rest])

theorem fset (h : s.Loads fs t) {g : Fld} (hg : g ∈ fs) (v : Nat) : s.Loads fs (t.fset g v) :=
  ⟨congrArg (fun u : State => u.fset g v) h.rest, fun f hf hn => (fget_fset_other (hn g hg) v).trans (h.flds f hf hn)⟩

theorem mem (h : s.Loads fs t) : t.mem = s.mem := by rw [h.rest]
theorem home (h : s.Loads fs t) : t.home = s.home := by rw [h.rest]
theorem mirrorFrames (h : s.Loads fs t) : t.mirrorFrames = s.mirrorFrames := by rw [h.rest]
theorem tiles (h : s.Loads fs t) : t.tiles = s.tiles := by rw [h.rest]
theorem undo (h : s.Loads fs t) : t.undo = s.undo := by rw [h.rest]
theorem coord (h : s.Loads fs t) : t.coord = s.coord := by rw [h.rest]
theorem needPrimary (h : s.Loads fs t) : t.needPrimary = s.needPrimary := by rw [h.rest]
theorem ranges (h : s.Loads fs t) : t.ranges = s.ranges := by rw [h.rest]
theorem seed (h : s.Loads fs t) : t.seed = s.seed := by rw [h.rest]

end State.Loads

section
variable {s : State}

/-- The load is over, with LAST. -/
def State.loadOver (s : State) (last : Nat) : State :=
  { (((s.fset F.WV_STATUS.BUSY 0).fset F.WV_STATUS.PHASE 0).fset F.WV_STATUS.LAST last) with load := none }

theorem posts_endLoad (s : State) (last : Nat) : (s.loadOver last).Posts (s.endLoad last) := by
  unfold State.endLoad
  split
  · exact .endBurst
  · exact .refl _

theorem loads_endLoad {fs : List Fld} (h : [F.WV_STATUS.BUSY, F.WV_STATUS.PHASE, F.WV_STATUS.LAST] ⊆ fs) (last : Nat) :
    s.Loads fs (s.endLoad last) := by
  have hover : s.Loads fs (((s.fset F.WV_STATUS.BUSY 0).fset F.WV_STATUS.PHASE 0).fset F.WV_STATUS.LAST last) :=
    (((State.Loads.refl s).fset (h (by simp)) 0).fset (h (by simp)) 0).fset (h (by simp)) last
  exact State.Loads.posts (t := s.loadOver last) ⟨congrArg (fun u : State => { u with load := none }) hover.rest, hover.flds⟩ (posts_endLoad s last)

/-- The fields that a refusal changes. -/
def refusalFlds : List Fld :=
  [F.WV_STATUS.BUSY, F.WV_STATUS.PHASE, F.WV_STATUS.LAST, F.WV_REFUSE.REASON, F.WV_REFUSE.SECTION, F.WV_REFUSE.ORD, F.WV_REFUSE.RECORD]

/-- WV_REFUSE as a refusal sets it. -/
def State.setRefuse (s : State) (r : WeaveRefusal) : State :=
  (((s.fset F.WV_REFUSE.REASON r.reason.toNat).fset F.WV_REFUSE.SECTION r.sect.toNat).fset F.WV_REFUSE.ORD r.ord.toNat).fset
    F.WV_REFUSE.RECORD r.recNo.toNat

theorem posts_weaveRefused (s : State) (last : Nat) (r : WeaveRefusal) : ((s.endLoad last).setRefuse r).Posts (s.weaveRefused last r) :=
  (State.Posts.event ..).trans (.complete ..)

theorem loads_weaveRefused (s : State) (last : Nat) (r : WeaveRefusal) : s.Loads refusalFlds (s.weaveRefused last r) :=
  (((((loads_endLoad (by decide) last).fset (by decide) _).fset (by decide) _).fset (by decide) _).fset (by decide) _).posts
    (posts_weaveRefused s last r)

theorem weaveRefused_load (s : State) (last : Nat) (r : WeaveRefusal) : (s.weaveRefused last r).load = none :=
  (posts_weaveRefused s last r).load.trans (posts_endLoad s last).load

theorem weaveRefused_weave (s : State) (last : Nat) (r : WeaveRefusal) : (s.weaveRefused last r).weave = s.weave :=
  (posts_weaveRefused s last r).weave.trans (posts_endLoad s last).weave

theorem weaveRefused_portion (s : State) (last : Nat) (r : WeaveRefusal) : (s.weaveRefused last r).portion = s.portion :=
  (posts_weaveRefused s last r).portion.trans (posts_endLoad s last).portion

theorem weaveRefused_reason (s : State) (last : Nat) (r : WeaveRefusal) : (s.weaveRefused last r).fget F.WV_REFUSE.REASON = r.reason.toNat := by
  rw [(posts_weaveRefused s last r).flds _ (by decide)]
  simp (disch := decide) only [State.setRefuse, fget_fset_other, fget_fset_same]
  exact Nat.mod_eq_of_lt r.reason.isLt

/-- The fields that tell of the weave in force, and those of the load. -/
def forceFlds : List Fld :=
  [F.WV_STATUS.BUSY, F.WV_STATUS.PHASE, F.WV_STATUS.LAST, F.WV_STATUS.LOADED, F.WV_STATUS.EPOCH, F.WV_WEAVE_ID.ID, F.WV_LOAD_US.TIME]

/-- A weave is in force, its command not complete yet. -/
def State.enforce (s : State) (w : Weave) (portion : List Byte) (us : W32) : State :=
  (((({ s.endLoad 1 with
    weave := some w, portion := portion
    member := (w.plans.filter (fun (p : Plan) => p.counts s.ord.toNat)).map (fun (p : Plan) => BitVec.ofNat 16 p.plan) }.fset
      F.WV_STATUS.LOADED 1).fset F.WV_STATUS.EPOCH w.hdr.epoch).fset F.WV_WEAVE_ID.ID w.hdr.id.toNat).fset F.WV_LOAD_US.TIME us.toNat)

variable (w : Weave) (portion : List Byte) (us : W32)

theorem posts_inForce : (s.enforce w portion us).Posts (s.inForce w portion us) := .complete ..

theorem loads_inForce : s.Loads forceFlds (s.inForce w portion us) := by
  have hend := loads_endLoad (s := s) (fs := forceFlds) (by decide) 1
  refine State.Loads.posts ?_ (posts_inForce w portion us)
  refine ((((?_ : State.Loads forceFlds s _).fset (by decide) _).fset (by decide) _).fset (by decide) _).fset (by decide) _
  refine ⟨?_, hend.flds⟩
  conv_lhs => rw [hend.rest]

theorem inForce_effect : (s.inForce w portion us).weave = some w ∧ (s.inForce w portion us).portion = portion
    ∧ (s.inForce w portion us).load = none ∧ (s.inForce w portion us).fbit F.WV_STATUS.LOADED = true
    ∧ (s.inForce w portion us).fget F.WV_STATUS.EPOCH = w.hdr.epoch % 16 ∧ (s.inForce w portion us).fget F.WV_WEAVE_ID.ID = w.hdr.id.toNat := by
  have h := posts_inForce (s := s) w portion us
  refine ⟨h.weave, h.portion, h.load.trans (posts_endLoad s 1).load, ?_, ?_, ?_⟩
  · rw [State.fbit, h.flds _ (by decide)]
    simp (disch := decide) only [State.enforce, fget_fset_other, fget_fset_same]
    rfl
  · rw [h.flds _ (by decide)]
    simp (disch := decide) only [State.enforce, fget_fset_other, fget_fset_same]
    rfl
  · rw [h.flds _ (by decide)]
    simp (disch := decide) only [State.enforce, fget_fset_other, fget_fset_same]
    exact Nat.mod_eq_of_lt w.hdr.id.isLt

end

end Sys2Proof.Machine
end

section
/-! # A weave comes into force (R32, R93, R302, R309, R314, R320) -/

namespace Sys2Proof.Machine

theorem tile_of_tiles {s t : State} (h : t.tiles = s.tiles) (x : TileId) : t.tile x = s.tile x := by rw [State.tile, h, State.tile]

theorem fget_of_regs {s t : State} (h : t.regs = s.regs) (f : Fld) : t.fget f = s.fget f := by rw [State.fget, h, State.fget]

/-! ## A full weave is applied (R32, R93, R302, R309) -/

/-- The pages and their home of a full weave, its messages flushed. -/
def State.built (s : State) (w : Weave) : State :=
  (s.fadd F.WV_FLUSH_CNT.COUNT ((s.tiles.map (fun p => messagesIn p.2.eps)).sum)).buildHome w

/-- The frames cleared where the command asks for it. -/
def State.cleared (s : State) (clear : Bool) : State := if clear then s.clearFrames else s

/-- The tiles imaged, and steps, mirror and seed begun anew. -/
def State.remade (s : State) (w : Weave) : State :=
  { ((s.imageAll w).stepsAtLoad w.hdr.k).mirrorAfterLoad with seed := w.hdr.seed, undo := none }

section
variable {s : State} {l : Load} {w : Weave}

theorem weaveApply_eq (hl : s.load = some l) (hw : l.next = some w) (hp : s.fget F.WV_STATUS.PHASE = 5) (hf : w.hdr.full = true) (us : W32) :
    exec (.weaveApply us) s =
      .next ((((((s.built w).cleared l.clear).remade w).inForce w l.portion us).setUnrec false).setHeld false) := by
  change execWeaveApply us s = _
  simp only [execWeaveApply, hl, hw, hp, hf, ne_eq, not_true_eq_false, decide_false, Bool.not_true, Bool.or_self, Bool.false_eq_true, if_false]
  rfl

end

/-! ### The pages -/

theorem buildHome_keeps (s : State) (w : Weave) : (s.buildHome w).tiles = s.tiles ∧ (s.buildHome w).mirrorFrames = s.mirrorFrames
    ∧ (s.buildHome w).mem = s.mem ∧ (s.buildHome w).ranges = w.ranges ∧ (s.buildHome w).home.outcomes = [(0, 1)] := by
  unfold State.buildHome
  exact ⟨rfl, rfl, rfl, rfl, rfl⟩

theorem buildHome_regs (s : State) (w : Weave) : (s.buildHome w).regs =
    (((((s.fset F.HOME_SERIAL.CURRENT 1).fset F.HOME_SERIAL.LAST_ROLLBACK 0).fset F.HOME_STATUS.POISON_HOLD 0).fset
      F.HOME_MIGRATE_STATUS.QUEUED 0).fset F.HOME_MIGRATE_STATUS.BUSY 0).regs := by
  unfold State.buildHome
  rfl

theorem buildHome_serial (s : State) (w : Weave) : (s.buildHome w).fget F.HOME_SERIAL.CURRENT = 1 := by
  rw [fget_of_regs (buildHome_regs s w)]
  simp (disch := decide) only [fget_fset_other, fget_fset_same]
  rfl

theorem built_keeps (s : State) (w : Weave) : (s.built w).tiles = s.tiles ∧ (s.built w).mirrorFrames = s.mirrorFrames
    ∧ (s.built w).mem = s.mem ∧ (s.built w).ranges = w.ranges ∧ (s.built w).home.outcomes = [(0, 1)] :=
  buildHome_keeps _ w

/-! ### Their frames -/

section
variable (s : State)

/-- CLEAR leaves a byte alone: it stands in no frame of the weave, or a mirror holds it. -/
def State.kept (a : Nat) : Bool :=
  !(decide (a / Config.pageBytes ∈ s.usedFrames) && !decide (a / Config.pageBytes ∈ s.mirrorFrames))

theorem clearFrames_mem : s.clearFrames.mem = s.mem.filter (fun c => s.kept c.1) := rfl

theorem cleared_eq (clear : Bool) : s.cleared clear = { s with mem := (s.cleared clear).mem, memBad := (s.cleared clear).memBad } := by
  cases clear <;> rfl

theorem cleared_true {a : Nat} (hu : a / Config.pageBytes ∈ s.usedFrames) (hm : a / Config.pageBytes ∉ s.mirrorFrames) :
    mapGet 0 (s.cleared true).mem a = 0 := by
  have hkept : s.kept a = false := by simp [State.kept, hu, hm]
  change mapGet 0 s.clearFrames.mem a = 0
  rw [clearFrames_mem, mapGet, mapFind_filter s.kept, hkept]
  rfl

/-! ### Tiles, steps and mirror -/

theorem mirrorAfterLoad_eq : s.mirrorAfterLoad = { s with mirror := s.mirrorAfterLoad.mirror } := by
  unfold State.mirrorAfterLoad
  split <;> rfl

variable (w : Weave)

theorem remade_keeps : (s.remade w).home = s.home ∧ (s.remade w).mirrorFrames = s.mirrorFrames ∧ (s.remade w).mem = s.mem
    ∧ (s.remade w).ranges = s.ranges ∧ (s.remade w).seed = w.hdr.seed := by
  obtain ⟨m, k, himg, -⟩ := imageAll_effect s w
  unfold State.remade
  rw [mirrorAfterLoad_eq, himg]
  exact ⟨rfl, rfl, rfl, rfl, rfl⟩

theorem remade_regs : (s.remade w).regs = ((((s.fset F.STEP_CURRENT.STEP 0).fset F.STEP_COMMITTED.STEP 0).fset F.STEP_DURABLE.STEP 0).fset
    F.STEP_INTERVAL.K w.hdr.k).regs := by
  obtain ⟨m, k, himg, -⟩ := imageAll_effect s w
  unfold State.remade
  rw [mirrorAfterLoad_eq, himg]
  rfl

theorem remade_steps : (s.remade w).fget F.STEP_CURRENT.STEP = 0 ∧ (s.remade w).fget F.STEP_COMMITTED.STEP = 0
    ∧ (s.remade w).fget F.STEP_DURABLE.STEP = 0 := by
  refine ⟨?_, ?_, ?_⟩ <;> rw [fget_of_regs (remade_regs s w)]
    <;> simp (disch := decide) only [fget_fset_other, fget_fset_same, Nat.zero_mod]

theorem remade_serial : (s.remade w).fget F.HOME_SERIAL.CURRENT = s.fget F.HOME_SERIAL.CURRENT := by
  rw [fget_of_regs (remade_regs s w)]
  simp (disch := decide) only [fget_fset_other]

theorem remade_tile (t : TileId) : ∃ ord seed, (s.remade w).tile t = (s.tile t).imaged w ord t seed := by
  obtain ⟨m, k, himg, htile⟩ := imageAll_effect s w
  obtain ⟨seed, ht⟩ := htile t
  refine ⟨_, seed, Eq.trans ?_ ht⟩
  unfold State.remade
  rw [mirrorAfterLoad_eq, himg]
  rfl

end

/-! ### The whole of it -/

theorem usedFrames_congr {s t : State} (hh : t.home = s.home) (hm : t.mirrorFrames = s.mirrorFrames) : t.usedFrames = s.usedFrames := by
  rw [State.usedFrames, hh, hm, State.usedFrames]

/-- A full weave's tiles are imaged, each in the phase that its image calls for, unless it is in reset. -/
theorem applied_tile (s : State) (w : Weave) (clear : Bool) (t : TileId) :
    ∃ ord seed, (((s.built w).cleared clear).remade w).tile t = (s.tile t).imaged w ord t seed := by
  obtain ⟨ord, seed, ht⟩ := remade_tile ((s.built w).cleared clear) w t
  refine ⟨ord, seed, ht.trans ?_⟩
  have htiles : ((s.built w).cleared clear).tiles = s.tiles := by
    rw [cleared_eq]
    exact (built_keeps s w).1
  rw [tile_of_tiles htiles]

/-- The job is neither lost nor held once a full weave is in force. -/
theorem posts_unheld (s : State) : s.Posts ((s.setUnrec false).setHeld false) := (State.Posts.setUnrec false).trans (.setHeld false)

theorem fullWeave_comesIntoForce {s : State} {l : Load} {w : Weave} (hl : s.load = some l) (hw : l.next = some w)
    (hp : s.fget F.WV_STATUS.PHASE = 5) (hf : w.hdr.full = true) (us : W32) :
    ∃ s', exec (.weaveApply us) s = .next s' ∧ s'.weave = some w ∧ s'.load = none ∧ s'.ranges = w.ranges ∧ s'.seed = w.hdr.seed
      ∧ s'.fget F.STEP_CURRENT.STEP = 0 ∧ s'.fget F.STEP_COMMITTED.STEP = 0 ∧ s'.fget F.STEP_DURABLE.STEP = 0
      ∧ s'.fget F.HOME_SERIAL.CURRENT = 1 ∧ s'.fbit F.WV_STATUS.LOADED = true ∧ s'.fget F.WV_STATUS.EPOCH = w.hdr.epoch % 16
      ∧ s'.fget F.WV_WEAVE_ID.ID = w.hdr.id.toNat ∧ s'.home.outcomes = [(0, 1)]
      ∧ (∀ t : TileId, (s'.tile t).img = w.imageAt t ∧ (s'.tile t).imem = (w.imageAt t).code ∧ (s'.tile t).eps = w.endpointsOf t
          ∧ (s'.tile t).phase = if (s.tile t).phase = phReset then phReset else if (w.imageAt t).ctx then phGate else phNoContext)
      ∧ (l.clear = false → s'.mem = s.mem)
      ∧ (l.clear = true → ∀ a, a / Config.pageBytes ∈ s'.usedFrames → a / Config.pageBytes ∉ s.mirrorFrames → mapGet 0 s'.mem a = 0) := by
  obtain ⟨-, hbmirror, hbmem, hbranges, hboutcomes⟩ := built_keeps s w
  have hc := cleared_eq (s.built w) l.clear
  have hchome : ((s.built w).cleared l.clear).home = (s.built w).home := by rw [hc]
  have hcmirror : ((s.built w).cleared l.clear).mirrorFrames = (s.built w).mirrorFrames := by rw [hc]
  have hcranges : ((s.built w).cleared l.clear).ranges = (s.built w).ranges := by rw [hc]
  have hcregs : ((s.built w).cleared l.clear).regs = (s.built w).regs := by rw [hc]
  obtain ⟨hhome, hmirror, hmem, hranges, hseed⟩ := remade_keeps ((s.built w).cleared l.clear) w
  obtain ⟨hcur, hcom, hdur⟩ := remade_steps ((s.built w).cleared l.clear) w
  have hserial := (remade_serial ((s.built w).cleared l.clear) w).trans ((fget_of_regs hcregs _).trans (buildHome_serial _ w))
  have happly := weaveApply_eq hl hw hp hf us
  have htile := applied_tile s w l.clear
  generalize ((s.built w).cleared l.clear).remade w = v at *
  obtain ⟨hweave, -, hload, hloaded, hepoch, hid⟩ := inForce_effect (s := v) w l.portion us
  have hforce := loads_inForce (s := v) w l.portion us
  have hend := posts_unheld (v.inForce w l.portion us)
  have hloads := hforce.posts hend
  have hmem := hloads.mem.trans hmem
  refine ⟨_, happly, hend.weave.trans hweave, hend.load.trans hload, hloads.ranges.trans (hranges.trans (hcranges.trans hbranges)),
    hloads.seed.trans hseed, (hloads.flds _ (by decide) (by decide)).trans hcur, (hloads.flds _ (by decide) (by decide)).trans hcom,
    (hloads.flds _ (by decide) (by decide)).trans hdur, (hloads.flds _ (by decide) (by decide)).trans hserial, ?_,
    (hend.flds _ (by decide)).trans hepoch, (hend.flds _ (by decide)).trans hid, ?_, fun t => ?_, fun hclear => ?_, fun hclear a hu hm => ?_⟩
  · rw [State.fbit, hend.flds _ (by decide)]
    exact hloaded
  · exact (congrArg Home.outcomes (hloads.home.trans (hhome.trans hchome))).trans hboutcomes
  · obtain ⟨ord, seed, ht⟩ := htile t
    rw [tile_of_tiles hloads.tiles, ht]
    exact ⟨imaged_img .., imaged_imem .., imaged_eps .., imaged_phase ..⟩
  · rw [hmem, hclear]
    exact hbmem
  · rw [hmem, hclear]
    rw [usedFrames_congr (hloads.home.trans (hhome.trans hchome)) (hloads.mirrorFrames.trans (hmirror.trans hcmirror))] at hu
    exact cleared_true (s.built w) hu (by rwa [hbmirror])

end Sys2Proof.Machine
end

section
/-! # A partial weave comes into force, and an abandoned one is undone (R302, R314, R316, R320) -/

namespace Sys2Proof.Machine

/-! ## A partial weave is applied -/

section
variable {s : State} {l : Load} {w : Weave}

/-- What an abandoned apply brings back. -/
def State.before (s : State) (l : Load) : Undo :=
  { weave := s.weave, portion := s.portion, told := l.told, epoch := s.fget F.WV_STATUS.EPOCH
    id := s.fget F.WV_WEAVE_ID.ID, k := s.fget F.STEP_INTERVAL.K, member := s.member }

/-- The tiles that a partial weave replaces, imaged. -/
def State.patched (s : State) (w : Weave) (told : List (TileId × Nat)) : State :=
  ((s.patchAll w told).1.fadd F.WV_FLUSH_CNT.COUNT (s.patchAll w told).2).fset F.STEP_INTERVAL.K w.hdr.k

theorem partialApply_eq (hl : s.load = some l) (hw : l.next = some w) (hready : s.partialReady = true) (us : W32) :
    exec (.partialApply us) s =
      .next { (s.patched w l.told).inForce w (mergePortion (s.patched w l.told).portion l.portion) us with undo := some (s.before l) } := by
  change execPartialApply us s = _
  simp only [execPartialApply, hready, hl, hw, Bool.not_true, Bool.false_eq_true, if_false, State.patched]
  generalize s.patchAll w l.told = p
  rfl

theorem patched_keeps (s : State) (w : Weave) (told : List (TileId × Nat)) :
    (s.patched w told).mem = s.mem ∧ (s.patched w told).home = s.home ∧ (s.patched w told).portion = s.portion
    ∧ ∀ t : TileId, ((s.patched w told).tile t).img = if w.replaced t then w.imageAt t else (s.tile t).img := by
  obtain ⟨m, k, hpatch, htile⟩ := patchAll_effect s w told
  unfold State.patched
  rw [hpatch]
  refine ⟨rfl, rfl, rfl, fun t => ?_⟩
  obtain ⟨seed, ht⟩ := htile t
  exact (congrArg Tile.img ht).trans (patched_img ..)

theorem partialWeave_comesIntoForce (hl : s.load = some l) (hw : l.next = some w) (hready : s.partialReady = true) (us : W32) :
    ∃ s', exec (.partialApply us) s = .next s' ∧ s'.weave = some w ∧ s'.load = none ∧ s'.mem = s.mem ∧ s'.home = s.home
      ∧ s'.portion = mergePortion s.portion l.portion ∧ s'.fget F.WV_STATUS.EPOCH = w.hdr.epoch % 16 ∧ s'.fget F.WV_WEAVE_ID.ID = w.hdr.id.toNat
      ∧ ∀ t : TileId, (s'.tile t).img = if w.replaced t then w.imageAt t else (s.tile t).img := by
  obtain ⟨hmem, hhome, hold, himg⟩ := patched_keeps s w l.told
  have hforce := loads_inForce (s := s.patched w l.told) w (mergePortion s.portion l.portion) us
  obtain ⟨hweave, hportion, hload, -, hepoch, hid⟩ := inForce_effect (s := s.patched w l.told) w (mergePortion s.portion l.portion) us
  have happly := partialApply_eq hl hw hready us
  rw [hold] at happly
  generalize (s.patched w l.told).inForce w (mergePortion s.portion l.portion) us = v at *
  refine ⟨_, happly, hweave, hload, hforce.mem.trans hmem, hforce.home.trans hhome, hportion, hepoch, hid, fun t => ?_⟩
  exact (congrArg Tile.img (tile_of_tiles hforce.tiles t)).trans (himg t)

end

/-! ## An apply is abandoned -/

section
variable {s : State} {u : Undo}

/-- The replaced tiles of an apply, with their old images. -/
def State.unpatched (s : State) (u : Undo) : State :=
  match u.weave, s.weave with
  | some old, some new => s.restoreAll old new u.told
  | _, _ => s

theorem unpatched_eq (s : State) (u : Undo) : ∃ m k, s.unpatched u = { s with tiles := m, free := k } := by
  unfold State.unpatched
  split
  · rename_i old new _ _
    obtain ⟨m, k, h, -⟩ := restoreAll_effect s old new u.told
    exact ⟨m, k, h⟩
  · exact ⟨_, _, rfl⟩

theorem unpatched_img {old new : Weave} (ho : u.weave = some old) (hn : s.weave = some new) (t : TileId) :
    ((s.unpatched u).tile t).img = if new.replaced t then old.imageAt t else (s.tile t).img := by
  obtain ⟨m, k, h, htile⟩ := restoreAll_effect s old new u.told
  obtain ⟨seed, ht⟩ := htile t
  rw [State.unpatched, ho, hn]
  change ((s.restoreAll old new u.told).tile t).img = _
  rw [h]
  exact (congrArg Tile.img ht).trans (restored_img ..)

theorem unapply_eq (hu : s.undo = some u) : s.unapply =
    (({ s.unpatched u with weave := u.weave, portion := u.portion, member := u.member, undo := none }.fset F.WV_STATUS.EPOCH u.epoch).fset
      F.WV_WEAVE_ID.ID u.id).fset F.STEP_INTERVAL.K u.k := by
  rw [State.unapply, hu]
  rfl

/-- The apply undone, and its load refused with 0x26. -/
def State.abandoned (s : State) : State := s.unapply.weaveRefused 3 (headRefusal 0x26 s.ord)

/-- An abandoned apply brings back the weave before it. -/
theorem abandoned_weave (hu : s.undo = some u) : s.abandoned.weave = u.weave ∧ s.abandoned.portion = u.portion ∧ s.abandoned.load = none
    ∧ s.abandoned.undo = none ∧ s.abandoned.mem = s.mem ∧ s.abandoned.fget F.WV_STATUS.EPOCH = u.epoch % 16
    ∧ s.abandoned.fget F.WV_WEAVE_ID.ID = u.id % 2 ^ 64 ∧ s.abandoned.fget F.WV_REFUSE.REASON = 0x26 := by
  have hr := loads_weaveRefused s.unapply 3 (headRefusal 0x26 s.ord)
  obtain ⟨m, k, hkeep⟩ := unpatched_eq s u
  have hun := unapply_eq hu
  rw [hkeep] at hun
  refine ⟨(weaveRefused_weave ..).trans ?_, (weaveRefused_portion ..).trans ?_, weaveRefused_load .., hr.undo.trans ?_, hr.mem.trans ?_,
    (hr.flds _ (by decide) (by decide)).trans ?_, (hr.flds _ (by decide) (by decide)).trans ?_, weaveRefused_reason ..⟩ <;> rw [hun]
  case refine_5 => simp (disch := decide) only [fget_fset_other, fget_fset_same]; rfl
  case refine_6 => simp (disch := decide) only [fget_fset_other, fget_fset_same]; rfl
  all_goals rfl

theorem abandoned_tile (hu : s.undo = some u) (t : TileId) : s.abandoned.tile t = (s.unpatched u).tile t := by
  refine (tile_of_tiles (loads_weaveRefused ..).tiles t).trans ?_
  rw [unapply_eq hu]
  rfl

/-- The fields that an abandoned apply changes, with those that its completion, record and interrupt may. -/
def abandonFlds : List Fld := [F.WV_STATUS.EPOCH, F.WV_WEAVE_ID.ID, F.STEP_INTERVAL.K] ++ refusalFlds

theorem abandoned_fld (hu : s.undo = some u) {f : Fld} (hf : f.Steady) (hn : ∀ g ∈ abandonFlds, f.key ≠ g.key) :
    s.abandoned.fget f = s.fget f := by
  obtain ⟨m, k, hkeep⟩ := unpatched_eq s u
  have hun := unapply_eq hu
  rw [hkeep] at hun
  refine ((loads_weaveRefused ..).flds f hf fun g hg => hn g (List.mem_append_right _ hg)).trans ?_
  rw [hun, fget_fset_other (hn _ (by decide)), fget_fset_other (hn _ (by decide)), fget_fset_other (hn _ (by decide))]
  rfl

theorem abandoned_coord (hu : s.undo = some u) : s.abandoned.coord = s.coord ∧ s.abandoned.needPrimary = s.needPrimary := by
  have hr := loads_weaveRefused s.unapply 3 (headRefusal 0x26 s.ord)
  obtain ⟨m, k, hkeep⟩ := unpatched_eq s u
  have hun := unapply_eq hu
  rw [hkeep] at hun
  refine ⟨hr.coord.trans ?_, hr.needPrimary.trans ?_⟩ <;> rw [hun] <;> rfl

/-- Abandoning an apply does not bear on who coordinates. -/
theorem abandoned_coordinates (hu : s.undo = some u) : s.abandoned.coordinates = s.coordinates := by
  obtain ⟨hcoord, hneed⟩ := abandoned_coord hu
  have hord : s.abandoned.ord = s.ord := ord_congr (by
    simp only [List.forall_mem_cons, List.not_mem_nil, false_implies, implies_true, and_true]
    exact ⟨abandoned_fld hu (by decide) (by decide), abandoned_fld hu (by decide) (by decide), abandoned_fld hu (by decide) (by decide)⟩)
  have hprimary : s.abandoned.primaryOrd = s.primaryOrd := abandoned_fld hu (by decide) (by decide)
  simp only [State.coordinates, hcoord, hneed, hord, hprimary]

/-- The coordinator of a job between steps rolls back; another member only refuses the load. -/
def State.abortIdle (s : State) : State := if s.coordinates && s.coord.stage == .none then s.abort 4 s.ord.toNat else s

theorem applyAbandon_eq (hu : s.undo = some u) : exec .applyAbandon s = .next s.abandoned.abortIdle := by
  have happly : s.applying = true := by simp [State.applying, hu]
  change execApplyAbandon s = _
  simp only [execApplyAbandon, happly, if_true]
  rfl

/-- Fields of a decision. -/
def decisionFlds : List Fld := [F.STEP_LAST_VOTE.STEP, F.STEP_LAST_VOTE.OUTCOME, F.STEP_LAST_VOTE.REASON, F.STEP_LAST_VOTE.ORD]

/-- A rollback begun keeps the weave, the load, the tiles and memory. -/
theorem abortIdle_keeps (s : State) : s.abortIdle.weave = s.weave ∧ s.abortIdle.portion = s.portion ∧ s.abortIdle.load = s.load
    ∧ s.abortIdle.undo = s.undo ∧ s.abortIdle.mem = s.mem ∧ s.abortIdle.tiles = s.tiles := by
  unfold State.abortIdle
  split <;> exact ⟨rfl, rfl, rfl, rfl, rfl, rfl⟩

theorem abortIdle_fld (s : State) {f : Fld} (hn : ∀ g ∈ decisionFlds, f.key ≠ g.key) : s.abortIdle.fget f = s.fget f := by
  unfold State.abortIdle
  split
  · exact (fget_fset_other (hn F.STEP_LAST_VOTE.ORD (by decide)) _).trans <| (fget_fset_other (hn F.STEP_LAST_VOTE.REASON (by decide)) _).trans <|
      (fget_fset_other (hn F.STEP_LAST_VOTE.OUTCOME (by decide)) _).trans (fget_fset_other (hn F.STEP_LAST_VOTE.STEP (by decide)) _)
  · rfl

theorem abortIdle_rolls (hc : s.coordinates = true) (hg : s.coord.stage = .none) : s.abortIdle.coord.stage = .rolling
    ∧ s.abortIdle.out.getLast? = some (.ctrl 0x0C none (BitVec.ofNat 64 (s.fget F.STEP_CURRENT.STEP)) 2) := by
  have hroll : s.abortIdle = s.abort 4 s.ord.toNat := if_pos (by rw [hc, hg]; rfl)
  rw [hroll]
  exact ⟨rfl, List.getLast?_concat ..⟩

theorem abandonedApply_isUndone (hu : s.undo = some u) :
    ∃ s', exec .applyAbandon s = .next s' ∧ s'.weave = u.weave ∧ s'.portion = u.portion
      ∧ (∀ old new, u.weave = some old → s.weave = some new → ∀ t : TileId,
          (s'.tile t).img = if new.replaced t then old.imageAt t else (s.tile t).img)
      ∧ (s.coordinates = true → s.coord.stage = .none → s'.coord.stage = .rolling
          ∧ s'.out.getLast? = some (.ctrl 0x0C none (BitVec.ofNat 64 (s.fget F.STEP_CURRENT.STEP)) 2))
      ∧ s'.fget F.WV_STATUS.EPOCH = u.epoch % 16 ∧ s'.fget F.WV_WEAVE_ID.ID = u.id % 2 ^ 64 ∧ s'.fget F.WV_REFUSE.REASON = 0x26
      ∧ s'.load = none ∧ s'.undo = none ∧ s'.mem = s.mem := by
  obtain ⟨hweave, hportion, hload, hundo, hmem, hepoch, hid, hreason⟩ := abandoned_weave hu
  obtain ⟨hkweave, hkportion, hkload, hkundo, hkmem, hktiles⟩ := abortIdle_keeps s.abandoned
  refine ⟨_, applyAbandon_eq hu, hkweave.trans hweave, hkportion.trans hportion, fun old new ho hn t => ?_, fun hc hg => ?_,
    (abortIdle_fld _ (by decide)).trans hepoch, (abortIdle_fld _ (by decide)).trans hid, (abortIdle_fld _ (by decide)).trans hreason,
    hkload.trans hload, hkundo.trans hundo, hkmem.trans hmem⟩
  · rw [← unpatched_img ho hn t, ← abandoned_tile hu t, tile_of_tiles hktiles]
  · rw [← abandoned_fld hu (f := F.STEP_CURRENT.STEP) (by decide) (by decide)]
    exact abortIdle_rolls ((abandoned_coordinates hu).trans hc) ((congrArg Coord.stage (abandoned_coord hu).1).trans hg)

end

/-- Settles O45: an apply is followed to the weave in force, and an abandon to the weave before it. -/
theorem weavesComeIntoForce : Obligations.WeavesComeIntoForce := by
  unfold Obligations.WeavesComeIntoForce
  exact fun _ _ => ⟨fun _ _ us hl hw hp hf => fullWeave_comesIntoForce hl hw hp hf us,
    fun _ _ us hl hw hready => partialWeave_comesIntoForce hl hw hready us, fun _ hu => abandonedApply_isUndone hu⟩

end Sys2Proof.Machine
end

section
/-! # Memory reads what was written last (R85, R94) -/

namespace Sys2Proof.Machine

section
variable (d : Byte) (m : SMap Byte)

theorem mapGet_writeBytes_outside {a x : Nat} (bs : List Byte) (h : x < a ∨ a + bs.length ≤ x) :
    mapGet d (writeBytes d a bs m) x = mapGet d m x := by
  induction bs generalizing a m with
  | nil => rfl
  | cons b bs ih =>
    rw [List.length_cons] at h
    rw [writeBytes, ih _ (by omega), mapGet_mapPut_ne d (by omega)]

theorem readBytes_writeBytes (a : Nat) (bs : List Byte) : readBytes d (writeBytes d a bs m) a bs.length = bs := by
  induction bs generalizing a m with
  | nil => rfl
  | cons b bs ih =>
    rw [List.length_cons, readBytes, writeBytes, ih, mapGet_writeBytes_outside d _ bs (.inl a.lt_succ_self), mapGet_mapPut_self]

end

/-! ## A copied range -/

section
variable {l k : List Host.Cell} {src dst x : Nat}

theorem mapGet_puts_outside (f : Host.Cell → Nat) (h : ∀ c ∈ l, f c ≠ x) :
    mapGet 0 (l.foldl (fun acc c => mapPut 0 (f c) c.2 acc) k) x = mapGet 0 k x :=
  List.foldlRecOn (motive := fun m => mapGet 0 m x = mapGet 0 k x) l _ rfl fun m hm c hc =>
    (mapGet_mapPut_ne 0 (h c hc).symm c.2 m).trans hm

/-- Cells shifted from `src` to `dst`: a byte at the destination is the one listed at its source, and otherwise as it was. -/
theorem mapGet_puts_shifted (hl : Rising l) (hs : ∀ c ∈ l, src ≤ c.1) (hx : dst ≤ x) :
    mapGet 0 (l.foldl (fun acc c => mapPut 0 (dst + (c.1 - src)) c.2 acc) k) x = (mapFind l (src + (x - dst))).getD (mapGet 0 k x) := by
  induction l generalizing k with
  | nil => rfl
  | cons c l ih =>
    obtain ⟨p, v⟩ := c
    obtain ⟨hlt, hl⟩ := List.pairwise_cons.1 hl
    have hp : src ≤ p := hs _ (.head _)
    rw [List.foldl_cons, ih hl fun c hc => hs c (.tail _ hc), mapFind]
    by_cases he : src + (x - dst) = p
    · have hput : x = dst + (p - src) := by omega
      rw [if_pos he, he, mapFind_none_of_lt hlt, ← hput, mapGet_mapPut_self]
      rfl
    · rw [if_neg he, mapGet_mapPut_ne 0 (by omega)]

end

theorem mapGet_copyCells {m : List Host.Cell} (hm : Memory.wf m = true) (src dst n x : Nat) :
    mapGet 0 (copyCells src dst n m) x = if dst ≤ x ∧ x < dst + n then mapGet 0 m (src + (x - dst)) else mapGet 0 m x := by
  have hkept := mapFind_filter (fun p => !decide (dst ≤ p ∧ p < dst + n)) m x
  have hsource := mapFind_filter (fun p => decide (src ≤ p ∧ p < src + n)) m (src + (x - dst))
  have hcell : ∀ c ∈ m.filter (fun c => decide (src ≤ c.1 ∧ c.1 < src + n)), src ≤ c.1 ∧ c.1 < src + n :=
    fun c hc => of_decide_eq_true (List.mem_filter.1 hc).2
  unfold copyCells
  by_cases hx : dst ≤ x ∧ x < dst + n
  · have hin : decide (src ≤ src + (x - dst) ∧ src + (x - dst) < src + n) = true := decide_eq_true (by omega)
    rw [mapGet_puts_shifted (rising_filter _ ((memWf_iff m).1 hm).1) (fun c hc => (hcell c hc).1) hx.1, hsource, if_pos hin, if_pos hx,
      mapGet, hkept, if_neg (by simp [hx])]
    rfl
  · have hout : ∀ c ∈ m.filter (fun c => decide (src ≤ c.1 ∧ c.1 < src + n)), dst + (c.1 - src) ≠ x := fun c hc he => by
      have := hcell c hc
      omega
    rw [mapGet_puts_outside (fun c => dst + (c.1 - src)) hout, if_neg hx, mapGet, hkept, if_pos (by rw [decide_eq_false hx]; rfl)]
    rfl

/-- Settles O39: a write is followed byte by byte, a copy by the cells that it puts at their new place. -/
theorem memoryReadsWhatWasWritten : Obligations.MemoryReadsWhatWasWritten := fun m a bs hm =>
  ⟨memWf_writeBytes a bs hm, readBytes_writeBytes 0 m a bs, fun _ hx => mapGet_writeBytes_outside 0 m bs hx, mapGet_copyCells hm⟩

end Sys2Proof.Machine
end

section
/-! # The sweeper, interval serials and migration (R87, R89, R92, R96, R99 to R101) -/

namespace Sys2Proof.Machine

/-! ## The sweeper (R92) -/

/-- A touch of an entry whose unit is not lost changes at most the entries and the cache. -/
theorem touch_intact {s : State} {lpn : Nat} (h : entryUnit lpn ∉ s.memBad) :
    ∃ table cache, (s.touch lpn).2 = { s with home := { s.home with table := table, cache := cache } } := by
  have hread : s.readEntry lpn = s := if_neg (by simp [h])
  simp only [State.touch, hread]
  split <;> exact ⟨_, _, rfl⟩

/-- What the sweeper's touch does: it goes on to the next entry, and at the end of a pass notes how long it took. -/
theorem sweeperTouch_effect {s : State} {k : BitVec 6} (us : W16)
    (h : entryUnit (mapGet 0 s.home.sweepPos k.toNat * 64 + k.toNat) ∉ s.memBad) :
    ∃ table cache began, exec (.sweeperTouch k us) s = .next
      (if mapGet 0 s.home.sweepPos k.toNat + 1 < 65536 then
        { s with home := { s.home with
          table := table, cache := cache
          sweepPos := mapIns k.toNat (mapGet 0 s.home.sweepPos k.toNat + 1) s.home.sweepPos
          sweepFrom := mapIns k.toNat began s.home.sweepFrom } }
      else { s with home := { s.home with
          table := table, cache := cache
          sweepPos := mapIns k.toNat 0 s.home.sweepPos
          sweepLast := mapIns k.toNat began s.home.sweepLast } }.fset F.HOME_STATUS.SWEEP_PASS_US us.toNat) := by
  obtain ⟨table, cache, ht⟩ := touch_intact h
  change ∃ table cache began, execSweeperTouch k us s = _
  simp only [execSweeperTouch, ht]
  generalize (s.touch (mapGet 0 s.home.sweepPos k.toNat * 64 + k.toNat)).1 = e
  split <;> split <;> exact ⟨_, _, _, rfl⟩

section
variable {s : State} {k : BitVec 6} (us : W16) (h : entryUnit (mapGet 0 s.home.sweepPos k.toNat * 64 + k.toNat) ∉ s.memBad)
include h

theorem sweeperTouch_within (hp : mapGet 0 s.home.sweepPos k.toNat < 65535) : ∃ s', exec (.sweeperTouch k us) s = .next s'
    ∧ mapGet 0 s'.home.sweepPos k.toNat = mapGet 0 s.home.sweepPos k.toNat + 1 ∧ s'.mem = s.mem ∧ s'.regs = s.regs := by
  obtain ⟨_, _, _, hstep⟩ := sweeperTouch_effect us h
  rw [if_pos (by omega)] at hstep
  exact ⟨_, hstep, (mapGet_mapIns ..).trans (if_pos rfl), rfl, rfl⟩

theorem sweeperTouch_passEnds (hp : mapGet 0 s.home.sweepPos k.toNat = 65535) : ∃ s', exec (.sweeperTouch k us) s = .next s'
    ∧ mapGet 0 s'.home.sweepPos k.toNat = 0 ∧ s'.mem = s.mem ∧ s'.regs = (s.fset F.HOME_STATUS.SWEEP_PASS_US us.toNat).regs := by
  obtain ⟨_, _, _, hstep⟩ := sweeperTouch_effect us h
  rw [if_neg (by omega)] at hstep
  exact ⟨_, hstep, (mapGet_mapIns ..).trans (if_pos rfl), rfl, rfl⟩

end

/-! ## Interval serials (R87, R92) -/

/-- Until serial 0x8000 the next interval opens without a sweep. -/
theorem intervalOpen_unswept {s : State} (hc : s.home.closing = true) (hn : s.home.intervals + 1 < 32767) : exec .intervalOpen s =
    .next { s.fset F.HOME_SERIAL.CURRENT ((s.fget F.HOME_SERIAL.CURRENT + 1) % 65536) with home := { s.home with
      outcomes := mapDel ((s.fget F.HOME_SERIAL.CURRENT + 1) % 65536) s.home.outcomes
      closing := false
      stalled := false
      intervals := s.home.intervals + 1 } } := by
  have hswept : s.sweptFor = true := by simp [State.sweptFor, hn]
  change execIntervalOpen s = _
  simp only [execIntervalOpen, hc, hswept, Bool.not_true, Bool.false_eq_true, if_false, if_true]
  rfl

/-! ## A migration is asked for (R99) -/

section
variable {s : State} {v : W64} (ht : bits v.toNat 57 56 < 2) (hv : bit v.toNat 63 = true)
include ht hv

theorem migrateRequest_queued (hc : s.migrateCode (bits v.toNat 21 0) (bits v.toNat 57 56 == 1) = 0) : exec (.migrateRequest v) s =
    .next { s.fset F.HOME_MIGRATE_STATUS.QUEUED (s.home.migQ.length + 1) with
      home := { s.home with migQ := s.home.migQ ++ [(bits v.toNat 21 0, bits v.toNat 57 56 == 1)] } } := by
  change execMigrateRequest v s = _
  simp only [execMigrateRequest, Nat.not_le.2 ht, hv, hc, Bool.not_true, Bool.false_eq_true, if_false, List.length_append]
  rfl

theorem migrateRequest_refused (hc : s.migrateCode (bits v.toNat 21 0) (bits v.toNat 57 56 == 1) ≠ 0) : exec (.migrateRequest v) s =
    .next (s.fset F.HOME_MIGRATE_STATUS.LAST_RESULT (s.migrateCode (bits v.toNat 21 0) (bits v.toNat 57 56 == 1))) := by
  change execMigrateRequest v s = _
  simp only [execMigrateRequest, Nat.not_le.2 ht, hv, Bool.not_true, Bool.false_eq_true, if_false]

end

/-! ## A migration starts (R96, R100) -/

/-- Frames are chosen by the size of the pool and the capacities of the far ports. -/
theorem allocPage_congr {s t : State} (hf : t.fget F.WV_STORE.FRAMES = s.fget F.WV_STORE.FRAMES) (hc : t.home.farCap = s.home.farCap) :
    t.allocPage = s.allocPage := by
  have hnear : t.freeNear = s.freeNear := by
    funext used stack
    simp only [State.freeNear, State.nearTop, hf]
  have hbase : t.farBase = s.farBase := by
    funext p
    simp only [State.farBase, hc]
  have hcount : t.farCount = s.farCount := by
    funext p
    simp only [State.farCount, hbase, hc]
  have hfar : t.freeFar = s.freeFar := by
    funext used port
    simp only [State.freeFar, hbase, hcount]
  funext used l two tier
  simp only [State.allocPage, State.allocNear, State.allocFar, State.allocFarBut, hnear, hfar]

/-- The migration of page `lpn` to the frames `f` and `g` is under way. -/
def Entry.movingTo (e : Entry) (f g : Nat) : Entry :=
  { e with new0 := BitVec.ofNat 24 f, new1 := BitVec.ofNat 24 g, migrating := true, cursor := 0 }

theorem migrationStart_begins {s : State} {lpn f g : Nat} {far : Bool} {q : List (Nat × Bool)} (hn : s.home.migNow = none)
    (hq : s.home.migQ = (lpn, far) :: q)
    (ha : s.allocPage s.usedFrames lpn (s.entry lpn).versioned (if far then 1 else 0) = some (f, g)) : exec .migrationStart s = .next
      { (s.fset F.HOME_MIGRATE_STATUS.QUEUED q.length).fset F.HOME_MIGRATE_STATUS.BUSY 1 with
        home := { (s.setEntry lpn ((s.entry lpn).movingTo f g)).home with migQ := q, migNow := some lpn } } := by
  change execMigrationStart s = _
  unfold execMigrationStart
  split
  · rename_i hq'
    cases hq.symm.trans hq'
    extract_lets e home t
    have halloc : t.allocPage = s.allocPage := allocPage_congr (fget_fset_other (by decide) _) rfl
    have hused : t.usedFrames = s.usedFrames := rfl
    rw [halloc, hused, ha]
    rfl
  · rename_i h
    exact absurd hq (h _ _ _ hn)

/-! ## A sub-block of a migrating page is copied (R100, R101, R104) -/

/-- The buddy's copy restores the sub-block, or does not bear on what the loss does. -/
theorem lostPage_cases (s : State) (lpn sub at_ a : Nat) (host : Bool) (buddy : Option (List Byte)) :
    s.lostPage lpn sub at_ a host buddy = s.lostPage lpn sub at_ a host none
      ∨ ∃ bs, s.lostPage lpn sub at_ a host buddy =
        (true, (s.memWrite ((s.resolve (s.entry lpn)).committedAt sub) bs).event 0x9032 2 (unitLoc (lpn % 64)) 0 (data2 lpn sub)) := by
  cases hb : (if s.buddyHolds then buddy else none) with
  | none => exact .inl (by simp only [State.lostPage, hb, ite_self])
  | some bs =>
    simp only [State.lostPage, hb, ite_self]
    split
    · exact .inl rfl
    · split
      · exact .inr ⟨_, rfl⟩
      · exact .inl rfl

/-- A loss leaves all but what `State.Marks` names, and memory where the buddy's copy is written. -/
theorem marks_lostPage (s : State) (lpn sub at_ a : Nat) (host : Bool) (buddy : Option (List Byte)) :
    ∃ m b, { s with mem := m, memBad := b }.Marks (s.lostPage lpn sub at_ a host buddy).2 := by
  rcases lostPage_cases s lpn sub at_ a host buddy with h | ⟨bs, h⟩ <;> rw [h]
  · exact ⟨s.mem, s.memBad, State.Marks.lostPage ..⟩
  · exact ⟨_, _, (State.Posts.event ..).marks⟩

/-- Where the next sub-block of a migrating page lies in its first frame. -/
def Entry.movesFrom (e : Entry) : Nat := e.frame0.toNat * Config.pageBytes + e.cursor * Config.subBytes

/-- Where it goes in the first of the new frames. -/
def Entry.movesTo (e : Entry) : Nat := e.new0.toNat * Config.pageBytes + e.cursor * Config.subBytes

/-- A copy that cannot read the first frame finds its sub-block lost. -/
theorem migrationLost_of_bad (s : State) (e : Entry) : (s.memErr .bad e.movesFrom).2.migrationLost e e.cursor = some false := by
  have hpos : 0 < Config.subBytes := by decide
  have hne : (s.memErr .bad e.movesFrom).2.memBadIn e.movesFrom Config.subBytes ≠ [] :=
    List.ne_nil_of_mem (List.mem_filter.2 ⟨mem_addTo_self (e.movesFrom / 64) s.memBad, decide_eq_true (by omega)⟩)
  generalize (s.memErr .bad e.movesFrom).2 = t at hne ⊢
  unfold Entry.movesFrom at hne
  simp [State.migrationLost, hne]

theorem migrated_ends (s : State) (lpn : Nat) (e : Entry) : (s.migrated lpn e 7).home.migNow = none
    ∧ (s.migrated lpn e 7).fget F.HOME_MIGRATE_STATUS.LAST_RESULT = 7 ∧ (s.migrated lpn e 7).fget F.HOME_MIGRATE_STATUS.BUSY = 0 :=
  ⟨rfl, fget_fset_same _, (fget_fset_other (by decide) _).trans (fget_fset_same _)⟩

section
variable {s t : State} {lpn : Nat} {e : Entry} (hn : s.home.migNow = some lpn) (ht : (s.touch lpn).2 = t) (he : t.entry lpn = e)
  (hw : t.home.cowOf lpn e.cursor = none)
include hn ht he hw

theorem migrationCopy_goesOn (hv : e.versioned = false) (hc : e.cursor < 31) (hl : t.migrationLost e e.cursor = none) :
    exec (.migrationSubblockCopy .good false none) s = .next
      ((((t.relayed lpn e.movesFrom (t.addrOf lpn + e.cursor * Config.subBytes) Config.subBytes false).relayed lpn e.movesTo
        (t.addrOf lpn + e.cursor * Config.subBytes) Config.subBytes true).memCopy e.movesFrom e.movesTo Config.subBytes).setEntry lpn
          { e with cursor := e.cursor + 1 }) := by
  have hnext : e.cursor + 1 < 32 := by omega
  change execMigrationSubblockCopy .good false none s = _
  simp only [execMigrationSubblockCopy, hn, ht, he, hw, hl, hv, hnext, State.memErr, Option.isSome_none, Bool.false_eq_true, if_false, if_true]
  rfl

/-- A copy that memory cannot read ends its migration, and then at most deals with what the page has lost. -/
theorem migrationCopy_bad (buddy : Option (List Byte)) : ∃ u, exec (.migrationSubblockCopy .bad false buddy) s = .next u
    ∧ (u = (t.memErr .bad e.movesFrom).2.migrated lpn e 7
      ∨ ∃ sub at_ a, u = (((t.memErr .bad e.movesFrom).2.migrated lpn e 7).lostPage lpn sub at_ a false buddy).2) := by
  have hlost := migrationLost_of_bad t e
  change ∃ u, execMigrationSubblockCopy .bad false buddy s = .next u ∧ _
  unfold Entry.movesFrom at hlost ⊢
  simp only [execMigrationSubblockCopy, hn, ht, he, hw, Option.isSome_none, Bool.false_eq_true, if_false, Bool.false_and, hlost]
  refine ⟨_, rfl, ?_⟩
  split
  · exact .inr ⟨_, _, _, rfl⟩
  · exact .inl rfl

theorem migrationCopy_abandoned (buddy : Option (List Byte)) : ∃ u, exec (.migrationSubblockCopy .bad false buddy) s = .next u
    ∧ u.home.migNow = none ∧ u.fget F.HOME_MIGRATE_STATUS.LAST_RESULT = 7 ∧ u.fbit F.HOME_MIGRATE_STATUS.BUSY = false := by
  obtain ⟨u, hstep, hu⟩ := migrationCopy_bad hn ht he hw buddy
  obtain ⟨hnow, hlast, hbusy⟩ := migrated_ends (t.memErr .bad e.movesFrom).2 lpn e
  generalize (t.memErr .bad e.movesFrom).2.migrated lpn e 7 = v at hu hnow hlast hbusy
  obtain ⟨m, b, hm⟩ : ∃ m b, { v with mem := m, memBad := b }.Marks u := by
    rcases hu with rfl | ⟨sub, at_, a, rfl⟩
    · exact ⟨u.mem, u.memBad, .refl u⟩
    · exact marks_lostPage v lpn sub at_ a false buddy
  have hidle : u.fget F.HOME_MIGRATE_STATUS.BUSY = 0 := (hm.flds _ (by decide)).trans hbusy
  refine ⟨u, hstep, ?_, (hm.flds _ (by decide)).trans hlast, by rw [State.fbit, hidle]; rfl⟩
  rw [hm.rest]
  exact hnow

end

theorem homeTableMovesForward : HomeTableMovesForward := by
  intro s
  refine ⟨fun _ us hp h => sweeperTouch_within us h hp, fun _ us hp h => sweeperTouch_passEnds us (hp ▸ h) hp, intervalOpen_unswept,
    fun _ ht hv => ⟨migrateRequest_queued ht hv, migrateRequest_refused ht hv⟩, fun lpn far q f g hn hq ha => ?_, fun lpn hn => ?_⟩
  · exact ⟨_, migrationStart_begins hn hq ha, rfl, rfl, rfl, rfl, rfl⟩
  · exact ⟨migrationCopy_goesOn hn rfl rfl, migrationCopy_abandoned hn rfl rfl⟩

end Sys2Proof.Machine
end

section
/-! # The patrol scrub and far memory (R103 to R107, R453) -/

namespace Sys2Proof.Machine

/-! ## The patrol scrub (R103, R104) -/

section
variable {s : State} {k bank row : Nat}

/-- The patrol of stack `k` has come to this row of this bank. -/
def State.patrolled (s : State) (k bank row : Nat) : State :=
  { s with home := { s.home with scrubAt := mapIns k (bank, row) s.home.scrubAt } }

/-- A location read again begins no new pass, so the errors counted stay. -/
theorem patrolScrub_again {st : BitVec 3} (h : mapGet (0, 0) s.home.scrubAt st.toNat = (bank, row)) (e : Ecc) (unit : Nat)
    (buddy : Option (List Byte)) : exec (.patrolScrubRead st bank row e unit buddy) s = .next (match e with
      | .clean => s.patrolled st.toNat bank row
      | .corrected => (s.patrolled st.toNat bank row).countCorrected st.toNat bank row
      | .uncorrectable => (s.patrolled st.toNat bank row).scrubLost st.toNat (unit * 64) buddy) := by
  change execPatrolScrubRead st bank row e unit buddy s = _
  simp only [execPatrolScrubRead, h, Nat.lt_irrefl, and_false, or_self, if_false]
  cases e <;> rfl

theorem countCorrected_first (h : s.home.rowErrs = []) : s.countCorrected k bank row =
    { s.fadd (F.NM_ERR.CE.ix k) 1 with home := { s.home with rowErrs := [(k, bank, row, 1)] } } := by
  have he : (s.fadd (F.NM_ERR.CE.ix k) 1).home.rowErrs = [] := h
  simp only [State.countCorrected, he]
  rfl

theorem countCorrected_third (h : s.home.rowErrs = [(k, bank, row, 2)]) :
    (s.countCorrected k bank row).home = { s.home with rowErrs := [], remapped := s.home.remapped ++ [(k, bank, row)] } := by
  unfold State.countCorrected
  extract_lets t errs n rest home u
  have he : errs = [(k, bank, row, 2)] := h
  have hn : n = 2 := by simp [n, he]
  have hrest : rest = [] := by simp [rest, he]
  rw [if_pos (by omega), event_eq, State.record_home]
  simp only [u, home, hrest]
  rfl

theorem scrubLost_unheld {unit : Nat} (hu : 64 ≤ unit * 64 / Config.pageBytes) (hh : s.holderOf (unit * 64) = none)
    (buddy : Option (List Byte)) : ∃ r : Report, r.code = 0x2011 ∧ r.unit = 3 ∧ s.scrubLost k (unit * 64) buddy =
      ({ s with memBad := addTo unit s.memBad }.fadd (F.NM_ERR.UE.ix k) 1).emit (.report r false) := by
  have hh : ({ s with memBad := addTo unit s.memBad } : State).holderOf (unit * 64) = none := hh
  refine ⟨s.mkReport 0x2011 (errFlags false 0) 3 (unitLoc k) 0 0 0, rfl, rfl, ?_⟩
  simp only [State.scrubLost, Nat.mul_div_cancel _ (show 0 < 64 by decide), Nat.not_lt.2 hu, if_false, hh]
  rfl

end

/-! ## Far requests and records (R106) -/

theorem farRequestTimeout_loses {s : State} {port : BitVec 2} {req : Requester} {a : W64} {c : HomeAcc} (buddy : Option (List Byte))
    (hc : s.home.accs.find? (fun c => c.req == req && c.a == a.toNat) = some c)
    (hp : s.portOf (c.at_ / Config.pageBytes) = some port.toNat) : exec (.farRequestTimeout port req a buddy) s =
      .next (({ s.fset (F.CXL_PORT_STATUS.REASON.ix port.toNat) 8 with
        home := { s.home with accs := dropOne c s.home.accs }
        memBad := addTo (c.at_ / 64) s.memBad }).lost c buddy) := by
  have hp' : ({ s with home := { s.home with accs := dropOne c s.home.accs } } : State).portOf (c.at_ / Config.pageBytes)
    = some port.toNat := hp
  change execFarRequestTimeout port req a buddy s = _
  simp only [execFarRequestTimeout, hc, hp, ne_eq, not_true_eq_false, if_false]
  refine congrArg (fun t : State => Host.Outcome.next (t.lost c buddy)) ?_
  simp only [State.memErr, hp']
  rfl

theorem expanderRecord_copied (s : State) (port : BitVec 2) (x : BitVec 96) : exec (.expanderEventFetch port [x]) s =
    .next (s.event 0x9012 4 (BitVec.ofNat 32 (port.toNat * 2 ^ 13)) 0 (port.toNat + x.toNat * 2 ^ 32)) := by
  have hloc : unitLoc port.toNat = BitVec.ofNat 32 (port.toNat * 2 ^ 13) := by
    rw [unitLoc, Nat.mod_eq_of_lt (by omega)]
  rw [← hloc]
  rfl

/-! ## Far ports go down and come back (R105, R107) -/

/-- The fields that a far port's link shows are apart from each other and from those of a step and of the weave. -/
theorem farPort_keys (port : BitVec 2) :
    (F.CXL_PORT_STATUS.USED.ix port.toNat).key ≠ (F.CXL_PORT_STATUS.LINK_UP.ix port.toNat).key
      ∧ F.WV_STATUS.LOADED.key ≠ (F.CXL_PORT_STATUS.LINK_UP.ix port.toNat).key
      ∧ (F.CXL_PORT_STATUS.LINK_UP.ix port.toNat).key ≠ F.STEP_STATUS.PHASE.key := by
  revert port
  decide

section
variable {s : State} {f : Fld}

theorem fget_ackIfRolled (h : f.key ≠ F.STEP_STATUS.PHASE.key) : s.ackIfRolled.fget f = s.fget f := by
  have hidle : (s.fset F.STEP_STATUS.PHASE phStepIdle).fget f = s.fget f := fget_fset_other h _
  unfold State.ackIfRolled
  split
  · rfl
  · split
    · dsimp only
      split <;> exact hidle
    · rfl

theorem home_ackIfRolled : s.ackIfRolled.home = s.home := by rw [(acks_ackIfRolled s).rest]

theorem mem_ackIfRolled : s.ackIfRolled.mem = s.mem := by rw [(acks_ackIfRolled s).rest]

end

section
variable {s : State} {port : BitVec 2}

/-- The link's own bit does not bear on whether the port is used. -/
theorem used_setLink (v : Nat) : (s.fset (F.CXL_PORT_STATUS.LINK_UP.ix port.toNat) v).fbit (F.CXL_PORT_STATUS.USED.ix port.toNat) =
    s.fbit (F.CXL_PORT_STATUS.USED.ix port.toNat) := by
  rw [State.fbit, fget_fset_other (farPort_keys port).1, State.fbit]

theorem loaded_setLink (v : Nat) : (s.fset (F.CXL_PORT_STATUS.LINK_UP.ix port.toNat) v).fbit F.WV_STATUS.LOADED =
    s.fbit F.WV_STATUS.LOADED := by
  rw [State.fbit, fget_fset_other (farPort_keys port).2.1, State.fbit]

theorem cxlLinkDown_used (hl : s.fbit (F.CXL_PORT_STATUS.LINK_UP.ix port.toNat) = true)
    (hu : s.fbit (F.CXL_PORT_STATUS.USED.ix port.toNat) = true) (hw : s.fbit F.WV_STATUS.LOADED = true) :
    ∃ r : Report, r.code = 0x2012 ∧ r.unit = 4 ∧ exec (.cxlLinkDown port) s =
      .next ({ s.fset (F.CXL_PORT_STATUS.LINK_UP.ix port.toNat) 0 with
        endDirty := true
        home := { s.home with farLost := addTo port.toNat s.home.farLost } }.emit (.report r true)) := by
  refine ⟨(s.fset (F.CXL_PORT_STATUS.LINK_UP.ix port.toNat) 0).mkReport 0x2012 (errFlags false 0) 4 (unitLoc port.toNat) 0 0
    (data2 0 (s.fset (F.CXL_PORT_STATUS.LINK_UP.ix port.toNat) 0).ord.toNat), rfl, rfl, congrArg Host.Outcome.next ?_⟩
  simp only [State.farDown, fsetb_eq, used_setLink, loaded_setLink, hl, hu, hw, Bool.not_true, Bool.or_self, Bool.false_eq_true, if_false]
  rfl

theorem cxlLinkRetrained_unused (hu : s.fbit (F.CXL_PORT_STATUS.USED.ix port.toNat) = false) :
    exec (.cxlLinkRetrained port) s = .next (s.fset (F.CXL_PORT_STATUS.LINK_UP.ix port.toNat) 1) :=
  if_pos (by simp [fsetb_eq, used_setLink, hu])

theorem cxlLinkRetrained_used (hu : s.fbit (F.CXL_PORT_STATUS.USED.ix port.toNat) = true) : exec (.cxlLinkRetrained port) s =
    .next { s.fset (F.CXL_PORT_STATUS.LINK_UP.ix port.toNat) 1 with
      home := { s.home with farLost := s.home.farLost.filter (fun q => q != port.toNat) } }.ackIfRolled :=
  if_neg (by simp [fsetb_eq, used_setLink, hu])

theorem cxlLinkRetrained_returns (hu : s.fbit (F.CXL_PORT_STATUS.USED.ix port.toNat) = true) :
    ∃ s', exec (.cxlLinkRetrained port) s = .next s' ∧ port.toNat ∉ s'.home.farLost
      ∧ s'.fbit (F.CXL_PORT_STATUS.LINK_UP.ix port.toNat) = true ∧ s'.mem = s.mem := by
  refine ⟨_, cxlLinkRetrained_used hu, ?_, ?_, mem_ackIfRolled⟩
  · rw [home_ackIfRolled]
    simp
  · rw [State.fbit, fget_ackIfRolled (farPort_keys port).2.2]
    exact fbit_fsetb rfl true

end

/-! ## A far port does not come back (R107) -/

section
variable {s : State}

/-- The pages that have a frame on far port `p`. -/
def State.pagesOn (s : State) (p : Nat) : List Nat := (s.home.table.filter (fun q => s.onPort q.2 p)).map Prod.fst

/-- A page whose data is lost. -/
def State.loseCopy (s : State) (l : Nat) : State :=
  { s.setPoison l with home := { (s.setPoison l).home with gone := addTo l s.home.gone } }

theorem entry_loseCopy (l k : Nat) : (s.loseCopy l).entry k = if k = l then { s.entry l with poison := true } else s.entry k :=
  mapGet_mapPut ..

/-- A page poisoned stays so while others are lost. -/
theorem poison_loseAll (ls : List Nat) {l : Nat} (h : l ∈ ls ∨ (s.entry l).poison = true) :
    ((ls.foldl State.loseCopy s).entry l).poison = true := by
  induction ls generalizing s with
  | nil => exact h.resolve_left List.not_mem_nil
  | cons k ls ih =>
    refine ih ?_
    rw [entry_loseCopy]
    by_cases hk : l = k
    · exact .inr (by rw [if_pos hk])
    · rw [if_neg hk]
      exact h.imp_left fun hl => (List.mem_cons.1 hl).resolve_left hk

theorem marks_loseAll (ls : List Nat) : s.Marks (ls.foldl State.loseCopy s) := .foldl (fun _ => .losePage) ls s

theorem regs_signal (v : Nat) : (s.signal v).regs = s.regs := by
  unfold State.signal
  split
  · rfl
  · split <;> rfl

theorem fget_faultCause {f : Fld} (h : f.key ≠ F.HQ_IRQ_CAUSE.FAULT.key) : s.faultCause.fget f = s.fget f := by
  have hset : (s.fsetb F.HQ_IRQ_CAUSE.FAULT true).fget f = s.fget f := fget_fset_other h _
  simp only [State.faultCause]
  split
  · rfl
  · split
    · rw [State.fget, regs_signal]
      exact hset
    · exact hset

theorem jobUnrec_setUnrec (b : Bool) : (s.setUnrec b).fbit F.HQ_STATUS.JOB_UNREC = b := by
  unfold State.setUnrec
  split
  · rename_i h
    exact beq_iff_eq.1 h
  · rw [State.fbit, fget_faultCause (by decide)]
    exact fbit_fsetb rfl b

theorem jobUnrec_unrecoverable : s.unrecoverable.fbit F.HQ_STATUS.JOB_UNREC = true := by
  unfold State.unrecoverable
  split
  · assumption
  · exact jobUnrec_setUnrec true

theorem cxlRetrainTimeout_loses {port : BitVec 2} (hp : port.toNat ∈ s.home.farLost) (hb : s.buddyHolds = false)
    (hq : s.pagesOn port.toNat ≠ []) (copies : List (Nat × List Byte)) : exec (.cxlRetrainTimeout port copies) s =
      .next ((s.pagesOn port.toNat).foldl State.loseCopy { s with home := { s.home with
        farLost := s.home.farLost.filter (fun q => q != port.toNat) } }).unrecoverable.ackIfRolled := by
  have hne : (s.pagesOn port.toNat).isEmpty = false := by simpa using hq
  have hall : ({ s with home := { s.home with farLost := s.home.farLost.filter (fun q => q != port.toNat) } } : State).allMirrored copies
    (s.pagesOn port.toNat) = false := Bool.and_eq_false_imp.2 fun h => absurd (hb.symm.trans h) (by decide)
  change execCxlRetrainTimeout port copies s = _
  unfold State.pagesOn at hne hall
  simp only [execCxlRetrainTimeout, hp, hne, hall, decide_true, Bool.not_true, Bool.false_eq_true, if_false]
  rfl

theorem cxlRetrainTimeout_poisons {port : BitVec 2} (hp : port.toNat ∈ s.home.farLost) (hb : s.buddyHolds = false)
    (hq : ∃ q ∈ s.home.table, s.onPort q.2 port.toNat = true) (copies : List (Nat × List Byte)) :
    ∃ s', exec (.cxlRetrainTimeout port copies) s = .next s' ∧ port.toNat ∉ s'.home.farLost ∧ s'.mem = s.mem
      ∧ s'.fbit F.HQ_STATUS.JOB_UNREC = true
      ∧ ∀ l, (∃ q ∈ s.home.table, q.1 = l ∧ s.onPort q.2 port.toNat = true) → (s'.entry l).poison = true := by
  have hon {l : Nat} (h : ∃ q ∈ s.home.table, q.1 = l ∧ s.onPort q.2 port.toNat = true) : l ∈ s.pagesOn port.toNat := by
    obtain ⟨q, hq, rfl, hport⟩ := h
    exact List.mem_map_of_mem (List.mem_filter.2 ⟨hq, hport⟩)
  obtain ⟨q, hq, hport⟩ := hq
  have hpages := List.ne_nil_of_mem (hon ⟨q, hq, rfl, hport⟩)
  refine ⟨_, cxlRetrainTimeout_loses hp hb hpages copies, ?_, ?_, ?_, fun l hl => ?_⟩
  · rw [home_ackIfRolled, State.Posts.unrecoverable.home, (marks_loseAll _).rest]
    simp
  · rw [mem_ackIfRolled, State.Posts.unrecoverable.mem, (marks_loseAll _).mem]
  · rw [State.fbit, fget_ackIfRolled (by decide)]
    exact jobUnrec_unrecoverable
  · rw [State.entry, home_ackIfRolled, State.Posts.unrecoverable.home]
    exact poison_loseAll _ (.inl (hon hl))

end

theorem memoryErrorsAreCounted : MemoryErrorsAreCounted := by
  intro s
  refine ⟨fun st bank row unit buddy => ?_, fun _ _ _ _ buddy hc hp => farRequestTimeout_loses buddy hc hp, expanderRecord_copied s,
    fun port => ⟨cxlLinkDown_used, cxlLinkRetrained_returns, cxlLinkRetrained_unused, cxlRetrainTimeout_poisons⟩⟩
  intro s1 h
  refine ⟨patrolScrub_again h .clean unit buddy, fun he => ?_, fun he => ?_, fun hu hh => ?_⟩
  · exact (patrolScrub_again h .corrected unit buddy).trans (congrArg _ (countCorrected_first he))
  · have hhome := countCorrected_third (s := s.patrolled st.toNat bank row) he
    exact ⟨_, patrolScrub_again h .corrected unit buddy, congrArg Home.remapped hhome, congrArg Home.rowErrs hhome⟩
  · obtain ⟨r, hcode, hunit, hlost⟩ := scrubLost_unheld (s := s.patrolled st.toNat bank row) (k := st.toNat) hu hh buddy
    exact ⟨r, hcode, hunit, (patrolScrub_again h .uncorrectable unit buddy).trans (congrArg _ hlost)⟩

/-- Settles O42: the home table by what a touch leaves and how a migration begins, goes on and ends; errors by how each is counted. -/
theorem homeTableAndMemoryAreKept : Obligations.HomeTableAndMemoryAreKept := ⟨homeTableMovesForward, memoryErrorsAreCounted⟩

end Sys2Proof.Machine
end

section
/-! # The report of a Muntjac fault (R120, R227, R228, R429) -/

namespace Sys2Proof.Machine

section
variable {s : State} {t : TileId} {code ask sub op data : Nat} {stops : Bool}

theorem tileErr_tile : (s.tileErr t code stops ask sub op data).tile t
    = { s.tile t with dirty := true, core := { (s.tile t).core with stopped := (s.tile t).core.stopped || stops } } :=
  tile_setTile_same _

theorem tileErr_out : (s.tileErr t code stops ask sub op data).out
    = s.out ++ [.report (s.mkReport code (errFlags stops ask) 0 (s.tileLoc t) sub op data) stops] := rfl

end

/-- OPID holds the PC in [15:4] and the operation number in [31:16] (R429). -/
theorem opid_fields (n : Nat) (pc : BitVec 12) :
    bits (BitVec.ofNat 32 (opid n pc)).toNat 15 4 = pc.toNat ∧ bits (BitVec.ofNat 32 (opid n pc)).toNat 31 16 = n % 2 ^ 16 := by
  have := pc.isLt
  simp only [bits, opid, BitVec.toNat_ofNat]
  omega

/-- DATA of a fault's report (R228). -/
def faultData (x : Tile) (fcode extra word0 : Nat) : Nat :=
  fcode % 16 + x.core.loops.length * 16 + (if x.core.handler.isSome then 128 else 0) + extra % 1024 * 256
    + x.word.toNat * 2 ^ 32 + word0 % 2 ^ 64 * 2 ^ 64

/-- The state after a fault at tile `t`. -/
theorem putTile_fault (s : State) (t : TileId) (x : Tile) (fcode extra word0 : Nat) : s.putTile t (x.fault fcode extra word0)
    = (s.setTile t { x with dirty := true, core := { x.core with stopped := true, wait := .none } }).tileErr t 0x1001 true 0 0
        (opid x.enq x.core.pc) (faultData x fcode extra word0) := rfl

/-- The fields of DATA do not overlap, so each reads back. -/
theorem faultData_fields {x : Tile} {fcode extra word0 : Nat} (hf : fcode < 16) (he : extra < 1024) (hw : word0 < 2 ^ 64)
    (hl : x.core.loops.length ≤ 4) : let d := (BitVec.ofNat 128 (faultData x fcode extra word0)).toNat
    bits d 3 0 = fcode ∧ bits d 6 4 = x.core.loops.length ∧ bit d 7 = x.core.handler.isSome ∧ bits d 17 8 = extra
    ∧ bits d 31 18 = 0 ∧ bits d 63 32 = x.word.toNat ∧ bits d 127 64 = word0 := by
  have hword := x.word.isLt
  simp only [faultData, bits, bit, BitVec.toNat_ofNat]
  cases x.core.handler.isSome <;> simp <;> omega

/-- Settles O13: the fault is one note, an error that stops the context, and each field of its report reads back. -/
theorem faultLeavesOneUrgentReport : Obligations.FaultLeavesOneUrgentReport := by
  intro s t fcode extra word0 x s'
  have hs' : s' = _ := putTile_fault s t x fcode extra word0
  obtain ⟨hpc, hseq⟩ := opid_fields x.enq x.core.pc
  rw [hs', tileErr_tile, tileErr_out]
  exact ⟨rfl, Bool.or_true _, rfl, rfl, _, rfl, rfl, rfl, hpc, hseq, faultData_fields⟩

end Sys2Proof.Machine
end

section
/-! # The step of a tile (R118, R119, R121, R124, R125) -/

namespace Sys2Proof.Machine

/-! ## What counting on changes: the cycle counters and the stalls of endpoints (R124, R288) -/

/-- `y` is `x` with other cycle counters and other endpoints. -/
def Tile.Recounted (x y : Tile) : Prop := ∃ eps seed, y = { x with eps := eps, cntSeed := seed }

theorem Tile.Recounted.refl (x : Tile) : x.Recounted x := ⟨x.eps, x.cntSeed, rfl⟩

theorem stallsMore_recounted (x : Tile) (n : Nat) : ∃ eps, x.stallsMore n = { x with eps := eps } := by
  unfold Tile.stallsMore
  generalize x.recvWait.toList ++ (x.stalledSend.map Prod.snd).toList = chs
  induction chs generalizing x with
  | nil => exact ⟨x.eps, rfl⟩
  | cons ch chs ih => exact ih _

section
variable (s : State) (t : TileId)

theorem tile_moreStalls : ∃ eps, (s.moreStalls t).tile t = { s.tile t with eps := eps } := by
  unfold State.moreStalls
  dsimp only
  split
  · exact ⟨_, rfl⟩
  · obtain ⟨eps, h⟩ := stallsMore_recounted (s.tile t) s.draw.1
    exact ⟨eps, (tile_setTile_same _).trans h⟩

theorem tile_recount : (s.tile t).Recounted ((s.recount t).tile t) := by
  obtain ⟨eps, h⟩ := tile_moreStalls s t
  exact ⟨eps, _, (tile_setTile_same _).trans (congrArg ({ · with cntSeed := (s.moreStalls t).draw.1 }) h)⟩

theorem tile_stopCounting : (s.tile t).Recounted ((s.stopCounting t).tile t) := by
  unfold State.stopCounting
  split
  · exact tile_recount s t
  · exact .refl _

end

section
variable {s : State} {t : TileId}

theorem stopCounting_still (h : (s.tile t).counting = false) : s.stopCounting t = s := by
  rw [State.stopCounting, h, if_neg Bool.false_ne_true]

theorem counting_frozen {x : Tile} (h : x.freeze = true) : x.counting = false := by
  rw [Tile.counting, h, Bool.not_true, Bool.and_false]

/-! ## The start mark and the report (R118, R119) -/

theorem stepStartMark_recounted (h : s.markDue (s.tile t) = true) : ∃ s', exec (.stepStartMark t) s = .next s'
    ∧ (((s.putTile t ((s.tile t).startStep (BitVec.ofNat 32 (s.fget F.STEP_CURRENT.STEP)))).tile t).Recounted (s'.tile t)) := by
  refine ⟨_, if_pos h, ?_⟩
  split
  · exact tile_recount ..
  · exact .refl _

/-- A tile that starts at its entry or resume point notes nothing, and stands there, clean, in the step `n`. -/
theorem startStep_atLoadPoint {x : Tile} (h : x.resume ≠ .next) (n : W32) : ∃ y, x.startStep n = (y, []) ∧ y.phase = phRunning
    ∧ y.dirty = false ∧ y.step = n ∧ y.core.pc = if x.resume = .entry then x.img.entry else x.img.resume := by
  unfold Tile.startStep
  cases hr : x.resume with
  | entry => exact ⟨_, rfl, rfl, rfl, rfl, BitVec.ofNat_toNat ..⟩
  | resume => exact ⟨_, rfl, rfl, rfl, rfl, BitVec.ofNat_toNat ..⟩
  | next => exact absurd hr h

theorem stepStartMark_resumes (h : s.markDue (s.tile t) = true) : ∃ s', exec (.stepStartMark t) s = .next s'
    ∧ ((s.tile t).resume ≠ .next → (s'.tile t).phase = phRunning ∧ (s'.tile t).dirty = false
      ∧ (s'.tile t).step = BitVec.ofNat 32 (s.fget F.STEP_CURRENT.STEP)
      ∧ (s'.tile t).core.pc = if (s.tile t).resume = .entry then (s.tile t).img.entry else (s.tile t).img.resume) := by
  obtain ⟨s', hstep, eps, seed, htile⟩ := stepStartMark_recounted h
  refine ⟨s', hstep, fun hr => ?_⟩
  obtain ⟨y, hy, hfields⟩ := startStep_atLoadPoint hr (BitVec.ofNat 32 (s.fget F.STEP_CURRENT.STEP))
  have hput : (s.putTile t (y, [])).tile t = y := tile_setTile_same y
  rw [htile, hy, hput]
  exact hfields

theorem endOfStepReport_frozen (hp : (s.tile t).phase = phEnding) (hd : (s.tile t).drained = true) (ho : (s.tile t).dupOwn = [])
    (hf : (s.tile t).freeze = true) : exec (.endOfStepReport t) s = .next ((s.setTile t
      { s.tile t with phase := if (s.tile t).dirty then phDirty else phClean }).emit (.tileReport t (s.tile t).dirty)) := by
  have hends : ((s.tile t).phase == phEnding && (s.tile t).drained && (s.tile t).dupOwn.isEmpty) = true := by simp [hp, hd, ho]
  refine (if_pos hends).trans ?_
  rw [stopCounting_still (counting_frozen hf)]

/-! ## Rollback (R121) -/

theorem tileRollback_empties (hi : (s.tile t).inStep = true) (hr : t ∈ s.rolling) : ∃ s', exec (.tileRollback t) s = .next s'
    ∧ (s'.tile t).phase = phRolling ∧ (s'.tile t).fifo = [] ∧ (s'.tile t).unacked = [] ∧ (s'.tile t).gather = []
    ∧ (s'.tile t).gen = (s.tile t).gen + 1 ∧ (s'.tile t).mem = (s.tile t).mem := by
  have hrolls : ((s.tile t).inStep && decide (t ∈ s.rolling)) = true := by simp [hi, hr]
  obtain ⟨eps, seed, htile⟩ := tile_stopCounting s t
  refine ⟨_, if_pos hrolls, ?_⟩
  rw [tile_setTile_same, htile]
  exact ⟨rfl, rfl, rfl, rfl, rfl, rfl⟩

theorem tiles_rolledBack (s : State) (t : TileId) : (s.rolledBack t).tiles = s.tiles := by
  rw [State.rolledBack, (acks_ackIfRolled _).rest]

theorem tileRollbackDone_loads (hp : (s.tile t).phase = phRolling) (he : (s.tile t).exec = [])
    (hr : ∀ u ∈ s.rolling, (s.tile u).inStep = false) : ∃ s', exec (.tileRollbackDone t) s = .next s'
    ∧ s'.tile t = { (s.tile t).atLoad (s.free + 1) .resume with phase := phGate } := by
  have hends : ((s.tile t).phase == phRolling && (s.tile t).exec.isEmpty && s.rolling.all (fun u => !(s.tile u).inStep)) = true := by
    simpa [hp, he] using hr
  exact ⟨_, if_pos hends, (tile_of_tiles (tiles_rolledBack ..) t).trans (tile_setTile_same _)⟩

/-! ## TIL_CTRL (R123, R125) -/

theorem tilCtrlFreeze_still (hs : s.tileServes t = true) (hc : (s.tile t).counting = false) :
    exec (.tilCtrlFreeze t true) s = .next (s.setTile t { s.tile t with freeze := true }) := by
  refine (if_pos hs).trans ?_
  rw [stopCounting_still hc, counting_frozen rfl, if_neg Bool.false_ne_true]

theorem tilCtrlClear_frozen (hs : s.tileServes t = true) : exec (.tilCtrlClear t true) s = .next (s.setTile t { s.tile t with
    freeze := true
    opsDone := 0
    cntSeed := 0
    eps := (s.tile t).eps.map (fun p => (p.1, { p.2 with msgs := 0, stalls := 0 })) }) := by
  refine (if_pos hs).trans ?_
  rw [counting_frozen rfl, if_neg Bool.false_ne_true]

end

/-- Settles O32: each event by its command's effect; what recounts a tile touches its cycle counters and endpoints only. -/
theorem tileStepEventsMoveThePhase : Obligations.TileStepEventsMoveThePhase := by
  intro s t
  refine ⟨stepStartMark_resumes, endOfStepReport_frozen, tileRollback_empties, fun hp he hr => ?_,
    fun hs hc => ⟨tilCtrlFreeze_still hs hc, tilCtrlClear_frozen hs⟩⟩
  obtain ⟨s', hstep, htile⟩ := tileRollbackDone_loads hp he hr
  refine ⟨s', hstep, ?_⟩
  rw [htile]
  exact ⟨rfl, rfl, rfl, rfl, rfl⟩

end Sys2Proof.Machine
end

section
/-! # Instructions that enqueue an operation (R111, R214, R216, R218, R220) -/

namespace Sys2Proof.Machine

section
variable {s : State} {t : TileId} {w : W32}

/-! ## Starting an instruction -/

/-- A context with none of `rs` pending has none of its registers pending. -/
theorem Starts.of_subset {rs qs : List Nat} (h : Starts s t w rs) (hq : qs ⊆ rs) : Starts s t w qs := by
  refine ⟨h.running, h.going, h.free, h.word, ?_⟩
  have hp := h.ready
  simp only [Core.isPending, List.any_eq_false, decide_eq_true_eq] at hp ⊢
  exact fun p hmem hin => hp p hmem (hq hin)

/-! ## What an act leaves, and the room of a FIFO (R111) -/

theorem act_done (x y : Tile) : x.act (.done y []) = y.finish := rfl

theorem act_wait (x y : Tile) (wt : Wait) : x.act (.wait y wt) = waitingIn y wt := rfl

theorem enqueueOr_room {x : Tile} {p : Nat} (h : (x.waiting p).length < 16) (kind : OpKind) (after : Tile → Op → Act) :
    enqueueOr x p kind after = after (withOp x p kind) ⟨x.enq + 1, p, x.core.pc, kind⟩ :=
  if_pos (decide_eq_true h)

theorem enqueueOr_full {x : Tile} {p : Nat} (h : ¬(x.waiting p).length < 16) (kind : OpKind) (after : Tile → Op → Act) :
    enqueueOr x p kind after = .wait x (.enqueue ⟨0, p, x.core.pc, kind⟩) :=
  if_neg (Bool.not_eq_true _ ▸ decide_eq_false h)

/-- An instruction that only enqueues completes where there is room, and waits with its operation where there is none. -/
theorem act_enqueueOr (x : Tile) (p : Nat) (kind : OpKind) : x.act (enqueueOr x p kind (fun y _ => .done y []))
    = if (x.waiting p).length < 16 then (withOp x p kind).finish else waitingIn x (.enqueue ⟨0, p, x.core.pc, kind⟩) := by
  split
  · rename_i h
    rw [enqueueOr_room h, act_done]
  · rename_i h
    rw [enqueueOr_full h, act_wait]

/-! ## ISSUE (R206, R214) -/

/-- The operation that ISSUE on port `p` builds of its words. -/
def issueKind (p : Nat) (x : Tile) (w0 w1 : W64) : OpKind :=
  if p ≤ 1 then .fill w0
  else if p = 5 then .net w0 w1
  else .two w0 w1 (if p = 4 && (tahrF w0 w1).takesX then (x.core.s (tahrF w0 w1).sreg).setWidth 8 else 0)

theorem issueEnqueues {c : TileId → CoreErr → Instr} {p : Nat} {kind : Tile → W64 → W64 → OpKind}
    (hc : ∀ t s, exec (c t .none) s = .next (runIssue t .none p s)) (hk : ∀ x w0 w1, issueKind p x w0 w1 = kind x w0 w1) :
    IssueEnqueues c p kind := by
  intro s t w x n w0 w1 hs hg hopc hp hn hlegal
  have hgood : (decide (p ≥ 2) && n == 31 || !issueLegal t p x.img s.member w0 w1) = false := by
    have hn' : p < 2 ∨ n ≠ 31 := by omega
    rcases hn' with h | h <;> simp [hlegal, h]
  rw [hc, runIssue, runCore_starts (hs.of_subset (by simp [noRegs, x])) (fun _ => hg) (by simp [hopc, hp]), if_neg (by rw [hgood]; decide)]
  rw [← act_enqueueOr, ← hk]
  rfl

theorem issueEnqueuesTheOperation : IssueEnqueuesTheOperation := by
  refine ⟨issueEnqueues (fun _ _ => rfl) fun _ _ _ => rfl, issueEnqueues (fun _ _ => rfl) fun _ _ _ => rfl,
    issueEnqueues (fun _ _ => rfl) fun _ _ _ => rfl, issueEnqueues (fun _ _ => rfl) fun _ _ _ => rfl,
    issueEnqueues (fun _ _ => rfl) fun x w0 w1 => ?_, issueEnqueues (fun _ _ => rfl) fun _ _ _ => rfl⟩
  simp [issueKind, TahrF.takesX]

/-! ## SEND and RELEASE (R216, R218) -/

theorem send_enqueues (hs : Starts s t w [32 + wField w 15 12, wField w 11 7]) (hg : GuardTrue (s.tile t) w) (hopc : wOpc w = 0x28)
    (hr : ((s.tile t).waiting 5).length < 16) :
    let x := s.tile t
    let a := (x.core.a (wField w 15 12)).toNat
    let n := (x.core.s (wField w 11 7)).toNat
    0 < n → n ≤ 16384 → n ≤ (x.ep (chOf w)).maxMsg → a % 64 = 0 → a + n ≤ 2 ^ 21 →
      exec (.send t .none) s = .next (s.putTile t
        (withOp x 5 (.send (chOf w) (BitVec.ofNat 21 a) n (BitVec.ofNat 6 (wField w 6 1)))).finish) := by
  intro x a n h0 hmax hep halign hend
  have hlegal : (decide (n = 0) || decide (n > 16384) || decide (n > (x.ep (chOf w)).maxMsg) || a % 64 != 0
      || decide (a + n > Config.tileMem)) = false := by
    simp only [Bool.or_eq_false_iff, decide_eq_false_iff_not, bne_eq_false_iff_eq]
    exact ⟨⟨⟨⟨h0.ne', not_lt.2 hmax⟩, not_lt.2 hep⟩, halign⟩, not_lt.2 hend⟩
  show execSend t .none s = _
  rw [execSend, runCore_starts hs (fun _ => hg) (by simp [isOpc, hopc])]
  refine congrArg (fun a => Host.Outcome.next (s.putTile t (x.act a))) ((if_neg ?_).trans (enqueueOr_room hr ..))
  rw [Bool.not_eq_true]
  exact hlegal

theorem releaseMsg_held {x : Tile} {ch : BitVec 6} (hh : x.isHeld ch = true) (hr : (x.waiting 5).length < 16) (after : Tile → Act) :
    releaseMsg x ch after = after (withOp (x.unhold ch) 5 (.release ch)) := by
  rw [releaseMsg, hh, if_neg (by decide)]
  exact enqueueOr_room (x := x.unhold ch) hr ..

theorem release_enqueues (hs : Starts s t w []) (hg : GuardTrue (s.tile t) w) (hopc : wOpc w = 0x2A)
    (hr : ((s.tile t).waiting 5).length < 16) (hh : (s.tile t).isHeld (chOf w) = true) :
    exec (.release t .none) s
      = .next (s.putTile t (withOp ((s.tile t).unhold (chOf w)) 5 (.release (chOf w))).finish) := by
  show execRelease t .none s = _
  rw [execRelease, runCore_starts hs (fun _ => hg) (by simp [isOpc, hopc]), releaseMsg_held hh hr, act_done]

/-! ## An operation that waited for room (R111) -/

theorem afterStall_completes (ha : wOpc w ≠ 0x2E) (hh : wOpc w ≠ 0x2C) (y : Tile) (o : Op) : afterStall w y o = .done y [] := by
  rw [afterStall, if_neg ha, if_neg hh]

theorem stalledEnqueue_goes {o : Op} (hg : (s.tile t).goes = true) (hw : (s.tile t).core.wait = .enqueue o)
    (hr : ((s.tile t).waiting o.port).length < 16) (ha : wOpc (s.tile t).word ≠ 0x2E) (hh : wOpc (s.tile t).word ≠ 0x2C) :
    exec (.stalledEnqueue t) s = .next (s.putTile t (withWaited (s.tile t) o).finish) := by
  have hroom : ((s.tile t).goes && (s.tile t).hasRoom o.port) = true := by rw [hg, Bool.true_and]; exact decide_eq_true hr
  show execStalledEnqueue t s = _
  simp only [execStalledEnqueue, hw, hroom, if_true, afterStall_completes ha hh, act_done]
  rfl

theorem sendAndReleaseEnqueue : SendAndReleaseEnqueue := by
  intro s t w x
  refine ⟨send_enqueues, release_enqueues, fun o hg hw hr hword ha hh => ?_⟩
  rw [← hword] at ha hh
  exact stalledEnqueue_goes hg hw hr ha hh

/-! ## ATOM (R220) -/

/-- The tile after an ATOM has enqueued its operation: sD is pending but for a STORE. -/
def atomEnqueued (x : Tile) (w : W32) : Tile :=
  let y := withOp x 5 (atomOp x w)
  if wField w 7 4 = 1 then y
  else { y with core := { y.core with pend := y.core.pend ++ [(BitVec.ofNat 5 (wD w), x.enq + 1)] } }

theorem atomUses_subset (w : W32) : atomReads w ++ (if wField w 7 4 = 1 then [] else rD w) ⊆ [32 + wField w 16 13, wField w 12 8, wD w] := by
  simp only [atomReads, rD, List.append_subset]
  refine ⟨⟨⟨?_, ?_⟩, ?_⟩, ?_⟩
  · simp
  all_goals split <;> simp

/-- An ATOM that need not wait first: with acquire order it waits for its fence after the enqueue (R53). -/
theorem act_atomEnqueue {x : Tile} (hr : (x.waiting 5).length < 16) (w : W32) : x.act (enqueueOr x 5 (atomKind x w) (afterAtom w))
    = if wField w 3 2 ≥ 2 then waitingIn (atomEnqueued x w) (.fence false true) else (atomEnqueued x w).finish := by
  rw [enqueueOr_room hr, afterAtom]
  dsimp only
  split <;> rfl

/-- The four orders of R53: none, release, acquire, both. -/
theorem atomEnqueues {c : TileId → CoreErr → Instr} {ops : List Nat} (hc : ∀ t s, exec (c t .none) s = .next (runAtom t .none ops s)) :
    AtomEnqueues c ops := by
  intro s t w x hs hg hopc hop hr y z
  have henq := act_atomEnqueue hr w
  have hlt : wField w 3 2 < 4 := Nat.mod_lt _ (by decide)
  rw [hc, runAtom, runCore_starts (hs.of_subset (atomUses_subset w)) (fun _ => hg) (by simp [hopc, hop])]
  refine congrArg (fun r => Host.Outcome.next (s.putTile t r)) ?_
  dsimp only
  obtain h | h | h | h : wField w 3 2 = 0 ∨ wField w 3 2 = 1 ∨ wField w 3 2 = 2 ∨ wField w 3 2 = 3 := by omega
  all_goals rw [h] at henq ⊢
  · exact henq
  · rfl
  · exact henq
  · rfl

theorem atomicsEnqueueTheirOperation : AtomicsEnqueueTheirOperation := by
  refine ⟨?_, ?_, ?_, ?_, ?_, ?_, ?_, ?_, ?_, ?_⟩ <;> exact atomEnqueues fun _ _ => rfl

end

/-- Settles O16: each instruction builds its operation and meets the FIFO of its port. -/
theorem issuingInstructionsEnqueueTheirOperation : Obligations.IssuingInstructionsEnqueueTheirOperation :=
  ⟨issueEnqueuesTheOperation, sendAndReleaseEnqueue, atomicsEnqueueTheirOperation⟩

end Sys2Proof.Machine
end

section
/-! # IBEX operations on the banks (R134 to R136, R161, R163, R166)

An output is written at its own position of the bank, so what an operation leaves is told by the one cell that each (i, j) puts. -/

namespace Sys2Proof.Machine

/-! ## Listing many keys at once -/

section
variable {V α : Type} {k : α → Nat} {v : α → V}

theorem mapFind_foldl_mapIns_off {l : List α} {q : Nat} (h : ∀ a ∈ l, q ≠ k a) (c : SMap V) :
    mapFind (l.foldl (fun c a => mapIns (k a) (v a) c) c) q = mapFind c q := by
  induction l generalizing c with
  | nil => rfl
  | cons a l ih =>
    obtain ⟨ha, hl⟩ := List.forall_mem_cons.1 h
    rw [List.foldl_cons, ih hl, mapFind_mapIns_ne ha]

theorem mapFind_foldl_mapIns_at {l : List α} {a : α} (ha : a ∈ l) (hinj : ∀ b ∈ l, k a = k b → a = b) (c : SMap V) :
    mapFind (l.foldl (fun c a => mapIns (k a) (v a) c) c) (k a) = some (v a) := by
  induction l generalizing c with
  | nil => cases ha
  | cons b l ih =>
    by_cases hl : a ∈ l
    · exact ih hl (fun b hb => hinj b (.tail _ hb)) _
    · obtain rfl := (List.mem_cons.1 ha).resolve_right hl
      rw [List.foldl_cons, mapFind_foldl_mapIns_off (fun b hb e => hl (hinj b (.tail _ hb) e ▸ hb)), mapFind_mapIns_self]

end

/-! ## The outputs of a bank -/

/-- The cells `c` with `g i j` put at output (i, j) for each i < m and j < n, row by row. -/
def putOutputs (g : Nat → Nat → Cell) (m n : Nat) (c : SMap Cell) : SMap Cell :=
  (List.range m).foldl (fun c i => (List.range n).foldl (fun c j => mapIns (i * 32 + j) (g i j) c) c) c

section
variable {g : Nat → Nat → Cell} {m n : Nat}

theorem putOutputs_eq_foldl_product (c : SMap Cell) : putOutputs g m n c
    = (List.range m ×ˢ List.range n).foldl (fun c a => mapIns (a.1 * 32 + a.2) (g a.1 a.2) c) c := by
  simp only [putOutputs, SProd.sprod, List.product, List.foldl_flatMap, List.foldl_map]

theorem mem_outputs {a : Nat × Nat} : a ∈ List.range m ×ˢ List.range n ↔ a.1 < m ∧ a.2 < n := by
  rw [List.mem_product, List.mem_range, List.mem_range]

/-- Rows stand 32 positions apart, so up to 32 columns share no position. -/
theorem mapFind_putOutputs_at {i j : Nat} (hi : i < m) (hj : j < n) (hn : n ≤ 32) (c : SMap Cell) :
    mapFind (putOutputs g m n c) (i * 32 + j) = some (g i j) := by
  rw [putOutputs_eq_foldl_product]
  refine mapFind_foldl_mapIns_at (k := fun a : Nat × Nat => a.1 * 32 + a.2) (a := (i, j)) (mem_outputs.2 ⟨hi, hj⟩) (fun b hb e => ?_) c
  obtain ⟨-, hb⟩ := mem_outputs.1 hb
  have e : i * 32 + j = b.1 * 32 + b.2 := e
  exact Prod.ext (by dsimp only; omega) (by dsimp only; omega)

theorem mapFind_putOutputs_off {q : Nat} (h : ∀ i j, i < m → j < n → q ≠ i * 32 + j) (c : SMap Cell) :
    mapFind (putOutputs g m n c) q = mapFind c q := by
  rw [putOutputs_eq_foldl_product]
  exact mapFind_foldl_mapIns_off (fun a ha => (mem_outputs.1 ha).elim (h a.1 a.2)) c

end

@[simp] theorem bank_setBank_self (x : Tile) (b : Nat) (k : Bank) : (x.setBank b k).bank b = k := by
  simp [Tile.bank, Tile.setBank]

theorem bank_setBank_ne (x : Tile) {b c : Nat} (h : c ≠ b) (k : Bank) : (x.setBank b k).bank c = x.bank c := by
  simp [Tile.bank, Tile.setBank, mapFind_mapIns_ne h]

/-- A bank whose outputs are put as `Cell.add` makes them holds what was added, and nothing else changed. -/
theorem bankAdds_of_putOutputs {x y : Tile} {bank m n : Nat} {base : Bank} {v : Nat → Nat → Int} {d g : Nat → Nat → Cell}
    (hn : n ≤ 32)
    (hy : ∀ b, y.bank b = (x.setBank bank { base with cells := putOutputs g m n base.cells }).bank b)
    (hg : ∀ i j, i < m → j < n → g i j = (base.cell (i * 32 + j)).add (v i j) (d i j)) : BankAdds x bank base m n v d y := by
  refine ⟨fun i j hi hj => ?_, fun p hp => ?_, fun b hb => ?_⟩
  · rw [hy, bank_setBank_self, ← hg i j hi hj]
    exact congrArg (Option.getD · _) (mapFind_putOutputs_at hi hj hn base.cells)
  · rw [hy, bank_setBank_self]
    exact congrArg (Option.getD · _) (mapFind_putOutputs_off hp base.cells)
  · rw [hy, bank_setBank_ne x hb]

/-! ## What each operation leaves in its bank (R134 to R136, R138, R161) -/

section
variable (x : Tile) (o : Op) (w0 : W64) {f : IbexF}

/-- With good parity and no fault in the array, an MMA adds to each output its dot product. -/
theorem bankAdds_doMma (hn : f.n ≤ 32) (hA : x.bufA.bad = []) (hB : x.bufB.bad = []) :
    let e (i j : Nat) : Eff := Eff.dot (bankBase x f).anchor.toInt (aRow x f i) (bCol x f j) Eff.zero
    BankAdds x f.bank (bankBase x f) f.m f.n (fun i j => (e i j).sum)
      (fun i j => ⟨0, (e i j).nan, (e i j).pinf, (e i j).ninf, (e i j).oor, (e i j).truncs != 0, f.k / 32⟩)
      (x.doMma o w0 f .none none).1 := by
  refine bankAdds_of_putOutputs hn (fun b => rfl) (fun i j hi hj => ?_)
  simp [hi, hj, hA, hB, badIn, twoBitAt, bankBase, Bank.cleared]

/-- A RAWACC adds to each output its raw value, which carries its own flags and groups. -/
theorem bankAdds_doRawacc (hn : f.n ≤ 32) (hA : x.bufA.bad = []) :
    let raw (i j : Nat) : Cell := Cell.ofRaw (ofBytes (x.bufA.bytes (f.aseg * 1024 + (i * 32 + j) * 16) 16))
    BankAdds x f.bank (bankBase x f) f.m f.n (fun i j => (raw i j).value.toInt) raw (x.doRawacc o w0 f .none).1 := by
  refine bankAdds_of_putOutputs hn (fun b => rfl) (fun i j _ _ => ?_)
  simp [hA, badIn, twoBitAt, bankBase, Bank.cleared]

end

/-- The completion of an operation with no mismatch to report: a bank that it cleared is initialised (R163, R166). -/
theorem ibexDone_clean {x : Tile} {o : Op} (h : ∀ p ∈ x.sums, p.1 ≠ o.n) (w0 w1 : W64) :
    let f := ibexF w0 w1
    x.ibexDone o w0 w1
      = (completed (if f.opc = 3 ∨ f.clr = true then x.setBank f.bank { x.bank f.bank with init := true } else x) o, []) := by
  have hkept : x.sums.filter (fun p => p.1 != o.n) = x.sums := List.filter_eq_self.2 (fun p hp => bne_iff_ne.2 (h p hp))
  have hnone : x.sums.filter (fun p => p.1 == o.n) = [] := List.filter_eq_nil_iff.2 (fun p hp => by simpa using h p hp)
  simp only [Tile.ibexDone, hkept, hnone, Bool.or_eq_true, decide_eq_true_eq]
  split <;> rfl

/-! ## The commands -/

section
variable {s : State} {t : TileId} {o : Op} {w0 w1 : W64} {xb : Byte}

theorem twoOpc_of_kind (hk : o.kind = .two w0 w1 xb) : twoOpc (ibexF w0 w1).opc o = true := by
  simp [twoOpc, hk, ibexF]

theorem mma_issues (h : Issues s t 2 o) (hk : o.kind = .two w0 w1 xb) (hopc : (ibexF w0 w1).opc = 1) (e : BankErr)
    (cell : Option CellFault) (par : List (Bool × Nat)) : exec (.mma t e cell par) s
      = .next (s.putTile t (((issued (s.tile t) o).parityMet par).doMma o w0 (ibexF w0 w1) e cell)) := by
  show (.next (issueHead t 2 (twoOpc 1) _ s) : Outcome) = _
  rw [issueHead_issues h (hopc ▸ twoOpc_of_kind hk), hk]
  rfl

theorem rawacc_issues (h : Issues s t 2 o) (hk : o.kind = .two w0 w1 xb) (hopc : (ibexF w0 w1).opc = 2) (e : BankErr)
    (par : List (Bool × Nat)) : exec (.rawacc t e par) s
      = .next (s.putTile t (((issued (s.tile t) o).parityMet par).doRawacc o w0 (ibexF w0 w1) e)) := by
  show (.next (issueHead t 2 (twoOpc 2) _ s) : Outcome) = _
  rw [issueHead_issues h (hopc ▸ twoOpc_of_kind hk), hk]
  rfl

theorem clear_issues (h : Issues s t 2 o) (hk : o.kind = .two w0 w1 xb) (hopc : (ibexF w0 w1).opc = 3) :
    exec (.clear t) s = .next (s.putTile t ((issued (s.tile t) o).doClear (ibexF w0 w1), [])) := by
  show (.next (issueHead t 2 (twoOpc 3) _ s) : Outcome) = _
  rw [issueHead_issues h (hopc ▸ twoOpc_of_kind hk), hk]
  rfl

theorem ibexOpComplete_executing (h : (s.tile t).executing 2 = some o) (hk : o.kind = .two w0 w1 xb) :
    exec (.ibexOpComplete t) s = .next (s.putTile t ((s.tile t).ibexDone o w0 w1)) := by
  show (.next (finishPort t 2 _ s) : Outcome) = _
  rw [finishPort_of h, hk]

end

/-- Settles O20: each operation by the cell that it puts at every output, and its completion by what is left of its checks. -/
theorem bankOperationsAddToTheirOutputs : Obligations.BankOperationsAddToTheirOutputs := by
  refine ⟨fun s t o w0 w1 xb => ?issue, fun s t o w0 w1 xb => ?complete⟩
  case issue =>
    intro x f h hk _ hn hA hB
    refine ⟨fun hopc => ⟨_, _, mma_issues h hk hopc .none none [], ?mma⟩,
      fun hopc => ⟨_, _, rawacc_issues h hk hopc .none [], ?rawacc⟩, fun hopc => ?clear⟩
    case mma => exact bankAdds_doMma (issued x o) o w0 hn hA hB
    case rawacc => exact bankAdds_doRawacc (issued x o) o w0 hn hA
    case clear => exact clear_issues h hk hopc
  case complete =>
    intro x f h hk hsums
    rw [ibexOpComplete_executing h hk, ibexDone_clean hsums]

end Sys2Proof.Machine
end

section
/-! # FILL and the operand buffers (R154, R164) -/

namespace Sys2Proof.Machine

/-! ## Bytes listed one after the other -/

section
variable {a p : Nat}

theorem mapFind_insBytes_outside (bs : List Byte) (h : p < a ∨ a + bs.length ≤ p) (m : SMap Byte) :
    mapFind (insBytes a bs m) p = mapFind m p := by
  induction bs generalizing a m with
  | nil => rfl
  | cons b bs ih =>
    rw [List.length_cons] at h
    rw [insBytes, ih (by omega), mapFind_mapIns_ne (by omega)]

theorem mapFind_insBytes_inside {bs : List Byte} (ha : a ≤ p) (hp : p - a < bs.length) (m : SMap Byte) :
    mapFind (insBytes a bs m) p = some bs[p - a] := by
  induction bs generalizing a m with
  | nil => cases hp
  | cons b bs ih =>
    rw [List.length_cons] at hp
    rw [insBytes]
    obtain rfl | hlt := ha.eq_or_lt
    · simp [mapFind_insBytes_outside bs (.inl a.lt_succ_self)]
    · have hsucc : p - a = p - (a + 1) + 1 := by omega
      simp only [ih hlt (by omega), hsucc, List.getElem_cons_succ]

end

theorem bufferHoldsWhatWasWritten : BufferHoldsWhatWasWritten := by
  intro u a p bs marks
  unfold Buffer.write Buffer.byte
  split
  next h => rw [mapFind_insBytes_inside h.1 h.2, Option.getD_some]
  next h => rw [mapFind_insBytes_outside bs (by omega)]

/-! ## The port's commands -/

/-- With no uncorrectable word in tile memory, a FILL copies its source and marks nothing. -/
theorem doFill_clean {x : Tile} (h : x.bad = []) {o : Op} {b : Bool} (hp : o.port = if b then 1 else 0) (w : W64) :
    let f := fillF w
    let put (u : Buffer) : Buffer := u.write (f.seg * 1024) (x.readMem f.src (f.units * 64)) []
    x.doFill o w .none = (if b then { x with bufB := put x.bufB } else { x with bufA := put x.bufA }, []) := by
  cases b <;> simp [Tile.doFill, Tile.meet, Tile.wordErrs, badWords, h, hp]

theorem fillCopiesTileMemory : FillCopiesTileMemory := by
  refine ⟨fun s t b o w => ?issue, fun s t b o h => ?complete⟩
  case issue =>
    intro x h hport hk hbad f put y
    show (.next (issueHead t _ _ _ s) : Outcome) = _
    rw [issueHead_issues h rfl, hk]
    exact congrArg (fun r => Host.Outcome.next (s.putTile t r)) (doFill_clean (x := issued x o) hbad hport w)
  case complete =>
    show (.next (finishPort t _ _ s) : Outcome) = _
    rw [finishPort_of h]
    rfl

/-- Settles O19: a FILL by what it copies when it issues and by its completion, a buffer by the bytes listed in it. -/
theorem fillsReachTheirBuffer : Obligations.FillsReachTheirBuffer := ⟨fillCopiesTileMemory, bufferHoldsWhatWasWritten⟩

end Sys2Proof.Machine
end

section
/-! # What a command of a tile leaves alone (R120, R199, R227)

A command puts its tile's new state and what it reports, so it changes no other tile and nothing of the device but the recorder, the
outputs and the free values. What it leaves of its own tile is told by a relation of tiles, which each runner carries from the body of the
instruction, or from the effect of the operation, to the whole command. -/

namespace Sys2Proof.Machine

/-! ## The frame of a tile -/

namespace State.TileFrame

variable {s u v : State} {t : TileId}

theorem refl (s : State) (t : TileId) : s.TileFrame t s := ⟨rfl, fun _ _ => rfl, fun _ _ => rfl⟩

theorem trans (h : s.TileFrame t u) (g : u.TileFrame t v) : s.TileFrame t v where
  rest := g.rest.trans (congrArg
    (fun r : State => { r with tiles := v.tiles, out := v.out, recorder := v.recorder, regs := v.regs, free := v.free }) h.rest)
  others x hx := (g.others x hx).trans (h.others x hx)
  fields f hf := (g.fields f hf).trans (h.fields f hf)

theorem setTile (s : State) (t : TileId) (x : Tile) : s.TileFrame t (s.setTile t x) :=
  ⟨rfl, fun _ hu => tile_setTile_other hu x, fun _ _ => rfl⟩

theorem emit (s : State) (t : TileId) (o : Output) : s.TileFrame t (s.emit o) := ⟨rfl, fun _ _ => rfl, fun _ _ => rfl⟩

theorem draw (s : State) (t : TileId) : s.TileFrame t s.draw.2 := ⟨rfl, fun _ _ => rfl, fun _ _ => rfl⟩

theorem record (s : State) (t : TileId) (b : Report) : s.TileFrame t (s.record b) where
  rest := by
    unfold State.record
    dsimp only
    split <;> rfl
  others _ _ := tile_of_tiles (State.record_tiles s b) _
  fields _ hf := fget_record hf b

theorem note (s : State) (t : TileId) (n : Note) : s.TileFrame t (s.note t n) := by
  cases n with
  | err => exact (setTile s t _).trans (emit _ t _)
  | event => exact record s t _
  | out o => exact emit s t o
  | flag => exact emit s t _

theorem notes (s : State) (t : TileId) (ns : List Note) : s.TileFrame t (ns.foldl (fun s n => s.note t n) s) :=
  List.foldlRecOn (motive := s.TileFrame t) ns _ (refl s t) fun _ h n _ => h.trans (note _ t n)

theorem putTile (s : State) (t : TileId) (r : Tile × List Note) : s.TileFrame t (s.putTile t r) :=
  (setTile s t r.1).trans (notes _ t r.2)

end State.TileFrame

/-! ## Relations of a tile before and after -/

/-- `y` is `x` but for its core, what an error sets, the records of the step and the free value of the cycle counters. -/
def Tile.CoreOnly (x y : Tile) : Prop := y = { x with core := y.core, dirty := y.dirty, once := y.once, cntSeed := y.cntSeed }

/-- `y` holds the tile memory of `x`. -/
def Tile.SameMem (x y : Tile) : Prop := y.mem = x.mem

/-- `y` holds the bytes of tile memory that `x` holds where `kept` says so. -/
def Tile.SameBytes (kept : Nat → Prop) (x y : Tile) : Prop := ∀ a, kept a → y.readMem a 1 = x.readMem a 1

/-- A relation that tells what a command leaves of its tile: changes of the core never break it, and it chains. -/
structure Bears (R : Tile → Tile → Prop) : Prop where
  core : ∀ {x y}, x.CoreOnly y → R x y
  trans : ∀ {x y z}, R x y → R y z → R x z

theorem Tile.CoreOnly.mem {x y : Tile} (h : x.CoreOnly y) : x.SameMem y := by
  rw [Tile.SameMem, h]

theorem Tile.SameMem.sameBytes {x y : Tile} (h : x.SameMem y) (kept : Nat → Prop) : Tile.SameBytes kept x y := fun _ _ => by
  rw [Tile.readMem, h, Tile.readMem]

theorem bears_coreOnly : Bears Tile.CoreOnly where
  core h := h
  trans {_ _ z} h g := g.trans (congrArg
    (fun r : Tile => { r with core := z.core, dirty := z.dirty, once := z.once, cntSeed := z.cntSeed }) h)

theorem bears_sameMem : Bears Tile.SameMem := ⟨Tile.CoreOnly.mem, fun h g => g.trans h⟩

theorem bears_sameBytes (kept : Nat → Prop) : Bears (Tile.SameBytes kept) :=
  ⟨fun h => h.mem.sameBytes kept, fun h g a ha => (g a ha).trans (h a ha)⟩

theorem Bears.refl {R : Tile → Tile → Prop} (hR : Bears R) (x : Tile) : R x x := hR.core rfl

/-- From `s` to `u` only tile `t` has changed, as `R` allows, and what the frame of a tile leaves open. -/
structure State.Turns (R : Tile → Tile → Prop) (t : TileId) (s u : State) : Prop where
  frame : s.TileFrame t u
  tile : R (s.tile t) (u.tile t)

/-- Whatever the command `c` answers, it has changed tile `t` as `R` allows and nothing else. -/
def CommandTurns (R : Tile → Tile → Prop) (t : TileId) (s : State) (c : Instr) : Prop := ∀ u, exec c s = .next u → s.Turns R t u

theorem commandTurns_of_exec {c : Instr} {R : Tile → Tile → Prop} {t : TileId} {s u : State} (hc : exec c s = .next u)
    (h : s.Turns R t u) : CommandTurns R t s c := fun _ hu => Host.Outcome.next.inj (hc.symm.trans hu) ▸ h

/-! ## What is reported (R120, R424, R520) -/

section
variable (s : State) (t : TileId)

theorem tile_note (n : Note) : (s.tile t).CoreOnly ((s.note t n).tile t) := by
  cases n with
  | err => exact tileErr_tile (s := s) ▸ rfl
  | event => exact tile_of_tiles (State.record_tiles s _) t ▸ rfl
  | out | flag => rfl

theorem tile_notes (ns : List Note) : (s.tile t).CoreOnly ((ns.foldl (fun s n => s.note t n) s).tile t) :=
  List.foldlRecOn (motive := fun u => (s.tile t).CoreOnly (State.tile u t)) ns _ rfl fun u h n _ => bears_coreOnly.trans h (tile_note u t n)

theorem tile_putTile (r : Tile × List Note) : r.1.CoreOnly ((s.putTile t r).tile t) := by
  have h := tile_notes (s.setTile t r.1) t r.2
  rwa [tile_setTile_same] at h

end

section
variable {R : Tile → Tile → Prop} (hR : Bears R) {s : State} {t : TileId} {c : Instr}
include hR

theorem turns_refl : s.Turns R t s := ⟨.refl s t, hR.refl _⟩

theorem turns_trans {u v : State} (h : s.Turns R t u) (g : u.Turns R t v) : s.Turns R t v :=
  ⟨h.frame.trans g.frame, hR.trans h.tile g.tile⟩

theorem turns_putTile {r : Tile × List Note} (h : R (s.tile t) r.1) : s.Turns R t (s.putTile t r) :=
  ⟨.putTile s t r, hR.trans h (hR.core (tile_putTile s t r))⟩

/-- A command that does nothing, or puts its tile. -/
theorem commandTurns_of_put (h : exec c s = .next s ∨ ∃ r, exec c s = .next (s.putTile t r) ∧ R (s.tile t) r.1) : CommandTurns R t s c :=
  h.elim (fun h => commandTurns_of_exec h (turns_refl hR)) (fun ⟨_, h, hr⟩ => commandTurns_of_exec h (turns_putTile hR hr))

end

/-! ## Instructions (R200, R202, R205, R207, R227) -/

/-- What the act `a` of an instruction at tile `x` leaves of the tile, before the PC moves on. -/
def Act.Leaves (R : Tile → Tile → Prop) (x : Tile) : Act → Prop
  | .done y _ => R x y
  | .jump y _ => R x y
  | .wait y _ => R x y
  | .fault y _ _ _ => R x y
  | .stall => True

theorem leaves_ite {R : Tile → Tile → Prop} {x : Tile} {p : Prop} [Decidable p] {a b : Act} (ha : a.Leaves R x) (hb : b.Leaves R x) :
    (if p then a else b).Leaves R x := by
  split <;> assumption

theorem finish_coreOnly (x : Tile) : x.CoreOnly x.finish.1 := by
  unfold Tile.finish Tile.afterAt
  dsimp only
  split
  · rfl
  · split <;> rfl

section
variable (x : Tile) (o : Once) (array addr : Nat)

theorem correctedNote_eq : ∃ seen, (x.correctedNote o array addr).1 = { x with once := seen } := by
  unfold Tile.correctedNote Tile.oncePer
  dsimp only
  split <;> exact ⟨_, rfl⟩

theorem correctedNote_core : (x.correctedNote o array addr).1.core = x.core := by
  obtain ⟨_, h⟩ := correctedNote_eq x o array addr
  rw [h]

theorem correctedNote_coreOnly : x.CoreOnly (x.correctedNote o array addr).1 := by
  obtain ⟨_, h⟩ := correctedNote_eq x o array addr
  rw [h]
  rfl

end

section
variable {R : Tile → Tile → Prop} (hR : Bears R) {s : State} {t : TileId} {e : CoreErr} {c : Instr}
include hR

theorem act_leaves {x : Tile} {a : Act} (h : a.Leaves R x) : R x (x.act a).1 := by
  cases a with
  | done y ns => exact hR.trans h (hR.core (finish_coreOnly y))
  | jump | wait | fault => exact hR.trans h (hR.core rfl)
  | stall => exact hR.refl x

theorem fetched_leaves {x : Tile} {f : Tile → Tile × List Note} (h : ∀ y, y.core = x.core → R y (f y).1) : R x (x.fetched e f).1 := by
  cases e with
  | corrected => exact hR.trans (hR.core (correctedNote_coreOnly x .core 0 x.core.pc.toNat)) (h _ (correctedNote_core ..))
  | _ => exact h x rfl

/-- Muntjac's runner: a fault, a false guard and a corrected word change the core only; the rest is the body's. -/
theorem turns_runCore {is : W32 → Bool} {u : Uses} {body : State → W32 → Tile → Act}
    (h : ∀ y, y.core = (s.tile t).core → (body s (s.tile t).word y).Leaves R y) : s.Turns R t (runCore t e is u body s) := by
  unfold runCore
  dsimp only
  split
  · exact turns_refl hR
  · split
    · exact turns_putTile hR (hR.core rfl)
    · split
      · exact turns_putTile hR (fetched_leaves hR fun y _ => hR.core (finish_coreOnly y))
      · split
        · exact turns_refl hR
        · split
          · split
            · exact turns_putTile hR (hR.core rfl)
            · exact turns_putTile hR (act_leaves hR (h _ rfl))
          · refine turns_putTile hR ?_
            split
            · exact hR.trans (hR.core (correctedNote_coreOnly ..)) (act_leaves hR (h _ (correctedNote_core ..)))
            · exact act_leaves hR (h _ rfl)
          · exact turns_putTile hR (fetched_leaves hR fun y hy => act_leaves hR (h y hy))

theorem commandTurns_runCore {is : W32 → Bool} {u : Uses} {body : State → W32 → Tile → Act}
    (hc : exec c s = .next (runCore t e is u body s))
    (h : ∀ y, y.core = (s.tile t).core → (body s (s.tile t).word y).Leaves R y) : CommandTurns R t s c :=
  commandTurns_of_exec hc (turns_runCore hR h)

end

/-! ## What an engine's operation leaves (R113, R114) -/

section
variable {R : Tile → Tile → Prop} (hR : Bears R) {s : State} {t : TileId} {p : Nat} {f : Tile → Op → Tile × List Note}
include hR

theorem turns_issueHead {is : Op → Bool} (h : ∀ o, Issues s t p o → is o = true → R (s.tile t) (f ((s.tile t).toExec o) o).1) :
    s.Turns R t (issueHead t p is f s) := by
  obtain he | ⟨o, ho, his, he⟩ := issueHead_cases (s := s) (t := t) p is f <;> rw [he]
  · exact turns_refl hR
  · exact turns_putTile hR (h o ho his)

theorem turns_finishPort (h : ∀ o, R (s.tile t) (f (s.tile t) o).1) : s.Turns R t (finishPort t p f s) := by
  obtain he | ⟨o, -, he⟩ := finishPort_cases (s := s) (t := t) p f <;> rw [he]
  · exact turns_refl hR
  · exact turns_putTile hR (h o)

end

end Sys2Proof.Machine
end

section
/-! # Commands that change the core only (R207 to R215, R221 to R227) -/

namespace Sys2Proof.Machine

section
variable {s : State} {t : TileId} {e : CoreErr}

theorem startLoop_leaves (x : Tile) (body count : Nat) : (startLoop x body count).Leaves Tile.CoreOnly x :=
  leaves_ite rfl (leaves_ite rfl rfl)

theorem turns_runLoop (opc : Nat) (reads : W32 → List Nat) (body : W32 → Nat) (count : W32 → Tile → Nat) :
    s.Turns Tile.CoreOnly t (runLoop t e opc reads body count s) := by
  unfold runLoop
  dsimp only
  split
  · exact turns_putTile bears_coreOnly (fetched_leaves bears_coreOnly fun y _ =>
      bears_coreOnly.trans (y := y.setPc _) rfl (finish_coreOnly _))
  · exact turns_runCore bears_coreOnly fun y _ => startLoop_leaves y _ _

theorem setS_coreOnly (x : Tile) (i : Nat) (v : W64) : x.CoreOnly (x.setS i v) := rfl

theorem lds_coreOnly : CommandTurns Tile.CoreOnly t s (.lds t e .none) := by
  refine commandTurns_runCore bears_coreOnly rfl fun y _ => leaves_ite rfl (leaves_ite trivial ?_)
  exact leaves_ite (setS_coreOnly y _ _) (setS_coreOnly y _ _)

theorem rdsys_coreOnly : CommandTurns Tile.CoreOnly t s (.rdsys t e) := by
  refine commandTurns_of_exec rfl (turns_trans bears_coreOnly ?_ (turns_runCore bears_coreOnly fun _ _ => rfl))
  split
  · split
    · exact ⟨(State.TileFrame.draw s t).trans (.setTile _ t _), tile_setTile_same _ ▸ rfl⟩
    · exact ⟨.draw s t, rfl⟩
  · exact turns_refl bears_coreOnly

theorem waitcResume_coreOnly : CommandTurns Tile.CoreOnly t s (.waitcResume t) := by
  refine commandTurns_of_put bears_coreOnly ?_
  change execWaitcResume t s = _ ∨ ∃ r, execWaitcResume t s = _ ∧ _
  unfold execWaitcResume
  dsimp only
  split
  · split
    · exact .inr ⟨_, rfl, finish_coreOnly _⟩
    · exact .inl rfl
  · exact .inl rfl

theorem flagwaitResume_coreOnly : CommandTurns Tile.CoreOnly t s (.flagwaitResume t) := by
  refine commandTurns_of_put bears_coreOnly ?_
  change execFlagwaitResume t s = _ ∨ ∃ r, execFlagwaitResume t s = _ ∧ _
  unfold execFlagwaitResume
  dsimp only
  split
  · split
    · exact .inr ⟨_, rfl, finish_coreOnly _⟩
    · exact .inl rfl
  · exact .inl rfl

theorem coreCommands_turn : ∀ c ∈ coreCommands t e, CommandTurns Tile.CoreOnly t s c := by
  simp only [coreCommands, List.forall_mem_append, List.forall_mem_cons, List.not_mem_nil, IsEmpty.forall_iff, implies_true, and_true]
  refine ⟨⟨?br, ?call, ?jr, ?loopi, ?loopr, ?lidx, ?cmp, ?cmpi, ?plog, ?prd, ?add, ?sub, ?mul, ?and, ?or, ?xor, ?shl, ?shr, ?sar, ?addi,
    ?andi, ?ori, ?shli, ?shri, ?li, ?lik, ?ins, ?ext, ?adda, ?addas, ?movsa, ?movas, ?lds, ?waitc, ?bar, ?flagset, ?flagwait⟩,
    ?fenceRelease, ?fenceAcquire, ?fenceFull, ?rdsys, ?trap, ?illegal, ?waitcResume, ?flagwaitResume⟩
  case loopi | loopr => exact commandTurns_of_exec rfl (turns_runLoop ..)
  case lds => exact lds_coreOnly
  case rdsys => exact rdsys_coreOnly
  case waitcResume => exact waitcResume_coreOnly
  case flagwaitResume => exact flagwaitResume_coreOnly
  case jr | waitc | flagwait => exact commandTurns_runCore bears_coreOnly rfl fun _ _ => leaves_ite rfl rfl
  all_goals exact commandTurns_runCore bears_coreOnly rfl fun _ _ => rfl

end

end Sys2Proof.Machine
end

section
/-! # Commands that store nothing to tile memory (R111, R161 to R173, R176 to R198, R214 to R224) -/

namespace Sys2Proof.Machine

/-! ## Instructions that store nothing (R111, R214 to R223) -/

section
variable {x y : Tile} {s : State} {t : TileId} {e : CoreErr} {c : Instr}

theorem enqueueOr_leaves {p : Nat} {kind : OpKind} {after : Tile → Op → Act}
    (h : ∀ y o, x.SameMem y → (after y o).Leaves Tile.SameMem x) : (enqueueOr x p kind after).Leaves Tile.SameMem x :=
  leaves_ite (h _ _ rfl) rfl

theorem turns_runIssue (p : Nat) : s.Turns Tile.SameMem t (runIssue t e p s) := by
  unfold runIssue
  exact turns_runCore bears_sameMem fun _ _ => leaves_ite rfl (enqueueOr_leaves fun _ _ h => h)

theorem afterAtom_leaves (w : W32) (o : Op) (h : x.SameMem y) : (afterAtom w y o).Leaves Tile.SameMem x := by
  have hz : x.SameMem (if wField w 7 4 = 1 then y
      else { y with core := { y.core with pend := y.core.pend ++ [(BitVec.ofNat 5 (wD w), o.n)] } }) := by
    split <;> exact h
  exact leaves_ite hz hz

theorem turns_runAtom (ops : List Nat) : s.Turns Tile.SameMem t (runAtom t e ops s) :=
  turns_runCore bears_sameMem fun _ _ => leaves_ite rfl (enqueueOr_leaves fun _ o h => afterAtom_leaves _ o h)

theorem afterStall_leaves (w : W32) (o : Op) (h : x.SameMem y) : (afterStall w y o).Leaves Tile.SameMem x := by
  refine leaves_ite (afterAtom_leaves w o h) (leaves_ite ?_ h)
  split <;> exact h

theorem stalledEnqueue_sameMem : CommandTurns Tile.SameMem t s (.stalledEnqueue t) := by
  refine commandTurns_of_put bears_sameMem ?_
  change execStalledEnqueue t s = _ ∨ ∃ r, execStalledEnqueue t s = _ ∧ _
  unfold execStalledEnqueue
  dsimp only
  split
  · split
    · exact .inr ⟨_, rfl, bears_sameMem.trans rfl (act_leaves bears_sameMem (afterStall_leaves _ _ rfl))⟩
    · exact .inl rfl
  · exact .inl rfl

theorem releaseMsg_leaves (ch : BitVec 6) {after : Tile → Act} (h : ∀ y, x.SameMem y → (after y).Leaves Tile.SameMem x) :
    (releaseMsg x ch after).Leaves Tile.SameMem x :=
  leaves_ite rfl (enqueueOr_leaves (x := x.unhold ch) fun y _ hy => h y hy)

theorem enterHandler_leaves (ch : BitVec 6) (hdr : W64) (h : x.SameMem y) : (enterHandler y ch hdr).Leaves Tile.SameMem x := by
  unfold enterHandler
  split <;> exact h

theorem recv_sameMem : CommandTurns Tile.SameMem t s (.recv t e) := by
  refine commandTurns_runCore bears_sameMem rfl fun y _ => ?_
  dsimp only
  split
  · show y.SameMem (ite ..)
    split <;> rfl
  · exact leaves_ite rfl rfl

theorem dispatch_sameMem : CommandTurns Tile.SameMem t s (.dispatch t e) := by
  refine commandTurns_runCore bears_sameMem rfl fun y _ => leaves_ite rfl ?_
  split
  · exact enterHandler_leaves _ _ rfl
  · rfl

theorem hret_sameMem : CommandTurns Tile.SameMem t s (.hret t e) := by
  refine commandTurns_runCore bears_sameMem rfl fun y _ => ?_
  split
  · rfl
  · exact leaves_ite (releaseMsg_leaves _ fun _ h => h) rfl

theorem fenceGoes_leaves (x : Tile) : (fenceGoes x).Leaves Tile.SameMem x := by
  unfold fenceGoes
  split
  · exact leaves_ite rfl trivial
  · exact leaves_ite (leaves_ite (afterAtom_leaves _ _ rfl) rfl) trivial
  · exact leaves_ite rfl trivial
  · trivial

theorem fenceComplete_sameMem : CommandTurns Tile.SameMem t s (.fenceComplete t) := by
  refine commandTurns_of_put bears_sameMem ?_
  change execFenceComplete t s = _ ∨ ∃ r, execFenceComplete t s = _ ∧ _
  unfold execFenceComplete
  dsimp only
  split
  · exact .inl rfl
  · split
    · split
      · exact .inr ⟨((s.tile t).setWait _, [.out _]), rfl, rfl⟩
      · exact .inl rfl
    · exact .inr ⟨_, rfl, act_leaves bears_sameMem (fenceGoes_leaves _)⟩

theorem meet_sameMem (x : Tile) (m : WordErr) (a n : Nat) : x.SameMem (x.meet m a n).1 := by
  unfold Tile.meet
  split
  · rfl
  · split
    · exact (correctedNote_coreOnly ..).mem
    · rfl
  · dsimp only
    split <;> rfl

theorem lds_sameMem (m : WordErr) : CommandTurns Tile.SameMem t s (.lds t e m) := by
  refine commandTurns_runCore bears_sameMem rfl fun y _ => leaves_ite rfl (leaves_ite trivial ?_)
  have hread (v : W64) := bears_sameMem.trans (meet_sameMem y m (ldsAddr y (s.tile t).word) 8) (setS_coreOnly _ (wD (s.tile t).word) v).mem
  exact leaves_ite (hread _) (hread _)

end

/-! ## Operations that store nothing (R164, R161, R171, R173, R176, R188, R190 to R198) -/

section
variable {x : Tile} {s : State} {t : TileId} {c : Instr}

theorem oncePer_sameMem (x : Tile) (o : Once) : x.SameMem (x.oncePer o).2 := by
  unfold Tile.oncePer
  split <;> rfl

theorem commandTurns_issue {p : Nat} {is : Op → Bool} {f : Tile → Op → Tile × List Note} (hc : exec c s = .next (issueHead t p is f s))
    (h : ∀ x o, Tile.SameMem x (f x o).1) : CommandTurns Tile.SameMem t s c :=
  commandTurns_of_exec hc (turns_issueHead bears_sameMem fun o _ _ => h ((s.tile t).toExec o) o)

theorem commandTurns_finish {p : Nat} {f : Tile → Op → Tile × List Note} (hc : exec c s = .next (finishPort t p f s))
    (h : ∀ x o, Tile.SameMem x (f x o).1) : CommandTurns Tile.SameMem t s c :=
  commandTurns_of_exec hc (turns_finishPort bears_sameMem fun o => h (s.tile t) o)

theorem doFill_sameMem (x : Tile) (o : Op) (w : W64) (m : WordErr) : x.SameMem (x.doFill o w m).1 := by
  unfold Tile.doFill
  dsimp only
  split <;> exact meet_sameMem ..

theorem fill_sameMem (b : Bool) (m : WordErr) : CommandTurns Tile.SameMem t s (.fill t b m) :=
  commandTurns_issue rfl fun x o => by
    split
    · exact doFill_sameMem ..
    · rfl

theorem parityMet_sameMem (x : Tile) (par : List (Bool × Nat)) : x.SameMem (x.parityMet par) :=
  List.foldlRecOn (motive := x.SameMem) par _ rfl fun y h p _ => by
    split <;> exact h

theorem bankNotes_sameMem (x : Tile) (e : BankErr) (o : Op) (w0 : W64) (bank : Nat) (ps : List Nat) :
    x.SameMem (x.bankNotes e o w0 bank ps).1 := by
  unfold Tile.bankNotes
  split
  · rfl
  · split
    · exact (correctedNote_coreOnly ..).mem
    · rfl
  · rfl

theorem doMma_sameMem (x : Tile) (o : Op) (w0 : W64) (f : IbexF) (e : BankErr) (cell : Option CellFault) :
    x.SameMem (x.doMma o w0 f e cell).1 := bankNotes_sameMem ..

theorem doRawacc_sameMem (x : Tile) (o : Op) (w0 : W64) (f : IbexF) (e : BankErr) : x.SameMem (x.doRawacc o w0 f e).1 :=
  bankNotes_sameMem ..

theorem ibexDone_sameMem (x : Tile) (o : Op) (w0 w1 : W64) : x.SameMem (x.ibexDone o w0 w1).1 := by
  unfold Tile.ibexDone Tile.complete
  dsimp only
  split <;> rfl

theorem mma_sameMem (e : BankErr) (cell : Option CellFault) (par : List (Bool × Nat)) :
    CommandTurns Tile.SameMem t s (.mma t e cell par) :=
  commandTurns_issue rfl fun x o => by
    split
    · exact bears_sameMem.trans (parityMet_sameMem x par) (doMma_sameMem ..)
    · rfl

theorem rawacc_sameMem (e : BankErr) (par : List (Bool × Nat)) : CommandTurns Tile.SameMem t s (.rawacc t e par) :=
  commandTurns_issue rfl fun x o => by
    split
    · exact bears_sameMem.trans (parityMet_sameMem x par) (doRawacc_sameMem ..)
    · rfl

theorem clear_sameMem : CommandTurns Tile.SameMem t s (.clear t) :=
  commandTurns_issue rfl fun x o => by
    split <;> rfl

theorem ibexOpComplete_sameMem : CommandTurns Tile.SameMem t s (.ibexOpComplete t) :=
  commandTurns_finish rfl fun x o => by
    split
    · exact ibexDone_sameMem ..
    · rfl

theorem dupCompare_sameMem (x : Tile) : x.SameMem x.dupCompare.1 := by
  unfold Tile.dupCompare
  split <;> rfl

theorem laneNotes_sameMem (x : Tile) (e : LaneErr) (o : Op) (w0 : W64) : x.SameMem (x.laneNotes e o w0).1 := by
  unfold Tile.laneNotes
  dsimp only
  split
  · rfl
  · split
    · exact (correctedNote_coreOnly ..).mem
    · rfl
  · rfl

theorem checkFailed_sameMem (x : Tile) (o : Op) (entry : Nat) (k : BitVec 256) (detail count nf : Nat) :
    x.SameMem (x.checkFailed o entry k detail count nf).1 := by
  unfold Tile.checkFailed
  dsimp only
  split <;> exact oncePer_sameMem ..

theorem doChkr_sameMem (x : Tile) (o : Op) (f : TahrF) (l : Lanes) : x.SameMem (x.doChkr o f l).1 := by
  unfold Tile.doChkr
  dsimp only
  split
  · rfl
  · exact checkFailed_sameMem ..

theorem doChkp_sameMem (x : Tile) (o : Op) (f : TahrF) (l : Lanes) : x.SameMem (x.doChkp o f l).1 := by
  unfold Tile.doChkp
  dsimp only
  split
  · split
    · rfl
    · exact checkFailed_sameMem ..
  · rfl

/-- A check issues: its lanes' codes, then what it finds. -/
theorem turns_runCheck {e : LaneErr} {opc : Nat} {g : Tile → Op → TahrF → Lanes → Tile × List Note}
    (h : ∀ x o f l, Tile.SameMem x (g x o f l).1) : s.Turns Tile.SameMem t (runCheck t e opc g s) := by
  refine turns_issueHead bears_sameMem fun o _ _ => ?_
  split
  · exact bears_sameMem.trans (x := s.tile t) (laneNotes_sameMem ((s.tile t).toExec o) ..) (h ..)
  · rfl

/-- An operation on lanes writes vector registers only. -/
theorem turns_runTahrV (e : LaneErr) (opc : Nat) (g : TahrF → Lanes → Nat → Nat → W32) :
    s.Turns Tile.SameMem t (runTahrV t e opc g s) := by
  refine turns_issueHead bears_sameMem fun o _ _ => ?_
  split
  · exact laneNotes_sameMem ((s.tile t).toExec o) ..
  · rfl

theorem loadMet_sameMem (x : Tile) (m : WordErr) (f : TahrF) {load : Tile → Tile × List Note} (h : ∀ x, Tile.SameMem x (load x).1) :
    x.SameMem (x.loadMet m f load).1 := by
  unfold Tile.loadMet
  dsimp only
  refine bears_sameMem.trans (meet_sameMem x m f.addr f.elemBytes) (bears_sameMem.trans ?_ (h _))
  split
  · rfl
  · exact meet_sameMem ..

/-- A move issues: its lanes' codes, then what it moves. -/
theorem turns_runTahrM {R : Tile → Tile → Prop} (hR : Bears R) {e : LaneErr} {opc : Nat}
    {g : Tile → Op → W64 → TahrF → Byte → (Nat → Nat → W32) → (Nat → Nat → Num.Rnd) → Tile × List Note}
    (hm : ∀ {x y}, x.SameMem y → R x y)
    (h : ∀ o w0 w1 xb y lane r, Issues s t 4 o → o.kind = .two w0 w1 xb → bits w0.toNat 63 58 = opc → R y (g y o w0 (tahrF w0 w1) xb lane r).1) :
    s.Turns R t (runTahrM t e opc g s) := by
  refine turns_issueHead hR fun o ho his => ?_
  split at his
  next w0 w1 xb hk =>
    exact hR.trans (hm (laneNotes_sameMem ((s.tile t).toExec o) ..)) (h o w0 w1 xb _ _ _ ho hk (eq_of_beq his))
  next => cases his

end

/-! ## Drains (R139, R169, R170, R172) -/

section
variable (x : Tile) (seed step : Nat) (o : Op) (w0 : W64) (f : DrainF) (e : BankErr)

/-- The tile after a drain to its memory: the outputs `val` row by row, and the sum record `sum` where the drain asks for one. -/
def drainTo (val : Nat → Nat → Nat) (sum : Nat) : Tile :=
  let z := (List.range f.m).foldl (fun z i =>
    z.writeMem (f.dst + i * f.stride * 64) ((List.range f.n).flatMap (fun j => toBytes f.w (val i j)))) x
  if f.sum then z.writeMem (f.dst + f.m * f.stride * 64) (toBytes 32 sum) else z

theorem doDrain_leaves {R : Tile → Tile → Prop} (hR : Bears R) (hm : ∀ {x y}, x.SameMem y → R x y)
    (h : f.opc ≠ 6 → ∀ val sum, R x (drainTo x f val sum)) : R x (x.doDrain seed step o w0 f e).1 := by
  have hdup (p : Prop) [Decidable p] (y : Tile) (d : List Dup) : y.SameMem (if p then { y with dupOwn := d } else y) := by
    split <;> rfl
  have honce (p : Prop) [Decidable p] (y : Tile) : y.SameMem (if p then y.oncePer .oorDrain else (false, y)).2 := by
    split
    · exact oncePer_sameMem ..
    · rfl
  refine hR.trans (hR.trans ?_ (hm (hdup ..))) (hR.trans (hm (honce ..)) (hm (bankNotes_sameMem ..)))
  split
  next => exact hm rfl
  next hopc => exact h hopc _ _

end

theorem drainToVector_sameMem {s : State} {t : TileId} (e : BankErr) : CommandTurns Tile.SameMem t s (.drainToVector t e) := by
  refine commandTurns_of_exec rfl (turns_issueHead bears_sameMem fun o _ his => ?_)
  split
  next w0 w1 xb hk =>
    rw [twoOpc, hk] at his
    exact doDrain_leaves ((s.tile t).toExec o) _ _ _ _ (drainF w0 w1) _ bears_sameMem id fun hopc => absurd (eq_of_beq his) hopc
  next => rfl

/-! ## All of them -/

theorem memoryKeepers_turn {s : State} {t : TileId} {e : CoreErr} (b : BankErr) (v : LaneErr) (m : WordErr) (par : List (Bool × Nat)) :
    ∀ c ∈ memoryKeepers t e b v m par, CommandTurns Tile.SameMem t s c := by
  simp only [memoryKeepers, List.forall_mem_append, List.forall_mem_cons, List.not_mem_nil, IsEmpty.forall_iff, implies_true, and_true]
  refine ⟨⟨⟨⟨?issueFillA, ?issueFillB, ?issueIbex, ?issueDrain, ?issueTahr, ?issueNet, ?stalledEnqueue, ?send, ?recv, ?release, ?dispatch,
    ?hret, ?load, ?store, ?swap, ?cas, ?add, ?min, ?max, ?and, ?or, ?xor, ?csub, ?fenceComplete, ?stepend⟩,
    ?lds, ?fillA, ?fillB, ?fillAComplete, ?fillBComplete, ?mma, ?rawacc, ?clear, ?ibexOpComplete, ?drainToVector, ?drainComplete,
    ?chkr, ?chkp, ?ld, ?ldmx, ?tahrOpComplete⟩, ?float⟩, ?integer⟩
  case issueFillA | issueFillB | issueIbex | issueDrain | issueTahr | issueNet => exact commandTurns_of_exec rfl (turns_runIssue _)
  case load | store | swap | cas | add | min | max | and | or | xor => exact commandTurns_of_exec rfl (turns_runAtom _)
  case stalledEnqueue => exact stalledEnqueue_sameMem
  case send => exact commandTurns_runCore bears_sameMem rfl fun _ _ => leaves_ite rfl (enqueueOr_leaves fun _ _ h => h)
  case recv => exact recv_sameMem
  case release => exact commandTurns_runCore bears_sameMem rfl fun _ _ => releaseMsg_leaves _ fun _ h => h
  case dispatch => exact dispatch_sameMem
  case hret => exact hret_sameMem
  case csub | stepend => exact commandTurns_runCore bears_sameMem rfl fun _ _ => leaves_ite rfl rfl
  case fenceComplete => exact fenceComplete_sameMem
  case lds => exact lds_sameMem m
  case fillA | fillB => exact fill_sameMem _ m
  case fillAComplete | fillBComplete | tahrOpComplete => exact commandTurns_finish rfl fun _ _ => rfl
  case mma => exact mma_sameMem b none par
  case rawacc => exact rawacc_sameMem b par
  case clear => exact clear_sameMem
  case ibexOpComplete => exact ibexOpComplete_sameMem
  case drainToVector => exact drainToVector_sameMem b
  case drainComplete => exact commandTurns_finish rfl fun x o => dupCompare_sameMem (x.complete o)
  case chkr => exact commandTurns_of_exec rfl (turns_runCheck doChkr_sameMem)
  case chkp => exact commandTurns_of_exec rfl (turns_runCheck doChkp_sameMem)
  case ld | ldmx => exact commandTurns_of_exec rfl (turns_runTahrM bears_sameMem id fun _ _ _ _ _ _ _ _ _ _ => loadMet_sameMem _ _ _ fun _ => rfl)
  case float | integer => and_intros <;> exact commandTurns_of_exec rfl (turns_runTahrV ..)

end Sys2Proof.Machine
end

section
/-! # Commands that store change the bytes of their operands only (R170, R172, R191, R192, R215) -/

namespace Sys2Proof.Machine

/-! ## Bytes outside a write -/

theorem length_toBytes (n v : Nat) : (toBytes n v).length = n := by
  induction n generalizing v with
  | zero => rfl
  | succ n ih => rw [toBytes, List.length_cons, ih]

theorem length_flatMap_range {α : Type} {f : Nat → List α} {w : Nat} (h : ∀ i, (f i).length = w) (n : Nat) :
    ((List.range n).flatMap f).length = n * w := by
  rw [List.length_flatMap, funext h, List.map_const', List.sum_replicate, List.length_range, smul_eq_mul]

/-- The bytes outside `n` bytes from `p` on. -/
def Outside (p n a : Nat) : Prop := a < p ∨ p + n ≤ a

theorem readMem_writeMem_outside {x : Tile} {p a : Nat} {bs : List Byte} (h : Outside p bs.length a) :
    (x.writeMem p bs).readMem a 1 = x.readMem a 1 :=
  congrArg ([·]) (mapGet_writeBytes_outside 0 x.mem bs h)

/-- Writes one after the other, all of which spare byte `a`. -/
theorem readMem_foldl {a : Nat} {f : Tile → Nat → Tile} {n : Nat} (h : ∀ z, ∀ i < n, (f z i).readMem a 1 = z.readMem a 1) (x : Tile) :
    ((List.range n).foldl f x).readMem a 1 = x.readMem a 1 :=
  List.foldlRecOn (motive := fun z => z.readMem a 1 = x.readMem a 1) _ f rfl fun z hz i hi => (h z i (List.mem_range.1 hi)).trans hz

/-- The bytes that a drain to tile memory does not name: its rows and its sum record lie elsewhere. -/
def DrainF.Spares (f : DrainF) (a : Nat) : Prop :=
  (∀ i < f.m, Outside (f.dst + i * f.stride * 64) (f.n * f.w) a) ∧ (f.sum = true → Outside (f.dst + f.m * f.stride * 64) 32 a)

theorem drainTo_sameBytes (x : Tile) (f : DrainF) (val : Nat → Nat → Nat) (sum : Nat) : Tile.SameBytes f.Spares x (drainTo x f val sum) := by
  intro a ⟨hrows, hsum⟩
  have hz := readMem_foldl (x := x) (a := a) (n := f.m)
    (f := fun z i => z.writeMem (f.dst + i * f.stride * 64) ((List.range f.n).flatMap (fun j => toBytes f.w (val i j))))
    fun z i hi => readMem_writeMem_outside (by
      rw [length_flatMap_range fun j => length_toBytes f.w (val i j)]
      exact hrows i hi)
  unfold drainTo
  dsimp only
  split
  next h => exact (readMem_writeMem_outside (by rw [length_toBytes]; exact hsum h)).trans hz
  next => exact hz

/-- The bytes that a store of form M does not name: its elements and its scales lie elsewhere. -/
def TahrF.Spares (f : TahrF) (a : Nat) : Prop := Outside f.addr f.elemBytes a ∧ Outside f.saddr f.scaleBytes a

/-- Part `i` of `n` parts of `w` bytes lies in the whole. -/
theorem Outside.part {p n w a i : Nat} (h : Outside p (n * w) a) (hi : i < n) : Outside (p + i * w) w a := by
  have : (i + 1) * w ≤ n * w := Nat.mul_le_mul_right w hi
  unfold Outside at h ⊢
  rw [Nat.succ_mul] at this
  omega

theorem doSt_sameBytes (x : Tile) {f : TahrF} (hf : f.opc = 2) (lane : Nat → Nat → W32) (r : Nat → Nat → Num.Rnd) :
    Tile.SameBytes f.Spares x (x.doSt f lane r).1 := by
  intro a ⟨helem, _⟩
  have hsize : f.elemBytes = f.mlen * (64 * tahrW f.fmt) := by
    rw [TahrF.elemBytes, hf, if_pos (by decide), Nat.mul_comm]
  rw [hsize] at helem
  refine readMem_foldl (fun z m hm => readMem_writeMem_outside ?_) x
  rw [length_flatMap_range (w := tahrW f.fmt) fun n => ?lane, Nat.mul_comm _ m]
  case lane =>
    unfold tahrW
    split <;> simp_all [length_toBytes]
  exact helem.part hm

theorem length_mxEncode (k : Num.MxElem) (sel : Num.ScaleSel) (c : Num.Rnd) (xs : List (W32 × Nat)) :
    (Num.mxEncode k sel c xs).2.length = xs.length := by
  unfold Num.mxEncode
  dsimp only
  split <;> exact List.length_map _

theorem length_packElems (w : Nat) (xs : List Nat) : (Num.packElems w xs).length = xs.length * w / 8 := by
  rw [Num.packElems, List.length_map, List.length_range]

theorem doStmx_sameBytes (x : Tile) {f : TahrF} (hf : f.opc = 4) (xb : Byte) (lane : Nat → Nat → W32) (r : Nat → Nat → Num.Rnd) :
    Tile.SameBytes f.Spares x (x.doStmx f xb lane r).1 := by
  intro a ⟨helem, hscale⟩
  rw [TahrF.elemBytes, hf, if_neg (by decide)] at helem
  rw [TahrF.scaleBytes, hf, if_neg (by decide), ← Nat.mul_one (2 * f.mlen)] at hscale
  unfold Tile.doStmx
  split
  · rfl
  next el hel =>
    refine readMem_foldl (fun z k hk => ?_) x
    dsimp only
    refine (readMem_writeMem_outside ?scale).trans (readMem_writeMem_outside ?elems)
    case scale =>
      rw [length_toBytes, ← Nat.mul_one k]
      exact hscale.part hk
    case elems =>
      have hlen : 32 * el.width / 8 = ebOf f.fmt := by
        simp only [ebOf, hel, Num.MxElem.blockBytes]
        omega
      rw [length_packElems, length_mxEncode, List.length_map, List.length_range, hlen]
      exact helem.part hk

/-! ## The commands that store -/

section
variable {s : State} {t : TileId} {e : CoreErr}

theorem sts_sameBytes : CommandTurns (Tile.SameBytes (Outside (ldsAddr (s.tile t) (s.tile t).word) 8)) t s (.sts t e) := by
  refine commandTurns_runCore (bears_sameBytes _) rfl fun y hy => leaves_ite ((bears_sameBytes _).refl y) (leaves_ite trivial ?_)
  intro a ha
  refine readMem_writeMem_outside ?_
  rw [length_toBytes, ldsAddr, hy]
  exact ha

/-- One operation issues from a port. -/
theorem issues_unique {p : Nat} {o q : Op} (h : Issues s t p o) (g : Issues s t p q) : o = q := by
  rw [Issues] at h g
  exact Option.some.inj (h.symm.trans g)

variable {o : Op} {w0 w1 : W64} {xb : Byte}

theorem drainToTileMemory_sameBytes (h : Issues s t 3 o) (hk : o.kind = .two w0 w1 xb) (b : BankErr) :
    CommandTurns (Tile.SameBytes (drainF w0 w1).Spares) t s (.drainToTileMemory t b) := by
  refine commandTurns_of_exec rfl (turns_issueHead (bears_sameBytes _) fun q hq _ => ?_)
  obtain rfl := issues_unique h hq
  rw [hk]
  exact doDrain_leaves ((s.tile t).toExec o) _ _ _ _ (drainF w0 w1) _ (bears_sameBytes _) (·.sameBytes _)
    fun _ val sum => drainTo_sameBytes _ _ val sum

/-- A store of form M, by what it leaves of the bytes that its own operation spares. -/
theorem turns_store {v : LaneErr} {opc : Nat}
    {g : Tile → Op → W64 → TahrF → Byte → (Nat → Nat → W32) → (Nat → Nat → Num.Rnd) → Tile × List Note}
    (h : Issues s t 4 o) (hk : o.kind = .two w0 w1 xb)
    (hg : ∀ y o w0 f xb lane r, f.opc = opc → Tile.SameBytes (TahrF.Spares f) y (g y o w0 f xb lane r).1) :
    s.Turns (Tile.SameBytes (tahrF w0 w1).Spares) t (runTahrM t v opc g s) := by
  refine turns_runTahrM (bears_sameBytes _) (·.sameBytes _) fun q u0 u1 ub y lane r hq hqk hopc => ?_
  obtain rfl := issues_unique h hq
  obtain ⟨rfl, rfl, rfl⟩ := OpKind.two.inj (hk.symm.trans hqk)
  exact hg y o w0 (tahrF w0 w1) xb lane r hopc

end

/-- Settles O58: each runner carries what its body or its operation leaves of the tile, and the frame is that of putting a tile. -/
theorem tileCommandsChangeOnlyTheirTile : Obligations.TileCommandsChangeOnlyTheirTile := by
  intro t e b v m par s s'
  refine ⟨fun c hc hs => ?core, fun c hc hs => ?memory, fun hs => ?sts, fun o w0 w1 xb h hk => ?drain,
    fun o w0 w1 xb h hk => ?store⟩
  case core =>
    obtain ⟨hframe, htile⟩ := coreCommands_turn c hc s' hs
    exact ⟨hframe, htile⟩
  case memory =>
    obtain ⟨hframe, htile⟩ := memoryKeepers_turn b v m par c hc s' hs
    exact ⟨hframe, htile⟩
  case sts =>
    obtain ⟨hframe, htile⟩ := sts_sameBytes s' hs
    exact ⟨hframe, htile⟩
  case drain =>
    intro f hs
    obtain ⟨hframe, htile⟩ := drainToTileMemory_sameBytes h hk b s' hs
    exact ⟨hframe, fun a hrows hsum => htile a ⟨hrows, hsum⟩⟩
  case store =>
    intro f c hc hs
    have hturn : ∀ c ∈ [Instr.st t v, .stmx t v], CommandTurns (Tile.SameBytes (tahrF w0 w1).Spares) t s c := by
      simp only [List.forall_mem_cons, List.not_mem_nil, IsEmpty.forall_iff, implies_true, and_true]
      exact ⟨commandTurns_of_exec rfl (turns_store h hk fun _ _ _ _ _ lane r hf => doSt_sameBytes _ hf lane r),
        commandTurns_of_exec rfl (turns_store h hk fun _ _ _ _ xb lane r hf => doStmx_sameBytes _ hf xb lane r)⟩
    obtain ⟨hframe, htile⟩ := hturn c hc s' hs
    exact ⟨hframe, fun a helem hscale => htile a ⟨helem, hscale⟩⟩

end Sys2Proof.Machine
end

section
/-! # Lane operations and reductions (R176 to R189) -/

namespace Sys2Proof.Machine

section
variable {s : State} {t : TileId} {o : Op} {w0 w1 : W64} {xb : Byte} {c : TileId → LaneErr → Instr} {opc : Nat}

/-- With good codes, an operation of form V writes the value of each lane, and nothing else. -/
theorem runTahrV_issues (h : Issues s t 4 o) (hk : o.kind = .two w0 w1 xb) (hopc : bits w0.toNat 63 58 = opc)
    (G : TahrF → Lanes → Nat → Nat → W32) :
    let x := s.tile t
    let f := tahrF w0 w1
    runTahrV t .none opc G s
      = s.putTile t ({ issued x o with vec := f.write x.vec f.dlen (G f (f.lanes x.vec .none s.gen.1 s.gen.2)) }, []) := by
  dsimp only
  rw [runTahrV, issueHead_issues h (by simp [hk, hopc]), hk]
  rfl

/-- A command of form V gives each lane what its own function computes of the operand lanes. -/
theorem lanesGet_of_runTahrV {G : State → TahrF → Lanes → Nat → Nat → W32} {g : State → Tile → TahrF → Nat → Nat → W32}
    (hc : ∀ t s, exec (c t .none) s = .next (runTahrV t .none opc (G s) s))
    (hg : ∀ s x f m n, G s f (f.lanes x.vec .none s.gen.1 s.gen.2) m n = g s x f m n) : LanesGet c opc g := by
  intro s t o w0 w1 xb h hk hopc x f
  have hlanes : G s f (f.lanes x.vec .none s.gen.1 s.gen.2) = g s x f := funext₂ (hg s x f)
  rw [hc, runTahrV_issues h hk hopc, hlanes]

theorem lanes1_of_run1 {g : Num.Rnd → W32 → W32} (hc : ∀ t s, exec (c t .none) s = .next (run1 t .none opc g s)) :
    Lanes1 c opc g := lanesGet_of_runTahrV (G := fun _ _ l m n => g (l.r m n) (l.a m n)) hc fun _ _ _ _ _ => rfl

theorem lanes2_of_run2 {g : Num.Rnd → W32 → W32 → W32} (hc : ∀ t s, exec (c t .none) s = .next (run2 t .none opc g s)) :
    Lanes2 c opc g := lanesGet_of_runTahrV (G := fun _ _ l m n => g (l.r m n) (l.a m n) (l.b m n)) hc fun _ _ _ _ _ => rfl

theorem lanes3_of_run3 {g : Num.Rnd → W32 → W32 → W32 → W32} (hc : ∀ t s, exec (c t .none) s = .next (run3 t .none opc g s)) :
    LanesGet c opc (fun s x f m n => g (laneRnd s f m n) (laneA x f m n) (laneB x f m n) (laneC x f m n)) :=
  lanesGet_of_runTahrV (G := fun _ _ l m n => g (l.r m n) (l.a m n) (l.b m n) (l.c m n)) hc fun _ _ _ _ _ => rfl

end

/-! ## Lane by lane (R183 to R187, R189) -/

theorem floatLanesGetTheirResult : FloatLanesGetTheirResult := by
  refine ⟨?fadd, ?fsub, ?fmul, ?fma, ?fmin, ?fmax, ?fabs, ?fneg, ?fcmp, ?sel, ?clamp, ?fdiv, ?cvtfi, ?cvtif⟩
  case fadd | fsub | fmul | fmin | fmax | fdiv => exact lanes2_of_run2 fun _ _ => rfl
  case fabs | fneg | cvtfi | cvtif => exact lanes1_of_run1 fun _ _ => rfl
  case fma => exact lanes3_of_run3 fun _ _ => rfl
  case sel => exact lanes3_of_run3 (g := fun _ a b c => if c ≠ 0 then a else b) fun _ _ => rfl
  case clamp => exact lanes3_of_run3 (g := fun _ a b c => Num.fmin (Num.fmax a b) c) fun _ _ => rfl
  case fcmp => exact lanesGet_of_runTahrV (fun _ _ => rfl) fun _ _ _ _ _ => rfl

theorem functionLanesGetTheirResult : FunctionLanesGetTheirResult := by
  and_intros <;> exact lanes1_of_run1 fun _ _ => rfl

theorem integerLanesGetTheirResult : IntegerLanesGetTheirResult := by
  refine ⟨?iadd, ?isub, ?imul, ?and, ?or, ?xor, ?shl, ?shr, ?sar, ?icmp, ?laneid, ?shuf, ?rand⟩
  case iadd | isub | imul | and | or | xor | shl | shr | sar => exact lanes2_of_run2 fun _ _ => rfl
  case icmp | laneid | shuf | rand => exact lanesGet_of_runTahrV (fun _ _ => rfl) fun _ _ _ _ _ => rfl

/-- Settles O22: each operation by the one function of its lanes that it runs. -/
theorem lanesGetTheirResult : Obligations.LanesGetTheirResult :=
  ⟨floatLanesGetTheirResult, functionLanesGetTheirResult, integerLanesGetTheirResult⟩

/-! ## Reductions (R182, R188) -/

/-- With good codes, the lanes that a group reduces are those of its operand. -/
theorem groupLanes_lanes (x : Tile) (f : TahrF) (seed step m n : Nat) :
    groupLanes f (f.lanes x.vec .none seed step) m n = reduced x f m n := by
  unfold groupLanes reduced
  dsimp only
  split
  · rfl
  · rw [List.flatMap_singleton]
    rfl

theorem sumLane_lanes (sq : Bool) (s : State) (x : Tile) (f : TahrF) (m n : Nat) :
    sumLane sq f (f.lanes x.vec .none s.gen.1 s.gen.2) m n = Num.rsum sq (reducedRnd s f m n) (reduced x f m n) := by
  rw [sumLane, groupLanes_lanes]
  rfl

/-- Settles O24: each reduction by the lanes of the group that a lane stands in. -/
theorem reductionsGiveEachGroupItsResult : Obligations.ReductionsGiveEachGroupItsResult := by
  refine ⟨?rsum, ?rsumsq, ?rmax, ?rmin⟩
  case rsum | rsumsq => exact lanesGet_of_runTahrV (fun _ _ => rfl) fun s x f m n => sumLane_lanes _ s x f m n
  case rmax | rmin => exact lanesGet_of_runTahrV (fun _ _ => rfl) fun s x f m n => congrArg _ (groupLanes_lanes x f _ _ m n)

end Sys2Proof.Machine
end

section
/-! # Writes of a part: a field, a predicate, a lane group (R176, R179, R199, R211, R213) -/

namespace Sys2Proof.Machine

/-! ## A field of a word (R213) -/

theorem land_fieldMask (d pos n : Nat) : d &&& (2 ^ n - 1) * 2 ^ pos = d / 2 ^ pos % 2 ^ n * 2 ^ pos := by
  refine Nat.eq_of_testBit_eq fun i => ?_
  by_cases h : pos ≤ i <;>
    simp [Nat.testBit_mul_two_pow, h, Nat.testBit_two_pow_sub_one, Nat.testBit_mod_two_pow, Nat.testBit_div_two_pow, Bool.and_comm]

/-- A number whose field is replaced by `u`: the bits above the field, `u`, and the bits below it. -/
theorem replaceField_eq (d pos n u : Nat) : d - (d &&& (2 ^ n - 1) * 2 ^ pos) + u * 2 ^ pos
    = 2 ^ pos * (2 ^ n * (d / 2 ^ pos / 2 ^ n) + u) + d % 2 ^ pos := by
  have hd := Nat.div_add_mod d (2 ^ pos)
  have hfield : 2 ^ pos * (d / 2 ^ pos)
      = 2 ^ pos * (2 ^ n * (d / 2 ^ pos / 2 ^ n)) + d / 2 ^ pos % 2 ^ n * 2 ^ pos := by
    rw [Nat.mul_comm (_ % _), ← Nat.mul_add, Nat.div_add_mod]
  rw [land_fieldMask, Nat.mul_add, Nat.mul_comm u]
  omega

theorem fieldReplacementKeepsOtherBits : FieldReplacementKeepsOtherBits := by
  intro d pos n v i _ hi
  rw [insField, BitVec.getLsbD_ofNat, decide_eq_true hi, Bool.true_and, replaceField_eq,
    Nat.testBit_two_pow_mul_add _ (Nat.mod_lt _ (Nat.two_pow_pos _)),
    Nat.testBit_two_pow_mul_add _ (Nat.mod_lt _ (Nat.two_pow_pos _)), BitVec.getLsbD]
  simp only [Nat.testBit_mod_two_pow, Nat.testBit_div_two_pow]
  obtain hbelow | habove := Nat.lt_or_ge i pos
  · simp [hbelow]
  · rw [if_neg habove.not_gt]
    by_cases hin : i - pos < n
    · rw [if_pos hin, if_pos (by omega), decide_eq_true hin, Bool.true_and]
    · rw [if_neg hin, if_neg (by omega), Nat.sub_add_cancel (not_lt.1 hin), Nat.sub_add_cancel habove]

/-! ## A predicate (R199, R211) -/

theorem getLsbD_predWrite {p : BitVec 8} {i j : Nat} (hi : i ≠ 0) (hj : j < 8) (v : Bool) :
    (predWrite p i v).getLsbD j = if j = i then v else p.getLsbD j := by
  have hbit : (BitVec.ofNat 8 (2 ^ i)).getLsbD j = decide (j = i) := by
    rw [BitVec.getLsbD_ofNat, decide_eq_true hj, Bool.true_and, Nat.testBit_two_pow]
    exact decide_eq_decide.2 eq_comm
  rw [predWrite, if_neg hi]
  cases v
  case false =>
    rw [if_neg Bool.false_ne_true, BitVec.getLsbD_and, BitVec.getLsbD_not, hbit, decide_eq_true hj]
    by_cases h : j = i <;> simp [h]
  case true =>
    rw [if_pos rfl, BitVec.getLsbD_or, hbit]
    by_cases h : j = i <;> simp [h]

theorem predicateWriteSetsThatPredicate : PredicateWriteSetsThatPredicate := by
  intro p i j v _ hj
  obtain rfl | hj0 := eq_or_ne j 0
  · rfl
  · simp only [predRead, beq_false_of_ne hj0, Bool.false_or, if_neg hj0]
    obtain rfl | hi0 := eq_or_ne i 0
    · rw [if_neg hj0]
      rfl
    · exact getLsbD_predWrite hi0 hj v

/-! ## A lane group of the vector file (R176, R179) -/

section
variable (f : TahrF) (v : VFile) (k : Nat) (g : Nat → Nat → W32)

theorem foldl_laneSet {α : Type} (l : List α) (r n : α → Nat) (w : α → W32) : l.foldl (fun v a => v.set (r a) (n a) (w a)) v
    = { v with lanes := l.foldl (fun c a => mapIns (r a * 64 + n a) (w a) c) v.lanes } := by
  induction l generalizing v with
  | nil => rfl
  | cons a l ih => exact ih (v.set (r a) (n a) (w a))

/-- A group write lists the lanes of its members, 64 positions to a register. -/
theorem write_eq_foldl_product : f.write v k g = { v with
    lanes := (List.range k ×ˢ List.range 64).foldl (fun c a => mapIns ((f.vd + a.1) * 64 + a.2) (g a.1 a.2) c) v.lanes } := by
  rw [← foldl_laneSet v (List.range k ×ˢ List.range 64) (f.vd + ·.1) (·.2) (fun a => g a.1 a.2)]
  simp only [TahrF.write, SProd.sprod, List.product, List.foldl_flatMap, List.foldl_map]

variable {f k}

theorem lane_write_at {m n : Nat} (hm : m < k) (hn : n < 64) : (f.write v k g).lane (f.vd + m) n = g m n := by
  rw [write_eq_foldl_product]
  refine congrArg (Option.getD · _) (mapFind_foldl_mapIns_at (k := fun a : Nat × Nat => (f.vd + a.1) * 64 + a.2) (a := (m, n))
    (mem_outputs.2 ⟨hm, hn⟩) (fun b hb e => ?_) v.lanes)
  obtain ⟨-, hb⟩ := mem_outputs.1 hb
  have e : (f.vd + m) * 64 + n = (f.vd + b.1) * 64 + b.2 := e
  exact Prod.ext (by dsimp only; omega) (by dsimp only; omega)

theorem lane_write_off {r n : Nat} (hn : n < 64) (hr : r < f.vd ∨ f.vd + k ≤ r) : (f.write v k g).lane r n = v.lane r n := by
  rw [write_eq_foldl_product]
  refine congrArg (Option.getD · _) (mapFind_foldl_mapIns_off (fun a ha => ?_) v.lanes)
  obtain ⟨hm, hl⟩ := mem_outputs.1 ha
  omega

end

theorem groupWriteSetsExactlyItsLanes : GroupWriteSetsExactlyItsLanes :=
  fun _ v _ g => ⟨fun _ _ => lane_write_at v g, fun _ _ => lane_write_off v g⟩

/-- Settles O23: a field by the parts of its number, a predicate by its bit, a group by the positions of its lanes. -/
theorem partialWritesKeepTheRest : Obligations.PartialWritesKeepTheRest :=
  ⟨fieldReplacementKeepsOtherBits, predicateWriteSetsThatPredicate, groupWriteSetsExactlyItsLanes⟩

end Sys2Proof.Machine
end

section
/-! # Checks (R194 to R197) -/

namespace Sys2Proof.Machine

/-- With good codes, an operation checks the lanes of its operand. -/
theorem checkedLanes_lanes (x : Tile) (f : TahrF) (seed step : Nat) :
    (checkedLanes f (f.lanes x.vec .none seed step)).map (fun p => p.2.2) = checkLanes x f := by
  simp only [checkedLanes, List.map_flatMap, List.map_map]
  rfl

/-- The statistic of entry `e` with the lanes `ws` added (R196). -/
def statWith (x : Tile) (e : Nat) (ws : List W32) : Stat := ws.foldl Stat.add (mapGet ⟨0, 0, 0⟩ x.stats e)

section
variable {x : Tile} {o : Op} {f : TahrF} {l : Lanes} {ws : List W32} (hws : (checkedLanes f l).map (fun p => p.2.2) = ws)
include hws

theorem doChkr_passes (h : ∀ w ∈ ws, chkrFails (mapGet 0 x.img.checks (bits f.ctl 12 7)) w = false) : x.doChkr o f l = (x, []) := by
  have hnone : (checkedLanes f l).find? (fun p => chkrFails (mapGet 0 x.img.checks (bits f.ctl 12 7)) p.2.2) = none := by
    refine List.find?_eq_none.2 fun p hp => ?_
    rw [h p.2.2 (hws ▸ List.mem_map_of_mem hp)]
    exact Bool.false_ne_true
  simp only [Tile.doChkr, hnone]

theorem foldl_add_checkedLanes (st : Stat) : (checkedLanes f l).foldl (fun st p => st.add p.2.2) st = ws.foldl Stat.add st := by
  rw [← hws, List.foldl_map]

theorem doChkp_adds (h : bit f.ctl 13 = false) : x.doChkp o f l
    = ({ x with stats := mapPut ⟨0, 0, 0⟩ (bits f.ctl 12 7) (statWith x (bits f.ctl 12 7) ws) x.stats }, []) := by
  simp only [Tile.doChkp, foldl_add_checkedLanes hws, statWith, h, if_neg Bool.false_ne_true]

theorem doChkp_clears (h : bit f.ctl 13 = true)
    (hpass : (statWith x (bits f.ctl 12 7) ws).passes (mapGet 0 x.img.checks (bits f.ctl 12 7)) = true) :
    x.doChkp o f l = ({ x with stats := mapPut ⟨0, 0, 0⟩ (bits f.ctl 12 7) ⟨0, 0, 0⟩ x.stats }, []) := by
  rw [statWith] at hpass
  simp only [Tile.doChkp, foldl_add_checkedLanes hws, h, if_pos, hpass]

end

/-- With good codes, a check finds in its operand lanes what its own rule says. -/
theorem runCheck_issues {s : State} {t : TileId} {o : Op} {w0 w1 : W64} {xb : Byte} {opc : Nat} (h : Issues s t 4 o)
    (hk : o.kind = .two w0 w1 xb) (hopc : bits w0.toNat 63 58 = opc) {g : Tile → Op → TahrF → Lanes → Tile × List Note}
    {r : Tile × List Note}
    (hg : g (issued (s.tile t) o) o (tahrF w0 w1) ((tahrF w0 w1).lanes (s.tile t).vec .none s.gen.1 s.gen.2) = r) :
    runCheck t .none opc g s = s.putTile t r := by
  rw [runCheck, issueHead_issues h (by simp [hk, hopc]), hk, ← hg]
  rfl

/-- Settles O25: the lanes checked are the operand's, none of which CHKR finds to fail, and CHKP adds each to the statistic. -/
theorem passingChecksOnlyAddToTheirStatistic : Obligations.PassingChecksOnlyAddToTheirStatistic := by
  intro s t o w0 w1 xb h hk x f e c st
  have hlanes := checkedLanes_lanes x f s.gen.1 s.gen.2
  refine ⟨fun hopc hpass => ?chkr, fun hopc hadds => ?chkp, fun hopc hfinal hpass => ?chkpFinal⟩
  case chkr => exact congrArg Host.Outcome.next (runCheck_issues h hk hopc (doChkr_passes (x := issued x o) hlanes hpass))
  case chkp => exact congrArg Host.Outcome.next (runCheck_issues h hk hopc (doChkp_adds (x := issued x o) hlanes hadds))
  case chkpFinal => exact congrArg Host.Outcome.next (runCheck_issues h hk hopc (doChkp_clears (x := issued x o) hlanes hfinal hpass))

end Sys2Proof.Machine
end

section
/-! # Moves to and from tile memory (R190 to R192) -/

namespace Sys2Proof.Machine

/-! ## What a load reads where no word is uncorrectable (R147, R191, R192, R233) -/

/-- The value that LD reads for lane n of member m. -/
def loadedLane (x : Tile) (f : TahrF) (m n : Nat) : W32 :=
  let v := ofBytes (x.readMem (f.addr + 64 * tahrW f.fmt * m + tahrW f.fmt * n) (tahrW f.fmt))
  match f.fmt with
  | 1 => Num.widen Num.bf16 v
  | 2 => Num.widen Num.fp16 v
  | _ => BitVec.ofNat 32 v

/-- The 32 values that LDMX reads of block k, whose elements are of the format `el`. -/
def loadedBlock (x : Tile) (f : TahrF) (el : Num.MxElem) (k : Nat) : List W32 :=
  Num.mxDecode el false (ofBytes (x.readMem (f.saddr + k) 1))
    (Num.unpackElems el.width 32 (x.readMem (f.addr + k * el.blockBytes) el.blockBytes))

theorem ebOf_of_code {fmt : Nat} {el : Num.MxElem} (h : Num.MxElem.ofCode fmt = some el) : ebOf fmt = el.blockBytes := by
  simp only [ebOf, h]

theorem length_loadedBlock (x : Tile) (f : TahrF) (el : Num.MxElem) (k : Nat) : (loadedBlock x f el k).length = 32 := by
  simp [loadedBlock, Num.mxDecode, Num.unpackElems]

section
variable {x : Tile} (hbad : x.bad = [])
include hbad

theorem badAt_clean (a n : Nat) : x.badAt a n = false := by
  rw [Tile.badAt, hbad]
  rfl

theorem wordErrs_clean (a n slot opid : Nat) : x.wordErrs a n slot opid = [] := by
  rw [Tile.wordErrs, hbad]
  rfl

theorem doLd_clean (o : Op) (f : TahrF) : x.doLd o f = ({ x with vec := f.write x.vec f.mlen (loadedLane x f) }, []) := by
  simp only [Tile.doLd, badAt_clean hbad, wordErrs_clean hbad, if_neg Bool.false_ne_true]
  rfl

/-- Block 2m + k holds lanes 32k to 32k + 31 of member m. -/
theorem doLdmx_clean (o : Op) (f : TahrF) : ∃ v, x.doLdmx o f = ({ x with vec := v }, [])
    ∧ ∀ m k i, m < f.mlen → k < 2 → i < 32 → ∀ el, Num.MxElem.ofCode f.fmt = some el →
      some (v.lane (f.vd + m) (k * 32 + i)) = (loadedBlock x f el (2 * m + k))[i]? := by
  refine ⟨_, by rw [Tile.doLdmx, wordErrs_clean hbad, wordErrs_clean hbad]; rfl, fun m k i hm hk hi el hel => ?_⟩
  have hhalf : (k * 32 + i) / 32 = k := by omega
  have hlane : (k * 32 + i) % 32 = i := by omega
  have hblock : 2 * m + k < 2 * f.mlen := by omega
  have hread : i < (loadedBlock x f el (2 * m + k)).length := by rwa [length_loadedBlock]
  rw [lane_write_at _ _ hm (by omega), hhalf, hlane]
  simp only [List.getElem?_map, List.getElem?_range hblock, List.getElem?_range hi, Option.map_some, Option.getD_some, hel,
    badAt_clean hbad, Bool.or_false, if_neg Bool.false_ne_true, ebOf_of_code hel]
  rw [← loadedBlock, List.getElem?_eq_getElem hread, Option.getD_some]

end

theorem loadMet_none (x : Tile) (f : TahrF) (load : Tile → Tile × List Note) : x.loadMet .none f load = load x := by
  simp only [Tile.loadMet, Tile.meet, ite_self, List.nil_append]

/-! ## What STMX stores (R145 to R147, R192) -/

/-- The tile with block k stored, its elements of the format `el` and its scale. -/
def storeBlock (f : TahrF) (el : Num.MxElem) (xb : Byte) (lane : Nat → Nat → W32) (r : Nat → Nat → Num.Rnd) (y : Tile) (k : Nat) :
    Tile :=
  let b := Num.mxEncode el (match f.sel with | 0 => .floor | 1 => .ceil | _ => .explicit xb.toNat)
    ⟨(Num.RM.ofCode f.mrm).getD .rne, false, 0⟩
    ((List.range 32).map (fun i => (lane (k / 2) (k % 2 * 32 + i), (r (k / 2) (k % 2 * 32 + i)).word)))
  (y.writeMem (f.addr + k * el.blockBytes) (Num.packElems el.width b.2)).writeMem (f.saddr + k) (toBytes 1 b.1)

theorem doStmx_of_code {f : TahrF} {el : Num.MxElem} (h : Num.MxElem.ofCode f.fmt = some el) (x : Tile) (xb : Byte)
    (lane : Nat → Nat → W32) (r : Nat → Nat → Num.Rnd) :
    x.doStmx f xb lane r = ((List.range (2 * f.mlen)).foldl (storeBlock f el xb lane r) x, []) := by
  simp only [Tile.doStmx, h, ebOf_of_code h]
  rfl

/-! ## The port's commands -/

section
variable {s : State} {t : TileId} {o : Op} {w0 w1 : W64} {xb : Byte} {opc : Nat}

/-- Lane n of member m as a store reads it. -/
def storedLane (x : Tile) (f : TahrF) (m n : Nat) : W32 := x.vec.lane (f.vd + m) n

/-- The rounding of that lane (R182). -/
def storedRnd (s : State) (f : TahrF) (m n : Nat) : Num.Rnd :=
  rndOf s.seed.toNat (s.fget F.STEP_CURRENT.STEP) 1 f.mrm f.msat f.stream (f.ebase + 64 * m + n)

/-- With good codes, an operation of form M does what its own rule says. -/
theorem runTahrM_issues (h : Issues s t 4 o) (hk : o.kind = .two w0 w1 xb) (hopc : bits w0.toNat 63 58 = opc)
    {g : Tile → Op → W64 → TahrF → Byte → (Nat → Nat → W32) → (Nat → Nat → Num.Rnd) → Tile × List Note}
    {r : Tile × List Note} (hg : let f := tahrF w0 w1
      g (issued (s.tile t) o) o w0 f xb (storedLane (s.tile t) f) (storedRnd s f) = r) :
    runTahrM t .none opc g s = s.putTile t r := by
  rw [runTahrM, issueHead_issues h (by simp [hk, hopc]), hk, ← hg]
  rfl

end

/-- Settles O26: loads by the values read where no word is uncorrectable, stores by the bytes that each writes. -/
theorem vectorMovesLoadAndStore : Obligations.VectorMovesLoadAndStore := by
  refine ⟨fun s t o w0 w1 xb h hk => ?issue, fun s t o h => ?complete⟩
  case issue =>
    intro x f w lane rnd hbad
    refine ⟨fun hopc => ?ld, fun hopc => ?st, fun hopc _ => ?ldmx, fun hopc el hel => ?stmx⟩
    case ld =>
      refine congrArg Host.Outcome.next (runTahrM_issues h hk hopc ((loadMet_none ..).trans ?_))
      exact doLd_clean (x := issued x o) hbad o f
    case st => exact congrArg Host.Outcome.next (runTahrM_issues h hk hopc rfl)
    case ldmx =>
      obtain ⟨v, hv, hlanes⟩ := doLdmx_clean (x := issued x o) hbad o f
      exact ⟨v, congrArg Host.Outcome.next (runTahrM_issues h hk hopc ((loadMet_none ..).trans hv)), hlanes⟩
    case stmx => exact congrArg Host.Outcome.next (runTahrM_issues h hk hopc (doStmx_of_code hel ..))
  case complete =>
    show (.next (finishPort t 4 _ s) : Outcome) = _
    rw [finishPort_of h]
    rfl

end Sys2Proof.Machine
end

section
/-! # Muntjac's instructions at the runner (R199, R202, R205) -/

namespace Sys2Proof.Machine

section
variable {c : TileId → CoreErr → Instr} {is : W32 → Bool} {u : Uses} {body : State → W32 → Tile → Act} {regs : W32 → List Nat}
  {s : State} {t : TileId} {w : W32} {y : Tile} {wt : Wait} {on : W32 → Prop} {act : Tile → W32 → Tile}
  {opc fcode : Nat} {cond : Tile → W32 → Prop} {extra : W32 → Nat}
  (hc : ∀ t s, exec (c t .none) s = .next (runCore t .none is u body s)) (hr : ∀ w, u.reads w ++ u.writes w = regs w)
include hc hr

/-- A command of the runner does what its body says where its instruction is ready and its guard is true. -/
theorem exec_acts (hs : Starts s t w (regs w)) (hg : u.guarded = true → GuardTrue (s.tile t) w) (hi : is w = true) :
    exec (c t .none) s = .next (s.putTile t ((s.tile t).act (body s w (s.tile t)))) := by
  rw [hc, runCore_starts (hr w ▸ hs) hg hi]

theorem exec_completes (hs : Starts s t w (regs w)) (hg : GuardTrue (s.tile t) w) (hi : is w = true)
    (hb : body s w (s.tile t) = .done y []) : exec (c t .none) s = .next (s.putTile t y.finish) := by
  rw [exec_acts hc hr hs (fun _ => hg) hi, hb, act_done]

theorem exec_waits (hs : Starts s t w (regs w)) (hg : GuardTrue (s.tile t) w) (hi : is w = true)
    (hb : body s w (s.tile t) = .wait y wt) : exec (c t .none) s = .next (s.putTile t (waitingIn y wt)) := by
  rw [exec_acts hc hr hs (fun _ => hg) hi, hb, act_wait]

theorem completes_of_body (hi : ∀ w, on w → is w = true) (hb : ∀ s w x, body s w x = .done (act x w) []) : Completes c on regs act :=
  fun s _ w hs hg hw => exec_completes hc hr hs hg (hi w hw) (hb s w _)

theorem faultsWhen_of_body (hi : ∀ w, wOpc w = opc → is w = true) (hb : ∀ s w x, cond x w → body s w x = .fault x fcode (extra w) 0) :
    FaultsWhen c opc regs cond fcode extra := fun s t w hs hg hopc hcond => by
  rw [exec_acts hc hr hs (fun _ => hg) (hi w hopc), hb _ _ _ hcond]
  rfl

end

theorem isOpc_of {w : W32} {opc : Nat} (h : wOpc w = opc) : isOpc opc w = true := beq_iff_eq.2 h

end Sys2Proof.Machine
end

section
/-! # Scalar arithmetic (R204, R212) -/

namespace Sys2Proof.Machine

theorem aluWrites {c : TileId → CoreErr → Instr} {fn : Nat} {f : W64 → W64 → W64}
    (hc : ∀ t s, exec (c t .none) s = .next (runAlu t .none fn f s)) : AluWrites c fn f :=
  completes_of_body hc (fun _ => rfl) (fun w hw => by simp [hw]) fun _ _ _ => rfl

theorem immWrites {c : TileId → CoreErr → Instr} {opc : Nat} {f : W64 → W32 → W64}
    (hc : ∀ t s, exec (c t .none) s = .next (runImm t .none opc f s)) : ImmWrites c opc f :=
  completes_of_body hc (fun _ => rfl) (fun _ => isOpc_of) fun _ _ _ => rfl

theorem scalarOperationsWriteTheirResult : ScalarOperationsWriteTheirResult := by
  refine ⟨?_, ?_, ?_, ?_, ?_, ?_, ?_, ?_, ?_⟩ <;> exact aluWrites fun _ _ => rfl

theorem immediateOperationsWriteTheirResult : ImmediateOperationsWriteTheirResult := by
  refine ⟨?_, ?_, ?_, ?_, ?_⟩ <;> exact immWrites fun _ _ => rfl

/-- Settles O8: each command is the runner of its format with the function of its operation. -/
theorem scalarInstructionsWriteTheirResult : Obligations.ScalarInstructionsWriteTheirResult :=
  ⟨scalarOperationsWriteTheirResult, immediateOperationsWriteTheirResult⟩

end Sys2Proof.Machine
end

section
/-! # Fields, moves, system values and predicates (R208, R211, R213, R215, R225) -/

namespace Sys2Proof.Machine

/-- An instruction without a guard that puts `f` into the register of bits [25:21]. -/
theorem unguardedWrites {c : TileId → CoreErr → Instr} {opc : Nat} {src : W32 → List Nat} {f : Tile → W32 → W64}
    (hc : ∀ t s, exec (c t .none) s = .next (runCore t .none (isOpc opc) ⟨src, rHi, false⟩
      (fun _ w x => .done (x.setS (wField w 25 21) (f x w)) []) s)) : UnguardedWrites c opc src f :=
  fun _ _ _ hs hopc => exec_acts (regs := fun w => src w ++ [wField w 25 21]) hc (fun _ => rfl) hs (absurd · Bool.false_ne_true)
    (isOpc_of hopc)

theorem fieldInstructionsWriteTheirResult : FieldInstructionsWriteTheirResult := by
  refine ⟨?_, ?_, ?_, ?_⟩ <;> exact unguardedWrites fun _ _ => rfl

/-- A guarded instruction of the code `opc` whose only effect is `act`. -/
theorem opcDoes {c : TileId → CoreErr → Instr} {opc : Nat} {u : Uses} {regs : W32 → List Nat} {act : Tile → W32 → Tile}
    (hc : ∀ t s, exec (c t .none) s = .next (runCore t .none (isOpc opc) u (fun _ w x => .done (act x w) []) s))
    (hr : ∀ w, u.reads w ++ u.writes w = regs w) : OpcDoes c opc regs act :=
  completes_of_body hc hr (fun _ => isOpc_of) fun _ _ _ => rfl

/-- The body of RDSYS, where `n` is the value drawn for the selections that the spec leaves open. -/
def rdsysBody (t : TileId) (n : Nat) (s : State) (w : W32) (x : Tile) : Act :=
  .done (x.setS (wD w) (sysValue t s x (wField w 16 11) n)) []

/-- RDSYS of a selection below 3 draws no value. -/
theorem execRdsys_fixed {s : State} {t : TileId} (h : wField (s.tile t).word 16 11 < 3) :
    exec (.rdsys t .none) s = .next (runCore t .none (isOpc 0x3D) ⟨noRegs, rD, true⟩ (rdsysBody t s.draw.1) s) := by
  have hsel : ((s.tile t).coreReady && wOpc (s.tile t).word == 0x3D && decide (wField (s.tile t).word 16 11 ≥ 3)) = false := by
    rw [decide_eq_false (not_le.2 h), Bool.and_false]
  exact congrArg (fun s' => Host.Outcome.next (runCore t .none (isOpc 0x3D) ⟨noRegs, rD, true⟩ (rdsysBody t s.draw.1) s'))
    (if_neg (by rw [hsel]; decide))

theorem rdsys_writes {s : State} {t : TileId} {w : W32} (hs : Starts s t w [wD w]) (hg : GuardTrue (s.tile t) w) (hopc : wOpc w = 0x3D)
    (h : wField w 16 11 < 3) : exec (.rdsys t .none) s
      = .next (s.putTile t ((s.tile t).setS (wD w) (sysValue t s (s.tile t) (wField w 16 11) s.draw.1)).finish) := by
  rw [execRdsys_fixed (hs.word.symm ▸ h), runCore_starts hs (fun _ => hg) (isOpc_of hopc)]
  rfl

theorem moveInstructionsWriteTheirResult : MoveInstructionsWriteTheirResult := by
  refine ⟨?_, ?_, ?_, ?_, ?_, ?_, fun s t w hs hg hopc hsel => ?rdsys⟩
  case rdsys =>
    rw [rdsys_writes hs hg hopc hsel]
    obtain h | h | h : wField w 16 11 = 0 ∨ wField w 16 11 = 1 ∨ wField w 16 11 = 2 := by omega
    all_goals rw [h]; rfl
  all_goals exact opcDoes (fun _ _ => rfl) fun _ => rfl

theorem predicateInstructionsWriteTheirResult : PredicateInstructionsWriteTheirResult := by
  refine ⟨?_, ?_, ?_⟩ <;> exact opcDoes (fun _ _ => rfl) fun _ => rfl

/-- Settles O9: each command is the runner with a body that writes one register, RDSYS by its three fixed selections. -/
theorem registerMovesWriteTheirResult : Obligations.RegisterMovesWriteTheirResult :=
  ⟨fieldInstructionsWriteTheirResult, moveInstructionsWriteTheirResult, predicateInstructionsWriteTheirResult⟩

end Sys2Proof.Machine
end

section
/-! # Completion and the loop stack (R207, R208) -/

namespace Sys2Proof.Machine

/-! ## The end of a body -/

theorem loopEnd_inside {e : Nat} {ls : List Loop} (h : ∀ l ∈ ls, l.last ≠ e) : loopEnd e ls = (none, ls) := by
  cases ls with
  | nil => rfl
  | cons l ls => exact if_neg (h l List.mem_cons_self)

theorem loopEnd_repeats {e : Nat} {l : Loop} {ls : List Loop} (he : l.last = e) (hl : l.left ≠ 0) :
    loopEnd e (l :: ls) = (some l.first, { l with index := l.index + 1, left := l.left - 1 } :: ls) := by
  rw [loopEnd, if_pos he, if_pos (Nat.pos_of_ne_zero hl)]

theorem loopEnd_over {e : Nat} {l : Loop} {ls : List Loop} (he : l.last = e) (hl : l.left = 0) : loopEnd e (l :: ls) = loopEnd e ls := by
  rw [loopEnd, if_pos he, if_neg (by omega)]

/-! ## Completion -/

section
variable {x : Tile}

theorem finish_of_loop {p : Nat} {ls : List Loop} (h : loopEnd x.core.pc.toNat x.core.loops = (some p, ls)) :
    x.finish = ({ x with core := { x.core with pc := BitVec.ofNat 12 p, wait := .none, loops := ls } }, []) := by
  rw [Tile.finish, Tile.afterAt, h]
  rfl

theorem finish_of_noLoop {ls : List Loop} (h : loopEnd x.core.pc.toNat x.core.loops = (none, ls)) :
    x.finish = let y := { x with core := { x.core with loops := ls, wait := .none } }
      if x.core.pc.toNat + 1 > 4095 then y.fault 0x2 0 0 else (y.setPc (x.core.pc.toNat + 1), []) := by
  rw [Tile.finish, Tile.afterAt, h]

theorem finish_next (hl : ∀ l ∈ x.core.loops, l.last ≠ x.core.pc.toNat) (hpc : x.core.pc.toNat < 4095) :
    x.finish = ({ x with core := { x.core with pc := BitVec.ofNat 12 (x.core.pc.toNat + 1), wait := .none } }, []) := by
  rw [finish_of_noLoop (loopEnd_inside hl)]
  exact if_neg (by omega)

theorem finish_back {l : Loop} {ls : List Loop} (hx : x.core.loops = l :: ls) (he : l.last = x.core.pc.toNat) (hl : l.left ≠ 0) :
    x.finish = ({ x with core := { x.core with
      pc := BitVec.ofNat 12 l.first, wait := .none, loops := { l with index := l.index + 1, left := l.left - 1 } :: ls } }, []) :=
  finish_of_loop (hx ▸ loopEnd_repeats he hl)

/-- A body that has run out is left, and the test goes on outward. -/
theorem finish_outward {l : Loop} {ls : List Loop} (hx : x.core.loops = l :: ls) (he : l.last = x.core.pc.toNat) (hl : l.left = 0) :
    x.finish = { x with core := { x.core with loops := ls } }.finish := by
  have h : loopEnd x.core.pc.toNat x.core.loops = loopEnd x.core.pc.toNat ls := hx ▸ loopEnd_over he hl
  rw [Tile.finish, Tile.afterAt, h]
  rfl

theorem finish_pastTheStore (hl : ∀ l ∈ x.core.loops, l.last ≠ 4095) (hpc : x.core.pc.toNat = 4095) :
    x.finish = { x with core := { x.core with wait := .none } }.fault 0x2 0 0 := by
  rw [finish_of_noLoop (loopEnd_inside (hpc.symm ▸ hl))]
  exact if_pos (by omega)

end

/-- Settles O11: the answer of the loop stack at the PC, case by case. -/
theorem completionFollowsTheLoopStack : Obligations.CompletionFollowsTheLoopStack :=
  fun _ => ⟨finish_next, fun _ _ => finish_back, fun _ _ => finish_outward, fun hx => finish_pastTheStore (by simp [hx])⟩

end Sys2Proof.Machine
end

section
/-! # Branches, loops and handlers (R207 to R209, R219) -/

namespace Sys2Proof.Machine

section
variable {s : State} {t : TileId} {w : W32}

/-! ## Branches (R207, R209) -/

theorem act_jump (x y : Tile) (pc : Nat) :
    x.act (.jump y pc) = ({ y with core := { y.core with pc := BitVec.ofNat 12 pc, wait := .none } }, []) := rfl

/-- A command whose body jumps leads there. -/
theorem goesTo_of_jump {c : TileId → CoreErr → Instr} {opc : Nat} {u : Uses} {body : State → W32 → Tile → Act} {y : Tile} {pc : Nat}
    (hc : ∀ t s, exec (c t .none) s = .next (runCore t .none (isOpc opc) u body s)) (hs : Starts s t w (u.reads w ++ u.writes w))
    (hg : GuardTrue (s.tile t) w) (hopc : wOpc w = opc) (hb : body s w (s.tile t) = .jump y pc) : GoesTo (c t .none) s t y pc := by
  rw [GoesTo, exec_acts hc (fun _ => rfl) hs (fun _ => hg) (isOpc_of hopc), hb, act_jump]

theorem branchesReachTheirTarget : BranchesReachTheirTarget := by
  refine ⟨fun s t w hs hg hopc => ?br, fun s t w hs hg hopc => ?call, fun s t w hs hg hopc hv => ?jr,
    fun s t w link ch hs hg hopc hrel hh => ?hret⟩
  case br => exact goesTo_of_jump (fun _ _ => rfl) hs hg hopc rfl
  case call => exact goesTo_of_jump (fun _ _ => rfl) hs hg hopc rfl
  case jr => exact goesTo_of_jump (fun _ _ => rfl) hs hg hopc (if_neg (not_le.2 hv))
  case hret =>
    refine goesTo_of_jump (fun _ _ => rfl) hs hg hopc ?_
    dsimp only
    rw [hh, hrel]
    rfl

/-! ## Loops (R208) -/

section
variable {opc : Nat} {reads : W32 → List Nat} {body : W32 → Nat} {count : W32 → Tile → Nat}

theorem runLoop_guardTrue (hs : Starts s t w (reads w)) (hg : GuardTrue (s.tile t) w) (hopc : wOpc w = opc) :
    runLoop t .none opc reads body count s = s.putTile t ((s.tile t).act (startLoop (s.tile t) (body w) (count w (s.tile t)))) := by
  have hguard : (predRead (s.tile t).core.preds (wGuard w).2 == (wGuard w).1) = false := beq_eq_false_iff_ne.2 hg
  rw [runLoop, hs.word]
  dsimp only
  rw [hguard, Bool.and_false, Bool.false_and, if_neg Bool.false_ne_true,
    runCore_starts (by simpa [noRegs] using hs) (absurd · Bool.false_ne_true) (isOpc_of hopc)]

theorem runLoop_guardFalse {regs : List Nat} (hs : Starts s t w regs) (hg : ¬ GuardTrue (s.tile t) w) (hopc : wOpc w = opc) :
    runLoop t .none opc reads body count s
      = s.putTile t ((s.tile t).setPc ((s.tile t).core.pc.toNat + body w + 1)).finish := by
  have hguard : (predRead (s.tile t).core.preds (wGuard w).2 == (wGuard w).1) = true := by simpa [GuardTrue] using hg
  rw [runLoop, hs.word]
  dsimp only
  rw [hs.coreReady, beq_iff_eq.2 hopc, hguard]
  rfl

theorem startLoop_push {x : Tile} {body count : Nat} (hn : count ≠ 0) (hl : x.core.loops.length < 4) : startLoop x body count
    = .done { x with core := { x.core with
        loops := ⟨x.core.pc.toNat + 1, x.core.pc.toNat + 1 + body, 0, count - 1⟩ :: x.core.loops } } [] := by
  rw [startLoop, if_neg hn, if_neg (not_le.2 hl)]

theorem startLoop_full {x : Tile} {body count : Nat} (hn : count ≠ 0) (hl : 4 ≤ x.core.loops.length) :
    startLoop x body count = .fault x 0x4 0 0 := by
  rw [startLoop, if_neg hn, if_pos hl]

/-- A loop instruction pushes its entry, or skips its body where the count is 0. -/
theorem startsLoop {c : Instr} (hc : exec c s = .next (runLoop t .none opc reads body count s)) (hs : Starts s t w (reads w))
    (hg : GuardTrue (s.tile t) w) (hopc : wOpc w = opc) : StartsLoop c s t (body w) (count w (s.tile t)) := by
  refine ⟨fun hn hl => ?push, fun hn => ?skip⟩
  case push => rw [hc, runLoop_guardTrue hs hg hopc, startLoop_push hn hl, act_done]
  case skip =>
    rw [hc, runLoop_guardTrue hs hg hopc, hn]
    rfl

end

theorem loopsPushTheirEntry : LoopsPushTheirEntry := by
  refine ⟨fun s t w hs hg hopc => startsLoop (body := fun w => wField w 21 12) (count := fun w _ => wField w 11 0) rfl hs hg hopc,
    fun s t w hs hg hopc => startsLoop (body := fun w => wField w 16 7) (count := fun w x => (x.core.s (wD w)).toNat % 2 ^ 32) rfl hs hg hopc,
    fun s t w body c hs hg hop => ?_⟩
  obtain ⟨hopc, rfl, rfl⟩ | ⟨hopc, rfl, rfl⟩ := hop
  · exact congrArg Host.Outcome.next (runLoop_guardFalse hs hg hopc)
  · exact congrArg Host.Outcome.next (runLoop_guardFalse hs hg hopc)

/-! ## Targets outside the store (R207) -/

theorem jr_faults : FaultsWhen .jr 0x03 (fun w => [wA w]) (fun x w => 4096 ≤ (x.core.s (wA w)).toNat) 0x2 (fun _ => 0) :=
  faultsWhen_of_body (fun _ _ => rfl) (fun _ => rfl) (fun _ => isOpc_of) fun _ _ _ h => if_pos h

theorem targetsOutsideTheStoreFault : TargetsOutsideTheStoreFault := ⟨jr_faults, fun _ hpc hl => finish_pastTheStore hl hpc⟩

/-! ## Messages and handlers (R217, R219) -/

theorem enterHandler_found {x : Tile} {ch : BitVec 6} {hdr : W64} {h : BitVec 12}
    (hf : mapFind x.img.handlers (bits hdr.toNat 59 54) = some h) :
    enterHandler x ch hdr = .jump { x with core := { x.core with handler := some (x.core.pc + 1, ch) } } h.toNat := by
  rw [enterHandler, hf]

/-- A tile put without a note is the tile. -/
theorem tile_putTile_quiet (y : Tile) : (s.putTile t (y, [])).tile t = y := tile_setTile_same y

theorem dispatch_goesTo {r : Rec} {h : BitVec 12} (hs : Starts s t w [32 + recvAd w, recvSd w]) (hg : GuardTrue (s.tile t) w)
    (hopc : wOpc w = 0x2B) (hh : (s.tile t).core.handler = none) (hm : (s.tile t).headMsg (chOf w) = some r)
    (hf : mapFind (s.tile t).img.handlers (bits (headWord s (s.tile t) (chOf w) r).toNat 59 54) = some h) :
    let y := taken s (s.tile t) (chOf w) r (recvAd w) (recvSd w)
    GoesTo (.dispatch t .none) s t { y with core := { y.core with handler := some ((s.tile t).core.pc + 1, chOf w) } } h.toNat := by
  refine goesTo_of_jump (fun _ _ => rfl) hs hg hopc ?_
  dsimp only
  rw [hh, hm]
  exact enterHandler_found (x := taken s (s.tile t) (chOf w) r (recvAd w) (recvSd w)) hf

end

theorem branchesLeaveBodies : BranchesLeaveBodies := by
  refine ⟨fun _ => rfl, fun _ _ _ => rfl, fun s t w r h hs hg hopc hh hm hf => ?_⟩
  refine ⟨_, dispatch_goesTo hs hg hopc hh hm hf, ?_⟩
  rw [tile_putTile_quiet]
  exact ⟨BitVec.ofNat_toNat .., rfl⟩

/-- Settles O10: branches by where their body jumps, loops by the entry that they push, and what leaves the store by its fault. -/
theorem branchesAndLoopsReachTheirTarget : Obligations.BranchesAndLoopsReachTheirTarget :=
  ⟨branchesReachTheirTarget, loopsPushTheirEntry, targetsOutsideTheStoreFault, branchesLeaveBodies⟩

end Sys2Proof.Machine
end

section
/-! # Where a context stops (R207, R208, R215, R218, R219, R221, R226, R227) -/

namespace Sys2Proof.Machine

/-! ## TRAP and an OPC that is not listed -/

theorem trap_faults : FaultsWhen .trap 0x3E (fun _ => []) (fun _ _ => True) 0xB (fun w => wField w 21 12) :=
  faultsWhen_of_body (fun _ _ => rfl) (fun _ => rfl) (fun _ => isOpc_of) fun _ _ _ _ => rfl

theorem illegalInstruction_faults {s : State} {t : TileId} {w : W32} (hs : Starts s t w []) (hw : opcListed (wOpc w) = false) :
    exec (.illegalInstruction t .none) s = .next (s.putTile t ((s.tile t).fault 0x1 0 0)) :=
  exec_acts (c := .illegalInstruction) (regs := fun _ => []) (fun _ _ => rfl) (fun _ => rfl) hs
    (absurd · Bool.false_ne_true) (by rw [hw]; rfl)

/-! ## The other instructions -/

section
variable {opc : Nat} {reads : W32 → List Nat} {body : W32 → Nat} {count : W32 → Tile → Nat} {c : TileId → CoreErr → Instr}

theorem loop_faults (hc : ∀ t s, exec (c t .none) s = .next (runLoop t .none opc reads body count s)) :
    FaultsWhen c opc reads (fun x w => count w x ≠ 0 ∧ 4 ≤ x.core.loops.length) 0x4 (fun _ => 0) := by
  intro s t w hs hg hopc ⟨hn, hl⟩
  rw [hc, runLoop_guardTrue hs hg hopc, startLoop_full hn hl]
  rfl

end

theorem ldsOk_iff {a : Nat} : ldsOk a = true ↔ a % 8 = 0 ∧ a < 2 ^ 21 := by
  rw [ldsOk, Bool.and_eq_true, beq_iff_eq, decide_eq_true_iff]
  rfl

theorem ldsOk_not {a : Nat} (h : a % 8 ≠ 0 ∨ 2 ^ 21 ≤ a) : (!ldsOk a) = true := by
  rw [Bool.not_eq_true', Bool.eq_false_iff, Ne, ldsOk_iff]
  omega

theorem operandFaultsStopTheContext : OperandFaultsStopTheContext := by
  refine ⟨jr_faults, loop_faults fun _ _ => rfl, loop_faults fun _ _ => rfl, fun m => ?lds, ?sts, ?csub, ?release, ?stepend,
    ?dispatch, ?hret⟩
  case lds => exact faultsWhen_of_body (fun _ _ => rfl) (fun _ => rfl) (fun _ => isOpc_of) fun _ _ _ h => if_pos (ldsOk_not h)
  case sts => exact faultsWhen_of_body (fun _ _ => rfl) (fun _ => rfl) (fun _ => isOpc_of) fun _ _ _ h => if_pos (ldsOk_not h)
  case csub => exact faultsWhen_of_body (fun _ _ => rfl) (fun _ => List.append_nil _) (fun _ => isOpc_of) fun _ _ _ h => if_pos h
  case release =>
    refine faultsWhen_of_body (fun _ _ => rfl) (fun _ => rfl) (fun _ => isOpc_of) fun _ w x h => ?_
    exact if_pos (by rw [h]; rfl)
  case stepend => exact faultsWhen_of_body (fun _ _ => rfl) (fun _ => rfl) (fun _ => isOpc_of) fun _ _ _ h => if_pos h
  case dispatch => exact faultsWhen_of_body (fun _ _ => rfl) (fun _ => rfl) (fun _ => isOpc_of) fun _ _ _ h => if_pos h
  case hret =>
    refine faultsWhen_of_body (fun _ _ => rfl) (fun _ => rfl) (fun _ => isOpc_of) fun _ w x h => ?_
    rw [h]

/-! ## The report of TRAP

DATA holds the loop depth in [6:4] and CODE in [17:8] (R228), and no context has more than four loops (R208). The obligation does not
bound the loop stack, and a depth of 16 runs into CODE: that clause fails, and every other clause holds as proved above. -/

/-- With the four loops that R208 allows, the report of TRAP carries its FCODE and its CODE. -/
theorem trap_reports {s : State} {t : TileId} {w : W32} (hs : Starts s t w []) (hg : GuardTrue (s.tile t) w) (hopc : wOpc w = 0x3E)
    (hl : (s.tile t).core.loops.length ≤ 4) : ∃ s' r, exec (.trap t .none) s = .next s' ∧ s'.out = s.out ++ [.report r true]
      ∧ r.code = 0x1001#16 ∧ bits r.data.toNat 3 0 = 0xB ∧ bits r.data.toNat 17 8 = wField w 21 12 := by
  obtain ⟨-, -, -, -, r, hcode, -, hout, -, -, hdata⟩ := faultLeavesOneUrgentReport s t 0xB (wField w 21 12) 0
  obtain ⟨hf, -, -, he, -⟩ := hdata (by decide) (Nat.mod_lt _ (by decide)) (by decide) hl
  exact ⟨_, r, trap_faults s t w hs hg hopc trivial, hout, hcode, hf, he⟩

/-- The only report that a fault leaves holds the fault's DATA. -/
theorem fault_data {s : State} {t : TileId} {x : Tile} {fcode extra word0 : Nat} {r : Report} {u : Bool}
    (h : (s.putTile t (x.fault fcode extra word0)).out = s.out ++ [.report r u]) :
    r.data = BitVec.ofNat 128 (faultData x fcode extra word0) := by
  rw [putTile_fault, tileErr_out] at h
  injection List.singleton_inj.1 (List.append_cancel_left h) with hr
  rw [← hr]
  rfl

/-- TRAP with CODE 0 in sixteen loops. -/
def trapInSixteenLoops : State :=
  { State.reset with tiles := [(0, { Tile.reset with
      phase := phRunning, imem := [(0, 0xF8000000)], core := { Tile.reset.core with loops := List.replicate 16 ⟨20, 30, 0, 1⟩ } })] }

theorem trapInSixteenLoops_starts : Starts trapInSixteenLoops 0 0xF8000000 [] := ⟨rfl, rfl, rfl, rfl, rfl⟩

theorem trapInSixteenLoops_guardTrue : GuardTrue (trapInSixteenLoops.tile 0) 0xF8000000 := by
  unfold GuardTrue
  decide

/-- Refutes O12: in sixteen loops the report of TRAP with CODE 0 has 1 in its field of CODE. -/
theorem not_faultingInstructionsStopTheContext : ¬ Obligations.FaultingInstructionsStopTheContext := by
  rintro ⟨⟨-, htrap, -⟩, -⟩
  have hg := trapInSixteenLoops_guardTrue
  obtain ⟨s', r, hs', hout, -, -, hcode⟩ := htrap _ _ _ trapInSixteenLoops_starts hg (by decide)
  rw [trap_faults _ _ _ trapInSixteenLoops_starts hg (by decide) trivial, Host.Outcome.next.injEq] at hs'
  rw [← hs'] at hout
  rw [fault_data hout] at hcode
  revert hcode
  decide

end Sys2Proof.Machine
end

section
/-! # LDS and STS (R215) -/

namespace Sys2Proof.Machine

section
variable {x : Tile} {a : Nat}

theorem outstanding_clear {f : Op → List Span} {b : List Span} (h : ∀ o ∈ x.exec ++ x.fifo, anyOverlap (f o) b = false) :
    ¬ (outstanding x).any (fun o => anyOverlap (f o) b) = true := by
  rw [List.any_eq_true]
  rintro ⟨o, ho, hov⟩
  exact Bool.false_ne_true ((h o ho).symm.trans hov)

end

/-- Settles O14: the address is one that they may use, and the access waits for nothing. -/
theorem scalarLoadsAndStoresMoveEightBytes : Obligations.ScalarLoadsAndStoresMoveEightBytes := by
  intro s t w hs hg x a halign hin
  have hok : ¬ (!ldsOk a) = true := by simp [ldsOk_iff.2 ⟨halign, hin⟩]
  refine ⟨fun hopc hfree hbad => ?lds, fun hopc hfree => ?sts⟩
  case lds =>
    refine exec_completes (c := fun t e => .lds t e .none) (regs := fun w => [32 + wA w % 16, wD w]) (fun _ _ => rfl) (fun _ => rfl)
      hs hg (isOpc_of hopc) ((if_neg hok).trans ((if_neg (outstanding_clear hfree)).trans (if_pos ?_)))
    exact List.isEmpty_iff.2 hbad
  case sts =>
    exact exec_completes (c := .sts) (regs := fun w => [32 + wA w % 16, wD w]) (fun _ _ => rfl) (fun _ => rfl)
      hs hg (isOpc_of hopc) ((if_neg hok).trans (if_neg (outstanding_clear hfree)))

end Sys2Proof.Machine
end

section
/-! # Taking the head message (R217, R219) -/

namespace Sys2Proof.Machine

section
variable {s : State} {t : TileId} {w : W32}

theorem recv_takes (hs : Starts s t w [32 + recvAd w, recvSd w]) (hg : GuardTrue (s.tile t) w) (hopc : wOpc w = 0x29) {r : Rec}
    (hm : (s.tile t).headMsg (chOf w) = some r) : let y := taken s (s.tile t) (chOf w) r (recvAd w) (recvSd w)
    exec (.recv t .none) s = .next (s.putTile t (if bit w.toNat 6 then y.setP (wField w 5 3) true else y).finish) := by
  refine exec_completes (fun _ _ => rfl) (fun _ => rfl) hs hg (isOpc_of hopc) ?_
  dsimp only
  rw [hm]
  rfl

theorem recv_tries (hs : Starts s t w [32 + recvAd w, recvSd w]) (hg : GuardTrue (s.tile t) w) (hopc : wOpc w = 0x29)
    (hm : (s.tile t).headMsg (chOf w) = none) (hb : bit w.toNat 6 = true) :
    exec (.recv t .none) s = .next (s.putTile t ((s.tile t).setP (wField w 5 3) false).finish) := by
  refine exec_completes (fun _ _ => rfl) (fun _ => rfl) hs hg (isOpc_of hopc) ?_
  dsimp only
  rw [hm]
  exact if_pos hb

theorem recv_waits (hs : Starts s t w [32 + recvAd w, recvSd w]) (hg : GuardTrue (s.tile t) w) (hopc : wOpc w = 0x29)
    (hm : (s.tile t).headMsg (chOf w) = none) (hb : bit w.toNat 6 = false) : exec (.recv t .none) s
      = .next (s.putTile t (waitingIn (s.tile t) (.message (chOf w) (BitVec.ofNat 4 (recvAd w)) (BitVec.ofNat 5 (recvSd w)) false))) := by
  refine exec_waits (fun _ _ => rfl) (fun _ => rfl) hs hg (isOpc_of hopc) ?_
  dsimp only
  rw [hm]
  exact if_neg (by simp [hb])

theorem goes_of {x : Tile} (hp : x.phase = phRunning) (hs : x.core.stopped = false) : x.goes = true := by
  rw [Tile.goes, hp, hs]; rfl

/-- A RECV that waited takes its message, and its endpoint's stall is counted where the tile counts. -/
theorem recvResume_takes {ch : BitVec 6} {ad : BitVec 4} {sd : BitVec 5} {r : Rec} (hg : (s.tile t).goes = true)
    (hw : (s.tile t).core.wait = .message ch ad sd false) (hm : (s.tile t).headMsg ch = some r) :
    let s1 := if (s.tile t).counting then s.moreStalls t else s
    exec (.recvResume t) s
      = .next (s1.putTile t (taken s1 ((s1.tile t).setWait .none) ch r ad.toNat sd.toNat).finish) := by
  show execRecvResume t s = _
  unfold execRecvResume
  dsimp only
  rw [hw]
  dsimp only
  rw [hg, hm]
  rfl

end

/-- Settles O15: RECV by what stands at the read position, DISPATCH by the handler of the header, a wait by the message that ends it. -/
theorem receiveTakesTheHeadMessage : Obligations.ReceiveTakesTheHeadMessage := by
  intro s t w x
  refine ⟨fun hs hg hopc => ⟨fun r => recv_takes hs hg hopc, recv_tries hs hg hopc, recv_waits hs hg hopc⟩, fun r h hs hg hopc => ?_,
    fun ch ad sd r hp hs hw hm => recvResume_takes (goes_of hp hs) hw hm⟩
  exact dispatch_goesTo hs hg hopc

end Sys2Proof.Machine
end

section
/-! # Counters, barriers, flags and the end of a step (R221, R222, R224) -/

namespace Sys2Proof.Machine

section
variable {s : State} {t : TileId} {w : W32}

theorem waitc_completesOrWaits (hs : Starts s t w (ctrReads w)) (hg : GuardTrue (s.tile t) w) (hopc : wOpc w = 0x30) : let x := s.tile t
    exec (.waitc t .none) s = .next (s.putTile t (if (ctrVal w x).toNat ≤ mapGet 0 x.arr (wD w) then x.finish
      else waitingIn x (.counter (BitVec.ofNat 5 (wD w)) (ctrVal w x)))) := by
  intro x
  split
  · rename_i h
    exact exec_completes (fun _ _ => rfl) (fun _ => List.append_nil _) hs hg (isOpc_of hopc) (if_pos h)
  · rename_i h
    exact exec_waits (fun _ _ => rfl) (fun _ => List.append_nil _) hs hg (isOpc_of hopc) (if_neg h)

theorem csub_subtracts (hs : Starts s t w (ctrReads w)) (hg : GuardTrue (s.tile t) w) (hopc : wOpc w = 0x31) : let x := s.tile t
    (ctrVal w x).toNat ≤ mapGet 0 x.arr (wD w) → exec (.csub t .none) s = .next (s.putTile t
      { x with arr := mapPut 0 (wD w) (mapGet 0 x.arr (wD w) - (ctrVal w x).toNat) x.arr }.finish) := fun h =>
  exec_completes (fun _ _ => rfl) (fun _ => List.append_nil _) hs hg (isOpc_of hopc) (if_neg (not_lt.2 h))

theorem waitcResume_completes {c : BitVec 5} {v : W64} (hg : (s.tile t).goes = true) (hw : (s.tile t).core.wait = .counter c v)
    (h : v.toNat ≤ mapGet 0 (s.tile t).arr c.toNat) : exec (.waitcResume t) s = .next (s.putTile t (s.tile t).finish) := by
  show execWaitcResume t s = _
  unfold execWaitcResume
  dsimp only
  rw [hw]
  exact if_pos (by simp [hg, h])

theorem flagset_sends (hs : Starts s t w []) (hg : GuardTrue (s.tile t) w) (hopc : wOpc w = 0x35) : let x := s.tile t
    exec (.flagset t .none) s = .next (s.putTile t (x.finish.1, .flag (chOf w) (bit w.toNat 15) :: x.finish.2)) :=
  exec_acts (c := .flagset) (regs := fun _ => []) (fun _ _ => rfl) (fun _ => rfl) hs (fun _ => hg) (isOpc_of hopc)

theorem flagwait_completesOrWaits (hs : Starts s t w []) (hg : GuardTrue (s.tile t) w) (hopc : wOpc w = 0x36) : let x := s.tile t
    exec (.flagwait t .none) s = .next (s.putTile t (if x.flags.getLsbD (chOf w).toNat = bit w.toNat 15 then x.finish
      else waitingIn x (.flag (chOf w) (bit w.toNat 15)))) := by
  intro x
  split
  · rename_i h
    exact exec_completes (fun _ _ => rfl) (fun _ => rfl) hs hg (isOpc_of hopc)
      (if_pos (beq_iff_eq.2 h))
  · rename_i h
    exact exec_waits (fun _ _ => rfl) (fun _ => rfl) hs hg (isOpc_of hopc)
      (if_neg (mt beq_iff_eq.1 h))

theorem flagwaitResume_completes {f : BitVec 6} {v : Bool} (hg : (s.tile t).goes = true) (hw : (s.tile t).core.wait = .flag f v)
    (h : (s.tile t).flags.getLsbD f.toNat = v) : exec (.flagwaitResume t) s = .next (s.putTile t (s.tile t).finish) := by
  show execFlagwaitResume t s = _
  unfold execFlagwaitResume
  dsimp only
  rw [hw]
  exact if_pos (by simp [hg, h])

theorem bar_waits (hs : Starts s t w []) (hg : GuardTrue (s.tile t) w) (hopc : wOpc w = 0x34) :
    exec (.bar t .none) s = .next (s.putTile t (waitingIn (s.tile t) (.barrier (BitVec.ofNat 4 (wField w 21 18)) 0))) :=
  exec_waits (fun _ _ => rfl) (fun _ => rfl) hs hg (isOpc_of hopc) rfl

theorem stepend_waits (hs : Starts s t w []) (hg : GuardTrue (s.tile t) w) (hopc : wOpc w = 0x3C) (hh : (s.tile t).core.handler = none) :
    exec (.stepend t .none) s = .next (s.putTile t (waitingIn { s.tile t with phase := phEnding, resume := .next } .stepEnd)) :=
  exec_waits (fun _ _ => rfl) (fun _ => rfl) hs hg (isOpc_of hopc) (if_neg (by rw [hh]; decide))

end

/-- Settles O17: each instruction by what it waits for, each wait by the condition that ends it. -/
theorem counterAndFlagInstructionsComplete : Obligations.CounterAndFlagInstructionsComplete := fun _ _ _ =>
  ⟨waitc_completesOrWaits, csub_subtracts, fun _ _ => waitcResume_completes, flagset_sends, flagwait_completesOrWaits,
    fun _ _ => flagwaitResume_completes, bar_waits, stepend_waits⟩

end Sys2Proof.Machine
end

section
/-! # NET operations leave the tile (R75, R76, R220, R236 to R246) -/

namespace Sys2Proof.Machine

/-! ## Where no word is uncorrectable (R233) -/

theorem badWords_clean {bad : List Nat} (h : bad = []) (a n : Nat) : badWords bad a n = [] := by rw [h]; rfl

theorem badUnits_clean {bad : List Nat} (h : bad = []) (a n : Nat) : badUnits bad a n = [] := by simp [badUnits, badWords_clean h]

@[simp] theorem meet_none (x : Tile) (a n : Nat) : x.meet .none a n = (x, []) := rfl

@[simp] theorem arrive_clean (x : Tile) (a : Nat) (bs : List Byte) : x.arrive a bs [] = x.writeMem a bs := rfl

/-! ## A move starts (R76, R242, R554) -/

theorem netOpc_of_kind {o : Op} {w0 w1 : W64} (hk : o.kind = .net w0 w1) {d : Nat} (hopc : (moveF w0 w1).opc = 7) (hd : (moveF w0 w1).dir = d) :
    netOpc 7 (some d) o = true := by
  have hcode : bits w0.toNat 63 60 = 7 := hopc
  simp [netOpc, hk, hcode, hd]

theorem startMove_plain {w0 w1 : W64} (hr : (moveF w0 w1).rgn = false) (x : Tile) (o : Op) :
    x.startMove o w0 w1 = (issued x o, o, moveF w0 w1) := by
  rw [Tile.startMove, if_neg (by rw [hr]; decide)]
  rfl

theorem moveAddr_plain {f : MoveF} (hr : f.rgn = false) (x : Tile) : moveAddr x f = f.taddr := if_neg (by rw [hr]; decide)

/-- The operation as it executes when its move fills a region: TADDR is the address of the record. -/
def atRecord (x : Tile) (o : Op) (w0 w1 : W64) : Op := { o with kind := .net (w0 ||| BitVec.ofNat 64 (moveAddr x (moveF w0 w1))) w1 }

theorem startMove_region {w0 w1 : W64} (hr : (moveF w0 w1).rgn = true) (x : Tile) (o : Op) :
    x.startMove o w0 w1 = ({ x with fifo := dropOne o x.fifo, exec := x.exec ++ [atRecord x o w0 w1],
                                    tails := mapPut 0 (moveF w0 w1).rid ((mapGet 0 x.tails (moveF w0 w1).rid + 1) % 65536) x.tails },
      atRecord x o w0 w1, { moveF w0 w1 with taddr := moveAddr x (moveF w0 w1) }) := by
  have haddr : moveAddr x (moveF w0 w1) = rgnBase (mapGet 0 x.img.regions (moveF w0 w1).rid)
      + mapGet 0 x.tails (moveF w0 w1).rid % rgnSlots (mapGet 0 x.img.regions (moveF w0 w1).rid)
        * rgnRec (mapGet 0 x.img.regions (moveF w0 w1).rid) := if_pos hr
  rw [atRecord, haddr]
  exact if_pos hr

/-- An access that ends within its page is one part. -/
theorem pageParts_one {a n : Nat} (hpage : a % 2 ^ 21 + n ≤ 2 ^ 21) (hn : 0 < n) : pageParts 2 a n = [(a, n)] := by
  have hall : min n (Config.pageBytes - a % Config.pageBytes) = n := Nat.min_eq_left (Nat.le_sub_of_add_le' hpage)
  simp [pageParts, hall, Nat.ne_of_gt hn]

theorem inc_of_dir {f : MoveF} (hd : f.dir ≠ 4) : f.inc = if f.cen then some f.ctr else none := by simp [MoveF.inc, hd]

/-! ## What leaves -/

section
variable {s : State} {t : TileId} {o : Op} {w0 w1 : W64} (h : Issues s t 5 o)
include h

section
variable {f : MoveF} (hk : o.kind = .net w0 w1) (hf : moveF w0 w1 = f) (hopc : f.opc = 7)
include hk hf hopc

theorem moveJobToTile_reads (hd : f.dir = 2) (hr : f.rgn = false) (hpage : f.far % 2 ^ 21 + f.len ≤ 2 ^ 21) (hn : 0 < f.len)
    (hok : s.jobOk f.far = true) : exec (.moveJobToTile t) s = .next
      ((s.setTile t (issued (s.tile t) o)).emit (.jobRead t (s.tile t).gen o.seq (BitVec.ofNat 64 f.far) f.len (s.homeRef f.far))) := by
  subst hf
  have hhead : (s.tile t).issuable 5 = some o := h
  show execMoveJobToTile t s = _
  simp only [execMoveJobToTile, hhead, netOpc_of_kind hk hopc hd, hk, startMove_plain hr, pageParts_one hpage hn]
  exact congrArg Host.Outcome.next (if_pos hok)

section
variable (hbad : (s.tile t).bad = [])
include hbad

theorem moveTileToJob_writes (hd : f.dir = 3) (hr : f.rgn = false) (hpage : f.far % 2 ^ 21 + f.len ≤ 2 ^ 21) (hn : 0 < f.len)
    (hok : s.jobOk f.far = true) : exec (.moveTileToJob t .none) s = .next
      ((s.setTile t ((issued (s.tile t) o).await o 1 (if f.cen then some f.ctr else none))).emit
        (.jobWrite t (s.tile t).gen o.seq (BitVec.ofNat 64 f.far) ((s.tile t).readMem f.taddr f.len) [] (s.homeRef f.far))) := by
  subst hf
  have hhead : (s.tile t).issuable 5 = some o := h
  have hinc := inc_of_dir (f := moveF w0 w1) (by rw [hd]; decide)
  have hsent : [((moveF w0 w1).far, (moveF w0 w1).len)].filter (fun p => s.jobOk p.1) = [((moveF w0 w1).far, (moveF w0 w1).len)] := by
    simp [hok]
  have hkept : (issued (s.tile t) o).bad = [] := hbad
  have hsame : { s.tile t with bad := (issued (s.tile t) o).bad } = s.tile t := rfl
  show execMoveTileToJob t .none s = _
  simp only [execMoveTileToJob, hhead, netOpc_of_kind hk hopc hd, hk, startMove_plain hr, pageParts_one hpage hn, meet_none, hsame, hinc,
    hsent, if_true, List.foldl_cons, List.foldl_nil, Nat.sub_self, badUnits_clean hkept, wordErrs_clean hbad]
  exact congrArg Host.Outcome.next (if_pos hok)

theorem moveRemoteWrite_writes (hd : f.dir = 4) : exec (.moveRemoteWrite t .none) s = .next
    ((s.setTile t ((issued (s.tile t) o).await o 1 none)).emit (.remoteWrite t (s.tile t).gen o.seq (mkTile f.rx f.ry)
      (s.tileCode (mkTile f.rx f.ry)) (BitVec.ofNat 21 f.raddr) ((s.tile t).readMem f.taddr f.len) [] (if f.cen then some f.ctr else none))) := by
  subst hf
  have hkept : ((s.tile t).toExec o).bad = [] := hbad
  show (.next (issueHead t 5 (netOpc 7 (some 4)) _ s) : Outcome) = _
  rw [issueHead_issues h (netOpc_of_kind hk hopc hd), hk]
  simp only [meet_none, wordErrs_clean hkept, badUnits_clean hkept]
  rfl

end

end

theorem rrel_movesHead (hk : o.kind = .net w0 w1) (hopc : bits w0.toNat 63 60 = 8) : let x := s.tile t
    let r := rrelF w0
    let head := mapGet 0 x.heads r.rid
    r.count ≤ (mapGet 0 x.tails r.rid + 65536 - head) % 65536 → exec (.rrel t) s =
      .next (s.setTile t { completed (issued x o) o with heads := mapPut 0 r.rid ((head + r.count) % 65536) x.heads }) := by
  intro x r head hcount
  show (.next (issueHead t 5 (netOpc 8 none) _ s) : Outcome) = _
  rw [issueHead_issues h (by simp [netOpc, hk, hopc]), hk]
  exact congrArg (fun y => Host.Outcome.next (s.putTile t y)) (if_neg (not_lt.2 hcount))

theorem atomicIssue_sends {a : W64} {aop : BitVec 4} {wide : Bool} {v e : W64} {rd : BitVec 5} (hk : o.kind = .atom a aop wide v e rd)
    (halign : a.toNat % (if wide then 8 else 4) = 0) (hok : s.jobOk a.toNat = true) : exec (.atomicIssue t) s = .next
      ((s.setTile t (issued (s.tile t) o)).emit (.atomic t (s.tile t).gen o.seq a aop wide v e (s.homeRef a.toNat))) := by
  have hhead : (s.tile t).issuable 5 = some o := h
  show execAtomicIssue t s = _
  simp only [execAtomicIssue, hhead, hk]
  exact if_pos ⟨halign, hok⟩

end

/-- Settles O27: each operation by what its command emits once it stands at the head of the port. -/
theorem netOperationsSendTheirAccess : Obligations.NetOperationsSendTheirAccess := fun _ _ _ h hbad =>
  ⟨fun _ _ hk => ⟨moveJobToTile_reads h hk rfl, fun hopc => moveTileToJob_writes h hk rfl hopc hbad,
    fun hopc => moveRemoteWrite_writes h hk rfl hopc hbad, rrel_movesHead h hk⟩, fun _ _ _ _ _ _ => atomicIssue_sends h⟩

end Sys2Proof.Machine
end

section
/-! # Moves to and from the Commons (R244, R247, R248, R252, R260) -/

namespace Sys2Proof.Machine

/-- The state with the request `r` last at its port of the slice `sl` (R248, R252). -/
def State.queueAt (s : State) (sl : Nat) (r : SliceReq) : State :=
  { s with sliceQ := mapIns (commonsPort sl r.t) (mapGet [] s.sliceQ (commonsPort sl r.t) ++ [r]) s.sliceQ }

/-- The one request of a move whose far range is one part. -/
def MoveF.request (f : MoveF) (t : TileId) (gen : Byte) (seq : W16) (data : Option (List Byte × List Nat)) : SliceReq :=
  { t := t, gen := gen, seq := seq, off := (commonsAt f.far).2, len := f.len, taddr := f.taddr, data := data }

section
variable {s : State} {t : TileId} {f : MoveF} (hone : commonsParts 257 f.far f.len = [(f.far, f.len)])
include hone

theorem queueSlices_one {data : Option (List Byte)} (hd : ∀ bs, data = some bs → bs.length = f.len) (gen : Byte) (o : Op) :
    s.queueSlices t gen o f data [] =
      s.queueAt (commonsAt f.far).1 (f.request t gen o.seq (data.map (fun bs => (bs, [])))) := by
  have hall : data.map (fun bs => (bs.take f.len, ([] : List Nat))) = data.map (fun bs => (bs, [])) :=
    Option.map_congr fun bs h => by rw [← hd bs h, List.take_length]
  rw [State.queueSlices, hone]
  simp [State.queueAt, MoveF.request, hall]

/-- A slice of the tile's own half is reached whatever the meshes do, one of the other half while its mesh runs (R260). -/
theorem slicesStopped_reached (hr : decide (32 ≤ (commonsAt f.far).1) = isEast t ∨ s.meshStopped (decide (32 ≤ (commonsAt f.far).1)) = false) :
    s.slicesStopped t f = false := by
  rw [State.slicesStopped, hone]
  rcases hr with hown | hruns
  · simp [hown]
  · simp [hruns]

end

theorem length_readBytes (d : Byte) (m : SMap Byte) (a n : Nat) : (readBytes d m a n).length = n := by
  induction n generalizing a with
  | zero => rfl
  | succ n ih => simp [readBytes, ih]

section
variable {s : State} {t : TileId} {o o' : Op} {w0 w1 : W64} {y : Tile} {f : MoveF} (h : Issues s t 5 o) (hk : o.kind = .net w0 w1)
  (hopc : (moveF w0 w1).opc = 7) (hstart : (s.tile t).startMove o w0 w1 = (y, o', f))
  (hone : commonsParts 257 f.far f.len = [(f.far, f.len)]) (hr : s.slicesStopped t f = false)
include h hk hopc hstart hone hr

/-- A MOVE out of the Commons, plain or into a region: one request without data. -/
theorem commonsRead_queues (hd : (moveF w0 w1).dir = 0) : exec (.moveCommonsToTile t) s =
    .next ((s.setTile t y).queueAt (commonsAt f.far).1 (f.request t (s.tile t).gen o'.seq none)) := by
  have hhead : (s.tile t).issuable 5 = some o := h
  show (.next (runCommonsMove t 0 .none s) : Outcome) = _
  simp only [runCommonsMove, hhead, netOpc_of_kind hk hopc hd, hk, hstart, hr]
  exact congrArg Host.Outcome.next (queueSlices_one (data := none) hone nofun _ _)

/-- A MOVE into the Commons: one request with the tile's bytes, to be acknowledged. -/
theorem commonsWrite_queues (hd : (moveF w0 w1).dir = 1) (hbad : (s.tile t).bad = []) (hkept : y.bad = []) :
    exec (.moveTileToCommons t .none) s = .next ((s.setTile t (y.await o' 1 f.inc)).queueAt (commonsAt f.far).1
      (f.request t (s.tile t).gen o'.seq (some ((s.tile t).readMem f.taddr f.len, [])))) := by
  have hhead : (s.tile t).issuable 5 = some o := h
  have hsame : { s.tile t with bad := y.bad } = s.tile t := by rw [hkept, ← hbad]
  show (.next (runCommonsMove t 1 .none s) : Outcome) = _
  simp only [runCommonsMove, hhead, netOpc_of_kind hk hopc hd, hk, hstart, hr, meet_none, hsame, wordErrs_clean hbad, badUnits_clean hkept, hone]
  exact congrArg Host.Outcome.next (queueSlices_one hone (fun _ e => Option.some.inj e ▸ length_readBytes ..) _ _)

end

/-- Settles O28: a plain move and a region fill differ in how they start; what starts is queued alike. -/
theorem commonsMovesQueueAtTheirSlices : Obligations.CommonsMovesQueueAtTheirSlices := by
  intro s t o w0 w1 h hk hbad x f hopc hone sl hreach port req queued
  have hstop : s.slicesStopped t f = false := slicesStopped_reached hone hreach
  refine ⟨fun hd hr => ?read, fun hd hr => ?fill, fun hd hr _ => ?write⟩
  case read =>
    show exec (.moveCommonsToTile t) s = .next ((s.setTile t (issued x o)).queueAt sl
      (MoveF.request { f with taddr := moveAddr x f } t x.gen o.seq none))
    rw [moveAddr_plain hr]
    exact commonsRead_queues h hk hopc (startMove_plain hr x o) hone hstop hd
  case fill => exact commonsRead_queues h hk hopc (startMove_region hr x o) hone hstop hd
  case write =>
    show exec (.moveTileToCommons t .none) s = .next
      ((s.setTile t ((issued x o).await o 1 (if f.cen then some f.ctr else none))).queueAt sl
      (MoveF.request { f with taddr := moveAddr x f } t x.gen o.seq (some (x.readMem f.taddr f.len, []))))
    rw [moveAddr_plain hr, ← inc_of_dir (by rw [hd]; decide)]
    exact commonsWrite_queues h hk hopc (startMove_plain hr x o) hone hstop hd hbad hbad

end Sys2Proof.Machine
end

section
/-! # Remote writes at the tile that receives them (R234 to R240, R443) -/

namespace Sys2Proof.Machine

/-! ## Counters (R238, R239) -/

theorem incrementOpt_below {x : Tile} {c : BitVec 5} (h : mapGet 0 x.arr c.toNat < 2 ^ 32 - 1) :
    x.incrementOpt (some c) = ({ x with arr := mapPut 0 c.toNat (mapGet 0 x.arr c.toNat + 1) x.arr }, []) := if_neg (not_le.2 h)

/-! ## What is refused (R237, R240, R443) -/

section
variable {s : State} {t src : TileId} {gen : Byte} {seq : W16} {a : BitVec 21} {data : List Byte} {ctr : Option (BitVec 5)}

theorem staleGen_eq_false (h : gen = (s.tile src).gen) : s.staleGen src gen = false := bne_eq_false_iff_eq.2 h.symm

theorem remoteWrite_stale (h : gen ≠ (s.tile src).gen) (bad : List Nat) (narrow : Bool) :
    exec (.remoteWriteArrival t src gen seq a data ctr bad) s = .next s
      ∧ exec (.gatherWrite t src gen seq a data ctr narrow) s = .next s := by
  have hstale : s.staleGen src gen = true := bne_iff_ne.2 h.symm
  exact ⟨if_pos hstale, if_pos hstale⟩

theorem remoteWrite_refused (hgen : gen = (s.tile src).gen)
    (hout : (s.answersAt t && (s.tile t).inWindow a.toNat data.length) = false) (bad : List Nat) (narrow : Bool) :
    exec (.remoteWriteArrival t src gen seq a data ctr bad) s = .next (s.emit (.writeAck src gen seq true))
      ∧ exec (.gatherWrite t src gen seq a data ctr narrow) s = .next (s.emit (.writeAck src gen seq true)) := by
  have hfresh : ¬ s.staleGen src gen = true := by rw [staleGen_eq_false hgen]; decide
  have hrefused : (!s.answersAt t || !(s.tile t).inWindow a.toNat data.length) = true := by rw [← Bool.not_and, hout]; rfl
  have hrolling : (!s.answersAt t || (s.tile t).phase == phRolling || !(s.tile t).inWindow a.toNat data.length) = true := by
    rw [Bool.or_right_comm, hrefused, Bool.true_or]
  exact ⟨(if_neg hfresh).trans (if_pos hrefused), (if_neg hfresh).trans (if_pos hrolling)⟩

/-! ## What is taken (R233 to R238) -/

theorem flushLine_empty {x : Tile} (h : x.gather = []) (line : Nat) : x.flushLine line = (x, []) := by simp [Tile.flushLine, h]

section
variable (hgen : gen = (s.tile src).gen) (hans : s.answersAt t = true) (hwin : (s.tile t).inWindow a.toNat data.length = true)
  (hgather : (s.tile t).gather = [])
include hgen hans hwin hgather

/-- With no entry to flush, a whole-unit write is merged, its counter incremented, and acknowledged. -/
theorem remoteWriteArrival_merges : exec (.remoteWriteArrival t src gen seq a data ctr []) s = .next
    (s.putTile t ((((s.tile t).writeMem a.toNat data).incrementOpt ctr).1,
      (((s.tile t).writeMem a.toNat data).incrementOpt ctr).2 ++ [.out (.writeAck src gen seq false)])) := by
  show execRemoteWriteArrival t src gen seq a data ctr [] s = _
  simp only [execRemoteWriteArrival, staleGen_eq_false hgen, hans, hwin, Bool.not_true, Bool.or_self, if_neg Bool.false_ne_true]
  rw [List.foldl_fixed' fun i => by rw [flushLine_empty hgather]; rfl]
  rfl

/-- A narrow write that finds no entry opens one. -/
theorem gatherWrite_opens (hphase : (s.tile t).phase ≠ phRolling) : exec (.gatherWrite t src gen seq a data ctr false) s =
    .next (s.setTile t { s.tile t with gather :=
      [⟨a.toNat / 256, insBytes (a.toNat % 256) data [], [(src, gen, seq, ctr)], ctr.isSome, []⟩] }) := by
  show execGatherWrite t src gen seq a data ctr false s = _
  simp [execGatherWrite, staleGen_eq_false hgen, hans, hwin, hgather, hphase, Gather.put, State.putTile]

end

/-! ## The flush of the one entry (R235, R236) -/

theorem flushFirst_one {x : Tile} {g : Gather} {gs : List Gather} (h : x.gather = g :: gs) : Tile.flushFirst 1 x = x.flushOne g := by
  simp [Tile.flushFirst, h]

/-- With no word marked, neither in the tile nor in the entry, a flush keeps no mark and reports none (R233). -/
theorem flushOne_clean {x : Tile} {g : Gather} (hx : x.bad = []) (hg : g.bad = []) (hacks : g.acks = [(src, gen, seq, none)]) :
    x.flushOne g = ({ x with mem := g.bytesOf.foldl (fun m p => mapPut 0 p.1 p.2 m) x.mem, gather := dropOne g x.gather },
      [.out (.writeAck src gen seq false)]) := by
  simp [Tile.flushOne, hx, hg, hacks, Tile.incrementOpt]

theorem gatherFlush_merges {g : Gather} (hgather : (s.tile t).gather = [g]) (hacks : g.acks = [(src, gen, seq, none)]) (hg : g.bad = [])
    (hbad : (s.tile t).bad = []) : exec (.gatherFlush t .none) s = .next ((s.setTile t { s.tile t with
      gather := []
      mem := g.bytesOf.foldl (fun m p => mapPut 0 p.1 p.2 m) (s.tile t).mem }).emit (.writeAck src gen seq false)) := by
  show execGatherFlush t .none s = _
  simp only [execGatherFlush, hgather, meet_none, List.length_singleton, List.range_one, List.foldl_cons, List.foldl_nil, zero_add, ite_self,
    flushFirst_one hgather, flushOne_clean hbad hg hacks, dropOne, if_true]
  rfl

end

/-- Settles O30: a write by what its tile finds on its arrival, the gather buffer by the one entry that it holds. -/
theorem remoteWritesReachTileMemory : Obligations.RemoteWritesReachTileMemory := by
  intro s t src gen seq a data ctr x
  refine ⟨remoteWrite_stale, remoteWrite_refused, fun hgen hans hwin hgather => ⟨?whole, fun c hc => ?counted, ?narrow⟩,
    fun _ => gatherFlush_merges⟩
  case whole => exact remoteWriteArrival_merges hgen hans hwin hgather
  case counted =>
    have hbelow : mapGet 0 (x.writeMem a.toNat data).arr c.toNat < 2 ^ 32 - 1 := hc
    rw [remoteWriteArrival_merges hgen hans hwin hgather, incrementOpt_below hbelow]
    rfl
  case narrow => exact gatherWrite_opens hgen hans hwin hgather

end Sys2Proof.Machine
end

section
/-! # Commons slices (R246 to R249, R260) -/

namespace Sys2Proof.Machine

/-- Where the port of the other rows holds nothing, what the slice finds at its two ports is what the port of the tile's rows holds (R252). -/
theorem requests_of_onePort {m : SMap (List SliceReq)} {k : Nat} {t : TileId} {rs : List SliceReq} (hport : mapGet [] m (commonsPort k t) = rs)
    (hother : mapGet [] m (2 * k + 1 - tileY t / 16) = []) : mapGet [] m (2 * k) ++ mapGet [] m (2 * k + 1) = rs := by
  have hhalf : tileY t / 16 = 0 ∨ tileY t / 16 = 1 := by
    have ht : t.toNat < 2 ^ 11 := t.isLt
    rw [tileY]
    omega
  rw [commonsPort] at hport
  rcases hhalf with hlow | hhigh
  · rw [hlow] at hport hother
    exact (congrArg₂ (· ++ ·) hport hother).trans (List.append_nil rs)
  · rw [hhigh] at hport hother
    exact (congrArg₂ (· ++ ·) hother hport).trans (List.nil_append rs)

/-- The state once the slice `k` has taken the one request at its ports. -/
def State.served (s : State) (k : Nat) (r : SliceReq) : State :=
  { s with sliceQ := mapDel (commonsPort k r.t) s.sliceQ, sliceTurn := mapIns k r.t.toNat s.sliceTurn }

theorem served_eq (s : State) (k : Nat) (r : SliceReq) : { s with
    sliceQ := mapDel (commonsPort k r.t) s.sliceQ, sliceTurn := mapIns k r.t.toNat s.sliceTurn } = s.served k r := rfl

@[simp] theorem served_tile (s : State) (k : Nat) (r : SliceReq) (t : TileId) : (s.served k r).tile t = s.tile t := rfl
@[simp] theorem served_commons (s : State) (k : Nat) (r : SliceReq) : (s.served k r).commons = s.commons := rfl
@[simp] theorem served_commonsBad (s : State) (k : Nat) (r : SliceReq) : (s.served k r).commonsBad = s.commonsBad := rfl

@[simp] theorem sliceMeet_none (s : State) (k a n : Nat) : s.sliceMeet k .none a n = s := rfl

section
variable {s : State} {k : BitVec 6} {r : SliceReq} (hport : mapGet [] s.sliceQ (commonsPort k.toNat r.t) = [r])
include hport

/-- The port that held one request holds none: it is listed no longer. -/
theorem sliceQ_taken : mapPut [] (commonsPort k.toNat r.t) (dropOne r (mapGet [] s.sliceQ (commonsPort k.toNat r.t))) s.sliceQ
    = mapDel (commonsPort k.toNat r.t) s.sliceQ := by simp [hport, dropOne, mapPut]

variable (hother : mapGet [] s.sliceQ (2 * k.toNat + 1 - tileY r.t / 16) = []) (hruns : s.meshStopped (decide (32 ≤ k.toNat)) = false)
  (hbad : s.commonsBad = []) (hgen : r.gen = (s.tile r.t).gen)
include hother hruns hbad hgen

/-- A read brings the bytes of the Commons to the tile's memory. -/
theorem commonsSliceAccess_reads (hread : r.data = none) {o : Op} (ho : (s.tile r.t).execBySeq r.seq = some o) :
    exec (.commonsSliceAccess k .none) s = .next ((s.served k.toNat r).setTile r.t
      ((s.tile r.t).writeMem r.taddr (readBytes 0 s.commons (k.toNat * 2 ^ 25 + r.off) r.len))) := by
  show execCommonsSliceAccess k .none s = _
  simp only [execCommonsSliceAccess, requests_of_onePort hport hother, nextSlice, List.foldl_nil, hruns, hread, sliceQ_taken hport,
    served_eq, served_tile, ho, sliceMeet_none, served_commons, served_commonsBad, badUnits_clean hbad, arrive_clean,
    State.setTile_commonsBad, badWords_clean hbad, List.isEmpty_nil, Bool.not_true, Bool.or_false]
  exact if_neg (not_not.2 hgen)

/-- A write reaches the Commons and is acknowledged. -/
theorem commonsSliceAccess_writes {bs : List Byte} (hwrite : r.data = some (bs, [])) {n : Nat} (hn : (s.tile r.t).unackedBySeq r.seq = some n) :
    exec (.commonsSliceAccess k .none) s = .next ({ s.served k.toNat r with
      commons := writeBytes 0 (k.toNat * 2 ^ 25 + r.off) bs s.commons }.putTile r.t ((s.tile r.t).acknowledge n)) := by
  have hkept : ∀ p, s.commonsBad.filter p = s.commonsBad := fun p => by rw [hbad, List.filter_nil]
  show execCommonsSliceAccess k .none s = _
  simp only [execCommonsSliceAccess, requests_of_onePort hport hother, nextSlice, List.foldl_nil, hruns, hwrite, sliceQ_taken hport,
    served_eq, served_tile, hn, hkept]
  exact if_pos hgen

end

/-- Settles O31: the slice takes the one request at its ports, and a read and a write differ in what they bring. -/
theorem commonsSliceServesItsRequest : Obligations.CommonsSliceServesItsRequest := fun _ _ _ hport hother hruns hbad =>
  ⟨fun _ hread ho hgen => commonsSliceAccess_reads hport hother hruns hbad hgen hread ho,
    fun _ _ hwrite hn hgen => commonsSliceAccess_writes hport hother hruns hbad hgen hwrite hn⟩

end Sys2Proof.Machine
end

section
/-! # Accounts of mesh failures (R261, R263 to R265, R449)

What the counters, path faults and reports of the meshes leave alone. -/

namespace Sys2Proof.Machine

/-! ## The frame -/

/-- The bits of FLT_MESH_STATUS. -/
def meshFlags : List Fld :=
  [F.FLT_MESH_STATUS.ROUTER_SUSPECT, F.FLT_MESH_STATUS.SYNC_FAULT, F.FLT_MESH_STATUS.CTRL_PATH, F.FLT_MESH_STATUS.BULK_PATH]

/-- The other fields that the account of a failure sets. -/
def accountFlds : List Fld :=
  [F.FLT_MESH_PATH.MESH, F.FLT_MESH_PATH.VC, F.FLT_MESH_PATH.RESENDS, F.FLT_MESH_PATH.SRC, F.FLT_MESH_PATH.DST,
    F.FLT_GEN_DROPS.COUNT, F.EVT_SUPPRESS.COUNT]

/-- `t` differs from `s` at most in the routers' counters, the path faults of late, tiles, outputs, which are only added, the recorder, and
register fields that neither place an endpoint nor clear a bit of FLT_MESH_STATUS. -/
structure State.Accounts (s t : State) : Prop where
  rest : t = { s with
    mesh := { s.mesh with cnt := t.mesh.cnt, faults := t.mesh.faults }
    tiles := t.tiles, out := t.out, recorder := t.recorder, regs := t.regs }
  sent : s.out <+: t.out
  places : ∀ f ∈ [F.MAP_COL.STATE, F.MAP_COL.LOGICAL], ∀ n, t.fget (f.ix n) = s.fget (f.ix n)
  raised : ∀ f ∈ meshFlags, s.fbit f = true → t.fbit f = true

/-- The columns' registers lie above those of the meshes' faults. -/
theorem columnKey_ne {f g : Fld} (hf : f ∈ [F.MAP_COL.STATE, F.MAP_COL.LOGICAL]) (hg : g ∈ meshFlags ++ accountFlds) (n : Nat) :
    (f.ix n).key ≠ g.key := by
  have hlow : g.off < 0x90100 ∧ g.lsb < 64 := by revert g; decide
  have hhigh : f.off = 0x90100 := by revert f; decide
  simp only [Fld.key, Fld.ix, hhigh]
  omega

namespace State.Accounts

variable {s t u : State}

theorem refl (s : State) : s.Accounts s := ⟨rfl, List.prefix_refl _, fun _ _ _ => rfl, fun _ _ => id⟩

theorem trans (h : s.Accounts t) (g : t.Accounts u) : s.Accounts u where
  rest := g.rest.trans (by rw [h.rest])
  sent := h.sent.trans g.sent
  places f hf n := (g.places f hf n).trans (h.places f hf n)
  raised f hf := g.raised f hf ∘ h.raised f hf

theorem fset {g : Fld} (hg : g ∈ accountFlds) (v : Nat) : s.Accounts (s.fset g v) where
  rest := rfl
  sent := List.prefix_refl _
  places f hf n := fget_fset_other (columnKey_ne hf (List.mem_append_right _ hg) n) v
  raised f hf h := by
    have hne : f.key ≠ g.key := by clear h; revert f g; decide
    rwa [State.fbit, fget_fset_other hne]

theorem raise {g : Fld} (hg : g ∈ meshFlags) : s.Accounts (s.fsetb g true) where
  rest := rfl
  sent := List.prefix_refl _
  places f hf n := fget_fset_other (columnKey_ne hf (List.mem_append_left _ hg) n) _
  raised f hf h := by
    have hsame : f = g ∧ g.width = 1 ∨ f.key ≠ g.key := by clear h; revert f g; decide
    obtain ⟨rfl, hwidth⟩ | hne := hsame
    · exact fbit_fsetb hwidth true
    · rwa [State.fbit, fsetb_eq, fget_fset_other hne]

theorem emit (o : Output) : s.Accounts (s.emit o) := ⟨rfl, List.prefix_append _ _, fun _ _ _ => rfl, fun _ _ => id⟩

theorem setTile (t : TileId) (x : Tile) : s.Accounts (s.setTile t x) := ⟨rfl, List.prefix_refl _, fun _ _ _ => rfl, fun _ _ => id⟩

theorem setMesh (m : SMap Nat) (fs : List (Nat × W16 × W16)) : s.Accounts { s with mesh := { s.mesh with cnt := m, faults := fs } } :=
  ⟨rfl, List.prefix_refl _, fun _ _ _ => rfl, fun _ _ => id⟩

theorem event (code : Nat) (unit : Byte) (loc : W32) (sub data : Nat) : s.Accounts (s.event code unit loc sub data) := by
  have hrec (r : Recorder) : s.Accounts { s with recorder := r } := ⟨rfl, List.prefix_refl _, fun _ _ _ => rfl, fun _ _ => id⟩
  simp only [event_eq, State.record]
  split
  · exact (hrec _).trans (fset (by decide) _)
  · exact hrec _

theorem meshErr (code ask : Nat) (loc : W32) (data : Nat) : s.Accounts (s.meshErr code ask loc data) := emit _

theorem kept (h : s.Accounts t) : t.mesh.kept = s.mesh.kept := by rw [h.rest]
theorem hops (h : s.Accounts t) : t.mesh.hops = s.mesh.hops := by rw [h.rest]

theorem mem_out (h : s.Accounts t) {o : Output} (ho : o ∈ s.out) : o ∈ t.out := h.sent.subset ho

theorem attach (h : s.Accounts t) (c : W16) : t.attach c = s.attach c := by
  have hcol (x : Nat) : t.physCol x = s.physCol x := by
    simp only [State.physCol, h.places F.MAP_COL.STATE (by simp), h.places F.MAP_COL.LOGICAL (by simp)]
  simp only [State.attach, hcol]

theorem sideTo (h : s.Accounts t) (px py : Nat) (dst : W16) : t.sideTo px py dst = s.sideTo px py dst := by
  simp only [State.sideTo, h.attach]

end State.Accounts

theorem mem_out_emit (s : State) (o : Output) : o ∈ (s.emit o).out := List.mem_append_right _ (.head _)

/-- A unit of the mesh sends one report with the code. -/
theorem meshErr_reports (s : State) (code ask : Nat) (loc : W32) (data : Nat) :
    ∃ r : Report, r.code = BitVec.ofNat 16 code ∧ s.meshErr code ask loc data = s.emit (.report r false) := ⟨_, rfl, rfl⟩

/-! ## Router counters (R261) -/

section
variable (s : State) (px py lsb : Nat)

theorem countRouter_accounts : s.Accounts (s.countRouter px py lsb) := by
  have hcnt (m : SMap Nat) : s.Accounts { s with mesh := { s.mesh with cnt := m } } := .setMesh m s.mesh.faults
  simp only [State.countRouter]
  split
  · exact (((hcnt _).trans (.raise (by decide))).trans (.event ..)).trans (.meshErr ..)
  · exact hcnt _

theorem countRouter_cnt : (s.countRouter px py lsb).mesh.cnt =
    mapPut 0 (cntKey px py lsb) (min 0xFF (mapGet 0 s.mesh.cnt (cntKey px py lsb) + 1)) s.mesh.cnt := by
  simp only [State.countRouter]
  split
  · simp [State.suspectRouter, State.meshErr, event_eq, fsetb_eq]
  · rfl

/-- The 64th mismatch makes the router suspect (R261, R449). -/
theorem countRouter_suspects (h : mapGet 0 s.mesh.cnt (cntKey px py lsb) = 63) :
    (s.countRouter px py lsb).fbit F.FLT_MESH_STATUS.ROUTER_SUSPECT = true
      ∧ ∃ r : Report, r.code = 0x3004 ∧ .report r false ∈ (s.countRouter px py lsb).out := by
  simp only [State.countRouter, h, if_true]
  refine ⟨?flag, _, rfl, mem_out_emit ..⟩
  exact (State.Accounts.event ..).raised _ (by decide) (fbit_fsetb (by decide) true)

end

/-! ## Path faults (R263, R264, R449) -/

theorem latchPath_accounts (s : State) (mesh vc resends : Nat) (src dst : W16) : s.Accounts (s.latchPath mesh vc resends src dst) := by
  unfold State.latchPath
  split
  · exact .refl s
  · exact ((((State.Accounts.fset (by decide) _).trans (.fset (by decide) _)).trans (.fset (by decide) _)).trans
      (.fset (by decide) _)).trans (.fset (by decide) _)

/-- An operation that ends with an error response changes its tile. -/
theorem endRequest_setsTile {s u : State} {t : TileId} {gen : Byte} {seq : W16} {o : Op} (h : s.endRequest t gen seq = some (o, u)) :
    ∃ x, u = s.setTile t x := by
  simp only [State.endRequest] at h
  split at h
  · cases h
  · split at h
    · split at h
      · cases h; exact ⟨_, rfl⟩
      · cases h
    · cases h; exact ⟨_, rfl⟩
    · cases h

theorem ownerFails_accounts (s : State) (b : MeshBlock) (owner : Option Owner) : s.Accounts (s.ownerFails b owner) := by
  cases owner with
  | some o =>
    simp only [State.ownerFails]
    refine State.Accounts.trans ?_ (.setTile ..)
    split
    · rename_i u h
      obtain ⟨x, rfl⟩ := endRequest_setsTile h
      exact .setTile ..
    · exact .fset (by decide) _
  | none =>
    simp only [State.ownerFails]
    split
    · exact .setTile ..
    · exact .refl s

theorem ownerFails_dirties (s : State) (b : MeshBlock) (w : Owner) : ((s.ownerFails b (some w)).tile w.tile).dirty = true := by
  rw [State.ownerFails, tile_setTile_same]

/-- The routers that the paths share only send reports. -/
theorem suspectRouters_emits (rs : List (Nat × Nat)) (s : State) :
    ∃ os, rs.foldl (fun s r => s.suspectRouter r.1 r.2) s = s.emits os := by
  induction rs generalizing s with
  | nil => exact ⟨[], by simp [State.emits]⟩
  | cons r rs ih =>
    obtain ⟨os, h⟩ := ih (s.suspectRouter r.1 r.2)
    rw [List.foldl_cons, h]
    exact ⟨_ :: os, congrArg (fun l => { s with out := l }) (List.append_assoc ..)⟩

theorem pathSuspects_accounts (s : State) (src dst : W16) :
    s.Accounts (s.pathSuspects src dst) ∧ (s.pathSuspects src dst).tiles = s.tiles := by
  simp only [State.pathSuspects]
  generalize List.filter _ (s.routeOf src dst) = hits
  obtain ⟨os, h⟩ := suspectRouters_emits hits { s with mesh := { s.mesh with
    faults := s.mesh.faults.filter (fun f => decide (s.now ≤ f.1 + 10000000000)) ++ [(s.now, src, dst)] } }
  rw [h]
  exact ⟨(State.Accounts.setMesh s.mesh.cnt _).trans ⟨rfl, List.prefix_append _ _, fun _ _ _ => rfl, fun _ _ => id⟩, rfl⟩

/-- The bit and the code of a path fault, by mesh. -/
def pathFlag (ctrl : Bool) : Fld := if ctrl then F.FLT_MESH_STATUS.CTRL_PATH else F.FLT_MESH_STATUS.BULK_PATH
def pathCode (ctrl : Bool) : Nat := if ctrl then 0x3002 else 0x3001

theorem pathFlag_mem (ctrl : Bool) : pathFlag ctrl ∈ meshFlags := by revert ctrl; decide

/-- A path fault up to its owner's end: the path is latched and its bit set. -/
def State.pathLost (s : State) (b : MeshBlock) (owner : Option Owner) : State :=
  ((s.latchPath (if b.ctrl then 1 else 0) b.vc.toNat 4 b.src b.dst).fsetb (pathFlag b.ctrl) true).ownerFails b owner

/-- A path fault: its report, then the suspects and the fault's own output. -/
theorem pathFault_eq (s : State) (b : MeshBlock) (owner : Option Owner) : ∃ loc data, s.pathFault b owner =
    (((s.pathLost b owner).meshErr (pathCode b.ctrl) 0 loc data).pathSuspects b.src b.dst).emit (.pathFault b owner) := by
  rw [State.pathFault, State.pathLost, pathFlag, pathCode]
  cases b.ctrl <;> exact ⟨_, _, rfl⟩

theorem pathLost_accounts (s : State) (b : MeshBlock) (owner : Option Owner) : s.Accounts (s.pathLost b owner) :=
  ((latchPath_accounts ..).trans (.raise (pathFlag_mem _))).trans (ownerFails_accounts ..)

theorem pathLost_flag (s : State) (b : MeshBlock) (owner : Option Owner) : (s.pathLost b owner).fbit (pathFlag b.ctrl) = true := by
  have hwidth : (pathFlag b.ctrl).width = 1 := by cases b.ctrl <;> rfl
  exact (ownerFails_accounts ..).raised _ (pathFlag_mem _) (fbit_fsetb hwidth true)

/-- A path fault sets the bit of its mesh, sends its report, names the block and dirties the owner's tile (R263). -/
theorem pathFault_effect (s : State) (b : MeshBlock) (owner : Option Owner) : let t := s.pathFault b owner
    s.Accounts t ∧ t.fbit (pathFlag b.ctrl) = true ∧ (∃ r : Report, r.code = BitVec.ofNat 16 (pathCode b.ctrl) ∧ .report r false ∈ t.out)
      ∧ .pathFault b owner ∈ t.out ∧ ∀ w, owner = some w → (t.tile w.tile).dirty = true := by
  intro t
  obtain ⟨loc, data, heq⟩ := pathFault_eq s b owner
  obtain ⟨r, hcode, herr⟩ := meshErr_reports (s.pathLost b owner) (pathCode b.ctrl) 0 loc data
  have ht : t = _ := herr ▸ heq
  obtain ⟨hsus, htiles⟩ := pathSuspects_accounts ((s.pathLost b owner).emit (.report r false)) b.src b.dst
  have hsent : ((s.pathLost b owner).emit (.report r false)).Accounts t := ht ▸ hsus.trans (.emit _)
  have hlate : (s.pathLost b owner).Accounts t := (State.Accounts.emit _).trans hsent
  refine ⟨(pathLost_accounts ..).trans hlate, hlate.raised _ (pathFlag_mem _) (pathLost_flag ..),
    ⟨r, hcode, hsent.mem_out (mem_out_emit ..)⟩, ht ▸ mem_out_emit .., ?dirty⟩
  rintro w rfl
  have htile : t.tiles = (s.pathLost b (some w)).tiles := by rw [ht]; exact htiles
  rw [State.tile, htile]
  exact ownerFails_dirties ..

end Sys2Proof.Machine
end

section
/-! # Blocks of the meshes: arrival, acknowledgement, re-send and routing (R253, R254, R259 to R266) -/

namespace Sys2Proof.Machine

/-! ## Waiting at a router's outputs (R253) -/

/-- The key of the router's output by which a block of one destination leaves. -/
def State.outTo (s : State) (px py : Nat) (b : MeshBlock) : Nat := outKey b.ctrl px py (sideCode (s.sideTo px py b.dst))

theorem forward_frame (s : State) (px py i : Nat) (b : MeshBlock) :
    ∃ outs, s.forward px py i b = { s with mesh := { s.mesh with outs := outs } } := by
  refine List.foldlRecOn (motive := fun t : State => ∃ outs, t = { s with mesh := { s.mesh with outs := outs } }) (s.sidesOf px py b) _
    ⟨s.mesh.outs, rfl⟩ ?_
  rintro _ ⟨outs, rfl⟩ side -
  exact ⟨_, rfl⟩

theorem forward_kept (s : State) (px py i : Nat) (b : MeshBlock) : (s.forward px py i b).mesh.kept = s.mesh.kept := by
  obtain ⟨outs, h⟩ := forward_frame s px py i b
  rw [h]

theorem forward_waits (s : State) (px py i : Nat) {b : MeshBlock} (hb : b.bcast = false) :
    (i, b) ∈ (mapGet MeshOut.empty (s.forward px py i b).mesh.outs (s.outTo px py b)).wait := by
  have hsides : s.sidesOf px py b = [s.sideTo px py b.dst] := if_neg (by rw [hb]; decide)
  simp [State.forward, hsides, State.setOut, State.outTo, mapGet_mapPut]

theorem sendAgain_kept (s : State) (b : MeshBlock) : (s.sendAgain b).mesh.kept = s.mesh.kept := forward_kept ..

theorem sendAgain_out (s : State) (b : MeshBlock) : (s.sendAgain b).out = s.out ++ [.meshResend b] := by
  rcases hat : s.attach b.src with ⟨px, py, side⟩
  obtain ⟨outs, h⟩ := forward_frame (s.emit (.meshResend b)) px py (sideCode side) b
  simp only [State.sendAgain, hat, h]
  rfl

/-! ## What its destination answers (R261, R264) -/

section
variable {s : State} {b : MeshBlock}

theorem blockArrival_accepts (hg : blockGood b = true) (hs : s.mesh.hasSeen b = false) :
    s.blockArrival b = ({ s with mesh := s.mesh.accept b }.emit (.meshAck b true)).emit (.accepted b) := by
  simp [State.blockArrival, hg, hs]

theorem blockArrival_again (hg : blockGood b = true) (hs : s.mesh.hasSeen b = true) : s.blockArrival b = s.emit (.meshAck b true) := by
  simp [State.blockArrival, hg, hs]

theorem blockArrival_refuses (hg : blockGood b = false) : s.blockArrival b = s.emit (.meshAck b false) := by
  simp [State.blockArrival, hg]

theorem bulkBlockArrival_eq (hc : b.ctrl = false) (hb : b.bcast = false) : exec (.bulkBlockArrival b) s = .next (s.blockArrival b) := by
  obtain ⟨⟩ := b
  subst hc hb
  rfl

theorem controlPacketArrival_eq (hc : b.ctrl = true) (e : W16) :
    exec (.controlPacketArrival e b) s = .next (if b.bcast then s.castArrival e b else s.blockArrival b) := by
  obtain ⟨⟩ := b
  subst hc
  rfl

theorem castArrival_asksAgain (hasks : s.mesh.asks = []) (hg : blockGood b = false) (e : W16) :
    s.castArrival e b = { s with mesh := { s.mesh with asks := [(e, b, 1)] } }.emit (.bcastAgain e b) := by
  simp [State.castArrival, hasks, hg]

/-- A command by which the block reaches its destination: accepted and acknowledged, acknowledged again, or refused. -/
theorem answers_of_arrival {c : Instr} (h : exec c s = .next (s.blockArrival b)) :
    (blockGood b = true → s.mesh.hasSeen b = false → exec c s =
        .next (({ s with mesh := s.mesh.accept b }.emit (.meshAck b true)).emit (.accepted b)))
      ∧ (blockGood b = true → s.mesh.hasSeen b = true → exec c s = .next (s.emit (.meshAck b true)))
      ∧ (blockGood b = false → exec c s = .next (s.emit (.meshAck b false))) := by
  rw [h]
  exact ⟨fun hg hs => congrArg _ (blockArrival_accepts hg hs), fun hg hs => congrArg _ (blockArrival_again hg hs),
    fun hg => congrArg _ (blockArrival_refuses hg)⟩

/-! ## What the source does (R262, R263) -/

@[simp] theorem sameBlock_self : sameBlock b b = true := by simp [sameBlock, samePair]

theorem bulkAckArrival_frees {n : Nat} {o : Option Owner} (h : s.mesh.kept = [⟨b, n, o⟩]) :
    exec (.bulkAckArrival b) s = .next { s with mesh := { s.mesh with kept := [] } } := by
  show execBulkAckArrival b s = _
  simp [execBulkAckArrival, h]

theorem blockFailed_unheld (h : ∀ k ∈ s.mesh.kept, sameBlock k.block b = false) : s.blockFailed b = s := by
  have hnone : s.mesh.kept.find? (fun k => sameBlock k.block b) = none := List.find?_eq_none.2 fun k hk => by simp [h k hk]
  simp [State.blockFailed, hnone]

theorem blockFailed_resends {n : Nat} {o : Option Owner} (h : s.mesh.kept = [⟨b, n, o⟩]) (hn : n < 4) :
    s.blockFailed b = { s with mesh := { s.mesh with kept := [⟨b, n + 1, o⟩] } }.sendAgain b := by
  simp [State.blockFailed, h, not_le.2 hn]

theorem blockFailed_faults {o : Option Owner} (h : s.mesh.kept = [⟨b, 4, o⟩]) :
    s.blockFailed b = { s with mesh := { s.mesh with kept := [] } }.pathFault b o := by
  simp [State.blockFailed, h]

end

theorem meshBlocksAreAnswered : MeshBlocksAreAnswered := by
  intro s b
  refine ⟨fun hb => ⟨fun hc => ?bulk, fun hc e => ?ctrl⟩, fun o => bulkAckArrival_frees, fun c hc => ?failed, fun e hasks hc hb hg => ?cast⟩
  case bulk => exact answers_of_arrival (bulkBlockArrival_eq hc hb)
  case ctrl => exact answers_of_arrival (by rw [controlPacketArrival_eq hc, hb, if_neg Bool.false_ne_true])
  case cast => rw [controlPacketArrival_eq hc, hb, if_pos rfl, castArrival_asksAgain hasks hg]
  case failed =>
    have hexec : exec c s = .next (s.blockFailed b) := by rcases hc with rfl | rfl <;> rfl
    rw [hexec]
    refine ⟨fun h => congrArg _ (blockFailed_unheld h), fun n o hn h => ?resent, fun o h hbulk => ?lost⟩
    case resent =>
      rw [blockFailed_resends h hn]
      exact ⟨_, rfl, sendAgain_kept .., sendAgain_out ..⟩
    case lost =>
      rw [blockFailed_faults h]
      obtain ⟨hacc, hflag, ⟨r, hcode, hrep⟩, hout, hdirty⟩ := pathFault_effect { s with mesh := { s.mesh with kept := [] } } b o
      rw [hbulk] at hflag hcode
      exact ⟨_, r, rfl, hacc.kept, hflag, hcode, hrep, hout, hdirty⟩

/-! ## Entering a router (R254, R261, R262, R266) -/

/-- The block that a network interface makes: the next number of its pair, and its CRC (R261). -/
def State.madeBlock (s : State) (src dst : W16) (vc : BitVec 2) (ctrl : Bool) (gen : Byte) (data : List Byte) : MeshBlock :=
  let b : MeshBlock := { src := src, dst := dst, vc := vc, gen := gen, seq := BitVec.ofNat 16 (mapGet 0 s.mesh.seqs (pairKey src dst ctrl))
                         ctrl := ctrl, bcast := false, data := data, crc := 0 }
  { b with crc := blockSum b }

/-- The CRC covers header and payload, and not itself. -/
theorem madeBlock_good (s : State) (src dst : W16) (vc : BitVec 2) (ctrl : Bool) (gen : Byte) (data : List Byte) :
    blockGood (s.madeBlock src dst vc ctrl gen data) = true := beq_self_eq_true _

section
variable {s : State} {px py : Nat} {i : Side}

/-- Where no half's mesh is stopped, the source's router numbers the block, keeps it and forwards it. -/
theorem inject_takes {src dst : W16} {vc : BitVec 2} {ctrl : Bool} {gen : Byte} {data : List Byte} {o : Option Owner}
    (hat : s.attach src = (px, py, i)) (htakes : s.mesh.takes src vc ctrl false = true) (hruns : ∀ e, s.meshStopped e = false) :
    let b := s.madeBlock src dst vc ctrl gen data
    let k := pairKey src dst ctrl
    s.inject px py i src dst vc ctrl false gen data o = { s with mesh := { s.mesh with
      seqs := mapPut 0 k ((mapGet 0 s.mesh.seqs k + 1) % 2 ^ 16) s.mesh.seqs
      kept := s.mesh.kept ++ ([⟨b, 0, o⟩] : List Kept) } }.forward px py (sideCode i) b := by
  simp [State.inject, hat, htakes, hruns, State.madeBlock]

theorem countBlock_good {b : MeshBlock} (hg : blockGood b = true) : s.countBlock px py i b = s := if_pos hg

/-- The key of the counter of a mismatch: of the bulk input, or of the control mesh. -/
def inputKey (px py : Nat) (i : Side) (b : MeshBlock) : Nat := cntKey px py (if b.ctrl then ctrlLsb else bulkLsb i)

theorem inputKey_ne_seam (px py : Nat) (i : Side) (b : MeshBlock) : inputKey px py i b ≠ cntKey px py seamLsb := by
  have hlsb : (if b.ctrl then ctrlLsb else bulkLsb i) ≠ seamLsb := by cases b.ctrl <;> cases i <;> decide
  rw [inputKey, cntKey, cntKey]
  omega

/-- A mismatch is counted at the input, and where it leaves a seam queue at SEAM too. -/
theorem countBlock_bad {b : MeshBlock} (hg : blockGood b = false) :
    let t := s.countRouter px py (if b.ctrl then ctrlLsb else bulkLsb i)
    s.countBlock px py i b = if seamInput px i then t.countRouter px py seamLsb else t := if_neg (by rw [hg]; decide)

/-- The seam's own count leaves that of the input. -/
theorem countBlock_counts {b : MeshBlock} (hg : blockGood b = false) :
    let t := s.countRouter px py (if b.ctrl then ctrlLsb else bulkLsb i)
    t.Accounts (s.countBlock px py i b)
      ∧ mapGet 0 (s.countBlock px py i b).mesh.cnt (inputKey px py i b) = mapGet 0 t.mesh.cnt (inputKey px py i b) := by
  intro t
  rw [countBlock_bad hg]
  split
  · exact ⟨countRouter_accounts .., by rw [countRouter_cnt, mapGet_mapPut_ne 0 (inputKey_ne_seam px py i b)]⟩
  · exact ⟨.refl t, rfl⟩

theorem countBlock_accounts (s : State) (px py : Nat) (i : Side) (b : MeshBlock) : s.Accounts (s.countBlock px py i b) := by
  cases hg : blockGood b with
  | true => rw [countBlock_good hg]; exact .refl s
  | false => exact (countRouter_accounts ..).trans (countBlock_counts hg).1

end

section
variable {s : State} {px : BitVec 7} (hpx : px.toNat < 68) (hruns : ∀ e, s.meshStopped e = false) (hby : s.bypassed px.toNat = false)
include hpx hruns hby

/-- A router that the device has, in a running half and a column that is not bypassed, takes what enters it. -/
theorem router_runs : ¬ (decide (px.toNat ≥ Config.physCols) || s.meshStopped (eastCol px.toNat) || s.bypassed px.toNat) = true := by
  rw [hruns, hby, decide_eq_false (show ¬ px.toNat ≥ Config.physCols from not_le.2 hpx)]
  decide

theorem routerInputCheck_injects (py : BitVec 5) (i : Side) (src dst : W16) (vc : BitVec 2) (ctrl bcast : Bool) (gen : Byte)
    (data : List Byte) (o : Option Owner) : exec (.routerInputCheck px py i (.inject src dst vc ctrl bcast gen data o)) s =
      .next (s.inject px.toNat py.toNat i src dst vc ctrl bcast gen data o) := if_neg (router_runs hpx hruns hby)

theorem routerInputCheck_forwards (py : BitVec 5) (i : Side) (b : MeshBlock) : exec (.routerInputCheck px py i (.block b)) s =
    .next ((s.countBlock px.toNat py.toNat i b).forward px.toNat py.toNat (sideCode i) b) := if_neg (router_runs hpx hruns hby)

end

theorem routersForwardAndCountMismatches : RoutersForwardAndCountMismatches := by
  intro s px py i hpx hruns hby
  refine ⟨fun src dst vc ctrl gen data o hat htakes => ?inject, fun b hb => ?block⟩
  case inject =>
    rw [routerInputCheck_injects hpx hruns hby, inject_takes hat htakes hruns]
    exact ⟨_, _, rfl, madeBlock_good .., rfl, rfl, forward_kept .., forward_waits _ _ _ _ rfl⟩
  case block =>
    have hacc := countBlock_accounts s px.toNat py.toNat i b
    obtain ⟨outs, hfwd⟩ := forward_frame (s.countBlock px.toNat py.toNat i b) px.toNat py.toNat (sideCode i) b
    have hwaits := forward_waits (s.countBlock px.toNat py.toNat i b) px.toNat py.toNat (sideCode i) hb
    rw [State.outTo, hacc.sideTo] at hwaits
    refine ⟨_, routerInputCheck_forwards hpx hruns hby py i b, hwaits, (forward_kept ..).trans hacc.kept, fun hg => ?good, fun hg => ?bad⟩
    case good => rw [hfwd, countBlock_good hg]
    case bad =>
      obtain ⟨hlater, hcount⟩ := countBlock_counts (s := s) (px := px.toNat) (py := py.toNat) (i := i) hg
      rw [hfwd]
      refine ⟨?_, fun h63 => ?suspect⟩
      · refine hcount.trans ?_
        rw [countRouter_cnt, mapGet_mapPut]
        exact if_pos rfl
      case suspect =>
        obtain ⟨hflag, r, hcode, hrep⟩ := countRouter_suspects s px.toNat py.toNat _ h63
        exact ⟨hlater.raised _ (by decide) hflag, r, hcode, hlater.mem_out hrep⟩

end Sys2Proof.Machine
end

section
/-! # Cycles of router outputs and seam queues, and the sync mesh (R253, R254, R259, R265) -/

namespace Sys2Proof.Machine

/-! ## Router outputs and seam queues (R253, R254, R259) -/

theorem blockRank_le (b : MeshBlock) : blockRank b ≤ 3 := by
  have hvc := b.vc.isLt
  rw [blockRank]
  split <;> omega

/-- The one block that waits is taken. -/
theorem pick_only {o : MeshOut} {i : Nat} {b : MeshBlock} {ok : MeshBlock → Bool} (hw : o.wait = [(i, b)]) (hok : ok b = true)
    {ctrl : Bool} (hl : o.late < patience ctrl) : o.pick ctrl ok = some (i, b) := by
  simp [MeshOut.pick, hw, hok, not_le.2 hl, blockRank_le]

/-- RSP before REQ, but REQ once it has been refused seven times in a row (R253). -/
theorem pick_responseFirst {o : MeshOut} {i j : Nat} {a b : MeshBlock} (hw : o.wait = [(i, a), (j, b)]) (ha : blockRank a = 1)
    (hb : blockRank b = 0) : o.pick false (fun _ => true) = if 7 ≤ o.late then some (i, a) else some (j, b) := by
  by_cases hl : 7 ≤ o.late <;> simp [MeshOut.pick, hw, ha, hb, lowRank, patience, hl]

/-- A flit that is not its block's last leaves the router's outputs as they are and sends nothing from the device. -/
theorem sendFlit_inner (s : State) (k : Nat) (b : MeshBlock) :
    (s.sendFlit k b false).mesh.outs = s.mesh.outs ∧ (s.sendFlit k b false).out = s.out := by
  simp only [State.sendFlit]
  split <;> exact ⟨rfl, rfl⟩

/-- An output that holds no block and at which one waits takes it and sends its first flit. -/
theorem serveOut_takes {s : State} {k i : Nat} {b : MeshBlock} (ho : mapGet MeshOut.empty s.mesh.outs k = { MeshOut.empty with wait := [(i, b)] })
    (hruns : s.meshStopped (eastCol (keyCol k)) = false) (hsend : s.canSend k b = true) (hlen : blockFlits b = 2) :
    ∃ o, o.wait = [] ∧ o.hold = some (b, 1) ∧ s.serveOut k = (s.setOut k o).sendFlit k b false := by
  have hpick : MeshOut.pick { MeshOut.empty with wait := [(i, b)] } (keyCtrl k) (s.canSend k) = some (i, b) :=
    pick_only rfl hsend (show 0 < patience (keyCtrl k) by cases keyCtrl k <;> decide)
  have hhold : MeshOut.empty.hold = none := rfl
  simp only [State.serveOut, ho, hruns, hhold, Bool.false_eq_true, if_false]
  rw [← hhold, hpick]
  simp only [hlen]
  exact ⟨_, if_pos rfl, rfl, rfl⟩

theorem drainSeam_takes {s : State} {q : Nat} {b : MeshBlock} {last : Bool} {rest : List (MeshBlock × Bool)}
    (h : mapGet [] s.mesh.seam q = (b, last) :: rest) :
    mapGet [] (s.drainSeam q).mesh.seam q = rest ∧ (last = false → (s.drainSeam q).out = s.out) := by
  simp only [State.drainSeam, h]
  cases last
  case false => exact ⟨by simp [mapGet_mapPut], fun _ => rfl⟩
  case true => exact ⟨by simp [mapGet_mapPut], fun h => absurd h (by decide)⟩

theorem routerOutputsServeTheirBlocks : RouterOutputsServeTheirBlocks := by
  refine ⟨fun s k i b ho hruns hsend hlen => ?serve, fun o i j a b hw hac hbc hav hbv => ?pick, fun s q b last rest h _ => drainSeam_takes h⟩
  case serve =>
    obtain ⟨o, hwait, hhold, heq⟩ := serveOut_takes ho hruns hsend hlen
    obtain ⟨houts, hout⟩ := sendFlit_inner (s.setOut k o) k b
    have hget : mapGet MeshOut.empty (s.serveOut k).mesh.outs k = o := by
      rw [heq, houts]
      exact (mapGet_mapPut ..).trans (if_pos rfl)
    rw [hget]
    exact ⟨hwait, hhold, by rw [heq, hout]; rfl⟩
  case pick => exact pick_responseFirst hw (by simp [blockRank, hac, hav]) (by simp [blockRank, hbc, hbv])

/-! ## Sync messages (R259, R265) -/

/-- One more bit turns the parity round. -/
theorem parityHolds_true (msg : Byte) : parityHolds msg true = !parityHolds msg false := by
  simp only [parityHolds]
  obtain h | h := Nat.mod_two_eq_zero_or_one ((List.range 8).countP (fun i => msg.getLsbD i)) <;> simp [Nat.add_mod, h]

/-- The bit that makes the parity even, and the other one. -/
theorem parityHolds_even (msg : Byte) : parityHolds msg (!parityHolds msg false) = true := by
  cases h : parityHolds msg false <;> simp [parityHolds_true, h]

theorem parityHolds_odd (msg : Byte) : parityHolds msg (parityHolds msg false) = false := by
  cases h : parityHolds msg false <;> simp [parityHolds_true, h]

section
variable {s : State} {src dst : W16} {cls : BitVec 2} {msg : Byte} {p : Bool} (hhop : s.treeHop src dst = true)
include hhop

/-! ### Within a half -/

section
variable (hside : eastCol (epCol src) = eastCol (epCol dst))
include hside

theorem syncHop_crosses (hp : parityHolds msg p = true) {n : Nat} (hh : s.mesh.hops = [(src, dst, cls, n)]) :
    s.syncHop src dst cls msg p = { s with mesh := { s.mesh with hops := [] } } := by
  simp [State.syncHop, hhop, hside, hp, hh]

/-- The router at which a hop ends counts a message with bad parity. -/
def State.syncCounted (s : State) (dst : W16) : State := s.countRouter (s.epPlace dst).1 (s.epPlace dst).2 syncLsb

theorem syncHop_repeats (hp : parityHolds msg p = false) (hh : s.mesh.hops = []) : let c := s.syncCounted dst
    s.syncHop src dst cls msg p = { c with mesh := { c.mesh with hops := [(src, dst, cls, 1)] } }.emit (.syncRepeat src dst cls msg) := by
  simp [State.syncHop, hhop, hside, hp, hh, State.syncCounted]

theorem syncHop_faults (hp : parityHolds msg p = false) (hh : s.mesh.hops = [(src, dst, cls, 3)]) : let c := s.syncCounted dst
    ∃ loc data, s.syncHop src dst cls msg p =
      (({ c with mesh := { c.mesh with hops := [] } }.latchPath 2 cls.toNat 4 src dst).fsetb F.FLT_MESH_STATUS.SYNC_FAULT true).meshErr
        0x3003 3 loc data := by
  simp [State.syncHop, hhop, hside, hp, hh, State.syncCounted]

end

/-! ### Between the roots -/

section
variable (hside : eastCol (epCol src) ≠ eastCol (epCol dst))
include hside

omit hhop in
theorem syncHop_full (hfull : 4 ≤ (mapGet [] s.mesh.syncSeam (syncKey (eastCol (epCol dst)) cls)).length) :
    s.syncHop src dst cls msg p = s := by
  simp [State.syncHop, hside, hfull, syncRoom]

theorem syncHop_queues (hruns : s.meshStopped (eastCol (epCol dst)) = false)
    (hroom : (mapGet [] s.mesh.syncSeam (syncKey (eastCol (epCol dst)) cls)).length < 4) (hp : parityHolds msg p = true) :
    let k := syncKey (eastCol (epCol dst)) cls
    ∃ hops, s.syncHop src dst cls msg p = { s with mesh := { s.mesh with
      hops := hops, syncSeam := mapPut [] k (mapGet [] s.mesh.syncSeam k ++ [(cls, msg)]) s.mesh.syncSeam } } := by
  simp [State.syncHop, hhop, hside, hruns, not_le.2 hroom, syncRoom, hp]

end

end

theorem syncMessagesCross : SyncMessagesCross := by
  intro s src dst cls msg hhop
  refine ⟨fun hside => ⟨fun hh => ?good, fun hh => ?again, fun hh => ?fault⟩,
    fun hside hruns => ⟨fun hfull p => ?full, fun hroom => ?room⟩⟩
  case good => exact congrArg Host.Outcome.next (syncHop_crosses hhop hside (parityHolds_even msg) hh)
  case again =>
    exact ⟨_, congrArg Host.Outcome.next (syncHop_repeats hhop hside (parityHolds_odd msg) hh), rfl, mem_out_emit ..⟩
  case fault =>
    obtain ⟨loc, data, heq⟩ := syncHop_faults hhop hside (parityHolds_odd msg) hh
    obtain ⟨r, hcode, herr⟩ := meshErr_reports _ 0x3003 3 loc data
    refine ⟨_, r, congrArg Host.Outcome.next (heq.trans herr), ?_, fbit_fsetb (by decide) true, hcode, mem_out_emit ..⟩
    exact (latchPath_accounts ..).hops
  case full => exact congrArg Host.Outcome.next (syncHop_full hside hfull)
  case room =>
    obtain ⟨hops, heq⟩ := syncHop_queues hhop hside hruns hroom (parityHolds_even msg)
    exact ⟨_, congrArg Host.Outcome.next heq, (mapGet_mapPut ..).trans (if_pos rfl), rfl⟩

end Sys2Proof.Machine
end

section
/-! # Barriers, flags and the device's result (R268 to R271, R376) -/

namespace Sys2Proof.Machine

/-! ## Barriers (R268) -/

section
variable {s : State} {t : TileId} {b : BitVec 4}

section
variable (hw : (s.tile t).core.wait = .barrier b 1) (hm : (s.tile t).img.barmask.getLsbD b.toNat = true)
  (hnew : t ∉ mapGet [] s.barriers b.toNat) (hd : (s.tile t).departs.getLsbD b.toNat = false)
include hw hm hnew hd

theorem barrierArrival_counted (hmiss : ∃ m ∈ s.members b, m ≠ t ∧ m ∉ mapGet [] s.barriers b.toNat) :
    exec (.barrierArrival t b) s = .next { s with barriers := mapIns b.toNat (t :: mapGet [] s.barriers b.toNat) s.barriers } := by
  have hall : (s.members b).all (fun m => decide (m ∈ t :: mapGet [] s.barriers b.toNat)) = false := by
    obtain ⟨m, hmem, hne, hnot⟩ := hmiss
    exact List.all_eq_false.2 ⟨m, hmem, by simp [hne, hnot]⟩
  show execBarrierArrival t b s = _
  simp only [execBarrierArrival, hw, hm, hnew, hd, hall, beq_self_eq_true, decide_false, Bool.not_false, Bool.and_self, if_true,
    Bool.false_eq_true, if_false]

theorem barrierArrival_departs (hall : s.members b = [t]) : exec (.barrierArrival t b) s =
    .next (({ s with barriers := mapDel b.toNat s.barriers }.setTile t
      { s.tile t with departs := (s.tile t).departs ||| BitVec.ofNat 16 (2 ^ b.toNat) }).emit (.barDepart t b)) := by
  show execBarrierArrival t b s = _
  simp only [execBarrierArrival, hw, hm, hnew, hd, hall, beq_self_eq_true, decide_false, Bool.not_false, Bool.and_self, if_true,
    List.all_cons, List.all_nil, List.mem_cons, true_or, decide_true, List.foldl_cons, List.foldl_nil]
  rfl

end

theorem barDeparture_continues (hw : (s.tile t).core.wait = .barrier b 1) (hd : (s.tile t).departs.getLsbD b.toNat = true)
    (hg : (s.tile t).goes = true) :
    let y := { (s.tile t).setWait (.barrier b 2) with departs := (s.tile t).departs &&& ~~~(BitVec.ofNat 16 (2 ^ b.toNat)) }
    exec (.barDeparture t b) s = .next (s.putTile t (y.act (fenceGoes y))) :=
  if_pos (by rw [hw, hd, hg, beq_self_eq_true]; rfl)

end

/-! ## Flags (R269, R271) -/

/-- Setting or clearing the bit of one flag. -/
theorem getLsbD_setFlag {w : Nat} (p : BitVec w) (i : Nat) (v : Bool) {j : Nat} (hj : j < w) :
    (if v then p ||| BitVec.ofNat w (2 ^ i) else p &&& ~~~(BitVec.ofNat w (2 ^ i))).getLsbD j = if j = i then v else p.getLsbD j := by
  have hbit : (BitVec.ofNat w (2 ^ i)).getLsbD j = decide (j = i) := by
    rw [BitVec.getLsbD_ofNat, decide_eq_true hj, Bool.true_and, Nat.testBit_two_pow]
    exact decide_eq_decide.2 eq_comm
  cases v
  case false =>
    rw [if_neg Bool.false_ne_true, BitVec.getLsbD_and, BitVec.getLsbD_not, hbit, decide_eq_true hj]
    by_cases h : j = i <;> simp [h]
  case true =>
    rw [if_pos rfl, BitVec.getLsbD_or, hbit]
    by_cases h : j = i <;> simp [h]

section
variable {s : State} {u : FlagUpdate}

theorem flagCopyUpdate_stale {era : Nat} (h : era ≠ s.mesh.era) (t : TileId) (f : BitVec 6) (v : Bool) :
    exec (.flagCopyUpdate t f v era) s = .next s := if_pos h

theorem flagCopyUpdate_sets (t : TileId) (f : BitVec 6) (v : Bool) : let m := BitVec.ofNat 64 (2 ^ f.toNat)
    exec (.flagCopyUpdate t f v s.mesh.era) s = .next (s.setTile t { s.tile t with
      flags := if v then (s.tile t).flags ||| m else (s.tile t).flags &&& ~~~m }) := if_neg (not_not.2 rfl)

theorem flagUpdateAtRoot_stale (h : u.era ≠ s.mesh.era) : exec (.flagUpdateAtRoot [u]) s = .next s := by
  show execFlagUpdateAtRoot [u] s = _
  simp [execFlagUpdateAtRoot, h]

theorem flagUpdateAtRoot_casts (h : u.era = s.mesh.era) : let m := BitVec.ofNat 64 (2 ^ u.flag.toNat)
    exec (.flagUpdateAtRoot [u]) s = .next ({ s with
      rootFlags := if u.val then s.rootFlags ||| m else s.rootFlags &&& ~~~m }.emit (.flagCast u.flag u.val u.era)) := by
  show execFlagUpdateAtRoot [u] s = _
  simp [execFlagUpdateAtRoot, h, insFlag]

end

theorem barriersAndFlagsComplete : BarriersAndFlagsComplete := by
  intro s t x
  refine ⟨fun b => ?arrival, fun b hw hd hg => barDeparture_continues hw hd hg, fun f v era h => flagCopyUpdate_stale h t f v,
    fun f v => ?copy, fun u h => flagUpdateAtRoot_stale h, fun u h => ?root⟩
  case arrival =>
    intro got hw hm hnew hd
    exact ⟨barrierArrival_counted hw hm hnew hd, barrierArrival_departs hw hm hnew hd⟩
  case copy =>
    refine ⟨_, flagCopyUpdate_sets t f v, fun u hu => tile_setTile_other hu _, ?_, rfl, fun i hi => ?_⟩
    · rw [tile_setTile_same]
    · rw [tile_setTile_same]
      exact getLsbD_setFlag _ _ v hi
  case root => exact ⟨_, flagUpdateAtRoot_casts h, rfl, rfl, fun i hi => getLsbD_setFlag _ _ u.val hi⟩

/-! ## The device's result and its END (R270, R376) -/

/-- A tile that has reported stands at the step gate; another stays as it is. -/
def Tile.gated (x : Tile) : Tile := if x.phase == phDirty || x.phase == phClean then { x with phase := phGate } else x

theorem gated_img (x : Tile) : x.gated.img = x.img := by
  rw [Tile.gated]
  split <;> rfl

theorem gated_of_clean {x : Tile} (h : x.phase = phClean) : x.gated.phase = phGate := by simp [Tile.gated, h]

/-- The state once the combined result has reached the STAG. -/
def State.resulted (s : State) (d : Bool) : State := { s with result := some d, tiles := s.tiles.map (fun p => (p.1, p.2.gated)) }

section
variable {s : State}

theorem deviceVoteResult_eq (hrun : s.stepPhase = phStepRunning) (hnone : s.result = none)
    (h : s.contexts.any (fun p => p.2.phase == phDirty) = true ∨ ∀ p ∈ s.contexts, p.2.phase = phClean) :
    exec .deviceVoteResult s = .next (s.resulted (s.contexts.any (fun p => p.2.phase == phDirty))) := by
  have hsome : (s.contexts.any (fun p => p.2.phase == phDirty)
      || s.contexts.all (fun p => p.2.phase == phDirty || p.2.phase == phClean)) = true := by
    obtain hd | hc := h
    · rw [hd, Bool.true_or]
    · rw [List.all_eq_true.2 fun p hp => by simp [hc p hp], Bool.or_true]
  exact if_pos (by rw [hrun, hnone, hsome]; rfl)

/-- The contexts after the result are those before, each gated where it has reported. -/
theorem mem_contexts_resulted {d : Bool} {p : TileId × Tile} (hp : p ∈ (s.resulted d).contexts) :
    ∃ q ∈ s.contexts, p.2 = q.2.gated := by
  simp only [State.contexts, State.resulted, List.mem_map, List.mem_filter] at hp
  obtain ⟨_, ⟨⟨q, hq, rfl⟩, hctx⟩, rfl⟩ := hp
  rw [gated_img] at hctx
  exact ⟨_, List.mem_map.2 ⟨q, List.mem_filter.2 ⟨hq, hctx⟩, rfl⟩, rfl⟩

theorem endCast_casts {d : Bool} (hrun : s.stepPhase = phStepRunning) (hres : s.result = some d) (hend : s.ended = false)
    (hgo : d = true ∨ s.runsDone = true) (hprim : s.needPrimary = false) : exec .endCast s = .next ({ s with ended := true }.emit
      (.ctrl 0x09 (some s.aggOrd) (BitVec.ofNat 64 s.current) (if d = true ∨ s.endDirty = true then 1 else 0))) := by
  have hwaits : (d || s.runsDone) = true := Bool.or_eq_true_iff.2 hgo
  have hgoes : ¬ (decide (s.stepPhase ≠ phStepRunning) || s.ended || !(d || s.runsDone)) = true := by simp [hrun, hend, hwaits]
  show execEndCast s = _
  unfold execEndCast
  split
  next hnone => rw [hres] at hnone; cases hnone
  next e he =>
    obtain rfl : d = e := Option.some.inj (hres.symm.trans he)
    rw [if_neg hgoes, toCoord_of_primary (s := { s with ended := true }) hprim]
    simp only [Bool.or_eq_true]
    rfl

end

theorem deviceResultIsCast : DeviceResultIsCast := by
  intro s hrun
  refine ⟨fun hnone hdirty => ?dirty, fun hnone hclean => ?clean, fun d hres hend hgo hprim => endCast_casts hrun hres hend hgo hprim⟩
  case dirty =>
    obtain ⟨p, hp, hphase⟩ := hdirty
    have hany : s.contexts.any (fun p => p.2.phase == phDirty) = true := List.any_eq_true.2 ⟨p, hp, beq_iff_eq.2 hphase⟩
    exact ⟨_, deviceVoteResult_eq hrun hnone (.inl hany), congrArg some hany⟩
  case clean =>
    have hnot : s.contexts.any (fun p => p.2.phase == phDirty) = false :=
      List.any_eq_false.2 fun p hp => by rw [hclean p hp]; decide
    refine ⟨_, deviceVoteResult_eq hrun hnone (.inr hclean), congrArg some hnot, fun p hp => ?_⟩
    obtain ⟨q, hq, hpq⟩ := mem_contexts_resulted hp
    rw [hpq]
    exact gated_of_clean (hclean q hq)

/-- Settles O43: blocks by what their destination and their source find, routers and their outputs by one entry, the sync mesh by
its hops, barriers and flags by their era and members, and the result by the phases of the contexts. -/
theorem meshesCarryTheirTraffic : Obligations.MeshesCarryTheirTraffic :=
  ⟨meshBlocksAreAnswered, routersForwardAndCountMismatches, routerOutputsServeTheirBlocks, syncMessagesCross, barriersAndFlagsComplete,
    deviceResultIsCast⟩

end Sys2Proof.Machine
end
